-- ==== Sys2Proof/Word.lean ====
section
/-! DEFINITION. The word types of the machine and their plainest arithmetic (spec/00_scope.md R1). -/

namespace Sys2Proof

/-- One byte of memory (R1). -/
abbrev Byte := BitVec 8

/-- One lane of a vector register, or one scalar register (05 R106). -/
abbrev Word := BitVec 32

/-- A 64-bit operand, address or privileged register (05 R107, 14 R318). -/
abbrev DWord := BitVec 64

/-- Bits `[hi:lo]` of a natural number, both inclusive (spec/00_scope.md, Notation). -/
def bitsOf (x hi lo : Nat) : Nat := x / 2 ^ lo % 2 ^ (hi + 1 - lo)

/-- The low word of a 64-bit value (05 R107). -/
def loWord (x : DWord) : Word := x.setWidth 32

/-- The high word of a 64-bit value (05 R107). -/
def hiWord (x : DWord) : Word := (x >>> 32).setWidth 32

/-- The 64-bit value of an even and odd register pair (05 R107). -/
def joinWords (hi lo : Word) : DWord := hi ++ lo

/-- Quotient rounded up. -/
def ceilDiv (a b : Nat) : Nat := (a + b - 1) / b

end Sys2Proof
end

