-- ==== Sys2Proof/Config.lean ====
section
/-! DEFINITION. The open values of the spec, as constants without a body: nothing can evaluate them or prove a value of
them. -/

namespace Sys2Proof.Config

/-- Which value a read of a flagged destination returns before its flag falls (05 R126): true for the new one. Applied to
`State.fresh`, so that every choice is its own (assumption log 5). -/
opaque earlyRead : Nat → Bool

/-- Which of the admissible values the first phased read of a byte returns (03 R48), where the core holds an L1
copy filled after the bound: true for a fresh read at the home slice. Applied to `State.fresh` (assumption log 5). -/
opaque rereadHome : Nat → Bool

/-- Whether a flash read of a line must wait on the storage processor (02 R20): the spec does not say which reads must (assumption log
93). Applied to the line's number. -/
opaque flashWaits : Nat → Bool

/-- The order of the additions of a FREE collective (15 R354): the rank added at each step, by the step's
number and the count of ranks; read as a choice among those left (assumption log 15). -/
opaque freeOrder : Nat → Nat → Nat

/-- The bytes of an SM2 signature over a digest by the identity key (17 R381), 64 of them, by index; the key
never leaves the block (assumption log 11). -/
opaque sm2Sign : List Byte → Nat → Byte

/-- The SM3 digests of the firmware images, in load order (17 R381); the images are no state of the model (assumption
log 21). -/
opaque firmwareDigests : List (List Byte)

/-- The chip number in the body of a configuration record of TYPE 1, whose layout the spec does not give (17 R378). -/
opaque recordChip : List Byte → Nat

/-- The register writes in the body of a record of TYPE 3, as address and value; its layout is not given. -/
opaque recordWrites : List Byte → List (Nat × DWord)

/-- The signing key that a key list, by the body of its record of TYPE 5, holds at an index: 64 bytes, *x* then *y*; none where the key is
absent. The layout of the body is not given (17 R379). -/
opaque listedKey : List Byte → Nat → Option (List Byte)

/-- The public half of the root key, which the boot ROM holds (17 R379): 64 bytes. -/
opaque rootKey : List Byte

/-- The check of a firmware image fails, by its number in load order: that of image 0 by the boot ROM against the root key, that of a later
one by the image that loads it (17 R380). The images are no state of the model (assumption log 21). -/
opaque imageRefused : Nat → Bool

/-- The error code that the module cairn holds when an image is refused (17 R375, R380), by the image's number. -/
opaque imageError : Nat → DWord

/-- The public half of the identity key pair, which a physically unclonable function of the base die gives (17 R380): 64 bytes. -/
opaque identityKey : List Byte

/-- The certificate of a public identity key, which Vynor makes at manufacture (17 R380); its form is not given. -/
opaque certificate : List Byte → List Byte

/-- The minimum SEQ that a key list states for a TYPE. -/
opaque keyMinimum : List Byte → Nat → Nat

/-- Physical address of the request-sequence descriptor that a function announces in its cairn (17 R376), by the cairn's ID. -/
opaque requestSequence : Nat → Nat

/-- Layout version of a cairn (17 R373), by its number in the list; the spec gives none. -/
opaque cairnVersion : Nat → Nat

/-- A fixed field of a cairn's body (17 R376) whose value the spec does not give, by the cairn and the field: serial number, firmware
version, bytes usable. -/
opaque cairnValue : Nat → Nat → DWord

/-- The ports that a fabric engine has ready (17 R376). -/
opaque portsReady : Nat → BitVec 8

/-- The nanoseconds that have passed at a moment (17 R376). -/
opaque elapsed : Nat → DWord

/-- Coolant inlet temperature (17 R376), at a moment. -/
opaque inletTemperature : Nat → DWord

/-- The bytes that a torn record leaves in flash (12 R285), by physical address (assumption log 16). -/
opaque tornByte : Nat → Byte

/-- The bytes that dead lanes leave in a vector spill area (05 R113), by `State.fresh` (assumption log 17). -/
opaque deadLane : Nat → Word

/-- Fields of the sampled memory-instruction record that only timing decides (16 R370): the lane whose data
returned last and the queue times (assumption log 18). -/
opaque sampleTime : Nat → Word

/-- What RDSR LFSR returns in a lead thread, which has no issue LFSR (05 R110), by `State.fresh` (assumption log 19). -/
opaque leadLfsr : Nat → Word

end Sys2Proof.Config
end

