-- ==== Sys2Proof/Syntax.lean ====
section
/-! DEFINITION. The instructions and events of the Drengedo 7100, as data: the typed fields of an instruction
word (spec/05 R114 to R122), the arguments of the events, and one constructor per row of
spec/opcode_table.json. -/

namespace Sys2Proof

/-- Length of an instruction (05 R114, field LEN). -/
inductive Len where
  | w64 | w96 | w128
  deriving DecidableEq, Repr

/-- Type field TY (05 R118). -/
inductive Ty where
  | i8 | i16 | i32 | i64 | n8 | n16 | n32 | n64
  | f32 | f16 | bf16 | e4m3 | e5m2 | e2m1 | df4 | pair
  deriving DecidableEq, Repr

/-- Kind tag of a source (05 R116). -/
inductive SrcKind where
  | vec | scl | cst | lit
  deriving DecidableEq, Repr

/-- A source as it stands in the base word: its kind tag and its 8-bit field (05 R115, R116). -/
structure Src where
  kind : SrcKind
  field : BitVec 8
  deriving DecidableEq, Repr

/-- Destination kind, field DK (05 R115). -/
inductive DstKind where
  | vec | scl
  deriving DecidableEq, Repr

/-- The fields of every instruction but CLH and BKPT (05 R115), with the extension words E1 and E2
(05 R120), which are zero when the length has none. -/
structure Base where
  len : Len
  fn : BitVec 3
  grd : BitVec 3
  gneg : Bool
  dst : BitVec 8
  dk : DstKind
  ty : Ty
  a : Src
  b : Src
  c : Src
  lu : BitVec 3
  fs : Bool
  e1 : BitVec 32
  e2 : BitVec 32
  deriving DecidableEq, Repr

/-- The fields of a clause header (05 R122). -/
structure ClhWord where
  count : BitVec 6
  setb : BitVec 4
  seta : BitVec 4
  wait : BitVec 12
  deriving DecidableEq, Repr

/-- A BKPT: every bit but LEN and OPC is ignored and kept (07 R154). -/
structure BkptWord where
  len : Len
  rest : BitVec 54
  e1 : BitVec 32
  e2 : BitVec 32
  deriving DecidableEq, Repr

/-- The six engine classes with an outstanding counter (03 R62). -/
inductive EngClass where
  | cpy | gth | mat | col | apn | far
  deriving DecidableEq, Repr

/-- The causes of a trap (14 R323). -/
inductive Cause where
  | illegalInstruction | reservedField | illegalOperand | fetchAlign | clauseFrame | privilege
  | misaligned | pageAbsent | pageProtection | flashReadError | droppedBlock | seqBounds
  | divergeBound | bindState | limbOverflow | returnUnderflow | laneStackLimit | nonuniform
  | slotState | tileRetryLimit | barrierState | lockState | snapshotSpillFull | eccUncorrectable
  | redundantMismatch | queueState | syscall | hvcall | breakpoint | debugHalt | watchdog
  | doubleTrap | stage2Absent | stage2Protection
  deriving DecidableEq, Repr

/-- The code of a cause (14 R323). -/
def Cause.code : Cause → BitVec 8
  | illegalInstruction => 0x01 | reservedField => 0x02 | illegalOperand => 0x03
  | fetchAlign => 0x04 | clauseFrame => 0x05 | privilege => 0x06 | misaligned => 0x07
  | pageAbsent => 0x08 | pageProtection => 0x09 | flashReadError => 0x0B | droppedBlock => 0x0C
  | seqBounds => 0x0D | divergeBound => 0x0E | bindState => 0x0F | limbOverflow => 0x10
  | returnUnderflow => 0x11 | laneStackLimit => 0x12 | nonuniform => 0x13 | slotState => 0x14
  | tileRetryLimit => 0x15 | barrierState => 0x16 | lockState => 0x17 | snapshotSpillFull => 0x18
  | eccUncorrectable => 0x1A | redundantMismatch => 0x1B | queueState => 0x1C | syscall => 0x20
  | hvcall => 0x21 | breakpoint => 0x22 | debugHalt => 0x23 | watchdog => 0x24
  | doubleTrap => 0x25 | stage2Absent => 0x30 | stage2Protection => 0x31

/-- A trap to be taken: its cause, sub-cause, TVAL and whether an engine delivered it (14 R319, R321). -/
structure Trap where
  cause : Cause
  sub : BitVec 4
  val : DWord
  eng : Bool
  deriving DecidableEq, Repr

/-- What a soft error strikes (02 R22, 16 R364): a memory sector or a flash line that becomes
uncorrectable, an error that ECC corrects, or one bit of a register. -/
inductive SoftTarget where
  | corrected
  | sector (pa : Nat)
  | flashLine (pa : Nat)
  | vreg (agent lane reg bit : Nat)
  | sreg (agent reg bit : Nat)
  | pred (agent lane p : Nat)
  deriving DecidableEq, Repr

/-- Level at which a hart runs (15 R341, 17 R372): in machine mode its translation is off. -/
inductive HartLevel where
  | user | supervisor | machine
  deriving DecidableEq, Repr

/-- What a hart brings to an access of its own: its level, and the roots of its tables and, in a guest, of the second stage, in the form of
PTBASE and G2BASE (15 R340). -/
structure HartRun where
  level : HartLevel
  root : DWord
  root2 : DWord
  deriving DecidableEq, Repr

/-- An access of a hart's own: the hart as it runs then, and the address. A load, for which the opcode table has no row, stands beside the
store, with the number of bytes that it reads. -/
structure HartSite where
  hart : Nat
  run : HartRun
  addr : DWord
  reads : Option Nat
  deriving DecidableEq, Repr

/-- A write of a register: by a hart as it runs then, or by a configuration record, and the address. -/
structure RegisterSite where
  by_ : Option (Nat × HartRun)
  addr : DWord
  deriving DecidableEq, Repr

/-- A configuration record as it lies in the configuration region (17 R377, R378): its bytes, which the security block judges. -/
structure ConfigRecord where
  bytes : List Byte
  deriving DecidableEq, Repr

/-- The rows of spec/opcode_table.json: the encoded instructions, and the events and agent operations
that have no encoding. -/
inductive Instr where
  /-- `NOP` (R154). Does nothing but counts in its clause. -/
  | nop (b : Base)
  /-- `CLH` (R122). Opens a clause, waiting for the flags named in WAIT and setting SETA, SETB and COUNT. -/
  | clh (w : ClhWord)
  /-- `BKPT` (R154). Every lane of the issue group takes BREAKPOINT with its base word in TVAL. -/
  | bkpt (w : BkptWord)
  /-- `YIELD` (R154). Moves the rope from the active set to the tail of the pending set, or makes a lead give up its next issue opportunity. -/
  | yield (b : Base)
  /-- `REPEAT` (R159). Opens a zero-overhead hardware loop in lc0, pushing the old lc0 into lc1. -/
  | repeatx (b : Base)
  /-- `BRA` (R155). Transfers each lane whose guard holds to a PC-relative target. -/
  | bra (b : Base)
  /-- `BRAU` (R155). Transfers the whole issue group when the guard is uniformly 1, and raises NONUNIFORM when the guard differs. -/
  | brau (b : Base)
  /-- `BRX` (R155). Transfers each lane whose guard holds to its own 64-bit register target. -/
  | brx (b : Base)
  /-- `BRC` (R155). Decrements a scalar counter once per issue group and branches while the result is nonzero. -/
  | brc (b : Base)
  /-- `CALL` (R156). Pushes the return address on the lane's return stack and transfers to a PC-relative target. -/
  | call (b : Base)
  /-- `CALLX` (R156). Pushes the return address and transfers each lane to its own register target. -/
  | callx (b : Base)
  /-- `RET` (R156). Pops a return address, reading a spilled frame back when the on-chip stack is empty, and transfers to it. -/
  | ret (b : Base)
  /-- `EXIT` (R158). Ends the lanes whose guard holds; the last lane of a rope retires only once its counters and flags are zero, and the end of a party publishes its writes. -/
  | exit (b : Base)
  /-- `ADD` (R160). Integer or packed addition, wrapping or saturating. -/
  | add (b : Base)
  /-- `SUB` (R160). Integer or packed subtraction, wrapping or saturating. -/
  | sub (b : Base)
  /-- `MUL` (R160). Integer multiplication, wrapped to the type. -/
  | mul (b : Base)
  /-- `MULH` (R160). High half of the exact integer product. -/
  | mulh (b : Base)
  /-- `MAD` (R160). Integer multiply-add, wrapped to the type. -/
  | mad (b : Base)
  /-- `MADW` (R160). 32-bit multiply with a 64-bit addend, giving a wrapped 64-bit pair result. -/
  | madw (b : Base)
  /-- `DIV` (R161). Integer division truncated toward zero, with defined results for a zero divisor and overflow. -/
  | div (b : Base)
  /-- `REM` (R161). Integer remainder of truncated division, without faults. -/
  | rem (b : Base)
  /-- `MIN` (R160). The smaller of two integers, by the signedness of the type. -/
  | min (b : Base)
  /-- `MAX` (R160). The larger of two integers, by the signedness of the type. -/
  | max (b : Base)
  /-- `ABS` (R160). Integer absolute value, wrapping or saturating. -/
  | abs (b : Base)
  /-- `NEG` (R160). Integer negation, wrapping or saturating. -/
  | neg (b : Base)
  /-- `AND` (R160). Bitwise AND. -/
  | and (b : Base)
  /-- `OR` (R160). Bitwise OR. -/
  | or (b : Base)
  /-- `XOR` (R160). Bitwise exclusive OR. -/
  | xor (b : Base)
  /-- `NOT` (R160). Bitwise complement. -/
  | not (b : Base)
  /-- `SHL` (R160). Shift left, giving zero for shift amounts at or beyond the width. -/
  | shl (b : Base)
  /-- `SHR` (R160). Logical or arithmetic shift right, by the type. -/
  | shr (b : Base)
  /-- `ROT` (R160). Rotate left or right by the amount modulo the width. -/
  | rot (b : Base)
  /-- `FSHF` (R160). Funnel shift of two concatenated operands. -/
  | fshf (b : Base)
  /-- `POPC` (R160). Count of set bits. -/
  | popc (b : Base)
  /-- `CLZ` (R160). Count of leading zero bits. -/
  | clz (b : Base)
  /-- `BREV` (R160). Reverses the order of the bits. -/
  | brev (b : Base)
  /-- `BFE` (R162). Extracts a bit field, zero- or sign-extended. -/
  | bfe (b : Base)
  /-- `BFI` (R162). Inserts a bit field into a value. -/
  | bfi (b : Base)
  /-- `LOP3` (R163). Combines A, B and the old destination bitwise under an 8-bit truth table. -/
  | lop3 (b : Base)
  /-- `SEL` (R160). Selects A or B by a predicate operand. -/
  | sel (b : Base)
  /-- `ISETP` (R164). Integer compare writing a predicate, or, with a scalar destination, a cross-lane mask. -/
  | isetp (b : Base)
  /-- `ISET` (R164). Integer compare writing all ones or zero. -/
  | iset (b : Base)
  /-- `ADDX` (R165). Addition with predicate carry-in and carry-out. -/
  | addx (b : Base)
  /-- `SUBX` (R165). Subtraction with predicate borrow-in and borrow-out. -/
  | subx (b : Base)
  /-- `LEA` (R160). 64-bit address formed as base plus index shifted left. -/
  | lea (b : Base)
  /-- `MOV` (R160). Copies the bits of the source unchanged. -/
  | mov (b : Base)
  /-- `MOVI` (R160). Writes A plus the lane number times B. -/
  | movi (b : Base)
  /-- `PLOP` (R166). Combines two predicates by a logical operation. -/
  | plop (b : Base)
  /-- `P2V` (R166). Writes the lane's predicates to a register as a bit mask. -/
  | p2v (b : Base)
  /-- `V2P` (R166). Sets predicates from register bits under a mask. -/
  | v2p (b : Base)
  /-- `DP4A` (R160). Four-byte dot product accumulated into C. -/
  | dp4a (b : Base)
  /-- `SAD` (R160). Sum of absolute byte differences accumulated into C. -/
  | sad (b : Base)
  /-- `FADD` (R167). Floating addition, rounded once in the mode. -/
  | fadd (b : Base)
  /-- `FSUB` (R167). Floating subtraction, rounded once in the mode. -/
  | fsub (b : Base)
  /-- `FMUL` (R167). Floating multiplication, rounded once in the mode. -/
  | fmul (b : Base)
  /-- `FFMA` (R167). Fused multiply-add with a single rounding. -/
  | ffma (b : Base)
  /-- `FMIN` (R168). Floating minimum that ignores NaN and orders −0 below +0. -/
  | fmin (b : Base)
  /-- `FMAX` (R168). Floating maximum that ignores NaN and orders −0 below +0. -/
  | fmax (b : Base)
  /-- `FABS` (R168). Clears the sign bit. -/
  | fabs (b : Base)
  /-- `FNEG` (R168). Flips the sign bit. -/
  | fneg (b : Base)
  /-- `FSETP` (R169). Floating compare writing a predicate or a cross-lane scalar mask. -/
  | fsetp (b : Base)
  /-- `FSET` (R169). Floating compare writing 1.0 or +0. -/
  | fset (b : Base)
  /-- `FCLASS` (R169). Writes a one-hot mask of the operand's floating class. -/
  | fclass (b : Base)
  /-- `FRCP` (R170). Correctly rounded reciprocal. -/
  | frcp (b : Base)
  /-- `FRSQ` (R170). Correctly rounded reciprocal square root. -/
  | frsq (b : Base)
  /-- `FSQRT` (R170). Correctly rounded square root. -/
  | fsqrt (b : Base)
  /-- `FDIV` (R170). Correctly rounded division. -/
  | fdiv (b : Base)
  /-- `FEX2` (R170). Correctly rounded base-2 exponential. -/
  | fex2 (b : Base)
  /-- `FLG2` (R170). Correctly rounded base-2 logarithm. -/
  | flg2 (b : Base)
  /-- `FSIN` (R170). Correctly rounded sine, with exact argument reduction. -/
  | fsin (b : Base)
  /-- `FCOS` (R170). Correctly rounded cosine, with exact argument reduction. -/
  | fcos (b : Base)
  /-- `FTANH` (R170). Correctly rounded hyperbolic tangent. -/
  | ftanh (b : Base)
  /-- `FRND` (R171). Rounds to an integer value in the mode. -/
  | frnd (b : Base)
  /-- `FSCL` (R171). Scales by a power of two with one rounding. -/
  | fscl (b : Base)
  /-- `FFRX` (R171). Splits a value into significand and exponent. -/
  | ffrx (b : Base)
  /-- `FDOT2` (R172). Two-element packed dot product added to f32, with one rounding. -/
  | fdot2 (b : Base)
  /-- `CVT` (R173). Converts between numeric types with one rounding, optionally saturating. -/
  | cvt (b : Base)
  /-- `PACK` (R174). Rounds two f32 values and packs them into one lane. -/
  | pack (b : Base)
  /-- `UNPK` (R174). Extracts one packed element and widens it exactly. -/
  | unpk (b : Base)
  /-- `QNT` (R175). Quantises each group of 8 lanes to E2M1 elements with an E3M5 scale. -/
  | qnt (b : Base)
  /-- `DQNT` (R175). Dequantises a block element times its scale, exactly. -/
  | dqnt (b : Base)
  /-- `SCLC` (R175). Computes the E3M5 block scale that quantisation would choose. -/
  | sclc (b : Base)
  /-- `RAND_NEXT` (R177). Writes the lane's next Philox stream word and advances its position. -/
  | randNext (b : Base)
  /-- `RAND_BLK` (R177). Writes the four words of the next whole block and advances past it. -/
  | randBlk (b : Base)
  /-- `RAND_RDPOS` (R177). Reads the lane's stream position. -/
  | randRdpos (b : Base)
  /-- `RAND_WRPOS` (R177). Sets the lane's stream position. -/
  | randWrpos (b : Base)
  /-- `RAND_SKIP` (R177). Advances the stream position by a count. -/
  | randSkip (b : Base)
  /-- `RAND_WRKEY` (R177). Sets the stream key once per issue group. -/
  | randWrkey (b : Base)
  /-- `SHFL` (R178). Each participant receives A from a source lane chosen by index, up, down or xor. -/
  | shfl (b : Base)
  /-- `VOTE` (R179). Evaluates all, any, eq or ballot of a predicate over the participants. -/
  | vote (b : Base)
  /-- `REDUX` (R180). Integer reduction over the participants. -/
  | redux (b : Base)
  /-- `FREDX` (R181). f32 reduction by a fixed pairwise tree. -/
  | fredx (b : Base)
  /-- `SCANX` (R180). Inclusive or exclusive integer scan over the participants. -/
  | scanx (b : Base)
  /-- `MATCH` (R179). Each participant receives the mask of participants whose value equals its own. -/
  | matchx (b : Base)
  /-- `RDSR` (R183). Reads a special register by index. -/
  | rdsr (b : Base)
  /-- `ELECT` (R179). Selects the lowest-numbered participant. -/
  | elect (b : Base)
  /-- `BCAST` (R182). Broadcasts one lane's A to every participant or to a scalar. -/
  | bcast (b : Base)
  /-- `LD` (R189). Phased global load through L1. -/
  | ld (b : Base)
  /-- `ST` (R189). Phased global store into L1. -/
  | st (b : Base)
  /-- `LDS` (R189). Scratchpad load served at the banks. -/
  | lds (b : Base)
  /-- `STS` (R189). Scratchpad store at the banks. -/
  | sts (b : Base)
  /-- `LDC` (R189). Load from the constant window through the phased path. -/
  | ldc (b : Base)
  /-- `LDF` (R189). Far load performed at the home slice. -/
  | ldf (b : Base)
  /-- `STF` (R189). Far store performed at the home slice and counted in FAR. -/
  | stf (b : Base)
  /-- `LDV` (R192). Versioned all-or-nothing tile load into scratchpad, retried up to 64 times. -/
  | ldv (b : Base)
  /-- `STTA` (R193). All-or-nothing tile store under the tile's version word. -/
  | stta (b : Base)
  /-- `GTH` (R194). Gathers one element per lane from global memory into scratchpad. -/
  | gth (b : Base)
  /-- `SCT` (R194). Scatters one element per lane from scratchpad to global memory. -/
  | sct (b : Base)
  /-- `PFT` (R195). Prefetches lines into L1 or the home slice, without faults. -/
  | pft (b : Base)
  /-- `LDL` (R190). Phased load from the party's lane-stack space. -/
  | ldl (b : Base)
  /-- `STL` (R190). Phased store to the party's lane-stack space. -/
  | stl (b : Base)
  /-- `CCTL_PUB` (R196). Publishes the core's dirty bytes in a range. -/
  | cctlPub (b : Base)
  /-- `CCTL_WB` (R196). Publishes a range, then writes the home slices' modified lines back to memory. -/
  | cctlWb (b : Base)
  /-- `CCTL_INV` (R196). Publishes a range, then drops the unmarked L1 lines of it. -/
  | cctlInv (b : Base)
  /-- `CCTL_IINV` (R196). Drops a range from the instruction caches of every core in scope and counts IIACK on completion. -/
  | cctlIinv (b : Base)
  /-- `SQLD` (R197). Far read of a committed sequence slot, located by block translation. -/
  | sqld (b : Base)
  /-- `ATOM` (R198). Global atomic read-modify-write at the home slice, returning the old value. -/
  | atom (b : Base)
  /-- `ATOMC` (R199). Global compare-and-swap at the home slice. -/
  | atomc (b : Base)
  /-- `RED` (R198). Global atomic without return, counted in FAR. -/
  | red (b : Base)
  /-- `ATOMS` (R198). Scratchpad atomic at the bank, lanes in ascending order. -/
  | atoms (b : Base)
  /-- `FENCE` (R200). Applies an acquire, release or full fence at the named scope. -/
  | fence (b : Base)
  /-- `PHASE` (R201). Party-wide collective arrival; the last arrival completes the phase. -/
  | phase (b : Base)
  /-- `PHASE_TEAM` (R201). Team-wide collective arrival; the last arrival completes the phase. -/
  | phaseTeam (b : Base)
  /-- `BARA` (R93). Rope arrival at a barrier once every live lane has executed it. -/
  | bara (b : Base)
  /-- `BWAIT` (R94). Returns when a barrier phase has passed, sleeps until it does, or raises BARRIER_STATE. -/
  | bwait (b : Base)
  /-- `BINIT` (R93). Sets a barrier's member count and clears its state. -/
  | binit (b : Base)
  /-- `BEXP` (R93). Adds to the bytes a barrier expects in its current phase. -/
  | bexp (b : Base)
  /-- `CWAIT` (R64). Holds the issue group until an outstanding counter is at most n. -/
  | cwait (b : Base)
  /-- `QLOCK` (R205). Acquires a queue lock at the home slice or enqueues and sleeps. -/
  | qlock (b : Base)
  /-- `QUNLK` (R205). Releases a queue lock, handing it to the oldest waiter. -/
  | qunlk (b : Base)
  /-- `WWAIT` (R206). Compares a word with an expected value and arms a wait entry when they are equal. -/
  | wwait (b : Base)
  /-- `WWAKE` (R207). Release, then wakes up to n waiters on the key and every overflow waiter. -/
  | wwake (b : Base)
  /-- `CPY` (R208). Hands a six-loop traverse copy to the copy engine. -/
  | cpy (b : Base)
  /-- `SPOP` (R209). Pops the oldest stream-queue entry into a vector register, waiting while the queue is empty. -/
  | spop (b : Base)
  /-- `SPSH` (R209). The producer pushes one 128-byte entry, waiting while the queue is full. -/
  | spsh (b : Base)
  /-- `SQRY` (R209). Returns a stream queue's CLOSED, FREE and FILL. -/
  | sqry (b : Base)
  /-- `APND` (R282). Reserves slots on a durable stream and starts an asynchronous record append. -/
  | apnd (b : Base)
  /-- `AFNC` (R284). Captures RT and waits until the durable length reaches it. -/
  | afnc (b : Base)
  /-- `COLL` (R355). Starts a collective from a record after the issue checks. -/
  | coll (b : Base)
  /-- `RBLK_SEQ` (R351). Copies one sequence block, local or remote, to local memory. -/
  | rblkSeq (b : Base)
  /-- `RBLK_GET` (R351). Copies bytes from a remote chip to local memory. -/
  | rblkGet (b : Base)
  /-- `RBLK_PUT` (R351). Copies bytes from local memory to a remote chip. -/
  | rblkPut (b : Base)
  /-- `PRDL` (R210). Loads and starts a producer micro-program, emptying the stream queues. -/
  | prdl (b : Base)
  /-- `DQPSH` (R211). The lead appends a decision, waiting while 64 entries are unfreed. -/
  | dqpsh (b : Base)
  /-- `DQPOP` (R211). A rope takes the decision at its read position, waiting while none is there. -/
  | dqpop (b : Base)
  /-- `OCLM` (R242). Claims and zeroes an operand slot and gives it a reservation record. -/
  | oclm (b : Base)
  /-- `OREL` (R243). Releases an operand slot after earlier operations on it complete. -/
  | orel (b : Base)
  /-- `OLD` (R245). Fills a claimed slot from scratchpad, counted in MAT. -/
  | old (b : Base)
  /-- `MMA` (R246). Enters one matrix pass of the issuing core's pair into the reservation table. -/
  | mma (b : Base)
  /-- `ACLM` (R244). Claims and zeroes an accumulator tile of type f32 or i32. -/
  | aclm (b : Base)
  /-- `AREL` (R243). Releases an accumulator tile after earlier operations on it complete. -/
  | arel (b : Base)
  /-- `RELEASE_COMPLETE` (R243). After the drain, drops a slot or tile claim and returns it to the camp. -/
  | releaseComplete (camp op : Nat)
  /-- `ACRD` (R247). Reads tile words into a vector register or rows to scratchpad. -/
  | acrd (b : Base)
  /-- `ACWR` (R247). Writes tile words from a vector register or rows from scratchpad. -/
  | acwr (b : Base)
  /-- `ATTN` (R275). Online-softmax attention over sequence key blocks, one grant per block. -/
  | attn (b : Base)
  /-- `ATTNF` (R277). Divides each output row by its running sum. -/
  | attnf (b : Base)
  /-- `SQNEW` (R263). Checks a descriptor image and writes it as a new sequence. -/
  | sqnew (b : Base)
  /-- `SQRSV` (R264). Reserves slots above RT, popping pool blocks as needed. -/
  | sqrsv (b : Base)
  /-- `SQST_PLAIN` (R265). Writes scratchpad bytes into a reserved slot as far writes. -/
  | sqstPlain (b : Base)
  /-- `SQST_ROTARY` (R266). Writes a reserved slot, rotating its element pairs by position on the way. -/
  | sqstRotary (b : Base)
  /-- `SQCMT` (R267). Commits a slot range, advancing CL or marking PEND, unpinning blocks and waking waiters. -/
  | sqcmt (b : Base)
  /-- `SQABN` (R268). Abandons a tail range of reservations and returns their blocks to the pool. -/
  | sqabn (b : Base)
  /-- `SQFRK` (R269). Makes a child sequence share a committed prefix of the parent. -/
  | sqfrk (b : Base)
  /-- `SQLEN` (R270). Reads CL, RT or HELD of a descriptor far. -/
  | sqlen (b : Base)
  /-- `SQFRE` (R271). Drops the sequence's block references, pushes freed blocks and sets FREED. -/
  | sqfre (b : Base)
  /-- `LBND_ON` (R214). Binds the rope into groups of n limbs and clears the sticky flags. -/
  | lbndOn (b : Base)
  /-- `LBND_OFF` (R214). Unbinds the rope and discards the sticky flags. -/
  | lbndOff (b : Base)
  /-- `LBND_CLR` (R214). Clears every group's sticky flags. -/
  | lbndClr (b : Base)
  /-- `LARI_ADD` (R221). Long addition per group with carry-out. -/
  | lariAdd (b : Base)
  /-- `LARI_SUB` (R221). Long subtraction per group with borrow-out. -/
  | lariSub (b : Base)
  /-- `LARI_NEG` (R221). Long negation per group with borrow-out. -/
  | lariNeg (b : Base)
  /-- `LARI_CMP` (R221). Long comparison writing equal and less predicates. -/
  | lariCmp (b : Base)
  /-- `LARI_ADDT` (R221). Long addition that traps with LIMB_OVERFLOW on overflow. -/
  | lariAddt (b : Base)
  /-- `LARI_LACC` (R226). Exactly adds 16 f32 values into a 512-bit fixed-point accumulator. -/
  | lariLacc (b : Base)
  /-- `LARI_LNRM` (R227). Rounds the accumulator once to f32 under the sticky flags. -/
  | lariLnrm (b : Base)
  /-- `LSHF` (R222). Long shift left or right per group with a sticky predicate. -/
  | lshf (b : Base)
  /-- `LMUL` (R223). Long value times a 32-bit multiplier plus an addend, giving n+1 limbs. -/
  | lmul (b : Base)
  /-- `SYSC` (R326). Raises SYSCALL with the call number in TVAL. -/
  | sysc (b : Base)
  /-- `ERET` (R327). Returns a lane from its trap slot to the saved PC, clause position and mode. -/
  | eret (b : Base)
  /-- `RDPR` (R328). Reads a privileged register by number. -/
  | rdpr (b : Base)
  /-- `WRPR` (R328). Writes a privileged register by number, checking RSV fields and ranges. -/
  | wrpr (b : Base)
  /-- `HVC` (R326). Raises HVCALL to H mode. -/
  | hvc (b : Base)
  /-- `TLBI_PAGE` (R38). Removes translations of one virtual address in scope and waits for every member's acknowledgement. -/
  | tlbiPage (b : Base)
  /-- `TLBI_SPACE` (R38). Removes the non-global translations of one address space in scope. -/
  | tlbiSpace (b : Base)
  /-- `TLBI_PARTITION` (R38). Removes every translation of the partition in scope. -/
  | tlbiPartition (b : Base)
  /-- `TLBI_STAGE2` (R38). Removes the combined translations that use a stage-2 translation of one IPA. -/
  | tlbiStage2 (b : Base)
  /-- `TLBI_ACK` (R39). A member acknowledges a TLBI once it holds no match and its matching accesses are performed. -/
  | tlbiAck (tlbi core : Nat)
  /-- `LAUNCH` (R303). Releases, then reserves, writes and commits one task record in a task sequence. -/
  | launch (b : Base)
  /-- `TRACE` (R371). Writes a user record to the trace sink. -/
  | trace (b : Base)
  /-- `TRACE_SAMPLE` (R370). Every 2^(PER+4) MEM-class instructions, the sampled instruction writes a memory-instruction record at completion. -/
  | traceSample (core : Nat)
  /-- `ISSUE_CYCLE` (R313). Each cycle picks up to two issue groups for ports A and B, with the LFSR breaking shared-class conflicts. -/
  | issueCycle (core : Nat)
  /-- `LANE_AGED` (R315). A lane's count of unissued opportunities reaches 64 and makes its group aged. -/
  | laneAged (agent lane : Nat)
  /-- `VREG_REFILL` (R113). Refills a spilled register from the spill area, ending the rope's wait. -/
  | vregRefill (agent reg : Nat)
  /-- `ROPE_SWAP` (R312). Swaps an active rope that waits on a long-latency dependence with the nearest ready pending rope. -/
  | ropeSwap (core slot : Nat)
  /-- `TIME_SLICE` (R312). A pending rope ready for 2,048 cycles displaces the longest-held active rope. -/
  | timeSlice (core : Nat)
  /-- `FLAG_FALL` (R125). A flagged instruction's last destination lane is written and its flag falls. -/
  | flagFall (agent uid : Nat)
  /-- `OUTSTANDING_COMPLETE` (R63). The oldest counted engine operation of a class completes, so the rope's counter falls and CWAITs may return. -/
  | outstandingComplete (agent : Nat) (cls : EngClass)
  /-- `TRANSFER_LANDS` (R93). A transfer naming a barrier lands its last byte, adding its bytes and arriving as one member. -/
  | transferLands (uid : Nat)
  /-- `COPY_PROGRESS` (R90). The copy engine moves up to 16 elements of one of its copies each cycle in traverse order. -/
  | copyProgress (core uid : Nat)
  /-- `ENGINE_FAULT_DELIVERY` (R402). A held engine fault is delivered to its delivery lane, withdrawing any wait it sleeps in. -/
  | engineFaultDelivery (uid lane : Nat)
  /-- `FLASH_LINE_LANDS` (R20). A flash line arrives from the storage processor and the lanes held by the long-latency fault resume. -/
  | flashLineLands (line : Nat)
  /-- `WALK_START` (R36). A miss takes a free walk slot, joins a walk in progress, or leaves the miss queue and walks. -/
  | walkStart (die : Nat)
  /-- `WALK_COMPLETE` (R36). A walk ends in a translation installed in the last-level TLB or in a fault answered to every waiter. -/
  | walkComplete (die index : Nat)
  /-- `SRAM_SPLIT_APPLY` (R76). When no party is resident, publishes and drops L1 and applies the new split. -/
  | sramSplitApply (core : Nat)
  /-- `TASKTAB_WRITE` (R294). Makes the distributor read all 16 task-sequence entries again and retry pending completion appends. -/
  | tasktabWrite (part : Nat) (value : DWord)
  /-- `COMPDESC_WRITE` (R294). Sets the completion sequence and retries pending completion appends. -/
  | compdescWrite (part : Nat) (value : DWord)
  /-- `TASK_ACCEPT` (R297). The distributor, woken by CL, reads each record entering its window. -/
  | taskAccept (part qidx : Nat)
  /-- `PLACEMENT_ATTEMPT` (R308). Walks the ready tasks in priority order and places parties or teams on eligible cores of least load. -/
  | placementAttempt
  /-- `TASK_COMPLETE` (R73). After final publication and engine completion, appends the completion record and advances DONE. -/
  | taskComplete (part qidx slot : Nat)
  /-- `COMPLETION_APPEND_RETRY` (R301). Retries a completion append that waited on POOL_EMPTY, LIMIT or BUSY. -/
  | completionAppendRetry (part : Nat)
  /-- `ARBITER_CYCLE` (R239). Each cycle orders the ungranted entries by EP and age, reserving arrays and granting eligible entries. -/
  | arbiterCycle (camp : Nat)
  /-- `RESERVATION_AGE` (R238). Every 256 cycles of waiting raises an entry's AGE and effective priority. -/
  | reservationAge (camp op : Nat)
  /-- `PASS_RETIRE` (R228). A pass writes its tile 16 cycles after its occupancy and retires. -/
  | passRetire (camp op : Nat)
  /-- `ATTN_BLOCK_DONE` (R276). A key block ends and writes the tile; the next block enters the table. -/
  | attnBlockDone (camp op : Nat)
  /-- `APPEND_TRANSFER` (R282). Reads the source, writes header, payload and padding to the reserved slots, and commits them. -/
  | appendTransfer (uid : Nat)
  /-- `DSLOT_ADVANCE` (R283). Programs committed slot images in order and advances DSLOT to the end of whole records. -/
  | dslotAdvance (log slots : Nat)
  /-- `PREQ_SAVE` (R334). Halts and saves every placed party of a task and holds it. -/
  | preqSave (part qidx slot : Nat)
  /-- `PREQ_RESUME` (R334). Releases the hold so that the distributor places the saved parties first. -/
  | preqResume (part qidx slot : Nat)
  /-- `PREQ_ABORT` (R334). Halts and publishes placed parties, drops the rest and appends a STATUS 1 completion. -/
  | preqAbort (part qidx slot : Nat)
  /-- `CONTEXT_SAVE` (R336). Once in-flight results have landed, publishes and writes the party to a frame and frees its resources, or aborts when the frame is too small. -/
  | contextSave (party : Nat)
  /-- `PARTY_RESUME` (R339). Restores a saved party from its frame into fresh resources on any core and restarts held engines. -/
  | partyResume (party core : Nat)
  /-- `DBGREQ_HALT` (R331). Halts the named lanes at a boundary, at system level at once or at user level on reaching U. -/
  | dbgreqHalt (core : Nat) (value : DWord)
  /-- `DBGREQ_RESUME` (R331). Resumes halted lanes at DPC. -/
  | dbgreqResume (core : Nat) (value : DWord)
  /-- `DREQ_REPLAY` (R362). Saves a party, restores its checkpoint and re-executes it from the log towards the stop record. -/
  | dreqReplay (part : Nat) (value : DWord)
  /-- `REPLAY_STOP` (R362). Replay halts the party when the named lane's RWC reaches COUNT or the log ends. -/
  | replayStop (party : Nat)
  /-- `DREQ_END` (R362). Discards the replayed state and resumes the party from its frame. -/
  | dreqEnd (part : Nat)
  /-- `LOG_FULL` (R360). The log reaches 4,096 entries or 3 MiB; in REPLAY mode the party halts and starts a new interval. -/
  | logFull (party : Nat)
  /-- `LOG_FULL_COMPARE` (R366). Once the trailer has consumed the full log, the pair compares signatures and publishes or rolls back. -/
  | logFullCompare (pair : Nat)
  /-- `REDUNDANT_EFFECT` (R364). The leader performs an outside effect once the trailer has issued it with the same operands, and logs the result. -/
  | redundantEffect (pair : Nat)
  /-- `HART_OP_COMPLETE` (R342). A window operation that waited completes and writes RES and STS. -/
  | hartOpComplete (hart : Nat)
  /-- `ROILO_READ` (R348). A remote read request served at the target's home slices. -/
  | roiloRead (msg : Nat)
  /-- `ROILO_READ_DATA` (R348). Returned read data lands at the requester. -/
  | roiloReadData (msg : Nat)
  /-- `ROILO_WRITE` (R348). A remote write performed at the target, which acknowledges once every byte is performed. -/
  | roiloWrite (msg : Nat)
  /-- `ROILO_WRITE_ACK` (R348). A write acknowledgement reaches the issuer. -/
  | roiloWriteAck (msg : Nat)
  /-- `ROILO_RDV` (R355). A collective rendezvous message matching ranks on group, tag and JobID. -/
  | roiloRdv (msg : Nat)
  /-- `ROILO_CDATA` (R354). A collective contribution unit enters the reduction. -/
  | roiloCdata (msg : Nat)
  /-- `ROILO_NAK` (R349). A refusal that ends the remote operation with a fault to the issuing lane. -/
  | roiloNak (msg : Nat)
  /-- `STORAGE_BIND_REQUEST` (R278). The storage processor binds a durable stream to a flash log, or refuses the request. -/
  | storageBindRequest (part request : Nat)
  /-- `SECURITY_DIGEST` (R381). The security block writes the SM3 digest of source bytes and a status word. -/
  | securityDigest (part request : Nat)
  /-- `SECURITY_ATTEST` (R381). The security block writes a signed attestation report and a status word. -/
  | securityAttest (part request : Nat)
  /-- `WATCHDOG` (R333). A lane asleep beyond LIMIT × 65,536 cycles in a wait has it withdrawn and takes WATCHDOG. -/
  | watchdog (agent lane : Nat)
  /-- `BOOT` (R380). At reset the boot ROM verifies firmware and applies signed configuration records; `records` are those that were
  placed in the configuration region before it. -/
  | boot (records : List ConfigRecord)
  /-- `CAIRN_READY` (R375). A function sets its READY bit when it can serve, or FAIL with an error code. -/
  | cairnReady (cairn : Nat) (fail : Option DWord)
  /-- `OPERATION_PERFORMED` (R265). An interlocked operation that is neither flagged nor counted (SQST, SQCMT and the other sequence operations, STTA, OCLM, ACLM, CCTL, WWAKE, LAUNCH, an AO-page access, a missed constant-window read) is performed, and its held issue group may issue again. -/
  | operationPerformed (agent : Nat) (lanes : Word)
  /-- `HART_SQNEW` (R342). A hart window operation with the effect of SQNEW. -/
  | hartSqnew (hart fn : Nat)
  /-- `HART_SQRSV` (R342). A hart window operation with the effect of SQRSV. -/
  | hartSqrsv (hart fn : Nat)
  /-- `HART_SQST` (R342). A hart window operation with the effect of SQST from a global source. -/
  | hartSqst (hart fn : Nat)
  /-- `HART_SQCMT` (R342). A hart window operation with the effect of SQCMT. -/
  | hartSqcmt (hart fn : Nat)
  /-- `HART_SQABN` (R342). A hart window operation with the effect of SQABN. -/
  | hartSqabn (hart fn : Nat)
  /-- `HART_SQFRK` (R342). A hart window operation with the effect of SQFRK. -/
  | hartSqfrk (hart fn : Nat)
  /-- `HART_SQLEN` (R342). A hart window operation with the effect of SQLEN. -/
  | hartSqlen (hart fn : Nat)
  /-- `HART_SQFRE` (R342). A hart window operation with the effect of SQFRE. -/
  | hartSqfre (hart fn : Nat)
  /-- `HART_APND` (R342). A hart window operation with the effect of APND. -/
  | hartApnd (hart fn : Nat)
  /-- `HART_AFNC` (R342). A hart window operation with the effect of AFNC. -/
  | hartAfnc (hart fn : Nat)
  /-- `HART_LAUNCH` (R342). A hart window operation with the effect of LAUNCH from a global record. -/
  | hartLaunch (hart fn : Nat)
  /-- `HART_QLOCK` (R342). A hart window operation with the effect of QLOCK. -/
  | hartQlock (hart fn : Nat)
  /-- `HART_QUNLK` (R342). A hart window operation with the effect of QUNLK. -/
  | hartQunlk (hart fn : Nat)
  /-- `HART_WWAIT` (R342). A hart window operation with the effect of WWAIT. -/
  | hartWwait (hart fn : Nat)
  /-- `HART_WWAKE` (R342). A hart window operation with the effect of WWAKE. -/
  | hartWwake (hart fn : Nat)
  /-- `HART_LDF` (R342). A hart window far load. -/
  | hartLdf (hart fn : Nat)
  /-- `HART_STF` (R342). A hart window far store. -/
  | hartStf (hart fn : Nat)
  /-- `HART_CCTL_IINV` (R342). A hart window instruction-cache invalidation over a scope. -/
  | hartCctlIinv (hart fn : Nat)
  /-- `CANCEL` (R342). Withdraws a pending window WWAIT or QLOCK. -/
  | cancel (hart : Nat)
  /-- `FLASH_PROGRAM_FAIL` (R279). A flash program fails beyond repair, setting DLW.ERR and failing waiting AFNCs. -/
  | flashProgramFail (log : Nat)
  /-- `BLOCK_DEMOTION` (R286). Rewrites a durable block's origin entry to its log page with TIER 2 and pushes the staging block to the pool. -/
  | blockDemotion (log block : Nat)
  /-- `POWER_LOSS` (R285). Power is lost; only a gapless prefix of durable records survives. -/
  | powerLoss (torn : Nat)
  /-- `THROTTLE_DOWN` (R383). After each 1 ms over 95 °C or over the power cap, the die steps its clock down. -/
  | throttleDown (die : Nat)
  /-- `THROTTLE_UP` (R383). After 10 ms below 90 °C and below the cap, the die steps its clock up. -/
  | throttleUp (die : Nat)
  /-- `THERMAL_HALT` (R384). At 110 °C every core halts at system level and flash programming stops at a record boundary. -/
  | thermalHalt
  /-- `SOFT_ERROR` (R22). A soft error corrupts bits of a memory sector or register, which ECC corrects or which leaves the sector uncorrectable. -/
  | softError (target : SoftTarget)
  /-- `CPU_STORE` (R74). A base-die CPU store reaches its home slice, enters the byte's coherence order and removes CPU copies of the line. -/
  | cpuStore (site : HartSite) (bytes : List Byte)
  /-- `BACKGROUND_REQUANTISATION` (R71). The storage processor requantises a tile in place, following the STTA writer steps on its version word. -/
  | backgroundRequantisation (part : Nat) (tile : DWord) (enc : Word) (data : List Byte)
  /-- `TAKE_TRAP` (R321). Saves PC, clause position, cause and status to the T or H slot and vectors the lane to its handler. -/
  | takeTrap (agent lane : Nat) (t : Trap)
  /-- `TRANSPORT_TIMEOUT` (R349). No delivery within 2^TMO ms ends the operation with QUEUE_STATE. -/
  | transportTimeout (uid : Nat)
  /-- `SRAMCFG_WRITE` (R76). Records a requested scratchpad size and sets PEND. -/
  | sramcfgWrite (core : Nat) (value : DWord)
  /-- `WRITE_REGISTER` (R328). A write by a hart or a configuration record to a register that has no row of its own, refused whole when a WRPR would fault. -/
  | writeRegister (site : RegisterSite) (value : DWord)
  deriving DecidableEq, Repr

end Sys2Proof
end

