-- ==== Sys2Proof/Machine/Forms.lean ====
section
/-! DEFINITION. The form of each encoded instruction (its opcode,
lengths, types, operand positions; spec/05 R114 to R120) and the static part of the decode faults of spec/05 R121, in their
order. Checks that depend on the agent or its mode are made by the meanings. -/

namespace Sys2Proof

/-! ### Types (05 R118) -/

/-- Code of a type in field TY. -/
def Ty.code : Ty → BitVec 4
  | .i8 => 0 | .i16 => 1 | .i32 => 2 | .i64 => 3 | .n8 => 4 | .n16 => 5 | .n32 => 6 | .n64 => 7
  | .f32 => 8 | .f16 => 9 | .bf16 => 10 | .e4m3 => 11 | .e5m2 => 12 | .e2m1 => 13 | .df4 => 14
  | .pair => 15

/-- Type of a code of field TY. -/
def Ty.ofCode (c : BitVec 4) : Ty :=
  match c.toNat with
  | 0 => .i8 | 1 => .i16 | 2 => .i32 | 3 => .i64 | 4 => .n8 | 5 => .n16 | 6 => .n32 | 7 => .n64
  | 8 => .f32 | 9 => .f16 | 10 => .bf16 | 11 => .e4m3 | 12 => .e5m2 | 13 => .e2m1 | 14 => .df4
  | _ => .pair

/-- Width in bits of a value of the type; 4 for the two FP4 types. -/
def Ty.bits : Ty → Nat
  | .i8 => 8 | .i16 => 16 | .i32 => 32 | .i64 => 64 | .n8 => 8 | .n16 => 16 | .n32 => 32
  | .n64 => 64 | .f32 => 32 | .f16 => 16 | .bf16 => 16 | .e4m3 => 8 | .e5m2 => 8 | .e2m1 => 4
  | .df4 => 4 | .pair => 32

/-- The eight integer types. -/
def Ty.isInt : Ty → Bool
  | .i8 | .i16 | .i32 | .i64 | .n8 | .n16 | .n32 | .n64 => true
  | _ => false

/-- The four signed integer types. -/
def Ty.isSigned : Ty → Bool
  | .i8 | .i16 | .i32 | .i64 => true
  | _ => false

/-- The six scalar floating types. -/
def Ty.isFloat : Ty → Bool
  | .f32 | .f16 | .bf16 | .e4m3 | .e5m2 | .e2m1 => true
  | _ => false

/-- Types whose operands take an even and odd register pair (05 R107). -/
def Ty.is64 (t : Ty) : Bool := t.bits == 64

/-- TY 2, 3, 6 or 7. -/
def Ty.is3264 : Ty → Bool
  | .i32 | .i64 | .n32 | .n64 => true
  | _ => false

/-! ### Lengths and layouts -/

/-- Length in bytes (05 R114). -/
def Len.bytes : Len → Nat
  | .w64 => 8 | .w96 => 12 | .w128 => 16

/-- Where an instruction's extension words carry what (05 R116, R120): `ext`, an extended source in E1;
`cls`, the class layout of E1, with an extended source in E2; `word`, a class operand word in E2 and no
extended source; `cvt`, CVT's own E1, with an extended source in E2. -/
inductive Layout where
  | ext | cls | word | cvt
  deriving DecidableEq, Repr

/-- E1.MOD (05 R120): bits [31:26] of E1, so that the manual's MOD[b] is bit `b - 26`. -/
def Base.mod (b : Base) : BitVec 6 := b.e1.extractLsb' 26 6

/-- E1.SCALE: the index scale (05 R120, 08 R184). -/
def Base.scale (b : Base) : Nat := 2 ^ (b.e1.extractLsb' 24 2).toNat

/-- E1.SCALE as it stands. -/
def Base.scaleCode (b : Base) : BitVec 2 := b.e1.extractLsb' 24 2

/-- E1.OFFSET, signed (05 R120). -/
def Base.offset (b : Base) : Int := (b.e1.extractLsb' 0 24).toInt

/-- The element count code VEC, MOD[27:26] (08 R185). -/
def Base.vecCode (b : Base) : Nat := (b.e1.extractLsb' 26 2).toNat

/-- The number of elements of a memory access (08 R185). -/
def Base.vecCount (b : Base) : Nat := 2 ^ b.vecCode

/-! ### Operand types and rules -/

/-- The type a source or destination is read or written as. -/
inductive OpTy where
  | ty      -- the type TY names
  | n32 | i32 | n64 | i64 | f32
  | cvtSrc  -- CVT's source type, E1[31:28] (07 R173)
  | madw    -- the 64-bit type of TY's signedness (07 R160, MADW)
  deriving DecidableEq, Repr

/-- The type an `OpTy` stands for in an instruction. -/
def OpTy.of (b : Base) : OpTy → Ty
  | .ty => b.ty
  | .n32 => .n32 | .i32 => .i32 | .n64 => .n64 | .i64 => .i64 | .f32 => .f32
  | .cvtSrc => Ty.ofCode (b.e1.extractLsb' 28 4)
  | .madw => if b.ty.isSigned then .i64 else .n64

/-- What a source position accepts; a position with no kind is not used. -/
structure SrcRule where
  vec : Bool
  scl : Bool
  cst : Bool
  lit : Bool
  ty : OpTy
  deriving DecidableEq, Repr

namespace SrcRule
/-- The position is not used and must be zero. -/
def unused : SrcRule := ⟨false, false, false, false, .n32⟩
/-- Every kind (07, "any"). -/
def any (t : OpTy) : SrcRule := ⟨true, true, true, true, t⟩
/-- Scalar register, constant or literal. -/
def sc (t : OpTy) : SrcRule := ⟨false, true, true, true, t⟩
/-- Vector or scalar register or constant. -/
def vsc (t : OpTy) : SrcRule := ⟨true, true, true, false, t⟩
/-- Scalar register or constant. -/
def s_c (t : OpTy) : SrcRule := ⟨false, true, true, false, t⟩
/-- Scalar register only. -/
def s (t : OpTy) : SrcRule := ⟨false, true, false, false, t⟩
/-- Vector register only. -/
def v (t : OpTy) : SrcRule := ⟨true, false, false, false, t⟩
/-- Inline literal only. -/
def lit1 : SrcRule := ⟨false, false, false, true, .n32⟩
/-- Vector register, or literal. -/
def vl (t : OpTy) : SrcRule := ⟨true, false, false, true, t⟩
/-- The position is used. -/
def used (r : SrcRule) : Bool := r.vec || r.scl || r.cst || r.lit
/-- The kind is accepted. -/
def allows (r : SrcRule) : SrcKind → Bool
  | .vec => r.vec | .scl => r.scl | .cst => r.cst | .lit => r.lit
end SrcRule

/-- What an instruction writes (05 R115, R116): nothing; vector registers only; a scalar only; either by
DK; a predicate; a predicate with DK = 0 and a scalar with DK = 1. -/
inductive DstRule where
  | none
  | vec (t : OpTy)
  | scl (t : OpTy)
  | both (t : OpTy)
  | pred
  | predScl
  deriving DecidableEq, Repr

/-- The form of an encoded instruction. -/
structure Form where
  /-- major opcode (05 R127) -/
  opc : BitVec 8
  /-- the FN value that selects this row, where several rows share the opcode -/
  fnSel : Option (BitVec 3) := Option.none
  /-- minimum length (05 R127) -/
  minLen : Len := .w64
  layout : Layout := .ext
  /-- TY and FN that the instruction accepts; others take ILLEGAL_INSTRUCTION -/
  tyFn : Base → Bool := fun _ => true
  /-- TY is used (else it must be zero, RESERVED_FIELD) -/
  tyUsed : Bool := true
  /-- FN is used -/
  fnUsed : Bool := true
  dst : DstRule := .none
  a : SrcRule := .unused
  b : SrcRule := .unused
  c : SrcRule := .unused
  /-- further fields that must be zero, or codes that are reserved (RESERVED_FIELD) -/
  resOk : Base → Bool := fun _ => true
  /-- further ILLEGAL_OPERAND checks -/
  opOk : Base → Bool := fun _ => true
  /-- raises a flag (05 R125) -/
  flagged : Bool := false
  /-- must be unguarded, or RESERVED_FIELD -/
  unguarded : Bool := false
  /-- a cross-lane instruction (07 R153), by DK -/
  crossLane : DstKind → Bool := fun _ => false
  /-- vector sources stay allowed with DK = 1 -/
  vecWithScl : Bool := false

/-! ### The extended source (05 R116, R120) -/

/-- The first of A, B, C whose tag is constant or literal: 0, 1 or 2. -/
def Base.wideIdx (b : Base) : Option Nat :=
  let w := fun (s : Src) => s.kind == .cst || s.kind == .lit
  if w b.a then some 0 else if w b.b then some 1 else if w b.c then some 2 else none

/-- The word that carries an extended source, when the length and layout have one. -/
def Base.extWord (lay : Layout) (b : Base) : Option Word :=
  match lay, b.len with
  | .word, _ => none
  | _, .w64 => none
  | .ext, _ => some b.e1
  | .cls, .w96 => none
  | .cvt, .w96 => none
  | .cls, .w128 => some b.e2
  | .cvt, .w128 => some b.e2

/-- The word that extends source number `i`, when that source is the extended one. -/
def Base.extOf (lay : Layout) (b : Base) (i : Nat) : Option Word :=
  if b.wideIdx = some i then b.extWord lay else none

/-- The 32-bit pattern of a literal source: the 8-bit literal sign-extended, or the extension word. -/
def Base.litWord (lay : Layout) (b : Base) (i : Nat) (s : Src) : Word :=
  match b.extOf lay i with
  | some w => w
  | none => s.field.signExtend 32

/-- The word index of a constant source. -/
def Base.cstIdx (lay : Layout) (b : Base) (i : Nat) (s : Src) : Nat :=
  match b.extOf lay i with
  | some w => (w.extractLsb' 0 14).toNat
  | none => s.field.toNat

/-! ### Literals of floating types (05 R117) -/

/-- Significand bits, hidden bit included, of a floating type, and its largest finite integer part. -/
def Ty.sigBits : Ty → Nat
  | .f32 => 24 | .f16 => 11 | .bf16 => 8 | .e4m3 => 4 | .e5m2 => 3 | .e2m1 => 2 | _ => 0

/-- The 8-bit integer is exact in the floating type (its magnitude is at most 128). -/
def litExact (t : Ty) (f : BitVec 8) : Bool :=
  let m := f.toInt.natAbs
  match t with
  | .e4m3 => m = 0 || m % 2 ^ (Nat.log2 m + 1 - 4) == 0 || Nat.log2 m < 4
  | .e5m2 => m = 0 || m % 2 ^ (Nat.log2 m + 1 - 3) == 0 || Nat.log2 m < 3
  | .e2m1 => m ≤ 4 || m == 6
  | _ => true

/-! ### The checks (05 R121, items 3 to 5) -/

/-- The source number `i` of an instruction. -/
def Base.src (b : Base) : Nat → Src
  | 0 => b.a
  | 1 => b.b
  | _ => b.c

/-- The rule of source number `i`. -/
def Form.srcRule (f : Form) : Nat → SrcRule
  | 0 => f.a
  | 1 => f.b
  | _ => f.c

/-- Item 3: the length, TY and FN are accepted. -/
def Form.illegalInstruction (f : Form) (b : Base) : Bool :=
  b.len.bytes < f.minLen.bytes || !f.tyFn b || f.fnSel.any (· != b.fn)

/-- A used source keeps LU off unless it is a vector register; an unused one is zero (R111, R115). -/
def Form.srcReserved (f : Form) (b : Base) (i : Nat) : Bool :=
  let s := b.src i
  let r := f.srcRule i
  let lu := b.lu.getLsbD i
  (lu && (s.kind != .vec || !r.used)) || (!r.used && (s.kind != .vec || s.field != 0)) ||
    (match b.extOf f.layout i with
     | some w => s.field != 0 || (s.kind == .cst && w.extractLsb' 14 18 != 0)
     | none => false)

/-- The extension words carry nothing they should not (R120). -/
def Form.extReserved (f : Form) (b : Base) : Bool :=
  let none1 := b.e1 != 0
  let none2 := b.e2 != 0
  match f.layout with
  | .ext => (b.wideIdx.isNone && none1) || none2
  | .cls => b.wideIdx.isNone && none2
  | .cvt => (b.e1.extractLsb' 0 27 != 0) || (b.wideIdx.isNone && none2)
  | .word => false

/-- The words that the length does not have are zero in the record. -/
def Base.lenWords (b : Base) : Bool :=
  match b.len with
  | .w64 => b.e1 == 0 && b.e2 == 0
  | .w96 => b.e2 == 0
  | .w128 => true

/-- The words that the length does not have are zero in the record of a BKPT. -/
def BkptWord.lenWords (k : BkptWord) : Bool :=
  match k.len with
  | .w64 => k.e1 == 0 && k.e2 == 0
  | .w96 => k.e2 == 0
  | .w128 => true

/-- An unused destination is zero (R115). -/
def Form.dstReserved (f : Form) (b : Base) : Bool := f.dst == .none && (b.dst != 0 || b.dk != .vec)

/-- Item 4: RESERVED_FIELD. -/
def Form.reservedField (f : Form) (b : Base) : Bool :=
  (b.fs && !f.flagged) || (b.grd == 7 && b.gneg) || (f.unguarded && b.grd != 7) ||
    (!f.tyUsed && b.ty != .i8) || (!f.fnUsed && b.fn != 0) ||
    f.srcReserved b 0 || f.srcReserved b 1 || f.srcReserved b 2 ||
    f.extReserved b || f.dstReserved b || !f.resOk b

/-- A source register or constant is in range, of an accepted kind and, for a 64-bit operand, even; an
inline literal of a floating type is exact (R107, R116, R117). -/
def Form.srcIllegal (f : Form) (b : Base) (i : Nat) : Bool :=
  let s := b.src i
  let r := f.srcRule i
  let t := r.ty.of b
  r.used && (!r.allows s.kind ||
    (match s.kind with
     | .vec => s.field.toNat > 127 || (t.is64 && s.field.toNat % 2 == 1)
     | .scl => s.field.toNat > 63 || (t.is64 && s.field.toNat % 2 == 1)
     | .cst => t.is64 && b.cstIdx f.layout i s % 2 == 1
     | .lit => t.isFloat && (b.extOf f.layout i).isNone && !litExact t s.field) ||
    (s.kind == .vec && b.dk == .scl && !f.vecWithScl && f.dst != .none))

/-- The destination is in range, of an accepted kind and, for a 64-bit result, even (R107, R116). -/
def Form.dstIllegal (f : Form) (b : Base) : Bool :=
  let lim := match b.dk with | .vec => 127 | .scl => 63
  let odd := fun (t : OpTy) => (t.of b).is64 && b.dst.toNat % 2 == 1
  b.dst.toNat > lim ||
    (match f.dst with
     | .vec t => b.dk == .scl || odd t
     | .scl t => b.dk == .vec || odd t
     | .both t => odd t
     | .pred => b.dst.extractLsb' 3 5 != 0 || b.dk != .vec
     | .predScl => b.dk == .vec && b.dst.extractLsb' 3 5 != 0
     | .none => false)

/-- Item 5: ILLEGAL_OPERAND. -/
def Form.illegalOperand (f : Form) (b : Base) : Bool :=
  f.srcIllegal b 0 || f.srcIllegal b 1 || f.srcIllegal b 2 || f.dstIllegal b || !f.opOk b

/-- The first static decode fault of an instruction of the form (R121). -/
def Form.check (f : Form) (b : Base) : Option Cause :=
  if f.illegalInstruction b then some .illegalInstruction
  else if f.reservedField b then some .reservedField
  else if f.illegalOperand b then some .illegalOperand
  else none

/-! ### Helpers for the table of forms -/

/-- FN is zero. -/
def fn0 (b : Base) : Bool := b.fn == 0
/-- TY is zero and FN is zero. -/
def ty0fn0 (b : Base) : Bool := b.ty == .i8 && b.fn == 0
/-- TY is zero; FN is not used. -/
def ty0 (b : Base) : Bool := b.ty == .i8
/-- TY 0 to 7 with FN 000. -/
def intFn0 (b : Base) : Bool := b.ty.isInt && b.fn == 0
/-- TY 0 to 7 with FN 000 or 001, or a packed integer pair (07 R160, "I+P" with "sat"). -/
def intSatPack (b : Base) : Bool :=
  (b.ty.isInt && b.fn.toNat ≤ 1) || (b.ty == .pair && (b.fn == 2 || b.fn == 3))
/-- TY 0 to 7 with FN 000, or a packed integer pair. -/
def intPack (b : Base) : Bool :=
  (b.ty.isInt && b.fn == 0) || (b.ty == .pair && (b.fn == 2 || b.fn == 3))
/-- FN is a rounding mode 000 to 011 (05 R119). -/
def fnMode (b : Base) : Bool := b.fn.toNat ≤ 3
/-- FN is a rounding mode, stochastic included. -/
def fnModeRs (b : Base) : Bool := b.fn.toNat ≤ 3 || b.fn == 5
/-- TY is f32, f16 or bf16. -/
def tyF (b : Base) : Bool := b.ty == .f32 || b.ty == .f16 || b.ty == .bf16
/-- TY 8, 9 or 10 with a rounding mode, or a packed floating pair (07 R167, "F+P"). -/
def floatMode (b : Base) : Bool :=
  (tyF b && b.fn.toNat ≤ 3) || (b.ty == .pair && b.fn.toNat ≤ 1)
/-- TY 8, 9 or 10 with FN 000, or a packed floating pair. -/
def floatPack (b : Base) : Bool :=
  (tyF b && b.fn == 0) || (b.ty == .pair && b.fn.toNat ≤ 1)
/-- TY 2, 3, 6 or 7. -/
def ty3264 (b : Base) : Bool := b.ty.is3264
/-- The types of a load or store and the element counts they allow (08 R185, R186). -/
def memTy (b : Base) : Bool :=
  b.ty != .e2m1 && b.ty != .df4 &&
    (match b.vecCode with
     | 1 => b.ty.is3264 || b.ty == .f32
     | 2 => b.ty == .i32 || b.ty == .n32 || b.ty == .f32
     | _ => true)
/-- The literal in the position lies in `0 .. hi`. -/
def litIn (lay : Layout) (i : Nat) (hi : Nat) (b : Base) : Bool :=
  (b.litWord lay i (b.src i)).toNat ≤ hi
/-- MOD and SCALE are zero: a control transfer, or an access that names neither. -/
def onlyOffset (b : Base) : Bool := b.mod == 0 && b.scaleCode == 0
/-- MOD holds VEC alone, and VEC is not reserved (08 R185). -/
def modVec (b : Base) : Bool := b.mod.extractLsb' 2 4 == 0 && b.vecCode != 3
/-- MOD holds the scope of an atomic alone, MOD[30:28], at most 4 (08 R198). -/
def modScope (b : Base) : Bool :=
  b.mod.extractLsb' 0 2 == 0 && b.mod.extractLsb' 5 1 == 0 && (b.mod.extractLsb' 2 3).toNat ≤ 4
/-- Registers per element of the type (05 R107). -/
def Ty.regs (t : Ty) : Nat := if t.is64 then 2 else 1
/-- The first register of a vector access is a multiple of the register count (08 R185). -/
def vecDstOk (b : Base) : Bool := b.dst.toNat % (b.vecCount * b.ty.regs) == 0
/-- The datum of a vector store is a register run; with VEC nonzero it is no constant or literal. -/
def vecDatumOk (b : Base) : Bool :=
  (b.vecCode == 0 || b.c.kind == .vec || b.c.kind == .scl) &&
    ((b.c.kind != .vec && b.c.kind != .scl) || b.c.field.toNat % (b.vecCount * b.ty.regs) == 0)
/-- A barrier code of E2[4:0]: B0 to B15, T0 to T3 or none (08 R194). -/
def barOk (b : Base) : Bool :=
  let v := (b.e2.extractLsb' 0 5).toNat
  v ≤ 19 || v == 31
/-- E2[10:0] is a length of 1 to 1,024 units and the rest is zero (08 R192). -/
def tileLenOk (b : Base) : Bool := b.e2.extractLsb' 11 21 == 0
/-- The class operand words are zero. -/
def wordsZero (b : Base) : Bool := b.e1 == 0 && b.e2 == 0
/-- E1 is zero. -/
def e1Zero (b : Base) : Bool := b.e1 == 0
/-- RDSR's index, and what its register needs of the destination (05 R110). -/
def rdsrOk (b : Base) : Bool :=
  let i := (b.litWord .ext 0 b.a).toNat
  i ≤ 11 && !((i == 8 || i == 9) && b.dst.toNat % 2 == 1)
/-- FN = 101 is allowed on CVT only when it narrows or goes from floating to integer (07 R173). -/
def cvtTyFn (b : Base) : Bool :=
  let st := Ty.ofCode (b.e1.extractLsb' 28 4)
  let ok := fun (t : Ty) => t != .df4 && t != .pair
  ok b.ty && ok st && b.ty != st &&
    (b.fn.toNat ≤ 3 || (b.fn == 5 && (b.ty.bits < st.bits || (b.ty.isInt && st.isFloat))))

/-! ### The forms, in the order of the opcode map (05 R127) -/

section Shapes
open SrcRule

/-- A D, A, B instruction of the types TY names. -/
def shape2 (opc : BitVec 8) (ok : Base → Bool) : Form :=
  { opc := opc, tyFn := ok, dst := .both .ty, a := any .ty, b := any .ty }
/-- A D, A instruction. -/
def shape1 (opc : BitVec 8) (ok : Base → Bool) : Form :=
  { opc := opc, tyFn := ok, dst := .both .ty, a := any .ty }
/-- A D, A, B, C instruction. -/
def shape3 (opc : BitVec 8) (ok : Base → Bool) : Form :=
  { opc := opc, tyFn := ok, dst := .both .ty, a := any .ty, b := any .ty, c := any .ty }
/-- A special function of f32 (07 R170). -/
def shapeSfu (opc : BitVec 8) : Form :=
  { opc := opc, tyFn := fun b => b.ty == .f32 && b.fn == 0, dst := .both .ty, a := any .ty,
    flagged := true }
/-- A load to registers (08 R189): address from A and B. -/
def shapeLoad (opc : BitVec 8) (at_ : OpTy) : Form :=
  { opc := opc, layout := .cls, tyFn := memTy, fnUsed := false, dst := .both .ty,
    a := any at_, b := any .i32, resOk := modVec, opOk := vecDstOk, flagged := true }
/-- A store (08 R189): address from A and B, datum C. -/
def shapeStore (opc : BitVec 8) (at_ : OpTy) : Form :=
  { opc := opc, layout := .cls, tyFn := memTy, fnUsed := false,
    a := any at_, b := any .i32, c := any .ty, resOk := modVec, opOk := vecDatumOk }
/-- A control transfer or loop with OFFSET in E1 (07 R155). -/
def shapeBranch (opc : BitVec 8) : Form :=
  { opc := opc, minLen := .w96, layout := .cls, tyUsed := false, fnUsed := false,
    resOk := onlyOffset }
/-- A barrier instruction: barrier number in SA, a number in B (08 R202). -/
def shapeBar (opc : BitVec 8) : Form :=
  { opc := opc, tyFn := ty0, fnUsed := false, a := lit1, b := sc .n32, opOk := litIn .ext 0 19 }
/-- A cross-lane instruction (07 R153). -/
def Form.cross (f : Form) : Form := { f with crossLane := fun _ => true, vecWithScl := true }
/-- A row that an FN value selects. -/
def Form.sel (f : Form) (v : BitVec 3) : Form := { f with fnSel := some v }
/-- A CCTL row (08 R196). -/
def shapeCctl (v : BitVec 3) (res : Base → Bool) : Form :=
  { opc := 0xAD, fnSel := some v, minLen := .w96, layout := .cls, tyFn := fun b => b.ty == .i8,
    a := sc .i64, b := sc .n32, resOk := res }
/-- A RAND row (07 R177). -/
def shapeRand (v : BitVec 3) : Form := { opc := 0x87, fnSel := some v, tyFn := fun b => b.ty == .i8 }
/-- An LBND row (09 R214). -/
def shapeLbnd (v : BitVec 3) : Form :=
  { opc := 0xF0, fnSel := some v, tyUsed := false, unguarded := true }
/-- A LARI row (09 R220). -/
def shapeLari (row : BitVec 3) (bUsed cUsed : Bool) : Form :=
  { opc := 0xF1, fnSel := some row, tyFn := fun b => b.ty == .i32 || b.ty == .n32,
    dst := .vec .ty, a := SrcRule.v .n32, b := if bUsed then any .ty else unused,
    c := if cUsed then lit1 else unused, opOk := fun b => !cUsed || litIn .ext 2 7 b,
    flagged := true }
/-- A TLBI row (14 R329). -/
def shapeTlbi (f : BitVec 3) (b0 : Bool) : Form :=
  { opc := 0xF9, fnSel := some f, tyFn := fun b => b.ty == .i8, a := lit1,
    b := if b0 then lit1 else s_c .n64, c := sc .n32,
    opOk := fun b => litIn .ext 0 3 b && (!b0 || (b.litWord .ext 1 b.b) == 0) }
/-- A sequence instruction on a descriptor in A (11 R262). -/
def shapeSeq (opc : BitVec 8) (d : DstRule) (a b c : SrcRule) (flag : Bool) : Form :=
  { opc := opc, layout := .word, tyFn := fun b => b.ty == .n32 && b.fn == 0, dst := d, a := a,
    b := b, c := c, resOk := wordsZero, flagged := flag }
/-- A camp instruction (10 R241). -/
def shapeCamp (opc : BitVec 8) (len : Len) (ok : Base → Bool) : Form :=
  { opc := opc, minLen := len, layout := .word, tyFn := ok }

/-- A predicate operand in SC: an inline literal 0 to 7 (09 R220). -/
def predC (b : Base) : Bool := litIn .ext 2 7 b

/-- The form of an encoded instruction; `none` for CLH, BKPT and the events, which have none. The lengths of LDV and STTA outside 1 to 1,024 take ILLEGAL_OPERAND at
decode, a cause that 08 R192 does not name: the model's choice (assumption log 107). -/
def Instr.form : Instr → Option Form
  | .nop _ => some { opc := 0x00, tyUsed := false, fnUsed := false }
  | .yield _ => some { opc := 0x03, tyUsed := false, fnUsed := false }
  | .repeatx _ => some { shapeBranch 0x04 with a := any .n32 }
  | .bra _ => some (shapeBranch 0x08)
  | .brau _ => some (shapeBranch 0x09)
  | .brx _ => some { opc := 0x0A, tyUsed := false, fnUsed := false, a := vsc .n64 }
  | .call _ => some (shapeBranch 0x0B)
  | .callx _ => some { opc := 0x0C, tyUsed := false, fnUsed := false, a := vsc .n64 }
  | .ret _ => some { opc := 0x0D, tyUsed := false, fnUsed := false }
  | .exit _ => some { opc := 0x0E, tyUsed := false, fnUsed := false }
  | .brc _ => some { shapeBranch 0x10 with a := s .n32, unguarded := true }
  | .add _ => some (shape2 0x20 intSatPack)
  | .sub _ => some (shape2 0x21 intSatPack)
  | .mul _ => some (shape2 0x22 intFn0)
  | .mulh _ => some (shape2 0x23 intFn0)
  | .mad _ => some (shape3 0x24 intFn0)
  | .madw _ => some { shape3 0x25 (fun b => (b.ty == .i32 || b.ty == .n32) && b.fn == 0) with
      dst := .both .madw, c := any .madw }
  | .div _ => some (shape2 0x26 intFn0)
  | .rem _ => some (shape2 0x27 intFn0)
  | .min _ => some (shape2 0x28 intPack)
  | .max _ => some (shape2 0x29 intPack)
  | .abs _ => some (shape1 0x2A (fun b => (b.ty.isSigned && b.fn.toNat ≤ 1) ||
      (b.ty == .pair && b.fn == 2)))
  | .neg _ => some (shape1 0x2B intSatPack)
  | .and _ => some (shape2 0x2C intFn0)
  | .or _ => some (shape2 0x2D intFn0)
  | .xor _ => some (shape2 0x2E intFn0)
  | .not _ => some (shape1 0x2F intFn0)
  | .shl _ => some { shape2 0x30 intFn0 with b := any .n32 }
  | .shr _ => some { shape2 0x31 intFn0 with b := any .n32 }
  | .rot _ => some (shape2 0x32 (fun b => b.ty.isInt && b.fn.toNat ≤ 1))
  | .fshf _ => some (shape3 0x33 (fun b => ty3264 b && b.fn.toNat ≤ 1))
  | .popc _ => some { shape1 0x34 intFn0 with dst := .both .n32 }
  | .clz _ => some { shape1 0x35 intFn0 with dst := .both .n32 }
  | .brev _ => some (shape1 0x36 intFn0)
  | .bfe _ => some { shape2 0x37 intFn0 with b := any .n32 }
  | .bfi _ => some { shape3 0x38 intFn0 with c := any .n32 }
  | .lop3 _ => some { shape2 0x39 (fun b => (b.ty == .n32 || b.ty == .n64) && b.fn == 0) with
      c := lit1, opOk := fun b => (b.extOf .ext 2).isNone || litIn .ext 2 255 b }
  | .sel _ => some { shape2 0x3A intFn0 with c := lit1, opOk := predC }
  | .isetp _ => some {
      opc := 0x3B, tyFn := fun b => b.ty.isInt && b.fn.toNat ≤ 5, dst := .predScl,
      a := any .ty, b := any .ty, crossLane := (· == .scl), vecWithScl := true }
  | .iset _ => some { shape2 0x3C (fun b => b.ty.isInt && b.fn.toNat ≤ 5) with dst := .both .n32 }
  | .addx _ => some { shape2 0x3D ty3264 with c := lit1, opOk := predC }
  | .subx _ => some { shape2 0x3E ty3264 with c := lit1, opOk := predC }
  | .lea _ => some { shape2 0x3F (fun b => (b.ty == .i32 || b.ty == .n32) && b.fn == 0) with
      dst := .both .n64, a := any .n64, c := lit1, opOk := predC }
  | .mov _ => some (shape1 0x41 (fun b => b.ty != .df4 && b.fn == 0))
  | .movi _ => some (shape2 0x42 (fun b => ty3264 b && b.fn == 0))
  | .plop b => some {
      opc := 0x44, tyFn := ty0, dst := .pred, a := lit1, b := if 6 ≤ b.fn.toNat then unused else lit1,
      opOk := fun b => litIn .ext 0 7 b && (decide (6 ≤ b.fn.toNat) || litIn .ext 1 7 b) }
  | .p2v _ => some { opc := 0x45, tyUsed := false, fnUsed := false, dst := .vec .n32 }
  | .v2p _ => some { opc := 0x46, tyFn := ty0, fnUsed := false, a := any .n32, b := lit1 }
  | .dp4a _ => some (shape3 0x47 (fun b => (b.ty == .i32 || b.ty == .n32) && b.fn == 0))
  | .sad _ => some (shape3 0x48 (fun b => b.ty == .n32 && b.fn == 0))
  | .fadd _ => some (shape2 0x50 floatMode)
  | .fsub _ => some (shape2 0x51 floatMode)
  | .fmul _ => some (shape2 0x52 floatMode)
  | .ffma _ => some (shape3 0x53 floatMode)
  | .fmin _ => some (shape2 0x54 floatPack)
  | .fmax _ => some (shape2 0x55 floatPack)
  | .fabs _ => some (shape1 0x56 floatPack)
  | .fneg _ => some (shape1 0x57 floatPack)
  | .fsetp _ => some {
      opc := 0x58, tyFn := tyF, dst := .predScl, a := any .ty, b := any .ty,
      crossLane := (· == .scl), vecWithScl := true }
  | .fset _ => some { shape2 0x59 tyF with dst := .both .f32 }
  | .fclass _ => some { shape1 0x5A (fun b => tyF b && b.fn == 0) with dst := .both .n32 }
  | .frcp _ => some (shapeSfu 0x5B)
  | .frsq _ => some (shapeSfu 0x5C)
  | .fsqrt _ => some (shapeSfu 0x5D)
  | .fdiv _ => some { shapeSfu 0x5E with b := any .ty }
  | .fex2 _ => some (shapeSfu 0x5F)
  | .flg2 _ => some (shapeSfu 0x60)
  | .fsin _ => some (shapeSfu 0x61)
  | .fcos _ => some (shapeSfu 0x62)
  | .ftanh _ => some (shapeSfu 0x63)
  | .frnd _ => some (shape1 0x65 (fun b => tyF b && b.fn.toNat ≤ 3))
  | .fscl _ => some { shape2 0x66 (fun b => tyF b && b.fn.toNat ≤ 3) with b := any .i32 }
  | .ffrx _ => some (shape1 0x67 (fun b => tyF b && b.fn.toNat ≤ 1))
  | .fdot2 _ => some { shape3 0x68 (fun b => b.ty == .pair && b.fn.toNat ≤ 1) with
      dst := .both .f32, c := any .f32 }
  | .cvt _ => some {
      opc := 0x80, minLen := .w96, layout := .cvt, tyFn := cvtTyFn, dst := .both .ty,
      a := any .cvtSrc }
  | .pack b => some {
      opc := 0x81, tyFn := fun b => fnModeRs b &&
        (b.ty == .f16 || b.ty == .bf16 || b.ty == .e4m3 || b.ty == .e5m2),
      dst := .both .n32, a := any .f32, b := any .f32, c := if b.ty == .f16 || b.ty == .bf16 then unused else any .n32 }
  | .unpk _ => some {
      opc := 0x82, fnUsed := false, tyFn := fun b =>
        (b.ty == .i8 || b.ty == .i16 || b.ty == .n8 || b.ty == .n16 || b.ty.isFloat && b.ty != .f32),
      dst := .both .n32, a := any .n32, b := lit1, opOk := fun b => litIn .ext 1 (32 / b.ty.bits - 1) b }
  | .qnt _ => some {
      opc := 0x83, tyFn := fun b => b.ty == .e2m1 && fnModeRs b, dst := .both .n64,
      a := any .f32, flagged := true }
  | .dqnt _ => some {
      opc := 0x84, tyFn := fun b => b.ty == .e2m1 && b.fn == 0, dst := .both .f32,
      a := any .n64 }
  | .sclc _ => some {
      opc := 0x85, tyFn := fun b => b.ty == .f32 && b.fn == 0, dst := .both .n32,
      a := any .f32 }
  | .randNext _ => some { shapeRand 0 with dst := .both .n32 }
  | .randBlk _ => some { shapeRand 1 with dst := .both .n32, opOk := fun b => b.dst.toNat % 4 == 0 }
  | .randRdpos _ => some { shapeRand 2 with dst := .both .n64 }
  | .randWrpos _ => some { shapeRand 3 with a := any .n64 }
  | .randSkip _ => some { shapeRand 4 with a := any .n32 }
  | .randWrkey _ => some { shapeRand 5 with a := sc .n64 }
  | .shfl _ => some (Form.cross { shape2 0x90 (fun b => ty3264 b && b.fn.toNat ≤ 3) with
      dst := .vec .ty, b := any .n32 })
  | .vote b => some (Form.cross {
      opc := 0x91, tyFn := fun b => b.ty == .i8 && b.fn.toNat ≤ 3, dst := if b.fn == 3 then .both .n32 else .pred,
      a := lit1, opOk := litIn .ext 0 7 })
  | .redux _ => some (Form.cross { shape1 0x92 (fun b => ty3264 b && b.fn.toNat ≤ 5) with flagged := true })
  | .fredx _ => some (Form.cross { shape1 0x93 (fun b => b.ty == .f32 && b.fn.toNat ≤ 2) with flagged := true })
  | .scanx _ => some (Form.cross { shape1 0x94 (fun b => ty3264 b && b.fn.toNat ≤ 3) with
      dst := .vec .ty, flagged := true })
  | .matchx _ => some (Form.cross { shape1 0x95 ty3264 with dst := .vec .n32, fnUsed := false })
  | .rdsr _ => some { opc := 0x96, tyFn := ty0, fnUsed := false, dst := .both .n32, a := lit1, opOk := rdsrOk }
  | .elect _ => some (Form.cross { opc := 0x97, tyFn := ty0, fnUsed := false, dst := .predScl })
  | .bcast _ => some (Form.cross { shape2 0x99 ty3264 with b := sc .n32, fnUsed := false })
  | .ld _ => some (shapeLoad 0xA0 .i64)
  | .st _ => some (shapeStore 0xA1 .i64)
  | .lds _ => some (shapeLoad 0xA2 .n32)
  | .sts _ => some (shapeStore 0xA3 .n32)
  | .ldc _ => some (shapeLoad 0xA4 .n32)
  | .ldf _ => some (shapeLoad 0xA5 .i64)
  | .stf _ => some (shapeStore 0xA6 .i64)
  | .ldv _ => some {
      opc := 0xA7, minLen := .w128, layout := .word,
      tyFn := fun b => b.ty == .n32, fnUsed := false, dst := .scl .n32, a := sc .i64, c := sc .n32,
      resOk := fun b => onlyOffset b && tileLenOk b,
      opOk := fun b => let n := (b.e2.extractLsb' 0 11).toNat; 1 ≤ n && n ≤ 1024, flagged := true }
  | .stta _ => some {
      opc := 0xA8, minLen := .w128, layout := .word,
      tyFn := fun b => b.ty == .n32, fnUsed := false, a := sc .i64, b := sc .n32, c := sc .n32,
      resOk := fun b => onlyOffset b && tileLenOk b,
      opOk := fun b => let n := (b.e2.extractLsb' 0 11).toNat; 1 ≤ n && n ≤ 1024 }
  | .gth _ => some {
      opc := 0xA9, minLen := .w128, layout := .word, tyFn := ty0, fnUsed := false,
      a := any .i64, b := any .i32, c := sc .n32,
      resOk := fun b => b.mod == 0 && b.e2.extractLsb' 8 8 == 0 &&
        (b.e2.extractLsb' 5 3).toNat ≤ 4 && barOk b }
  | .sct _ => some {
      opc := 0xAA, minLen := .w128, layout := .word, tyFn := ty0, fnUsed := false,
      a := any .i64, b := any .i32, c := sc .n32,
      resOk := fun b => b.mod == 0 && b.e2.extractLsb' 8 8 == 0 &&
        (b.e2.extractLsb' 5 3).toNat ≤ 4 && barOk b }
  | .pft _ => some {
      opc := 0xAB, layout := .cls, tyFn := fun b => b.ty == .i8 && b.fn.toNat ≤ 1,
      a := any .i64, b := any .i32, resOk := fun b => b.mod == 0 }
  | .ldl _ => some { shapeLoad 0xAC .n32 with fnUsed := true, fnSel := some 0 }
  | .stl _ => some { shapeStore 0xAC .n32 with fnUsed := true, fnSel := some 1 }
  | .cctlPub _ => some (shapeCctl 0 onlyOffset)
  | .cctlWb _ => some (shapeCctl 1 onlyOffset)
  | .cctlInv _ => some (shapeCctl 2 onlyOffset)
  | .cctlIinv _ => some (shapeCctl 3 (fun b => b.mod.extractLsb' 2 4 == 0 && b.scaleCode == 0))
  | .sqld _ => some { shapeLoad 0xAE .i64 with
      minLen := .w96, a := any .i64, b := any .n32,
      resOk := fun b => modVec b && b.scaleCode == 0 }
  | .atom _ => some {
      opc := 0xC0, layout := .cls, dst := .both .ty, a := any .i64, b := any .i32,
      c := any .ty, resOk := modScope, flagged := true,
      tyFn := fun b => b.fn != 7 && (ty3264 b || (b.ty == .f32 && (b.fn.toNat ≤ 2 || b.fn == 6))) }
  | .atomc _ => some {
      opc := 0xC1, layout := .cls, dst := .both .ty, a := any .i64, b := any .ty,
      c := any .ty, resOk := fun b => modScope b && b.scaleCode == 0, flagged := true,
      fnUsed := false, tyFn := fun b => b.ty == .n32 || b.ty == .n64 }
  | .red _ => some {
      opc := 0xC2, layout := .cls, a := any .i64, b := any .i32, c := any .ty,
      resOk := modScope,
      tyFn := fun b => b.fn.toNat ≤ 5 && (ty3264 b || (b.ty == .f32 && b.fn.toNat ≤ 2)) }
  | .atoms b => some {
      opc := 0xC3, layout := .cls, dst := .both .ty, a := any .n32,
      b := any (if b.fn == 7 then .ty else .i32), c := any .ty, flagged := true,
      resOk := fun b => b.mod == 0 && (b.fn != 7 || b.scaleCode == 0),
      tyFn := fun b => ty3264 b || (b.ty == .f32 && (b.fn.toNat ≤ 2 || b.fn == 6)) }
  | .fence _ => some {
      opc := 0xC4, tyFn := fun b => b.ty == .i8 && b.fn.toNat ≤ 2, a := lit1,
      opOk := litIn .ext 0 4 }
  | .phase _ => some { opc := 0xC5, fnSel := some 0, tyFn := fun b => b.ty == .i8, unguarded := true }
  | .phaseTeam _ => some { opc := 0xC5, fnSel := some 1, tyFn := fun b => b.ty == .i8, unguarded := true }
  | .bara _ => some { shapeBar 0xC6 with b := unused, unguarded := true }
  | .bwait _ => some (shapeBar 0xC7)
  | .binit _ => some (shapeBar 0xC8)
  | .cwait _ => some { opc := 0xC9, tyFn := ty0, fnUsed := false, a := lit1, b := sc .n32, opOk := litIn .ext 0 5 }
  | .qlock _ => some {
      opc := 0xCA, layout := .cls, tyFn := fun b => b.ty == .n64, fnUsed := false,
      a := any .i64, b := any .i32, resOk := fun b => b.mod == 0 }
  | .qunlk _ => some {
      opc := 0xCB, layout := .cls, tyFn := fun b => b.ty == .n64, fnUsed := false,
      a := any .i64, b := any .i32, resOk := fun b => b.mod == 0 }
  | .wwait _ => some {
      opc := 0xCC, layout := .cls, dst := .both .ty, a := any .i64, b := any .i32,
      c := any .ty, resOk := fun b => b.mod == 0,
      fnUsed := false, tyFn := fun b => b.ty == .n32 || b.ty == .n64 }
  | .wwake _ => some {
      opc := 0xCD, layout := .cls, a := any .i64, b := any .i32,
      c := any .n32, resOk := fun b => b.mod == 0,
      fnUsed := false, tyFn := fun b => b.ty == .n32 || b.ty == .n64 }
  | .bexp _ => some (shapeBar 0xCE)
  | .cpy _ => some {
      opc := 0xD0, minLen := .w128, layout := .word, tyFn := ty0, fnUsed := false, a := sc .n64,
      b := sc .n64, c := sc .n32, resOk := fun b => e1Zero b && b.e2.extractLsb' 6 26 == 0 && barOk b }
  | .spop _ => some { opc := 0xD2, tyFn := ty0, fnUsed := false, dst := .both .n32, a := lit1, opOk := litIn .ext 0 3 }
  | .spsh _ => some { opc := 0xD3, tyFn := ty0, fnUsed := false, a := lit1, b := v .n32, opOk := litIn .ext 0 3 }
  | .sqry _ => some { opc := 0xD4, tyFn := ty0, fnUsed := false, dst := .both .n32, a := lit1, opOk := litIn .ext 0 3 }
  | .apnd _ => some {
      opc := 0xD5, minLen := .w128, layout := .word, tyFn := ty0fn0, dst := .scl .n32,
      a := s_c .n64, b := s_c .n64, c := sc .n32,
      resOk := fun b => e1Zero b && b.e2.extractLsb' 17 15 == 0 }
  | .afnc _ => some { opc := 0xD6, layout := .ext, tyFn := ty0fn0, a := s_c .n64 }
  | .coll _ => some {
      opc := 0xD7, minLen := .w128, layout := .word, tyFn := fun b => b.fn == 0, tyUsed := false, a := sc .n32,
      resOk := fun b => e1Zero b && b.e2.extractLsb' 6 26 == 0 && barOk b }
  | .rblkSeq _ => some {
      opc := 0xD8, fnSel := some 0, minLen := .w128, layout := .word,
      tyFn := fun b => b.ty == .i8, a := s_c .n64, b := sc .n32, c := s_c .n64,
      resOk := fun b => e1Zero b && b.e2.extractLsb' 5 27 == 0 && barOk b }
  | .rblkGet _ => some {
      opc := 0xD8, fnSel := some 1, minLen := .w128, layout := .word,
      tyFn := fun b => b.ty == .i8, a := s_c .n64, b := s_c .n64, c := sc .n32,
      resOk := fun b => e1Zero b && b.e2.extractLsb' 15 17 == 0 && barOk b }
  | .rblkPut _ => some {
      opc := 0xD8, fnSel := some 2, minLen := .w128, layout := .word,
      tyFn := fun b => b.ty == .i8, a := s_c .n64, b := s_c .n64, c := sc .n32,
      resOk := fun b => e1Zero b && b.e2.extractLsb' 15 17 == 0 && barOk b }
  | .prdl _ => some { opc := 0xD9, minLen := .w96, tyUsed := false, fnUsed := false, a := lit1, b := sc .n32 }
  | .dqpsh _ => some { opc := 0xDA, tyFn := ty0, fnUsed := false, a := sc .n64 }
  | .dqpop _ => some { opc := 0xDB, tyFn := ty0, fnUsed := false, dst := .both .n64 }
  | .oclm _ => some { shapeCamp 0xE0 .w128 (fun b => b.fn == 0 &&
        (b.ty == .i8 || b.ty == .n8 || b.ty.isFloat || b.ty == .df4)) with
      dst := .scl .n32, a := sc .n32, b := sc .n32, c := sc .n32, resOk := e1Zero }
  | .orel _ => some { shapeCamp 0xE1 .w64 ty0fn0 with a := sc .n32, resOk := wordsZero }
  | .old _ => some { shapeCamp 0xE2 .w128 ty0fn0 with
      a := sc .n32, b := sc .n32, c := sc .n32,
      resOk := fun b => e1Zero b && b.e2.extractLsb' 5 11 == 0 && b.e2.extractLsb' 27 5 == 0 && barOk b }
  | .mma _ => some { shapeCamp 0xE3 .w128 (fun b => b.ty == .i8 && b.fn.toNat ≤ 1) with
      a := sc .n32, b := sc .n32, c := sc .n32,
      resOk := fun b => e1Zero b && b.e2.extractLsb' 9 23 == 0 }
  | .aclm _ => some { shapeCamp 0xE4 .w64 (fun b => b.ty == .f32 || b.ty == .i32) with
      fnSel := some 0, dst := .scl .n32, a := sc .n32, resOk := wordsZero }
  | .arel _ => some { shapeCamp 0xE4 .w64 (fun b => b.ty == .i8) with
      fnSel := some 1, a := sc .n32, resOk := wordsZero }
  | .acrd b => some { shapeCamp 0xE5 .w128 (fun b =>
        if b.e2.getLsbD 14 then (b.ty == .f16 || b.ty == .bf16) && b.fn.toNat ≤ 3 ||
          (b.ty == .f32 || b.ty == .i32) && b.fn == 0
        else (b.ty == .f32 || b.ty == .i32) && b.fn == 0) with
      dst := if b.e2.getLsbD 14 then .none else .vec .ty, a := sc .n32, b := sc .n32,
      resOk := fun b => if b.e2.getLsbD 14 then onlyOffset b && b.e2.extractLsb' 15 17 == 0
        else wordsZero b }
  | .acwr b => some { shapeCamp 0xE6 .w128 (fun b => (b.ty == .f32 || b.ty == .i32) && b.fn == 0) with
      a := sc .n32, b := sc .n32, c := if b.e2.getLsbD 14 then unused else v .ty,
      resOk := fun b => if b.e2.getLsbD 14 then onlyOffset b && b.e2.extractLsb' 15 17 == 0
        else wordsZero b }
  | .attn _ => some { shapeCamp 0xE7 .w128 (fun b => b.ty == .i8) with
      fnSel := some 0,
      a := s_c .n64, b := sc .n32, c := sc .n32,
      resOk := fun b => e1Zero b && b.e2.extractLsb' 6 26 == 0 && b.e2.extractLsb' 0 5 == 0 }
  | .attnf _ => some { shapeCamp 0xE7 .w128 (fun b => b.ty == .i8) with
      fnSel := some 1,
      c := sc .n32, resOk := wordsZero }
  | .sqnew _ => some { shapeSeq 0xE8 .none (s_c .n64) (sc .n32) unused false with
      minLen := .w128, tyFn := ty0fn0 }
  | .sqrsv _ => some (shapeSeq 0xE9 (.both .n32) (vsc .n64) (any .n32) unused true)
  | .sqstPlain _ => some { shapeSeq 0xEA .none (vsc .n64) (any .n32) (any .n32) false with
      fnSel := some 0, minLen := .w128, tyFn := fun b => b.ty == .i8,
      resOk := fun b => onlyOffset b && b.e2.extractLsb' 13 19 == 0 }
  | .sqstRotary _ => some { shapeSeq 0xEA .none (vsc .n64) (any .n32) (any .n32) false with
      fnSel := some 1, minLen := .w128, tyFn := fun b => b.ty == .i8,
      resOk := fun b => onlyOffset b && b.e2.extractLsb' 13 19 == 0 }
  | .sqcmt _ => some (shapeSeq 0xEB (.both .n32) (vsc .n64) (any .n32) (any .n32) false)
  | .sqabn _ => some (shapeSeq 0xEC (.both .n32) (vsc .n64) (any .n32) (any .n32) false)
  | .sqfrk _ => some (shapeSeq 0xED (.scl .n32) (s_c .n64) (s_c .n64) (sc .n32) false)
  | .sqlen _ => some { shapeSeq 0xEE (.both .n32) (vsc .n64) unused unused true with
      tyFn := fun b => b.ty == .n32 && b.fn.toNat ≤ 2 }
  | .sqfre _ => some (shapeSeq 0xEF (.scl .n32) (s_c .n64) unused unused false)
  | .lbndOn _ => some { shapeLbnd 0 with
      a := lit1, opOk := fun b =>
      let n := (b.litWord .ext 0 b.a).toNat; n == 2 || n == 4 || n == 8 || n == 16 || n == 32 }
  | .lbndOff _ => some (shapeLbnd 1)
  | .lbndClr _ => some (shapeLbnd 2)
  | .lariAdd _ => some (shapeLari 0 true true)
  | .lariSub _ => some (shapeLari 1 true true)
  | .lariNeg _ => some (shapeLari 2 false true)
  | .lariCmp _ => some { shapeLari 3 true true with dst := .pred }
  | .lariAddt _ => some (shapeLari 4 true true)
  | .lariLacc _ => some { shapeLari 5 false false with tyFn := fun b => b.ty == .f32 }
  | .lariLnrm _ => some { shapeLari 6 false false with tyFn := fun b => b.ty == .f32 }
  | .lshf _ => some {
      opc := 0xF2, tyFn := fun b => (b.ty == .i32 || b.ty == .n32) && b.fn.toNat ≤ 1,
      dst := .vec .ty, a := v .n32, b := any .n32, c := lit1, opOk := predC, flagged := true }
  | .lmul _ => some {
      opc := 0xF3, tyFn := fun b => b.ty == .n32 && b.fn == 0, dst := .vec .ty,
      a := v .n32, b := any .n32, c := vl .n32, flagged := true,
      opOk := fun b => b.dst.toNat ≤ 126 && (b.c.kind != .lit || litIn .ext 2 0 b) }
  | .sysc _ => some { opc := 0xF4, tyFn := ty0fn0, a := any .n32 }
  | .eret _ => some { opc := 0xF5, tyFn := ty0fn0 }
  | .rdpr _ => some {
      opc := 0xF6, tyFn := fun b => b.ty == .n64 && b.fn == 0, dst := .both .n64,
      a := sc .n32 }
  | .wrpr _ => some {
      opc := 0xF7, tyFn := fun b => b.ty == .n64 && b.fn == 0, a := sc .n32,
      b := any .n64 }
  | .hvc _ => some { opc := 0xF8, tyFn := ty0fn0, a := any .n32 }
  | .tlbiPage _ => some (shapeTlbi 0 false)
  | .tlbiSpace _ => some (shapeTlbi 1 true)
  | .tlbiPartition _ => some (shapeTlbi 2 true)
  | .tlbiStage2 _ => some (shapeTlbi 3 false)
  | .launch b => some {
      opc := 0xFA, minLen := .w128, layout := .word, tyFn := ty0fn0,
      dst := .scl .n32, a := s_c .n64, b := sc (if b.e2.getLsbD 0 then .n64 else .n32),
      resOk := fun b => e1Zero b && b.e2.extractLsb' 1 31 == 0 }
  | .trace _ => some {
      opc := 0xFB, tyUsed := false, tyFn := fn0, a := sc .n32, b := s .n32,
      opOk := fun b => b.b.field.toNat % 2 == 0 && b.b.field.toNat ≤ 56 }
  | _ => none

end Shapes

/-- The common fields of an encoded instruction; `none` for CLH, BKPT and the events. -/
def Instr.baseOf : Instr → Option Base
  | .nop b | .yield b | .repeatx b | .bra b | .brau b | .brx b | .brc b | .call b | .callx b
  | .ret b | .exit b | .add b | .sub b | .mul b | .mulh b | .mad b | .madw b | .div b | .rem b
  | .min b | .max b | .abs b | .neg b | .and b | .or b | .xor b | .not b | .shl b | .shr b
  | .rot b | .fshf b | .popc b | .clz b | .brev b | .bfe b | .bfi b | .lop3 b | .sel b | .isetp b
  | .iset b | .addx b | .subx b | .lea b | .mov b | .movi b | .plop b | .p2v b | .v2p b | .dp4a b
  | .sad b | .fadd b | .fsub b | .fmul b | .ffma b | .fmin b | .fmax b | .fabs b | .fneg b
  | .fsetp b | .fset b | .fclass b | .frcp b | .frsq b | .fsqrt b | .fdiv b | .fex2 b | .flg2 b
  | .fsin b | .fcos b | .ftanh b | .frnd b | .fscl b | .ffrx b | .fdot2 b | .cvt b | .pack b
  | .unpk b | .qnt b | .dqnt b | .sclc b | .randNext b | .randBlk b | .randRdpos b | .randWrpos b
  | .randSkip b | .randWrkey b | .shfl b | .vote b | .redux b | .fredx b | .scanx b | .matchx b
  | .rdsr b | .elect b | .bcast b | .ld b | .st b | .lds b | .sts b | .ldc b | .ldf b | .stf b
  | .ldv b | .stta b | .gth b | .sct b | .pft b | .ldl b | .stl b | .cctlPub b | .cctlWb b
  | .cctlInv b | .cctlIinv b | .sqld b | .atom b | .atomc b | .red b | .atoms b | .fence b
  | .phase b | .phaseTeam b | .bara b | .bwait b | .binit b | .bexp b | .cwait b | .qlock b
  | .qunlk b | .wwait b | .wwake b | .cpy b | .spop b | .spsh b | .sqry b | .apnd b | .afnc b
  | .coll b | .rblkSeq b | .rblkGet b | .rblkPut b | .prdl b | .dqpsh b | .dqpop b | .oclm b
  | .orel b | .old b | .mma b | .aclm b | .arel b | .acrd b | .acwr b | .attn b | .attnf b
  | .sqnew b | .sqrsv b | .sqstPlain b | .sqstRotary b | .sqcmt b | .sqabn b | .sqfrk b
  | .sqlen b | .sqfre b | .lbndOn b | .lbndOff b | .lbndClr b | .lariAdd b | .lariSub b
  | .lariNeg b | .lariCmp b | .lariAddt b | .lariLacc b | .lariLnrm b | .lshf b | .lmul b
  | .sysc b | .eret b | .rdpr b | .wrpr b | .hvc b | .tlbiPage b | .tlbiSpace b
  | .tlbiPartition b | .tlbiStage2 b | .launch b | .trace b => some b
  | _ => none

/-- The instruction has an encoding; the events have none. -/
def Instr.encoded (i : Instr) : Bool :=
  match i with
  | .clh _ => true
  | .bkpt _ => true
  | _ => i.baseOf.isSome

/-- The static decode faults of a clause header (05 R122), in the order of R121. -/
def ClhWord.check (w : ClhWord) : Option Cause :=
  let bad := fun (f : BitVec 4) => decide (12 ≤ f.toNat) && f != 15
  if w.count == 0 then some .clauseFrame
  else if bad w.seta || bad w.setb then some .illegalOperand
  else none

end Sys2Proof
end

