-- ==== Sys2Proof/Machine/Number.lean ====
section
/-! DEFINITION. Number formats and arithmetic (spec/06): integers, floating formats, exact values, the rounding of R141,
conversion, block scales, the special functions of R146 and R147, and the sums of R148 to R150. -/

namespace Sys2Proof

/-! ### Integers (R134) -/

/-- The integer that the low bits of a 64-bit operand denote in an integer type. -/
def Ty.intVal (t : Ty) (x : DWord) : Int :=
  let u := x.toNat % 2 ^ t.bits
  if t.isSigned && 2 ^ (t.bits - 1) ≤ u then (u : Int) - 2 ^ t.bits else u

/-- `wrap(t, x)` as the bits of the type's width (R134). -/
def Ty.wrap (t : Ty) (x : Int) : DWord := BitVec.ofNat 64 (x % 2 ^ t.bits).toNat

/-- Smallest value of an integer type. -/
def Ty.minInt (t : Ty) : Int := if t.isSigned then -2 ^ (t.bits - 1) else 0

/-- Largest value of an integer type. -/
def Ty.maxInt (t : Ty) : Int := if t.isSigned then 2 ^ (t.bits - 1) - 1 else 2 ^ t.bits - 1

/-- `sat(t, x)` as bits (R134). -/
def Ty.sat (t : Ty) (x : Int) : DWord := t.wrap (max t.minInt (min t.maxInt x))

/-! ### Exact values -/

/-- An exact value: NaN, an infinity, a signed zero, or the nonzero rational `num / den`. -/
inductive FVal where
  | nan
  | inf (neg : Bool)
  | zero (neg : Bool)
  | fin (num : Int) (den : Nat)
  deriving DecidableEq, Repr

/-- The value of a quotient; a zero numerator gives the zero of the given sign. -/
def FVal.ofQuot (neg : Bool) (num : Int) (den : Nat) : FVal :=
  if num = 0 then .zero neg else .fin num den

/-- The sign of a value; NaN counts as positive. -/
def FVal.isNeg : FVal → Bool
  | .nan => false | .inf n => n | .zero n => n | .fin n _ => n < 0

/-- The value is NaN. -/
def FVal.isNan : FVal → Bool
  | .nan => true | _ => false

/-- The magnitude of a value. -/
def FVal.abs : FVal → FVal
  | .nan => .nan | .inf _ => .inf false | .zero _ => .zero false | .fin n d => .fin n.natAbs d

/-- The negation of a value. -/
def FVal.neg : FVal → FVal
  | .nan => .nan | .inf n => .inf !n | .zero n => .zero !n | .fin n d => .fin (-n) d

/-- The product by IEEE rules: zero times infinity is NaN, signs multiply (R143). -/
def FVal.mul : FVal → FVal → FVal
  | .nan, _ => .nan
  | _, .nan => .nan
  | .inf _, .zero _ => .nan
  | .zero _, .inf _ => .nan
  | .inf a, y => .inf (a != y.isNeg)
  | x, .inf b => .inf (x.isNeg != b)
  | .zero a, y => .zero (a != y.isNeg)
  | x, .zero b => .zero (x.isNeg != b)
  | .fin a c, .fin b d => .fin (a * b) (c * d)

/-- The exact sum of two finite quotients as numerator and denominator; dyadic denominators stay small. -/
def addQuot (a : Int) (c : Nat) (b : Int) (d : Nat) : Int × Nat :=
  if c = d then (a + b, c)
  else if c % d = 0 then (a + b * (c / d : Nat), c)
  else if d % c = 0 then (a * (d / c : Nat) + b, d)
  else (a * d + b * c, c * d)

/-- The sum of two values (R143): an exact zero sum of opposite signs is +0, or −0 when rounding down. -/
def FVal.add (down : Bool) : FVal → FVal → FVal
  | .nan, _ => .nan
  | _, .nan => .nan
  | .inf a, .inf b => if a = b then .inf a else .nan
  | .inf a, _ => .inf a
  | _, .inf b => .inf b
  | .zero a, .zero b => .zero (if a = b then a else down)
  | .zero _, y => y
  | x, .zero _ => x
  | .fin a c, .fin b d => let s := addQuot a c b d; .ofQuot down s.1 s.2

/-- The quotient of two values by R147 (FDIV). -/
def FVal.div : FVal → FVal → FVal
  | .nan, _ => .nan
  | _, .nan => .nan
  | .inf _, .inf _ => .nan
  | .zero _, .zero _ => .nan
  | .inf a, y => .inf (a != y.isNeg)
  | x, .inf b => .zero (x.isNeg != b)
  | .zero a, y => .zero (a != y.isNeg)
  | x, .zero b => .inf (x.isNeg != b)
  | .fin a c, .fin b d =>
    if b < 0 then .fin (-(a * d)) (c * b.natAbs) else .fin (a * d) (c * b.natAbs)

/-- Terms of a sum, classified as R149 does. -/
structure Terms where
  nan : Bool := false
  pinf : Bool := false
  ninf : Bool := false
  num : Int := 0
  den : Nat := 1
  /-- every term so far is a zero of negative sign -/
  negZero : Bool := true

/-- One more term (R149). -/
def Terms.push (t : Terms) : FVal → Terms
  | .nan => { t with nan := true, negZero := false }
  | .inf false => { t with pinf := true, negZero := false }
  | .inf true => { t with ninf := true, negZero := false }
  | .zero n => { t with negZero := t.negZero && n }
  | .fin a c => let s := addQuot t.num t.den a c; { t with num := s.1, den := s.2, negZero := false }

/-- The value of a sum of terms (R149). -/
def Terms.value (t : Terms) : FVal :=
  if t.nan || (t.pinf && t.ninf) then .nan
  else if t.pinf then .inf false
  else if t.ninf then .inf true
  else .ofQuot t.negZero t.num t.den

/-- The exact sum of several terms, special values resolved by R149. -/
def sumTerms (xs : List FVal) : FVal := (xs.foldl Terms.push {}).value

/-- Order of two values that are not NaN, −0 below +0 (R168). -/
def FVal.totalLt : FVal → FVal → Bool
  | .inf true, .inf true => false
  | .inf true, _ => true
  | _, .inf true => false
  | .inf false, _ => false
  | _, .inf false => true
  | .zero a, .zero b => a && !b
  | .zero _, .fin b _ => 0 < b
  | .fin a _, .zero _ => a < 0
  | .fin a c, .fin b d => a * d < b * c
  | _, _ => false

/-- Smaller value, ignoring NaN (R168). -/
def FVal.min (a b : FVal) : FVal :=
  if a.isNan then b else if b.isNan then a else if b.totalLt a then b else a

/-- Larger value, ignoring NaN (R168). -/
def FVal.max (a b : FVal) : FVal :=
  if a.isNan then b else if b.isNan then a else if a.totalLt b then b else a

/-- Numeric order, −0 equal to +0 (R169); false when either is NaN. -/
def FVal.lt (a b : FVal) : Bool :=
  !a.isNan && !b.isNan && (match a, b with | .zero _, .zero _ => false | _, _ => a.totalLt b)

/-- Numeric equality, −0 equal to +0 (R169). -/
def FVal.eq (a b : FVal) : Bool := !a.isNan && !b.isNan && !a.lt b && !b.lt a

/-! ### Formats (R135, R136) -/

/-- How a format uses its largest exponent. -/
inductive Special where
  | ieee      -- infinities and NaNs
  | nanOnly   -- e4m3: NaN at M all ones
  | none      -- e2m1
  deriving DecidableEq, Repr

/-- A floating format. -/
structure Fmt where
  ebits : Nat
  mbits : Nat
  bias : Nat
  special : Special
  deriving DecidableEq, Repr

def f32Fmt : Fmt := ⟨8, 23, 127, .ieee⟩
def f16Fmt : Fmt := ⟨5, 10, 15, .ieee⟩
def bf16Fmt : Fmt := ⟨8, 7, 127, .ieee⟩
def e4m3Fmt : Fmt := ⟨4, 3, 7, .nanOnly⟩
def e5m2Fmt : Fmt := ⟨5, 2, 15, .ieee⟩
def e2m1Fmt : Fmt := ⟨2, 1, 1, .none⟩

/-- The format of a floating type. -/
def Ty.fmt : Ty → Fmt
  | .f16 => f16Fmt | .bf16 => bf16Fmt | .e4m3 => e4m3Fmt | .e5m2 => e5m2Fmt
  | .e2m1 => e2m1Fmt | .df4 => e2m1Fmt | _ => f32Fmt

/-- Width of a format. -/
def Fmt.bits (f : Fmt) : Nat := 1 + f.ebits + f.mbits

/-- The nonzero rational `m * 2^e` with a sign. -/
def dyadic (neg : Bool) (m : Nat) (e : Int) : FVal :=
  let m' : Int := if neg then -(m : Int) else m
  if m = 0 then .zero neg
  else if 0 ≤ e then .fin (m' * 2 ^ e.toNat) 1 else .fin m' (2 ^ (-e).toNat)

/-- The value of an encoding (R135, R136). -/
def Fmt.decode (f : Fmt) (x : Nat) : FVal :=
  let neg := x / 2 ^ (f.ebits + f.mbits) % 2 == 1
  let e := x / 2 ^ f.mbits % 2 ^ f.ebits
  let m := x % 2 ^ f.mbits
  let top := e == 2 ^ f.ebits - 1
  if f.special == .ieee && top then (if m == 0 then .inf neg else .nan)
  else if f.special == .nanOnly && top && m == 2 ^ f.mbits - 1 then .nan
  else if e = 0 then dyadic neg m (1 - (f.bias : Int) - f.mbits)
  else dyadic neg (2 ^ f.mbits + m) ((e : Int) - f.bias - f.mbits)

/-- Encoding of the largest finite value, sign clear. -/
def Fmt.maxEnc (f : Fmt) : Nat :=
  match f.special with
  | .ieee => (2 ^ f.ebits - 1) * 2 ^ f.mbits - 1
  | .nanOnly => 2 ^ (f.ebits + f.mbits) - 2
  | .none => 2 ^ (f.ebits + f.mbits) - 1

/-- Canonical NaN (R135, R137); a NaN becomes +0 in e2m1 (R141). -/
def Fmt.nanEnc (f : Fmt) : Nat :=
  match f.special with
  | .ieee => (2 ^ f.ebits - 1) * 2 ^ f.mbits + 2 ^ (f.mbits - 1)
  | .nanOnly => 2 ^ (f.ebits + f.mbits) - 1
  | .none => 0

/-- The sign bit of a format. -/
def Fmt.signBit (f : Fmt) (neg : Bool) : Nat := if neg then 2 ^ (f.ebits + f.mbits) else 0

/-- Encoding of an infinite result: NaN in e4m3, ±6 in e2m1 (R141). -/
def Fmt.infEnc (f : Fmt) (neg : Bool) : Nat :=
  match f.special with
  | .ieee => f.signBit neg + (2 ^ f.ebits - 1) * 2 ^ f.mbits
  | .nanOnly => f.nanEnc
  | .none => f.signBit neg + f.maxEnc

/-! ### Rounding (R141) -/

/-- Rounding modes; RS carries the word drawn from the RAND stream. -/
inductive RMode where
  | rne | rz | ru | rd
  | rs (u : Nat)
  deriving DecidableEq, Repr

/-- The mode FN names (05 R119); `u` is the drawn word. -/
def RMode.ofFn (fn : BitVec 3) (u : Nat) : RMode :=
  match fn.toNat with
  | 0 => .rne | 1 => .rz | 2 => .ru | 3 => .rd | _ => .rs u

/-- The magnitude chosen between the neighbours `n` and `n + 1` of `n + r / d`, `0 ≤ r < d` (step 3). -/
def roundStep (mode : RMode) (neg : Bool) (n r d : Nat) : Nat :=
  if r = 0 then n else
  match mode with
  | .rne => if 2 * r < d then n else if d < 2 * r then n + 1 else n + n % 2
  | .rz => n
  | .ru => if neg then n else n + 1
  | .rd => if neg then n + 1 else n
  | .rs u =>
    if neg then (if u < 2 ^ 32 * (d - r) / d then n else n + 1)
    else (if u < 2 ^ 32 * r / d then n + 1 else n)

/-- Floor of the base-2 logarithm of a positive quotient. -/
def log2Quot (num den : Nat) : Int :=
  let e : Int := (Nat.log2 num : Int) - Nat.log2 den
  -- the true value is e or e - 1
  let ge := if 0 ≤ e then den * 2 ^ e.toNat ≤ num else den ≤ num * 2 ^ (-e).toNat
  if ge then e else e - 1

/-- Encoding of the magnitude `n * 2^q` of the grid, where it is finite; `none` beyond the largest. -/
def Fmt.encMag (f : Fmt) (n : Nat) (q : Int) : Option Nat :=
  let (n, q) := if n = 2 ^ (f.mbits + 1) then (2 ^ f.mbits, q + 1) else (n, q)
  let enc : Nat := if n < 2 ^ f.mbits then n
    else (q + f.mbits + f.bias).toNat * 2 ^ f.mbits + (n - 2 ^ f.mbits)
  if enc ≤ f.maxEnc then some enc else none

/-- Result beyond the largest finite value, or of an infinity (step 5). -/
def Fmt.overflow (f : Fmt) (mode : RMode) (sat neg : Bool) : Nat :=
  let mx := f.signBit neg + f.maxEnc
  if sat then mx else
  match mode, neg with
  | .rz, _ => mx
  | .ru, true => mx
  | .rd, false => mx
  | _, _ => f.infEnc neg

/-- `round_fmt(f, x, mode)`, with saturation where asked (R141). -/
def Fmt.round (f : Fmt) (x : FVal) (mode : RMode) (sat : Bool := false) : Nat :=
  match x with
  | .nan => f.nanEnc
  | .inf neg => f.overflow mode sat neg
  | .zero neg => f.signBit neg
  | .fin num den =>
    let neg := decide (num < 0)
    let a := num.natAbs
    let q : Int := max (log2Quot a den - f.mbits) (1 - (f.bias : Int) - f.mbits)
    let (a, d) := if 0 ≤ q then (a, den * 2 ^ q.toNat) else (a * 2 ^ (-q).toNat, den)
    match f.encMag (roundStep mode neg (a / d) (a % d) d) q with
    | some e => f.signBit neg + e
    | none => f.overflow mode sat neg

/-- The value of an operand of a floating type. -/
def Ty.fval (t : Ty) (x : DWord) : FVal := t.fmt.decode (x.toNat % 2 ^ t.fmt.bits)

/-- A rounded result as bits. -/
def Ty.fround (t : Ty) (x : FVal) (mode : RMode) (sat : Bool := false) : DWord :=
  BitVec.ofNat 64 (t.fmt.round x mode sat)

/-- `round_rne(f32, x)` as a word. -/
def rneF32 (x : FVal) : Word := BitVec.ofNat 32 (f32Fmt.round x .rne)

/-- The value of an f32 word. -/
def f32Val (w : Word) : FVal := f32Fmt.decode w.toNat

/-- The value of a bf16 encoding. -/
def bf16Val (x : Nat) : FVal := bf16Fmt.decode (x % 2 ^ 16)

/-- A value rounded to an integer in a mode (R144, R171). -/
def roundInt (mode : RMode) (num : Int) (den : Nat) : Int :=
  let neg := decide (num < 0)
  let m := roundStep mode neg (num.natAbs / den) (num.natAbs % den) den
  if neg then -(m : Int) else m

/-- Floating to integer (R144): rounded, then saturated; NaN gives 0. -/
def Ty.ofFloat (t : Ty) (x : FVal) (mode : RMode) : DWord :=
  match x with
  | .nan => 0
  | .inf neg => t.wrap (if neg then t.minInt else t.maxInt)
  | .zero _ => 0
  | .fin num den => t.sat (roundInt mode num den)

/-- The exact value of an integer. -/
def ofInt (x : Int) : FVal := .ofQuot false x 1

/-- CVT by R144 and R173: `st` is the source type, `dt` the destination type. To a wider floating type it is exact, an
infinity included. -/
def convert (dt st : Ty) (x : DWord) (mode : RMode) (sat : Bool) : DWord :=
  if st.isInt then
    let v := st.intVal x
    if dt.isInt then (if sat then dt.sat v else dt.wrap v)
    else dt.fround (ofInt v) mode sat
  else
    let v := st.fval x
    if dt.isInt then dt.ofFloat v mode
    else if st.bits < dt.bits then dt.fround v .rne
    else dt.fround v mode sat

/-! ### Block scales (R139) and block quantisation (R145) -/

/-- The value of an E3M5 encoding, in units of 2^-7. -/
def e3m5Units (x : Nat) : Nat :=
  let e := x / 32 % 8
  let m := x % 32
  if e = 0 then m else (32 + m) * 2 ^ (e - 1)

/-- The value of an E3M5 encoding. -/
def e3m5Val (x : Nat) : FVal := .ofQuot false (e3m5Units x) 128

/-- The smallest E3M5 encoding above `x - 1` whose value `s` has `num / den ≤ 6 s`; search upward. -/
def e3m5Search (num den : Nat) : Nat → Nat → Nat
  | 0, x => x
  | k + 1, x => if num * 128 ≤ 6 * e3m5Units x * den then x else e3m5Search num den k (x + 1)

/-- The scale that `qnt_block` chooses for the largest magnitude (R145). -/
def quantScale : FVal → Nat
  | .nan => 0
  | .zero _ => 0
  | .inf _ => 255
  | .fin num den => if 189 * den < num.natAbs then 255 else e3m5Search num.natAbs den 255 0

/-- One element of `qnt_block` (R145). -/
def quantElem (scale : Nat) (x : FVal) (mode : RMode) : Nat :=
  if scale = 0 then 0 else e2m1Fmt.round (x.div (e3m5Val scale)) mode true

/-- Floating to E3M5 is needed by no instruction; the largest magnitude of a block, ignoring NaN. -/
def blockMax (xs : List FVal) : FVal := xs.foldl (fun m x => m.max x.abs) (.zero false)

/-! ### Special functions (R146, R147)

Each returns a value that rounds as the exact one does: square roots are exact up to a sticky half unit,
the others are taken to an absolute error far below 2^-500. -/

/-- Bits of the fixed-point fraction. -/
def fixBits : Nat := 640

/-- π in units of 2^-1024. -/
def piFix : Nat :=
  0x3243F6A8885A308D313198A2E03707344A4093822299F31D0082EFA98EC4E6C89452821E638D01377BE5466CF34E90C6CC0AC29B7C97C50DD3F84D5B5B54709179216D5D98979FB1BD1310BA698DFB5AC2FFD72DBD01ADFB7B8E1AFED6A267E96BA7C9045F12C7F9924A19947B3916CF70801F2E2858EFC16636920D871574E69

/-- ln 2 in units of 2^-640. -/
def ln2Fix : Nat :=
  0xB17217F7D1CF79ABC9E3B39803F2F6AF40F343267298B62D8A0D175B8BAAFA2BE7B876206DEBAC98559552FB4AFA1B10ED2EAE35C138214427573B291169B8253E96CA16224AE8C51ACBDA11317C387E

/-- Integer square root by the bit method: `bits` steps from the top. -/
def isqrtGo (x : Nat) : Nat → Nat → Nat
  | 0, r => r
  | k + 1, r => let t := r + 2 ^ k; isqrtGo x k (if t * t ≤ x then t else r)

/-- Integer square root. -/
def isqrt (x : Nat) : Nat := isqrtGo x (Nat.log2 x / 2 + 1) 0

/-- The square root of a positive quotient, exact or with half a unit of 2^-k added below an f32's reach. -/
def sqrtQuot (num den : Nat) : FVal :=
  let k := 256
  let x := num * den * 4 ^ k
  let r := isqrt x
  if r * r = x then .fin r (den * 2 ^ k) else .fin (2 * r + 1) (den * 2 ^ (k + 1))

/-- FSQRT (R147). -/
def fsqrtVal : FVal → FVal
  | .nan => .nan
  | .inf neg => if neg then .nan else .inf false
  | .zero neg => .zero neg
  | .fin n d => if n < 0 then .nan else sqrtQuot n.natAbs d

/-- FRSQ (R147). -/
def frsqVal : FVal → FVal
  | .nan => .nan
  | .inf neg => if neg then .nan else .zero false
  | .zero neg => .inf neg
  | .fin n d => if n < 0 then .nan else sqrtQuot d n.natAbs

/-- FRCP (R147). -/
def frcpVal (x : FVal) : FVal := (FVal.fin 1 1).div x

/-- `sum over k ≥ i of t_k`, `t_{k+1} = t_k * x / (2^640 k')`: the tail of the exponential series. -/
def expSeries (x : Int) : Nat → Nat → Int → Int → Int
  | 0, _, _, s => s
  | fuel + 1, i, t, s => let t' := t * x / (2 ^ fixBits * i); expSeries x fuel (i + 1) t' (s + t')

/-- e^x for a fixed-point x of magnitude below 2. -/
def expFix (x : Int) : Int := expSeries x 180 1 (2 ^ fixBits) (2 ^ fixBits)

/-- Fixed-point floor of a quotient. -/
def toFix (num : Int) (den : Nat) : Int := num * 2 ^ fixBits / den

/-- 2^x of a finite quotient, as a value. -/
def exp2Quot (num : Int) (den : Nat) : FVal :=
  let n := num / (den : Int)
  let r := num % (den : Int)
  if n < -1000 then dyadic false 1 (-1000)
  else if 1000 < n then dyadic false 1 1000
  else if r = 0 then dyadic false 1 n
  else dyadic false (expFix (toFix r den * ln2Fix / 2 ^ fixBits)).toNat (n - fixBits)

/-- FEX2 (R147). -/
def fex2Val : FVal → FVal
  | .nan => .nan
  | .inf neg => if neg then .zero false else .inf false
  | .zero _ => .fin 1 1
  | .fin n d => exp2Quot n d

/-- `sum over odd k of z^k / k`, the series of atanh. -/
def atanhSeries (z2 : Int) : Nat → Nat → Int → Int → Int
  | 0, _, _, s => s
  | fuel + 1, k, t, s => let t' := t * z2 / 2 ^ fixBits; atanhSeries z2 fuel (k + 2) t' (s + t' / (k + 2))

/-- FLG2 (R147). -/
def flg2Val : FVal → FVal
  | .nan => .nan
  | .inf neg => if neg then .nan else .inf false
  | .zero _ => .inf true
  | .fin n d =>
    if n < 0 then .nan else
    let a := n.natAbs
    let e := log2Quot a d
    let (a, d) := if 0 ≤ e then (a, d * 2 ^ e.toNat) else (a * 2 ^ (-e).toNat, d)
    if a = d then ofInt e else
    let z := toFix ((a : Int) - d) (a + d)
    let ln := 2 * atanhSeries (z * z / 2 ^ fixBits) 220 1 z z
    let lg := ln * 2 ^ fixBits / ln2Fix
    .ofQuot false (e * 2 ^ fixBits + lg) (2 ^ fixBits)

/-- Quadrant and remainder, in units of 2^-640, of a positive quotient divided by π/2. -/
def quadrant (num den : Nat) : Nat × Int :=
  let x := num * 2 ^ 1024 / den
  let half := piFix / 2
  let k := x / half
  (k % 4, ((x - k * half) / 2 ^ (1024 - fixBits) : Nat))

/-- The series of sine (`i = 1`, `t = x`) and cosine (`i = 0`, `t = 1`). -/
def trigSeries (x2 : Int) : Nat → Nat → Int → Int → Int
  | 0, _, _, s => s
  | fuel + 1, i, t, s =>
    let t' := -(t * x2) / (2 ^ fixBits * ((i + 1) * (i + 2)))
    trigSeries x2 fuel (i + 2) t' (s + t')

/-- Sine of a fixed-point angle in [0, π/2]. -/
def sinFix (x : Int) : Int := trigSeries (x * x / 2 ^ fixBits) 90 1 x x

/-- Cosine of a fixed-point angle in [0, π/2]. -/
def cosFix (x : Int) : Int := trigSeries (x * x / 2 ^ fixBits) 90 0 (2 ^ fixBits) (2 ^ fixBits)

/-- Sine and cosine of a positive quotient, in units of 2^-640. -/
def sinCosPos (num den : Nat) : Int × Int :=
  let (k, r) := quadrant num den
  let s := sinFix r
  let c := cosFix r
  match k with
  | 0 => (s, c) | 1 => (c, -s) | 2 => (-s, -c) | _ => (-c, s)

/-- FSIN (R147). -/
def fsinVal : FVal → FVal
  | .nan => .nan
  | .inf _ => .nan
  | .zero neg => .zero neg
  | .fin n d =>
    let s := (sinCosPos n.natAbs d).1
    .ofQuot (n < 0) (if n < 0 then -s else s) (2 ^ fixBits)

/-- FCOS (R147). -/
def fcosVal : FVal → FVal
  | .nan => .nan
  | .inf _ => .nan
  | .zero _ => .fin 1 1
  | .fin n d => .ofQuot false (sinCosPos n.natAbs d).2 (2 ^ fixBits)

/-- FTANH (R147): (1 - e^-2x) / (1 + e^-2x); beyond 100 the result rounds to ±1 all the same. -/
def ftanhVal : FVal → FVal
  | .nan => .nan
  | .inf neg => .fin (if neg then -1 else 1) 1
  | .zero neg => .zero neg
  | .fin n d =>
    let a := n.natAbs
    let mag : FVal :=
      if 100 * d < a then .fin (2 ^ 100 - 1) (2 ^ 100) else
      -- e^(-2a/d) = 2^(-2a / (d ln 2))
      let y := toFix (2 * (a : Int)) d
      let q := y / ln2Fix
      let r := y % ln2Fix
      -- e^-r, then 2^-q
      let e := expFix (-r) / 2 ^ q.toNat
      .ofQuot false (2 ^ fixBits - e) (2 ^ fixBits + e).toNat
    if n < 0 then mag.neg else mag

/-! ### Matrix sums (R148 to R150) -/

/-- `chunk_accumulate` (R148): the products in chunks of `len`, each chunk rounded once to f32. -/
def chunkSum (len : Nat) : Nat → Word → List (FVal × FVal) → Word
  | 0, acc, _ => acc
  | fuel + 1, acc, ps =>
    match ps with
    | [] => acc
    | _ =>
      let acc' := rneF32 (sumTerms (f32Val acc :: (ps.take len).map fun p => p.1.mul p.2))
      chunkSum len fuel acc' (ps.drop len)

/-- The sum of an INT8 pass (R150). -/
def intSum (acc : Word) (ps : List (Int × Int)) : Word :=
  BitVec.ofInt 32 (acc.toInt + (ps.map fun p => p.1 * p.2).sum)

/-! ### CRC-32C (12 R280) -/

/-- Eight steps of the reflected polynomial 0x82F63B78 on one byte. -/
def crcByte (crc : Word) (b : Byte) : Word :=
  let step := fun (c : Word) => if c.getLsbD 0 then (c >>> 1) ^^^ 0x82F63B78 else c >>> 1
  step (step (step (step (step (step (step (step (crc ^^^ b.setWidth 32))))))))

/-- CRC-32C of a list of bytes. -/
def crc32c (bs : List Byte) : Word := (bs.foldl crcByte 0xFFFFFFFF) ^^^ 0xFFFFFFFF

/-! ### Philox-4×32-10 (07 R176) -/

/-- The rounds of Philox. -/
def philoxGo : Nat → Word × Word × Word × Word → Word × Word → Word × Word × Word × Word
  | 0, c, _ => c
  | k + 1, (c0, c1, c2, c3), (k0, k1) =>
    let p0 : DWord := 0xD2511F53 * c0.setWidth 64
    let p1 : DWord := 0xCD9E8D57 * c2.setWidth 64
    philoxGo k (hiWord p1 ^^^ c1 ^^^ k0, loWord p1, hiWord p0 ^^^ c3 ^^^ k1, loWord p0)
      (k0 + 0x9E3779B9, k1 + 0xBB67AE85)

/-- `philox(ctr, key)` (R176). -/
def philox (c : Word × Word × Word × Word) (k : Word × Word) : Word × Word × Word × Word :=
  philoxGo 10 c k

/-- `stream_block` (R176): the four words of block `n`. -/
def streamBlock (key n : DWord) (laneWord ropeWord : Word) : List Word :=
  let (a, b, c, d) := philox (loWord n, hiWord n, laneWord, ropeWord) (loWord key, hiWord key)
  [a, b, c, d]

/-- The stream word at a position (R176). -/
def streamWord (key pos : DWord) (laneWord ropeWord : Word) : Word :=
  (streamBlock key (pos >>> 2) laneWord ropeWord).getD (pos.toNat % 4) 0

/-! ### The issue LFSR (13 R315) -/

/-- One step of the Galois register. -/
def lfsrStep (x : Word) : Word := (x >>> 1) ^^^ (if x.getLsbD 0 then 0x80200003 else 0)

/-- `mix64` (16 R366). -/
def mix64 (x : DWord) : DWord :=
  let x := (x ^^^ (x >>> 30)) * 0xBF58476D1CE4E5B9
  let x := (x ^^^ (x >>> 27)) * 0x94D049BB133111EB
  x ^^^ (x >>> 31)

end Sys2Proof
end

