-- ==== Sys2Proof/WellFormed.lean ====
section
/-! DEFINITION. Which instructions are well formed: those that pass every static check of spec/05 R121 and
R122. The checks themselves stand in Machine/Forms.lean. -/

namespace Sys2Proof

/-- The first static decode fault of an instruction (05 R121, R122); none for the events. -/
def Instr.check (i : Instr) : Option Cause :=
  match i with
  | .clh w => w.check
  | .bkpt k => if k.lenWords then none else some .reservedField
  | _ =>
    match i.baseOf, i.form with
    | some b, some f => if !b.lenWords then some .reservedField else f.check b
    | _, _ => none

/-- The instruction has an encoding and no static decode fault. -/
def Instr.WellFormed (i : Instr) : Prop := i.encoded = true ∧ i.check = none

end Sys2Proof
end

