-- ==== Sys2Proof/Decode.lean ====
section
/-! DEFINITION. From instruction words to instructions and back (spec/05 R114 to R122, R127). Decoding is total: every word
gives an instruction or the first static decode fault of R121 by its cause. -/

namespace Sys2Proof

/-- The words of an instruction: the base word, E1 and E2, those beyond its length zero. -/
structure Words where
  base : BitVec 64
  e1 : BitVec 32
  e2 : BitVec 32
  deriving DecidableEq, Repr

/-! ### Fields -/

/-- Code of a kind tag (05 R116). -/
def SrcKind.code : SrcKind → BitVec 2
  | .vec => 0 | .scl => 1 | .cst => 2 | .lit => 3

/-- Kind tag of a code. -/
def SrcKind.ofCode (c : BitVec 2) : SrcKind :=
  match c.toNat with
  | 0 => .vec | 1 => .scl | 2 => .cst | _ => .lit

/-- Code of a length (05 R114). -/
def Len.code : Len → BitVec 2
  | .w64 => 0 | .w96 => 1 | .w128 => 2

/-- Length of a code; 0b11 is no length. -/
def Len.ofCode (c : BitVec 2) : Option Len :=
  match c.toNat with
  | 0 => some .w64 | 1 => some .w96 | 2 => some .w128 | _ => none

/-- A source field: the kind tag over the 8-bit field (05 R115). -/
def Src.bits (s : Src) : BitVec 10 := s.kind.code ++ s.field

/-- The source of a 10-bit field. -/
def Src.ofBits (x : BitVec 10) : Src := ⟨.ofCode (x.extractLsb' 8 2), x.extractLsb' 0 8⟩

/-- The base word of an instruction with the given opcode (05 R115). -/
def Base.pack (opc : BitVec 8) (b : Base) : BitVec 64 :=
  BitVec.ofBool b.fs ++ b.lu ++ b.c.bits ++ b.b.bits ++ b.a.bits ++ b.ty.code ++
    BitVec.ofBool (b.dk == .scl) ++ b.dst ++ BitVec.ofBool b.gneg ++ b.grd ++ b.fn ++ opc ++ b.len.code

/-- The fields of a base word (05 R115). -/
def Base.unpack (len : Len) (w : BitVec 64) (e1 e2 : BitVec 32) : Base where
  len := len
  fn := w.extractLsb' 10 3
  grd := w.extractLsb' 13 3
  gneg := w.getLsbD 16
  dst := w.extractLsb' 17 8
  dk := if w.getLsbD 25 then .scl else .vec
  ty := .ofCode (w.extractLsb' 26 4)
  a := .ofBits (w.extractLsb' 30 10)
  b := .ofBits (w.extractLsb' 40 10)
  c := .ofBits (w.extractLsb' 50 10)
  lu := w.extractLsb' 60 3
  fs := w.getLsbD 63
  e1 := if len == .w64 then 0 else e1
  e2 := if len == .w128 then e2 else 0

/-! ### The opcode map (05 R127) -/

/-- The instruction an opcode (and, where rows share it, FN) names; `none` where the code is unassigned. -/
def Instr.ofOpcode (opc : BitVec 8) (b : Base) : Option Instr :=
  match opc.toNat with
  | 0x00 => some (.nop b)
  | 0x03 => some (.yield b)
  | 0x04 => some (.repeatx b)
  | 0x08 => some (.bra b)
  | 0x09 => some (.brau b)
  | 0x0A => some (.brx b)
  | 0x0B => some (.call b)
  | 0x0C => some (.callx b)
  | 0x0D => some (.ret b)
  | 0x0E => some (.exit b)
  | 0x10 => some (.brc b)
  | 0x20 => some (.add b)
  | 0x21 => some (.sub b)
  | 0x22 => some (.mul b)
  | 0x23 => some (.mulh b)
  | 0x24 => some (.mad b)
  | 0x25 => some (.madw b)
  | 0x26 => some (.div b)
  | 0x27 => some (.rem b)
  | 0x28 => some (.min b)
  | 0x29 => some (.max b)
  | 0x2A => some (.abs b)
  | 0x2B => some (.neg b)
  | 0x2C => some (.and b)
  | 0x2D => some (.or b)
  | 0x2E => some (.xor b)
  | 0x2F => some (.not b)
  | 0x30 => some (.shl b)
  | 0x31 => some (.shr b)
  | 0x32 => some (.rot b)
  | 0x33 => some (.fshf b)
  | 0x34 => some (.popc b)
  | 0x35 => some (.clz b)
  | 0x36 => some (.brev b)
  | 0x37 => some (.bfe b)
  | 0x38 => some (.bfi b)
  | 0x39 => some (.lop3 b)
  | 0x3A => some (.sel b)
  | 0x3B => some (.isetp b)
  | 0x3C => some (.iset b)
  | 0x3D => some (.addx b)
  | 0x3E => some (.subx b)
  | 0x3F => some (.lea b)
  | 0x41 => some (.mov b)
  | 0x42 => some (.movi b)
  | 0x44 => some (.plop b)
  | 0x45 => some (.p2v b)
  | 0x46 => some (.v2p b)
  | 0x47 => some (.dp4a b)
  | 0x48 => some (.sad b)
  | 0x50 => some (.fadd b)
  | 0x51 => some (.fsub b)
  | 0x52 => some (.fmul b)
  | 0x53 => some (.ffma b)
  | 0x54 => some (.fmin b)
  | 0x55 => some (.fmax b)
  | 0x56 => some (.fabs b)
  | 0x57 => some (.fneg b)
  | 0x58 => some (.fsetp b)
  | 0x59 => some (.fset b)
  | 0x5A => some (.fclass b)
  | 0x5B => some (.frcp b)
  | 0x5C => some (.frsq b)
  | 0x5D => some (.fsqrt b)
  | 0x5E => some (.fdiv b)
  | 0x5F => some (.fex2 b)
  | 0x60 => some (.flg2 b)
  | 0x61 => some (.fsin b)
  | 0x62 => some (.fcos b)
  | 0x63 => some (.ftanh b)
  | 0x65 => some (.frnd b)
  | 0x66 => some (.fscl b)
  | 0x67 => some (.ffrx b)
  | 0x68 => some (.fdot2 b)
  | 0x80 => some (.cvt b)
  | 0x81 => some (.pack b)
  | 0x82 => some (.unpk b)
  | 0x83 => some (.qnt b)
  | 0x84 => some (.dqnt b)
  | 0x85 => some (.sclc b)
  | 0x87 => match b.fn.toNat with
    | 0 => some (.randNext b) | 1 => some (.randBlk b) | 2 => some (.randRdpos b) | 3 => some (.randWrpos b) | 4 => some (.randSkip b) | 5 => some (.randWrkey b) | _ => none
  | 0x90 => some (.shfl b)
  | 0x91 => some (.vote b)
  | 0x92 => some (.redux b)
  | 0x93 => some (.fredx b)
  | 0x94 => some (.scanx b)
  | 0x95 => some (.matchx b)
  | 0x96 => some (.rdsr b)
  | 0x97 => some (.elect b)
  | 0x99 => some (.bcast b)
  | 0xA0 => some (.ld b)
  | 0xA1 => some (.st b)
  | 0xA2 => some (.lds b)
  | 0xA3 => some (.sts b)
  | 0xA4 => some (.ldc b)
  | 0xA5 => some (.ldf b)
  | 0xA6 => some (.stf b)
  | 0xA7 => some (.ldv b)
  | 0xA8 => some (.stta b)
  | 0xA9 => some (.gth b)
  | 0xAA => some (.sct b)
  | 0xAB => some (.pft b)
  | 0xAC => match b.fn.toNat with
    | 0 => some (.ldl b) | 1 => some (.stl b) | _ => none
  | 0xAD => match b.fn.toNat with
    | 0 => some (.cctlPub b) | 1 => some (.cctlWb b) | 2 => some (.cctlInv b) | 3 => some (.cctlIinv b) | _ => none
  | 0xAE => some (.sqld b)
  | 0xC0 => some (.atom b)
  | 0xC1 => some (.atomc b)
  | 0xC2 => some (.red b)
  | 0xC3 => some (.atoms b)
  | 0xC4 => some (.fence b)
  | 0xC5 => match b.fn.toNat with
    | 0 => some (.phase b) | 1 => some (.phaseTeam b) | _ => none
  | 0xC6 => some (.bara b)
  | 0xC7 => some (.bwait b)
  | 0xC8 => some (.binit b)
  | 0xC9 => some (.cwait b)
  | 0xCA => some (.qlock b)
  | 0xCB => some (.qunlk b)
  | 0xCC => some (.wwait b)
  | 0xCD => some (.wwake b)
  | 0xCE => some (.bexp b)
  | 0xD0 => some (.cpy b)
  | 0xD2 => some (.spop b)
  | 0xD3 => some (.spsh b)
  | 0xD4 => some (.sqry b)
  | 0xD5 => some (.apnd b)
  | 0xD6 => some (.afnc b)
  | 0xD7 => some (.coll b)
  | 0xD8 => match b.fn.toNat with
    | 0 => some (.rblkSeq b) | 1 => some (.rblkGet b) | 2 => some (.rblkPut b) | _ => none
  | 0xD9 => some (.prdl b)
  | 0xDA => some (.dqpsh b)
  | 0xDB => some (.dqpop b)
  | 0xE0 => some (.oclm b)
  | 0xE1 => some (.orel b)
  | 0xE2 => some (.old b)
  | 0xE3 => some (.mma b)
  | 0xE4 => match b.fn.toNat with
    | 0 => some (.aclm b) | 1 => some (.arel b) | _ => none
  | 0xE5 => some (.acrd b)
  | 0xE6 => some (.acwr b)
  | 0xE7 => match b.fn.toNat with
    | 0 => some (.attn b) | 1 => some (.attnf b) | _ => none
  | 0xE8 => some (.sqnew b)
  | 0xE9 => some (.sqrsv b)
  | 0xEA => match b.fn.toNat with
    | 0 => some (.sqstPlain b) | 1 => some (.sqstRotary b) | _ => none
  | 0xEB => some (.sqcmt b)
  | 0xEC => some (.sqabn b)
  | 0xED => some (.sqfrk b)
  | 0xEE => some (.sqlen b)
  | 0xEF => some (.sqfre b)
  | 0xF0 => match b.fn.toNat with
    | 0 => some (.lbndOn b) | 1 => some (.lbndOff b) | 2 => some (.lbndClr b) | _ => none
  | 0xF1 => match b.fn.toNat with
    | 0 => some (.lariAdd b) | 1 => some (.lariSub b) | 2 => some (.lariNeg b) | 3 => some (.lariCmp b) | 4 => some (.lariAddt b) | 5 => some (.lariLacc b) | 6 => some (.lariLnrm b) | _ => none
  | 0xF2 => some (.lshf b)
  | 0xF3 => some (.lmul b)
  | 0xF4 => some (.sysc b)
  | 0xF5 => some (.eret b)
  | 0xF6 => some (.rdpr b)
  | 0xF7 => some (.wrpr b)
  | 0xF8 => some (.hvc b)
  | 0xF9 => match b.fn.toNat with
    | 0 => some (.tlbiPage b) | 1 => some (.tlbiSpace b) | 2 => some (.tlbiPartition b) | 3 => some (.tlbiStage2 b) | _ => none
  | 0xFA => some (.launch b)
  | 0xFB => some (.trace b)
  | _ => none

/-- The opcode of an instruction; events have none and answer 0. -/
def Instr.opcode : Instr → BitVec 8
  | .clh _ => 0x01 | .bkpt _ => 0x02
  | .nop _ => 0x00 | .yield _ => 0x03 | .repeatx _ => 0x04 | .bra _ => 0x08 | .brau _ => 0x09
  | .brx _ => 0x0A | .call _ => 0x0B | .callx _ => 0x0C | .ret _ => 0x0D | .exit _ => 0x0E
  | .brc _ => 0x10 | .add _ => 0x20 | .sub _ => 0x21 | .mul _ => 0x22 | .mulh _ => 0x23
  | .mad _ => 0x24 | .madw _ => 0x25 | .div _ => 0x26 | .rem _ => 0x27 | .min _ => 0x28
  | .max _ => 0x29 | .abs _ => 0x2A | .neg _ => 0x2B | .and _ => 0x2C | .or _ => 0x2D
  | .xor _ => 0x2E | .not _ => 0x2F | .shl _ => 0x30 | .shr _ => 0x31 | .rot _ => 0x32
  | .fshf _ => 0x33 | .popc _ => 0x34 | .clz _ => 0x35 | .brev _ => 0x36 | .bfe _ => 0x37
  | .bfi _ => 0x38 | .lop3 _ => 0x39 | .sel _ => 0x3A | .isetp _ => 0x3B | .iset _ => 0x3C
  | .addx _ => 0x3D | .subx _ => 0x3E | .lea _ => 0x3F | .mov _ => 0x41 | .movi _ => 0x42
  | .plop _ => 0x44 | .p2v _ => 0x45 | .v2p _ => 0x46 | .dp4a _ => 0x47 | .sad _ => 0x48
  | .fadd _ => 0x50 | .fsub _ => 0x51 | .fmul _ => 0x52 | .ffma _ => 0x53 | .fmin _ => 0x54
  | .fmax _ => 0x55 | .fabs _ => 0x56 | .fneg _ => 0x57 | .fsetp _ => 0x58 | .fset _ => 0x59
  | .fclass _ => 0x5A | .frcp _ => 0x5B | .frsq _ => 0x5C | .fsqrt _ => 0x5D | .fdiv _ => 0x5E
  | .fex2 _ => 0x5F | .flg2 _ => 0x60 | .fsin _ => 0x61 | .fcos _ => 0x62 | .ftanh _ => 0x63
  | .frnd _ => 0x65 | .fscl _ => 0x66 | .ffrx _ => 0x67 | .fdot2 _ => 0x68 | .cvt _ => 0x80
  | .pack _ => 0x81 | .unpk _ => 0x82 | .qnt _ => 0x83 | .dqnt _ => 0x84 | .sclc _ => 0x85
  | .randNext _ => 0x87 | .randBlk _ => 0x87 | .randRdpos _ => 0x87 | .randWrpos _ => 0x87
  | .randSkip _ => 0x87 | .randWrkey _ => 0x87 | .shfl _ => 0x90 | .vote _ => 0x91
  | .redux _ => 0x92 | .fredx _ => 0x93 | .scanx _ => 0x94 | .matchx _ => 0x95 | .rdsr _ => 0x96
  | .elect _ => 0x97 | .bcast _ => 0x99 | .ld _ => 0xA0 | .st _ => 0xA1 | .lds _ => 0xA2
  | .sts _ => 0xA3 | .ldc _ => 0xA4 | .ldf _ => 0xA5 | .stf _ => 0xA6 | .ldv _ => 0xA7
  | .stta _ => 0xA8 | .gth _ => 0xA9 | .sct _ => 0xAA | .pft _ => 0xAB | .ldl _ => 0xAC
  | .stl _ => 0xAC | .cctlPub _ => 0xAD | .cctlWb _ => 0xAD | .cctlInv _ => 0xAD
  | .cctlIinv _ => 0xAD | .sqld _ => 0xAE | .atom _ => 0xC0 | .atomc _ => 0xC1 | .red _ => 0xC2
  | .atoms _ => 0xC3 | .fence _ => 0xC4 | .phase _ => 0xC5 | .phaseTeam _ => 0xC5 | .bara _ => 0xC6
  | .bwait _ => 0xC7 | .binit _ => 0xC8 | .cwait _ => 0xC9 | .qlock _ => 0xCA | .qunlk _ => 0xCB
  | .wwait _ => 0xCC | .wwake _ => 0xCD | .bexp _ => 0xCE | .cpy _ => 0xD0 | .spop _ => 0xD2
  | .spsh _ => 0xD3 | .sqry _ => 0xD4 | .apnd _ => 0xD5 | .afnc _ => 0xD6 | .coll _ => 0xD7
  | .rblkSeq _ => 0xD8 | .rblkGet _ => 0xD8 | .rblkPut _ => 0xD8 | .prdl _ => 0xD9
  | .dqpsh _ => 0xDA | .dqpop _ => 0xDB | .oclm _ => 0xE0 | .orel _ => 0xE1 | .old _ => 0xE2
  | .mma _ => 0xE3 | .aclm _ => 0xE4 | .arel _ => 0xE4 | .acrd _ => 0xE5 | .acwr _ => 0xE6
  | .attn _ => 0xE7 | .attnf _ => 0xE7 | .sqnew _ => 0xE8 | .sqrsv _ => 0xE9 | .sqstPlain _ => 0xEA
  | .sqstRotary _ => 0xEA | .sqcmt _ => 0xEB | .sqabn _ => 0xEC | .sqfrk _ => 0xED
  | .sqlen _ => 0xEE | .sqfre _ => 0xEF | .lbndOn _ => 0xF0 | .lbndOff _ => 0xF0
  | .lbndClr _ => 0xF0 | .lariAdd _ => 0xF1 | .lariSub _ => 0xF1 | .lariNeg _ => 0xF1
  | .lariCmp _ => 0xF1 | .lariAddt _ => 0xF1 | .lariLacc _ => 0xF1 | .lariLnrm _ => 0xF1
  | .lshf _ => 0xF2 | .lmul _ => 0xF3 | .sysc _ => 0xF4 | .eret _ => 0xF5 | .rdpr _ => 0xF6
  | .wrpr _ => 0xF7 | .hvc _ => 0xF8 | .tlbiPage _ => 0xF9 | .tlbiSpace _ => 0xF9
  | .tlbiPartition _ => 0xF9 | .tlbiStage2 _ => 0xF9 | .launch _ => 0xFA | .trace _ => 0xFB
  | _ => 0

/-- A clause header from its word, whose length is 64 bits (05 R122). -/
def ClhWord.ofBits (w : BitVec 64) : ClhWord :=
  ⟨w.extractLsb' 30 6, w.extractLsb' 26 4, w.extractLsb' 22 4, w.extractLsb' 10 12⟩

/-- The word of a clause header. -/
def ClhWord.pack (c : ClhWord) : BitVec 64 :=
  (0 : BitVec 28) ++ c.count ++ c.setb ++ c.seta ++ c.wait ++ (1 : BitVec 8) ++ (0 : BitVec 2)

/-- The word of a BKPT. -/
def BkptWord.pack (k : BkptWord) : BitVec 64 := k.rest ++ (2 : BitVec 8) ++ k.len.code

/-- Decoding a clause header: the faults of R122 in the order of R121. -/
def decodeClh (w : BitVec 64) : Except Cause Instr :=
  let c := ClhWord.ofBits w
  if c.count == 0 then .error .clauseFrame
  else if w.extractLsb' 0 2 != 0 then .error .illegalInstruction
  else if w.extractLsb' 36 28 != 0 then .error .reservedField
  else match c.check with
    | some e => .error e
    | none => .ok (.clh c)

/-- Decoding (05 R121): the instruction, or the cause of the first static decode fault. The checks that
depend on the clause position, the mode and the agent are made where the instruction executes. -/
def decode (w : Words) : Except Cause Instr :=
  let opc := w.base.extractLsb' 2 8
  if opc == 0x01 then decodeClh w.base
  else match Len.ofCode (w.base.extractLsb' 0 2) with
    | none => .error .illegalInstruction
    | some len =>
      if opc == 0x02 then
        .ok (.bkpt ⟨len, w.base.extractLsb' 10 54, if len == .w64 then 0 else w.e1,
          if len == .w128 then w.e2 else 0⟩)
      else match Instr.ofOpcode opc (Base.unpack len w.base w.e1 w.e2) with
        | none => .error .illegalInstruction
        | some i =>
          match i.check with
          | some e => .error e
          | none => .ok i

/-- The length in bytes of the instruction that begins with this base word; LEN = 0b11 has none, and 8
bytes are looked at (05 R114). -/
def fetchBytes (base : BitVec 64) : Nat :=
  match Len.ofCode (base.extractLsb' 0 2) with
  | some l => l.bytes
  | none => 8

/-! ### Encoding -/

/-- The words of an encoded instruction; `none` for the events. -/
def encode (i : Instr) : Option Words :=
  match i with
  | .clh c => some ⟨c.pack, 0, 0⟩
  | .bkpt k => some ⟨k.pack, k.e1, k.e2⟩
  | _ => i.baseOf.map fun b => ⟨b.pack i.opcode, b.e1, b.e2⟩

/-- Length in bytes of an instruction; 0 for the events. -/
def Instr.bytes (i : Instr) : Nat :=
  match i with
  | .clh _ => 8
  | .bkpt k => k.len.bytes
  | _ => i.baseOf.elim 0 fun b => b.len.bytes

/-! ### Bytes -/

/-- The little-endian number that a list of bytes spells (00 R1). -/
def leNat : List Byte → Nat
  | [] => 0
  | b :: bs => b.toNat + 256 * leNat bs

/-- The `n` little-endian bytes of a number (00 R1). -/
def leBytes : Nat → Nat → List Byte
  | 0, _ => []
  | n + 1, x => BitVec.ofNat 8 x :: leBytes n (x / 256)

/-- The words at the head of a list of bytes, absent bytes reading as 0. -/
def Words.ofBytes (bs : List Byte) : Words :=
  ⟨BitVec.ofNat 64 (leNat (bs.take 8)), BitVec.ofNat 32 (leNat ((bs.drop 8).take 4)),
    BitVec.ofNat 32 (leNat ((bs.drop 12).take 4))⟩

/-- The bytes of an instruction's words, 16 of them, as they lie in memory (05 R114). -/
def Words.bytes (w : Words) : List Byte :=
  leBytes 8 w.base.toNat ++ (leBytes 4 w.e1.toNat ++ leBytes 4 w.e2.toNat)

/-- The instruction at the head of a list of bytes, with the bytes after it. -/
def decodeBytes (bs : List Byte) : Except Cause (Instr × List Byte) :=
  match decode (.ofBytes bs) with
  | .error e => .error e
  | .ok i => .ok (i, bs.drop i.bytes)

/-- The words whose bits a number gives, bit 0 the least significant of the first word: `nbits` of them,
the rest zero. -/
def Words.ofNat (nbits w : Nat) : Words :=
  .ofBytes (leBytes 16 (w % 2 ^ nbits))

/-- The instruction that the decoder reads from the words a number gives. -/
def decodeTableWord (nbits w : Nat) : Option Instr :=
  match decode (Words.ofNat nbits w) with
  | .error _ => none
  | .ok i => some i

end Sys2Proof
end

