-- ==== Sys2Proof/Machine/Store.lean ====
section
/-! DEFINITION. Sparse tables in canonical form: lists of key and value pairs with strictly rising keys. Memory is one, whose
unlisted bytes read as zero and which lists no zero byte. -/

namespace Sys2Proof.Machine

/-- A table from numbers, listed with strictly rising keys. -/
abbrev Sparse (α : Type) := List (Nat × α)

/-- The entry at a key. -/
def Sparse.find? {α : Type} : Sparse α → Nat → Option α
  | [], _ => none
  | (j, v) :: m, k => if j = k then some v else Sparse.find? m k

/-- The entry at a key, or a default. -/
def Sparse.getD {α : Type} (m : Sparse α) (k : Nat) (d : α) : α := (Sparse.find? m k).getD d

/-- The table with an entry set. -/
def Sparse.put {α : Type} : Sparse α → Nat → α → Sparse α
  | [], k, v => [(k, v)]
  | (j, w) :: m, k, v =>
    if j = k then (k, v) :: m else if k < j then (k, v) :: (j, w) :: m else (j, w) :: Sparse.put m k v

/-- The table without a key. -/
def Sparse.drop {α : Type} : Sparse α → Nat → Sparse α
  | [], _ => []
  | (j, w) :: m, k => if j = k then Sparse.drop m k else (j, w) :: Sparse.drop m k

/-- Change an entry that is present. -/
def Sparse.adjust {α : Type} (m : Sparse α) (k : Nat) (f : α → α) : Sparse α :=
  match Sparse.find? m k with
  | some v => Sparse.put m k (f v)
  | none => m

/-- The keys rise strictly. -/
def Sparse.ok {α : Type} (m : Sparse α) : Bool :=
  match m with
  | [] => true
  | (j, _) :: t => t.all (fun e => decide (j < e.1)) && Sparse.ok t

/-- Memory by physical address: an unlisted byte reads as zero (assumption log 1). -/
abbrev Memory := List Host.Cell

/-- One byte of memory. -/
def Memory.read (m : Memory) (a : Nat) : Byte := Sparse.getD m a 0

/-- Store one byte, keeping the canonical form: a zero byte is not listed. -/
def Memory.write (m : Memory) (a : Nat) (b : Byte) : Memory :=
  if b = 0 then Sparse.drop m a else Sparse.put m a b

/-- Canonical form: keys rise strictly and no entry is zero. -/
def Memory.wf (m : Memory) : Bool := Sparse.ok m && m.all (fun e => e.2 != 0)

/-- `n` bytes from an address. -/
def Memory.readN (m : Memory) (a n : Nat) : List Byte := (List.range n).map fun i => m.read (a + i)

/-- Store bytes from an address. -/
def Memory.writeN (m : Memory) (a : Nat) : List Byte → Memory
  | [] => m
  | b :: bs => Memory.writeN (m.write a b) (a + 1) bs

/-- Clear a range of addresses. -/
def Memory.clear (m : Memory) (a n : Nat) : Memory := m.filter fun e => !(decide (a ≤ e.1) && decide (e.1 < a + n))

end Sys2Proof.Machine
end

