-- ==== Sys2Proof/Machine/State.lean ====
section
/-! DEFINITION. The state of the module as plain data: every piece of state spec/ names, and the model's own
bookkeeping (the agenda of outside events, the issue in hand, a counter for free values). Tables are sparse;
an unlisted entry is at its reset value. -/

namespace Sys2Proof.Machine

/-- How a step stops for good. -/
inductive Fault where
  /-- An access by physical address to an address the spec gives no memory (02 R14): raised by the context, spill,
  lane-stack and deterministic areas when software names one outside HBM and LP-DRAM. Safe: the spec
  forbids it and gives no effect. -/
  | noMemory (pa : Nat)
  deriving DecidableEq, Repr

/-- Why a step has no meaning. -/
inductive Refusal where
  /-- An arm of exec without a meaning. Safe: the model stops. -/
  | notModelled (mnemonic : String)
  deriving DecidableEq, Repr

/-- Modes of a lane (14 R317). -/
inductive Mode where
  | u | s | h
  deriving DecidableEq, Repr

/-- Code of a mode in PMODE and DSTAT (14 R319, R331). -/
def Mode.code : Mode → Nat
  | .u => 0 | .s => 1 | .h => 2

/-- Mode of a code; 3 is reserved. -/
def Mode.ofCode : Nat → Option Mode
  | 0 => some .u | 1 => some .s | 2 => some .h | _ => none

/-- A task, by partition, task sequence and slot (13 R299); and by the use of the table entry, which a new descriptor, or enabling it
again, begins (13 R295). -/
structure TaskId where
  part : Nat
  qidx : Nat
  slot : Nat
  use : Nat
  deriving DecidableEq, Repr

/-! ### Lanes -/

/-- Clause state (05 R122 to R124): SETB, SETA, COUNT and POS of the clause in force. -/
structure Clause where
  setb : BitVec 4
  seta : BitVec 4
  count : BitVec 6
  pos : BitVec 6
  deriving DecidableEq, Repr

/-- Clause state at reset and wherever a clause is due (05 R124). -/
def Clause.due : Clause := ⟨15, 15, 0, 0⟩

/-- One loop register (07 R159). -/
structure LoopReg where
  valid : Bool
  mode : Mode
  start : DWord
  fin : DWord
  rem : Word
  deriving DecidableEq, Repr

/-- A loop register without a loop. -/
def LoopReg.none : LoopReg := ⟨false, .u, 0, 0, 0⟩

/-- The seven trap registers of one slot, T or H (14 R318, R319). -/
structure TrapSlot where
  pc : DWord
  cls : DWord
  cause : DWord
  val : DWord
  stat : DWord
  scra : DWord
  scrb : DWord
  deriving DecidableEq, Repr

/-- A trap slot at reset: TCLS holds SETA = SETB = 15 (05 R124). -/
def TrapSlot.reset : TrapSlot := ⟨0, 0xFF000, 0, 0, 0, 0, 0⟩

/-- The debug registers of a lane (14 R331). -/
structure Dbg where
  pc : DWord
  cls : DWord
  stat : DWord
  deriving DecidableEq, Repr

/-- The debug registers at reset. -/
def Dbg.reset : Dbg := ⟨0, 0xFF000, 0⟩

/-- What a lane that does not issue waits for. -/
inductive Wait where
  /-- a clause whose WAIT names raised flags (05 R122) -/
  | flags (mask : BitVec 12)
  /-- a flagged result that raised no flag (05 R125) -/
  | result (uid : Nat)
  /-- an interlocked operation not yet performed (11 R265) -/
  | held
  /-- a translation of a 64 KiB granule, by its key (02 R36) -/
  | miss (granule : Nat)
  /-- a flash line (02 R20) -/
  | flash (line : Nat)
  /-- a full outstanding counter (03 R62) -/
  | counter (cls : EngClass)
  /-- a flag at 63 (05 R125) -/
  | flagFull (f : Nat)
  /-- CWAIT (03 R64) -/
  | cwait (cls : EngClass) (n : Nat)
  /-- BWAIT on barrier 0 to 19 for a phase (04 R94) -/
  | barrier (b : Nat) (phase : Nat)
  /-- asleep at a PHASE or PHASE.TEAM of a length in bytes, until the collective completes (08 R201) -/
  | phase (team : Bool) (len : Nat)
  /-- SPOP on an empty queue, SPSH on a full one (04 R101) -/
  | stream (q : Nat)
  /-- DQPOP at an empty position, DQPSH on a full queue (08 R211) -/
  | decision
  /-- WWAIT armed in the wait table (08 R206) -/
  | wwait
  /-- WWAIT woken: returns when it executes again -/
  | woken
  /-- QLOCK queued at the lock (08 R205) -/
  | qlock
  /-- QLOCK granted: returns when it executes again -/
  | granted
  /-- the EXIT of a rope's last lane (07 R158) -/
  | exit
  /-- a TLBI in progress (02 R39) -/
  | tlbi (id : Nat)
  /-- a vector register to refill (05 R113) -/
  | vreg (reg : Nat)
  /-- free vector entries, `n` of them, for an instruction that names registers (05 R113) -/
  | entry (n : Nat) (named : List Nat)
  /-- a place in the core miss table (02 R36) -/
  | missFull
  /-- a place for a copy (04 R90) -/
  | copyFull
  /-- the release of a claimed slot, or tile, of a number (10 R242, R244) -/
  | release (tile : Bool) (n : Nat)
  /-- a tile version that is odd, until it is written even, behind the writers that came before the lane which queues for its group (03 R69) -/
  | version (pa lane : Nat)
  /-- room at the home slice of a lock, or of an armed word: the request is sent again (08 R205, 15 R344) -/
  | slice (pa : Nat) (lock : Bool)
  /-- an operation to be retried -/
  | room
  /-- LDV between two of its tries, with the repeats made (03 R70) -/
  | tile (repeats : Nat)
  /-- AFNC until DSLOT reaches a slot (12 R284) -/
  | durable (log slot : Nat)
  /-- the pair's other party (16 R364) -/
  | pair
  /-- a camp operation that must end first (10 R243), or a commit that waits in its slice (13 R303) -/
  | camp (uid : Nat)
  /-- an MMA, for a place in the reservation table (10 R238) -/
  | table
  /-- a read from another chip (11 R255) -/
  | remote (uid : Nat)
  /-- the last lanes of a party of a pair, at the EXIT that ends it (16 R366) -/
  | ended
  /-- a lane of the same instruction that sleeps there for both: a WWAIT with a scalar destination (08 R188, R206) -/
  | mate (lane : Nat)
  /-- a CCTL between two parts of its range: the address and the bytes that are left (08 R196) -/
  | range (va : DWord) (left : Nat)
  /-- a CCTL not yet complete, by name; whether it is an IINV, which IIACK counts (08 R196) -/
  | cache (uid : Nat) (iinv : Bool)
  deriving DecidableEq, Repr

/-- A lane, or the one lane of a lead thread (05 R106, 13 R291). -/
structure Lane where
  exited : Bool
  pc : DWord
  mode : Mode
  clause : Clause
  /-- p0 to p6 -/
  preds : BitVec 7
  lc0 : LoopReg
  lc1 : LoopReg
  /-- on-chip return stack, oldest first, at most 4 (07 R156) -/
  rstack : List DWord
  /-- spilled return-stack frames -/
  rsd : Nat
  t : TrapSlot
  h : TrapSlot
  dbg : Dbg
  /-- RAND stream position (07 R176) -/
  randPos : DWord
  /-- instructions retired (05 R110) -/
  rwc : DWord
  wait : Option Wait
  /-- CLOCK when the wait began (14 R333) -/
  since : DWord
  /-- issue opportunities since it became ready (13 R315) -/
  age : Nat
  /-- how far the instruction at which it stands has come, while another wait holds it: a lock granted, a wake that has come, a TLBI in
  progress, the tries of an LDV, the slot that an AFNC waits for, the range that a CCTL has left -/
  kept : Option Wait
  /-- base word of the instruction at which it went to sleep (14 R333) -/
  word : BitVec 64
  /-- the long-latency flash fault of that instruction is counted (02 R24) -/
  slow : Bool
  /-- what its log and the other party of its pair had come to when it began to wait for them (16 R364) -/
  seen : List Nat
  /-- instructions of handlers of REDUNDANT_MISMATCH that it has retired, which its pair does not compare (16 R367) -/
  skew : DWord
  /-- in such a handler: RWC at the mismatch, and how many returns it lies deep -/
  detour : Option (DWord × Nat)
  deriving DecidableEq, Repr

/-- A lane at the start of a rope, lead or micro-program (13 R311). -/
def Lane.start (pc : DWord) : Lane :=
  { exited := false, pc := pc, mode := .u, clause := .due, preds := 0, lc0 := .none, lc1 := .none,
    rstack := [], rsd := 0, t := .reset, h := .reset, dbg := .reset, randPos := 0, rwc := 0,
    wait := none, since := 0, age := 0, kept := none, word := 0, slow := false, seen := [], skew := 0, detour := none }

/-- A lane that does not exist. -/
def Lane.absent : Lane := { Lane.start 0 with exited := true }

/-- Why a walk fails: cause, sub-cause, and the IPA when the second stage failed; `node` where that is the IPA of a stage-1 entry, and not
that of the access. -/
structure WalkFault where
  cause : Cause
  sub : BitVec 4
  ipa : Option DWord
  node : Bool
  deriving DecidableEq, Repr

/-! ### Ropes, leads and producers -/

/-- Where a result goes: a register, with every part a 32-bit word, or a predicate. -/
inductive Dest where
  | vreg (reg lane : Nat)
  | sreg (reg : Nat)
  | pred (lane p : Nat)
  deriving DecidableEq, Repr

/-- A flagged result in flight (05 R125, R126), or an ACRD register form (10 R247): the flag it lowers, and
the destinations with the value each shall receive. -/
structure Flight where
  uid : Nat
  flag : Option Nat
  writes : List (Dest × Word)
  /-- the values are known from the issue; those of an ACRD are read when it is performed -/
  known : Bool := true
  deriving DecidableEq, Repr

/-- The 128-byte unit that an engine operation of a deterministic party has read last (16 R360): the line of its VA, its bytes, and the
sectors of it that could not be corrected. -/
structure EngineUnit where
  line : Nat
  bytes : List Byte
  lacks : BitVec 4
  deriving DecidableEq, Repr

/-- An operation counted in an outstanding counter (03 R62, R63), with the lane that issued it and that lane's RWC then, by which the log of
a deterministic party names its completion (16 R360). -/
structure OutOp where
  cls : EngClass
  uid : Nat
  done : Bool
  lane : Nat
  rwc : DWord
  last : Option EngineUnit
  deriving DecidableEq, Repr

/-- A deferred far write or atomic without return (03 R57): performed in order, by virtual address. -/
structure FarOp where
  uid : Nat
  lane : Nat
  va : DWord
  pa : Nat
  /-- none for a store; the operation (FN) and type of a RED -/
  red : Option (BitVec 3 × Ty)
  bytes : List Byte
  deriving DecidableEq, Repr

/-- A fault an engine holds for a lane (14 R402). -/
structure HeldFault where
  uid : Nat
  lane : Nat
  trap : Trap
  /-- the lane that has taken it, and how many returns lie between that lane and the point the trap left -/
  taken : Option (Nat × Nat)
  /-- the operation is at its end, and is complete once the fault is taken (15 R349) -/
  ends : Bool
  deriving DecidableEq, Repr

/-- A trace record in its place of an agent's issue order (16 R369): what it waits for is an operation, by name, or lanes that an
interlocked operation holds; with neither its instruction is complete, and the record has its CLOCK (16 R370). -/
structure Sample where
  due : Option Nat
  held : Word
  bytes : List Byte
  deriving DecidableEq, Repr

/-- A rope, a lead thread (one lane) or a producer slot. -/
structure Agent where
  /-- its party -/
  party : Nat
  /-- ROPEID in the party; 16 for the producer, 17 for the lead (16 R360) -/
  rope : Nat
  lanes : List Lane
  /-- live vector words, keyed 32 × register + lane: a word is listed exactly when its live bit is set (05 R111) -/
  vregs : Sparse Word
  sregs : List Word
  flags : List (BitVec 6)
  flights : List Flight
  ops : List OutOp
  far : List FarOp
  faults : List HeldFault
  /-- walk faults answered to waiting lanes, each of which takes its own, by granule (02 R36) -/
  answers : Sparse (Word × WalkFault)
  /-- engine operations that wait for a place in a miss table (02 R36 rule 2) -/
  stuck : List Nat
  lfsr : Word
  /-- RAND key (07 R176) -/
  key : DWord
  /-- group size when bound (09 R213) -/
  bound : Option Nat
  /-- NAN, PINF, NINF of each group (09 R225) -/
  sticky : List (BitVec 3)
  /-- lanes that have executed BARA on each barrier since the rope's last arrival (04 R93) -/
  bara : Sparse Word
  /-- read position in the decision queue (08 R211) -/
  dqPos : Nat
  /-- registers spilled to memory, with their live bits (05 R113) -/
  spilled : Sparse Word
  /-- words given to the agent at its start whose register still waits for an entry (05 R113), keyed as `vregs` -/
  owed : Sparse Word
  /-- a lead that yielded gives up its next issue opportunity (07 R154) -/
  yielded : Bool
  /-- trace records of the agent that are not yet in the buffer, in issue order (16 R369, R370) -/
  samples : List Sample
  deriving DecidableEq, Repr

/-! ### Parties and teams -/

/-- A barrier (04 R92). -/
structure Barrier where
  arr : Nat
  memb : Nat
  phase : Nat
  landb : Nat
  expb : Nat
  deriving DecidableEq, Repr

/-- A barrier in its reset state. -/
def Barrier.reset : Barrier := ⟨0, 0, 0, 0, 0⟩

/-- The bytes of one line that a party has read in its phase (03 R49), in L1's care or in a spill entry. -/
structure Mark where
  /-- the bytes marked -/
  mask : BitVec 128
  bytes : List Byte
  /-- the physical address of the spill entry, when spilled (03 R51) -/
  entry : Option Nat
  /-- the marked bytes that lie in the entry; the others are in L1's care -/
  spilled : BitVec 128
  deriving DecidableEq, Repr

/-- A claimed operand slot: its reservation record and bytes (10 R229, R230). -/
structure SlotClaim where
  ty : Ty
  fmt : Word
  off : Word
  metaSlot : Nat
  bytes : Memory
  deriving DecidableEq, Repr

/-- A claimed accumulator tile (10 R234): its type and nonzero words. -/
structure TileClaim where
  ty : Ty
  words : Sparse Word
  deriving DecidableEq, Repr

/-- The decision queue (08 R211): unfreed entries, oldest first, and the position of the first. -/
structure Decisions where
  base : Nat
  entries : List DWord
  deriving DecidableEq, Repr

/-- The part a party plays under a deterministic mode (16 R357). -/
inductive DetRole where
  | none | replay | leader | trailer
  deriving DecidableEq, Repr

/-- A party (13 R291). -/
structure Party where
  core : Nat
  /-- party slot on its core, 0 to 31 (01 R10, 03 R52) -/
  pslot : Nat
  task : TaskId
  partyId : Nat
  teamId : Nat
  rank : Nat
  nrope : Nat
  hasLead : Bool
  /-- keys of its agents: ropes in ROPEID order, then the lead -/
  agents : List Nat
  /-- key of its team, when the team has more than one party -/
  team : Option Nat
  /-- fields of the task record (13 R298) -/
  spadK : Nat
  prio : Nat
  seed : DWord
  param : DWord
  /-- LSVA (13 R311) -/
  lsva : DWord
  nparty : Nat
  /-- scratchpad region, unlisted bytes zero -/
  spad : Memory
  barriers : List Barrier
  dq : Decisions
  phaseId : Word
  /-- read bound, as a moment of `State.now` (03 R48) -/
  bound : Nat
  /-- read marks by physical line number (03 R49) -/
  marks : Sparse Mark
  slots : Sparse SlotClaim
  tiles : Sparse TileClaim
  role : DetRole
  /-- the pair or replay state it belongs to -/
  det : Option Nat
  /-- the deterministic slot it holds on its core (16 R357) -/
  detSlot : Option Nat
  /-- halted for pre-emption (14 R335) -/
  halted : Bool
  deriving DecidableEq, Repr

/-- A team of more than one party (13 R291): its barriers and members in rank order. -/
structure Team where
  barriers : List Barrier
  members : List Nat
  deriving DecidableEq, Repr

/-! ### Engines of a core -/

/-- A traverse record (04 R84). -/
structure Traverse where
  counts : List Nat
  sstr : List Int
  dstr : List Int
  esz : Nat
  ssp : Nat
  dsp : Nat
  deriving DecidableEq, Repr

/-- A copy issued and not yet complete (04 R89 to R91). -/
structure Copy where
  uid : Nat
  agent : Nat
  lane : Nat
  trav : Traverse
  sbase : DWord
  dbase : DWord
  bar : Nat
  /-- elements done -/
  next : Nat
  held : Bool
  mode : Mode
  /-- bytes moved for operand slots and not yet written there, by slot address (10 R237) -/
  slotted : Sparse Byte
  deriving DecidableEq, Repr

/-- A gather or scatter in flight (08 R194): the elements still to move. -/
structure Gather where
  uid : Nat
  agent : Nat
  scatter : Bool
  esz : Nat
  bar : Nat
  bytes : Nat
  /-- lane, global address, scratchpad address of each element not yet moved, and whether it is held -/
  elems : List (Nat × DWord × Word × Bool)
  mode : Mode
  deriving DecidableEq, Repr

/-- An append in flight (12 R282). -/
structure Append where
  uid : Nat
  agent : Nat
  lane : Nat
  desc : DWord
  seq : Nat
  ns : Nat
  len : Nat
  tag : Nat
  spad : Bool
  src : DWord
  /-- the source bytes read so far: the place that a source fault holds (12 R282) -/
  got : List Byte
  /-- the record is written, and its commit waits -/
  written : Bool
  held : Bool
  mode : Mode
  deriving DecidableEq, Repr

/-- A collective, block copy or other COL operation in flight (15 R350 to R355). -/
structure ColOp where
  uid : Nat
  agent : Nat
  lane : Nat
  /-- 0 RBLK.seq, 1 .get, 2 .put, 3 COLL -/
  kind : Nat
  remote : Bool
  chip : Nat
  src : DWord
  dst : DWord
  bytes : Nat
  bar : Nat
  /-- record and group of a COLL -/
  record : List Byte
  group : List Byte
  /-- contributions received, by rank -/
  got : Sparse (List Byte)
  /-- bytes acknowledged or landed; of a COLL 1 once its contributions are sent, 2 once DST is written -/
  landed : Nat
  met : List Nat
  /-- contributions of this rank that have been delivered, by rank and element offset (15 R355) -/
  acked : List Nat
  held : Bool
  mode : Mode
  deriving DecidableEq, Repr

/-- A stream queue: entries of 32 words, oldest first (04 R100). -/
structure StreamQ where
  entries : List (List Word)
  deriving DecidableEq, Repr

/-- A dirty byte of L1: its value, the party that wrote it, and whether a redundant leader holds it back (16 R365). -/
structure DirtyByte where
  val : Byte
  owner : Nat
  held : Bool
  deriving DecidableEq, Repr

/-- A clean line of L1: its bytes, when it was filled, as a moment of `State.now`, and the sectors that the line lacks, since they could not
be corrected when it was filled (02 R22, R23). -/
structure CleanLine where
  bytes : List Byte
  stamp : Nat
  lacks : BitVec 4
  deriving DecidableEq, Repr

/-- A TLB entry (02 R35): tags, virtual base, size in bytes, physical base, and the leaf's permission bits. -/
structure TlbEntry where
  part : Nat
  asid : Nat
  va : Nat
  size : Nat
  pa : Nat
  /-- low 12 bits of the leaf (02 R27); D tells whether a write may use it -/
  bits : BitVec 12
  /-- low 12 bits of the stage-2 leaf, all ones without stage 2 -/
  bits2 : BitVec 12
  /-- physical addresses of the stage-1 leaf and, in a guest, the stage-2 leaf -/
  pte : Nat
  pte2 : Option Nat
  /-- intermediate physical base, in a guest -/
  ipa : Option Nat
  /-- the leaves as the walk found them (02 R31) -/
  entry : DWord
  entry2 : DWord
  /-- in a guest, the IPA base and the size of the stage-2 leaf (02 R38) -/
  range2 : Option (Nat × Nat)
  /-- the size of the stage-1 leaf -/
  size1 : Nat
  deriving DecidableEq, Repr

/-- The entry of a run of leaves that first filled a TLB since a TLBI covered the run there (02 R30): of the first stage, by virtual address,
or of the second, by IPA. -/
structure Run where
  part : Nat
  asid : Nat
  guest : Bool
  second : Bool
  base : Nat
  size : Nat
  pte : Nat
  entry : DWord
  deriving DecidableEq, Repr

/-- A TLB: its entries, oldest first, and the runs that have filled it. -/
structure Tlb where
  entries : List TlbEntry
  runs : List Run
  deriving DecidableEq, Repr

/-- A TLB without translations. -/
def Tlb.empty : Tlb := ⟨[], []⟩

/-- A request for a translation (02 R36): who waits on a 64 KiB granule. -/
structure Miss where
  part : Nat
  asid : Nat
  granule : Nat
  guest : Bool
  /-- a fetch waits on it, and an access to data: the translation fills the instruction TLB, the data TLB or both -/
  fetch : Bool
  data : Bool
  /-- agents and lanes that wait; a copy, or another engine operation, by `unitWho` -/
  waiters : List (Nat × Word)
  deriving DecidableEq, Repr

/-- A request at a die: from a core's miss table, or from the engine miss table of the die (`core` = 320 + die), with the roots of the
requester's tables. -/
structure DieReq where
  core : Nat
  part : Nat
  asid : Nat
  granule : Nat
  fetch : Bool
  root : Nat
  g2 : Option Nat
  deriving DecidableEq, Repr

/-- A walk in progress, and the requests it answers. -/
structure Walk where
  reqs : List DieReq
  deriving DecidableEq, Repr

/-- A pointer entry of the walk cache (02 R35): tags, level, virtual prefix and node address. -/
structure WalkPtr where
  part : Nat
  asid : Nat
  guest : Bool
  level : Nat
  vpn : Nat
  node : Nat
  deriving DecidableEq, Repr

/-- A TLBI in progress (02 R39): scope, target, operand, who issued it and the cores yet to acknowledge. -/
structure TlbInv where
  id : Nat
  agent : Nat
  lanes : Word
  part : Nat
  asid : Nat
  target : Nat
  va : Nat
  scope : Nat
  left : List Nat
  deriving DecidableEq, Repr

/-- Privileged registers that a core banks per partition (14 R318). -/
structure Bank where
  stvec : DWord
  ptbase : DWord
  snapbase : DWord
  /-- SNAPSIZE.SIZE; USED is counted from the entries in use -/
  snapsize : Nat
  lstkbase : DWord
  ctxbase : DWord
  detbase : DWord
  g2base : DWord
  hdeleg : DWord
  qcore : DWord
  qfloor : DWord
  deriving DecidableEq, Repr

/-- A quota word at full capacity (13 R305): LEAD 16, SPAD 448, VREG 2,048, ROPE 64, PARTY 32. -/
def quotaFull : DWord := BitVec.ofNat 64 (16 * 2 ^ 34 + 448 * 2 ^ 25 + 2048 * 2 ^ 13 + 64 * 2 ^ 6 + 32)

/-- A bank at reset; partition 0 has full quota (13 R305). -/
def Bank.reset (p : Nat) : Bank :=
  ⟨0, 0, 0, 0, 0, 0, 0, 0, 0, if p = 0 then quotaFull else 0, 0⟩

/-- Counters of a core (02 R24, 04 R83, 08 R196, 16 R367, R369). -/
structure Counters where
  llf : DWord
  wmrg : DWord
  wq : DWord
  bcr : DWord
  iiack : DWord
  rm : DWord
  trdly : DWord
  trdrop : DWord
  deriving DecidableEq, Repr

/-- A snapshot spill entry in use (03 R51): its address, partition, line and marking parties. -/
structure SnapUse where
  pa : Nat
  part : Nat
  line : Nat
  parties : List Nat
  deriving DecidableEq, Repr

/-- A place of the active set: the rope in it, or no agent's key when the rope has ended, and for how many issue cycles it has held
it. -/
structure Place where
  agent : Nat
  held : Nat
  deriving DecidableEq, Repr

/-- A pending rope, and for how many cycles it has been ready (13 R312). -/
structure Pending where
  agent : Nat
  ready : Nat
  deriving DecidableEq, Repr

/-- A core (01 R10). -/
structure Core where
  /-- SRAMCFG (04 R75): requested and current scratchpad size, and PEND -/
  spadReq : Nat
  spadCur : Nat
  spadPend : Bool
  counters : Counters
  htvec : DWord
  hstopa : DWord
  wdog : DWord
  /-- DBGREQ as last written (14 R331) -/
  dbgreq : DWord
  banks : Sparse Bank
  dirty : Sparse DirtyByte
  clean : Sparse CleanLine
  snaps : List SnapUse
  itlb : Tlb
  dtlb : Tlb
  misses : List Miss
  /-- L0 instruction cache: bytes by physical line number -/
  icache : Sparse (List Byte)
  copies : List Copy
  gathers : List Gather
  appends : List Append
  cols : List ColOp
  queues : List StreamQ
  queuesClosed : Bool
  /-- the party that owns the producer slot and the queues (04 R98) -/
  producer : Option Nat
  active : List Place
  pending : List Pending
  ropePtr : Nat
  leadPtr : Nat
  /-- ready lanes that the 64th opportunity of their rope has passed (13 R315), as agent and lane -/
  aging : List (Nat × Nat)
  /-- frames in use, by partition × 64 + frame (14 R337) -/
  frames : List Nat
  /-- vector registers in the file, least recently used first, keyed 128 × slot + register (05 R113) -/
  vfile : List Nat
  /-- trace records buffered, by partition (16 R369) -/
  trace : List (Nat × List Byte)
  /-- MEM-class instructions counted towards a sample, by partition -/
  sampled : Sparse Nat
  deriving DecidableEq, Repr

/-- A core at reset. -/
def Core.reset : Core :=
  { spadReq := 0, spadCur := 0, spadPend := false, counters := ⟨0, 0, 0, 0, 0, 0, 0, 0⟩, htvec := 0, hstopa := 0,
    wdog := 0, dbgreq := 0, banks := [], dirty := [], clean := [], snaps := [], itlb := .empty, dtlb := .empty,
    misses := [], icache := [], copies := [], gathers := [], appends := [], cols := [],
    queues := List.replicate 4 ⟨[]⟩, queuesClosed := false, producer := none, active := [], pending := [],
    ropePtr := 0, leadPtr := 0, aging := [], frames := [], vfile := [], trace := [], sampled := [] }

/-! ### Camps -/

/-- The matrix operations of a camp (10 R236). -/
inductive CampKind where
  /-- MMA: A and B slots by party and logical number, tile, zero, KLEN -/
  | mma (aParty a bParty b tile : Nat) (zero : Bool) (klen : Nat)
  | old (slot : Nat) (src : Word) (off len bar : Nat)
  /-- ACRD register form: destination register, lanes, index -/
  | acrdReg (tile dst : Nat) (lanes : Word) (index uid : Nat)
  /-- ACWR register form: index, lane and datum -/
  | acwrReg (tile index : Nat) (data : List (Nat × Word))
  | acrdSpad (tile : Nat) (dst : Word) (first rows : Nat) (ty : Ty) (fn : BitVec 3)
  | acwrSpad (tile : Nat) (src : Word) (first rows : Nat)
  /-- a key block of an ATTN: descriptor, record, tile, the block's first slot, the number of the ATTN, and its query slot as its occupancy
  found it -/
  | attn (desc : DWord) (rec : List Byte) (tile : Nat) (next : Nat) (parent : Nat) (query : Option SlotClaim)
  | attnf (tile : Nat)
  | orel (slot : Nat)
  | arel (tile : Nat)
  deriving DecidableEq, Repr

/-- Where a matrix operation stands. -/
inductive CampPhase where
  /-- arrived, at a moment of CLOCK, with its number among those of one moment; a key block, or a withdrawn entry of a resumed party, waits
  for a place in the reservation table -/
  | arrived (since : DWord) (n : Nat)
  /-- in the reservation table, with its wait counter W, its AGE and its arrival number (10 R238) -/
  | tabled (w age seq : Nat)
  /-- granted: cycles of its occupancy left (10 R228) -/
  | granted (left : Nat)
  /-- its occupancy has ended: cycles until its tile is written, and the words to write -/
  | writing (left : Nat) (words : Sparse Word)
  /-- held at a fault (11 R276, 14 R402) -/
  | held
  deriving DecidableEq, Repr

/-- A matrix operation, in its place of the arrival order. -/
structure CampOp where
  uid : Nat
  agent : Nat
  party : Nat
  lane : Nat
  mode : Mode
  prio : Nat
  kind : CampKind
  phase : CampPhase
  deriving DecidableEq, Repr

/-- A camp: its quota words by partition (13 R305), its operations in arrival order, and its instruction cache. -/
structure Camp where
  qcamp : Sparse DWord
  ops : List CampOp
  icache : Sparse (List Byte)
  deriving DecidableEq, Repr

/-- A camp at reset. -/
def Camp.reset : Camp := ⟨[], [], []⟩

/-- QCAMP at reset (13 R305). -/
def qcampReset (p : Nat) : DWord := if p = 0 then BitVec.ofNat 64 (32 * 2 ^ 8 + 128) else 0

/-! ### Dies -/

/-- A compute die. -/
structure Die where
  clock : DWord
  /-- model: the cores, and the camps as 320 + number, that have had the cycle that CLOCK counts (01 R11) -/
  cycled : List Nat
  /-- throttle step (17 R383) -/
  step : Nat
  ready : Bool
  ltlb : Tlb
  wcache : List WalkPtr
  walks : List Walk
  queue : List DieReq
  /-- the engine miss table (02 R35, R36) -/
  engMisses : List Miss
  deriving DecidableEq, Repr

/-- A die at reset: READY is 0 until its function sets it (17 R373, R375). -/
def Die.reset : Die := ⟨0, [], 0, false, .empty, [], [], [], []⟩

/-! ### Partitions and the distributor -/

/-- A task-sequence table entry as the distributor last read it (13 R294, R295). -/
structure TaskSeq where
  desc : DWord
  prio : Nat
  en : Bool
  done : Nat
  /-- CL it last saw (13 R296) -/
  seen : Nat
  /-- model: how often the entry has been put to use -/
  use : Nat
  deriving DecidableEq, Repr

/-- An entry never read: treated as EN = 0. -/
def TaskSeq.off : TaskSeq := ⟨0, 0, false, 0, 0, 0⟩

/-- Where a task in the window stands (13 R297, 14 R334). -/
structure Task where
  id : TaskId
  /-- the descriptor of the sequence that its record was read from -/
  desc : DWord
  record : List Byte
  /-- parties placed so far, or dropped -/
  placed : Nat
  /-- parties that have ended -/
  ended : Nat
  /-- keys of the parties placed and not ended, and of their trailers -/
  live : List Nat
  /-- held by a SAVE -/
  held : Bool
  /-- status of its completion, once it has ended -/
  status : Option Nat
  /-- its completion record is appended, or not needed -/
  complete : Bool
  deriving DecidableEq, Repr

/-- The privileged registers and the distributor's state of a partition. -/
structure Partition where
  tasktab : DWord
  compdesc : DWord
  /-- PREQ (14 R334): slot, QIDX, BUSY, RES -/
  preq : DWord
  /-- the task of the request in progress, whatever QIDX and SLOT hold -/
  preqFor : Option TaskId
  dreq : DWord
  trctl : DWord
  partcfg : DWord
  /-- FABCFG without CHIP -/
  fabcfg : DWord
  seqs : List TaskSeq
  tasks : List Task
  /-- completions not yet appended, in order -/
  pendings : List TaskId
  /-- completion records written whose commit is parked, by the number of the commit (13 R301) -/
  appended : List (Nat × TaskId)
  /-- placement stopped by a failed append, until the pending ones succeed (13 R301) -/
  stopped : Bool
  /-- the last append met a fault: the next waits for a write to COMPDESC or TASKTAB -/
  faulted : Bool
  deriving DecidableEq, Repr

/-- A partition at reset. -/
def Partition.reset : Partition :=
  ⟨0, 0, 0, none, 0, 0, 0, 0, List.replicate 16 .off, [], [], [], false, false⟩

/-- A saved party with everything its frame holds (14 R338). The regions of fixed layout lie in memory too. -/
structure Saved where
  party : Party
  agents : List (Nat × Agent)
  team : Option (List Barrier)
  /-- producer rope and queues, when the party owns them -/
  producer : Option (Agent × List StreamQ × Bool)
  copies : List Copy
  gathers : List Gather
  appends : List Append
  cols : List ColOp
  ops : List CampOp
  /-- core and frame that hold it; none for a checkpoint -/
  frame : Option (Nat × Nat)
  deriving DecidableEq, Repr

/-! ### Determinism -/

/-- What an outside read or effect gave one lane: the registers it wrote, or the trap it delivered, and bytes that it brought, with the
address that they were read from, or for an LDV the scratchpad address that they were written to. -/
structure LaneRec where
  lane : Nat
  writes : List (Dest × Word)
  trap : Option Trap
  data : Option (DWord × List Byte)
  deriving DecidableEq, Repr

/-- A log entry (16 R360): its header and payload, and for a FAR, EVENT or FAULT entry what each lane received. -/
structure LogEntry where
  kind : Nat
  rope : Nat
  mask : Word
  rwc : DWord
  payload : List Byte
  opc : BitVec 8
  recs : List LaneRec
  /-- the engine operation that the instruction began, by name, and its particulars for COLL, RBLK and APND -/
  op : Option Nat
  col : Option ColOp
  app : Option Append
  /-- the lanes whose instruction the entry ends, those of a group that acts once with it -/
  done : Word
  /-- the lanes for which the instruction acted, and the moment at which it did -/
  group : Word
  moment : Nat
  /-- of an engine's LINE, the sectors that could not be corrected -/
  lacks : BitVec 4
  deriving DecidableEq, Repr

/-- An outside effect of one lane of a rope, at its RWC: the instruction's fields and operands, for the comparison of R364. -/
structure Effect where
  rope : Nat
  lane : Nat
  rwc : DWord
  opc : BitVec 8
  operands : List DWord
  deriving DecidableEq, Repr

/-- The state of a deterministic party or pair (16 R357 to R367). -/
structure Det where
  leader : Nat
  trailer : Option Nat
  /-- checkpoints of the leader and of the trailer -/
  checkpoint : Option Saved
  checkpoint2 : Option Saved
  log : List LogEntry
  /-- how many entries the leader, or a replayed party, has taken again: by rope × 2, + 1 for its engines -/
  cursor : Sparse Nat
  /-- how many entries the trailer has taken, likewise -/
  cursor2 : Sparse Nat
  /-- the outside effects that lanes of the trailer have issued -/
  posted : List Effect
  /-- lines that a trailer or a replay has taken, and its own phased stores, by VA -/
  lines : Sparse (List Byte)
  own : Sparse Byte
  /-- bytes written by the leader's phased stores in the interval, by VA -/
  wrote : Sparse Byte
  /-- lines logged since the read bound and not written since: VA line and physical line -/
  seen : List (Nat × Nat)
  /-- lines that a leader has taken from the log as it executes again, not written since, by VA line -/
  taken : Sparse (List Byte)
  /-- the RWC at which a re-execution has caught up with what came before it, by rope × 32 + lane -/
  reached : Sparse DWord
  mismatches : Nat
  /-- the pair is halted after a third mismatch, with the code of TVAL -/
  halted : Option Nat
  /-- replaying (16 R362): stop rope, lane and count -/
  replay : Option (Nat × Nat × DWord)
  /-- the party as saved before a replay -/
  aside : Option Saved
  deriving DecidableEq, Repr

/-! ### Slices, harts, fabric, storage, platform -/

/-- Who waits at a home slice: a lane of an agent, a hart's window, the distributor for a partition's task sequence or, as number
16, for its completion sequence. -/
inductive Waiter where
  | lane (agent lane : Nat)
  | hart (n : Nat)
  | dist (part qidx : Nat)
  deriving DecidableEq, Repr

/-- A lock waiter (08 R205): the lock's physical address, the owner words it would write, and whether its record lies in the slice's
overflow list. -/
structure LockWait where
  pa : Nat
  who : Waiter
  word0 : DWord
  word1 : DWord
  overflow : Bool
  deriving DecidableEq, Repr

/-- An armed wait entry (08 R206, 15 R344). -/
structure WaitEntry where
  part : Nat
  asid : Nat
  va : DWord
  slice : Nat
  who : Waiter
  overflow : Bool
  deriving DecidableEq, Repr

/-- Who translates: partition, ASID, root of the page table, and of the second stage in a guest (02 R26, R34). -/
structure Space where
  part : Nat
  asid : Nat
  root : Nat
  g2 : Option Nat
  deriving DecidableEq, Repr

/-- Through whom an access is made: a lane of an agent, an engine operation of one, the distributor or the storage processor, or a hart, in a
mode. -/
inductive Via where
  | lane (agent : Nat) (mode : Mode)
  /-- an operation of an engine, by its name, or of the copy engine -/
  | unit (agent uid : Nat) (mode : Mode) (copy : Bool)
  | direct (die core : Nat) (space : Space) (mode : Mode)
  | hart (n : Nat) (space : Space) (mode : Mode)
  deriving DecidableEq, Repr

/-- A commit of one slot that returned BUSY and waits in its slice (13 R301, R303, 16 R369). -/
structure Parked where
  uid : Nat
  via : Via
  desc : DWord
  slot : Nat
  deriving DecidableEq, Repr

/-- A read of another chip's memory that a lane or an engine waits for (11 R255), and what it brought. -/
structure Remote where
  uid : Nat
  agent : Nat
  chip : Nat
  va : DWord
  len : Nat
  answer : Option (Except (Cause × BitVec 4) (List Byte))
  deriving DecidableEq, Repr

/-- An operation in progress as its write of OP found it: the operands, and the space of its accesses (15 R342). -/
structure HartCall where
  code : Nat
  fn : Nat
  args : List DWord
  ctx : DWord
  root : DWord
  root2 : DWord
  mode : Mode
  deriving DecidableEq, Repr

/-- The RISC-V trap of a hart's own access (15 R340, 17 R372). -/
inductive HartFault where
  | loadAccess | loadPage | storeAccess | storePage
  deriving DecidableEq, Repr

/-- A hart and its operation window (15 R341, R342). The level and the roots by which it runs come with each of its own accesses. -/
structure Hart where
  ctx : DWord
  args : List DWord
  /-- the operation in progress -/
  op : Option HartCall
  sts : DWord
  res : DWord
  /-- model: machine mode, in which translation is off, is `h` -/
  mode : Mode
  /-- the roots of its tables, as PTBASE and G2BASE hold them (02 R26, R34) -/
  root : DWord
  root2 : DWord
  /-- a wait that has been woken, or a lock granted -/
  woken : Bool
  /-- what the operation in progress waits for -/
  wait : Option Wait
  /-- the result that it has to deliver -/
  pend : DWord
  /-- the hart's own TLB (02 R35) -/
  tlb : Tlb
  /-- the trap that its last own access took, with the address -/
  trap : Option (HartFault × DWord)
  /-- the bytes that its last own load brought -/
  loaded : List Byte
  deriving DecidableEq, Repr

/-- A hart at reset. -/
def Hart.reset : Hart := ⟨0, List.replicate 5 0, none, 0, 0, .h, 0, 0, false, none, 0, .empty, none, []⟩

/-- A Roilo message (15 R348), by its kind: 0 READ, 1 READ_DATA, 2 WRITE, 3 WRITE_ACK, 4 RDV, 5 CDATA, 6 NAK. -/
structure Msg where
  kind : Nat
  job : Nat
  chip : Nat
  tag : Nat
  addr : DWord
  len : Nat
  offset : Nat
  rank : Nat
  payload : List Byte
  /-- reason of a NAK: cause code and SUB, or a mismatch -/
  cause : Option (Cause × BitVec 4)
  deriving DecidableEq, Repr

/-- A message sent to another chip. -/
structure Sent where
  dest : Nat
  msg : Msg
  deriving DecidableEq, Repr

/-- A durable stream's binding (12 R278, R279). -/
structure FlashLog where
  part : Nat
  desc : DWord
  base : DWord
  size : Nat
  dlw : DWord
  err : Bool
  dslot : Nat
  deriving DecidableEq, Repr

/-- Status of a cairn (17 R373, R375): READY, FAIL with its error code. -/
structure CairnStat where
  ready : Bool
  fail : Option DWord
  deriving DecidableEq, Repr

/-- The 1 GiB configuration region of flash stack 0, outside the physical address map (17 R377): the configuration records placed in it, each
a string of bytes. The certificate that it holds from manufacture on (17 R380) is `identityCertificate`. -/
structure Region where
  records : List ConfigRecord
  deriving DecidableEq, Repr

/-- The platform: cairns, configuration and the security block (17). -/
structure Platform where
  cairns : Sparse CairnStat
  /-- records applied, by TYPE, and rejections counted -/
  applied : Sparse ConfigRecord
  rejected : Nat
  /-- SM3 digests of firmware images and applied records, in load order -/
  measured : List (List Byte)
  /-- REFTIME in ns at reset (17 R376); it goes on with time -/
  reftime : DWord
  /-- PA of the request-sequence descriptors (17 R376) -/
  storageSeq : Nat
  securitySeq : Nat
  /-- how many requests of each have been served (12 R278, 17 R381) -/
  storageDone : Nat
  securityDone : Nat
  /-- flash programming stopped by heat (17 R384) -/
  programStopped : Bool
  /-- booted, or failed (17 R380) -/
  booted : Bool
  /-- configuration region -/
  region : Region
  deriving DecidableEq, Repr

/-- The platform at reset. -/
def Platform.reset : Platform := ⟨[], [], 0, [], 0, 0, 0, 0, 0, false, false, ⟨[]⟩⟩

/-- One issue: the lanes of an agent that execute one instruction together (13 R313). -/
structure Issue where
  agent : Nat
  lanes : Word
  /-- address, length in bytes and base word of the instruction -/
  pc : DWord
  len : Nat
  word : BitVec 64
  deriving DecidableEq, Repr

/-- The module. -/
structure State where
  mem : Memory
  /-- 32-byte sectors that hold an uncorrectable error, by number (02 R22) -/
  badSectors : List Nat
  /-- flash lines that cannot be corrected (02 R21) -/
  badFlash : List Nat
  /-- flash lines that the storage processor is reading (02 R20) -/
  slowFlash : List Nat
  /-- flash lines that it has delivered, whose reads wait no more -/
  landedFlash : List Nat
  agents : Sparse Agent
  parties : Sparse Party
  teams : Sparse Team
  cores : Sparse Core
  camps : Sparse Camp
  dies : Sparse Die
  parts : Sparse Partition
  saved : List Saved
  dets : Sparse Det
  tlbis : List TlbInv
  /-- walk faults answered to copies and other engine operations (02 R36), as the operation's name, the granule and the fault -/
  answered : List (Nat × Nat × WalkFault)
  locks : List LockWait
  waits : List WaitEntry
  /-- writers that wait for a tile version at its home slice, in order of arrival (03 R69): physical address, agent and lane -/
  versions : List (Nat × Nat × Nat)
  harts : Sparse Hart
  /-- this module's chip number (15 R347) -/
  chip : Nat
  msgs : Sparse Msg
  sent : List Sent
  remotes : List Remote
  parked : List Parked
  logs : List FlashLog
  platform : Platform
  /-- model: outside events that happen next -/
  agenda : List Instr
  /-- model: issues chosen by the last issue cycle and not yet executed -/
  ports : List Issue
  /-- model: the issue in hand -/
  issue : Issue
  /-- model: lines that L1 evicts at the next fill, as (core, physical line) -/
  evicts : List (Nat × Nat)
  /-- model: counts the free values drawn -/
  fresh : Nat
  /-- model: moments, advanced by every step, that read bounds and fills refer to -/
  now : Nat
  /-- model: whose turn the default schedule takes -/
  turn : Nat
  /-- model: names operations -/
  uid : Nat
  deriving DecidableEq, Repr

/-- No issue. -/
def Issue.none : Issue := ⟨0, 0, 0, 0, 0⟩

/-- The module right after reset: every register at its reset value, no party resident, memory with nothing listed. -/
def State.reset : State :=
  { mem := [], badSectors := [], badFlash := [], slowFlash := [], landedFlash := [], agents := [], parties := [], teams := [], cores := [],
    camps := [], dies := [], parts := [], saved := [], dets := [], tlbis := [], answered := [], locks := [], waits := [], versions := [], harts := [],
    chip := 0, msgs := [], sent := [], remotes := [], parked := [], logs := [], platform := .reset, agenda := [], ports := [], issue := .none,
    evicts := [], fresh := 0, now := 0, turn := 0, uid := 0 }

end Sys2Proof.Machine
end

