-- ==== Sys2Proof/Machine/Ops.lean ====
section
/-! DEFINITION. Named operations over the state: reading and changing agents, lanes, registers, cores and memory, and the
effect monad of the meanings. -/

namespace Sys2Proof.Machine

/-! ### The effect monad -/

/-- Why the effect of an instruction in a lane ends early: a trap of that lane, a wait of the whole issue
group, or a stop of the machine. Whatever the effect had changed is undone. -/
inductive Abort where
  | trap (t : Trap)
  | wait (w : Wait)
  | miss (fetch : Bool) (granule : Nat)
  /-- an operation of an agent's engine misses: its name, whether it is a copy, and the granule (02 R36) -/
  | unitMiss (agent uid : Nat) (copy : Bool) (mode : Mode) (va : Nat)
  /-- the two parties of a redundant pair differ (16 R364) -/
  | mismatch
  /-- a read of another chip must come first (11 R255): for whom, the chip, the address and the length -/
  | remote (who part chip : Nat) (va : DWord) (len : Nat)
  | fault (f : Fault)
  deriving DecidableEq, Repr

/-- An effect over the state. -/
abbrev M := StateT State (Except Abort)

/-- End with an abort. -/
def abort {α : Type} (a : Abort) : M α := fun _ => .error a

/-- Raise a trap with its cause and TVAL. -/
def raise {α : Type} (c : Cause) (val : DWord) : M α := abort (.trap ⟨c, 0, val, false⟩)

/-- Raise a trap with a sub-cause. -/
def raiseSub {α : Type} (c : Cause) (sub : BitVec 4) (val : DWord) : M α := abort (.trap ⟨c, sub, val, false⟩)

/-- Wait with the whole issue group. -/
def waitFor {α : Type} (w : Wait) : M α := abort (.wait w)

/-- Raise unless a condition holds. -/
def require (p : Bool) (c : Cause) (val : DWord) : M Unit := if p then pure () else raise c val

/-- Run an effect and hand back its trap, undoing what it had changed; other aborts pass on. -/
def attempt {α : Type} (m : M α) : M (Except Trap α) := fun s =>
  match m s with
  | .ok (a, s') => .ok (.ok a, s')
  | .error (.trap t) => .ok (.error t, s)
  | .error e => .error e

/-- Run an effect for each element in order. -/
def forEach {α : Type} (xs : List α) (f : α → M Unit) : M Unit :=
  match xs with
  | [] => pure ()
  | x :: t => do f x; forEach t f

/-- Collect an effect's answers in order. -/
def collect {α β : Type} (xs : List α) (f : α → M β) : M (List β) :=
  match xs with
  | [] => pure []
  | x :: t => do let y ← f x; let ys ← collect t f; pure (y :: ys)

/-! ### Places -/

/-- Core of an agent's key: keys are 128 × core + slot, with slots 0 to 63 ropes, 64 the producer, 65 to 80 leads. -/
def coreOf (k : Nat) : Nat := k / 128
/-- Slot of an agent's key. -/
def slotOf (k : Nat) : Nat := k % 128
/-- The agent is a lead thread. -/
def isLead (k : Nat) : Bool := 65 ≤ k % 128
/-- The agent is a producer slot. -/
def isProducer (k : Nat) : Bool := k % 128 == 64
/-- Camp of a core (01 R8). -/
def campOf (core : Nat) : Nat := core / 4
/-- Die of a core (01 R8). -/
def dieOf (core : Nat) : Nat := core / 160

/-- An agent that does not exist: every lane has exited. -/
def Agent.absent : Agent :=
  { party := 0, rope := 0, lanes := [], vregs := [], sregs := [], flags := [], flights := [], ops := [], far := [],
    faults := [], answers := [], stuck := [], lfsr := 1, key := 0, bound := none, sticky := [], bara := [],
    dqPos := 0, spilled := [], owed := [], yielded := false, samples := [] }

/-- A party that does not exist. -/
def Party.absent : Party :=
  { core := 0, pslot := 0, task := ⟨0, 0, 0, 0⟩, partyId := 0, teamId := 0, rank := 0, nrope := 0, hasLead := false, agents := [],
    team := none, spadK := 0, prio := 0, seed := 0, param := 0, lsva := 0, nparty := 0, spad := [], barriers := [],
    dq := ⟨0, []⟩, phaseId := 0, bound := 0, marks := [], slots := [], tiles := [], role := .none, det := none,
    detSlot := none, halted := false }

namespace State

/-- A core. -/
def core (s : State) (c : Nat) : Core := Sparse.getD s.cores c Core.reset
/-- Replace a core. -/
def setCore (s : State) (c : Nat) (x : Core) : State := { s with cores := Sparse.put s.cores c x }
/-- A camp. -/
def camp (s : State) (c : Nat) : Camp := Sparse.getD s.camps c Camp.reset
/-- Replace a camp. -/
def setCamp (s : State) (c : Nat) (x : Camp) : State := { s with camps := Sparse.put s.camps c x }
/-- A die. -/
def die (s : State) (d : Nat) : Die := Sparse.getD s.dies d Die.reset
/-- Replace a die. -/
def setDie (s : State) (d : Nat) (x : Die) : State := { s with dies := Sparse.put s.dies d x }
/-- A partition. -/
def part (s : State) (p : Nat) : Partition := Sparse.getD s.parts p Partition.reset
/-- Replace a partition. -/
def setPart (s : State) (p : Nat) (x : Partition) : State := { s with parts := Sparse.put s.parts p x }
/-- An agent. -/
def agent (s : State) (k : Nat) : Agent := Sparse.getD s.agents k Agent.absent
/-- Replace an agent. -/
def setAgent (s : State) (k : Nat) (a : Agent) : State := { s with agents := Sparse.put s.agents k a }
/-- A party. -/
def party (s : State) (p : Nat) : Party := Sparse.getD s.parties p Party.absent
/-- Replace a party. -/
def setParty (s : State) (p : Nat) (x : Party) : State := { s with parties := Sparse.put s.parties p x }
/-- A hart. -/
def hart (s : State) (h : Nat) : Hart := Sparse.getD s.harts h Hart.reset
/-- Replace a hart. -/
def setHart (s : State) (h : Nat) (x : Hart) : State := { s with harts := Sparse.put s.harts h x }
/-- A lane. -/
def lane (s : State) (k l : Nat) : Lane := (s.agent k).lanes.getD l Lane.absent
/-- Change a lane. -/
def mapLane (s : State) (k l : Nat) (f : Lane → Lane) : State :=
  let a := s.agent k
  s.setAgent k { a with lanes := a.lanes.modify l f }
/-- The party of an agent. -/
def partyOf (s : State) (k : Nat) : Party := s.party (s.agent k).party
/-- The partition of an agent. -/
def partOf (s : State) (k : Nat) : Nat := (s.partyOf k).task.part
/-- A core's bank for a partition (14 R318). -/
def bank (s : State) (c p : Nat) : Bank := Sparse.getD (s.core c).banks p (Bank.reset p)
/-- Replace a bank. -/
def setBank (s : State) (c p : Nat) (b : Bank) : State :=
  let x := s.core c
  s.setCore c { x with banks := Sparse.put x.banks p b }
/-- CLOCK of a core's die (05 R110). -/
def clock (s : State) (c : Nat) : DWord := (s.die (dieOf c)).clock
/-- QCAMP of a camp for a partition (13 R305). -/
def qcamp (s : State) (c p : Nat) : DWord := Sparse.getD (s.camp c).qcamp p (qcampReset p)

end State

/-- Change the core. -/
def modCore (c : Nat) (f : Core → Core) : M Unit := modify fun s => s.setCore c (f (s.core c))
/-- Change the agent. -/
def modAgent (k : Nat) (f : Agent → Agent) : M Unit := modify fun s => s.setAgent k (f (s.agent k))
/-- Change the party. -/
def modParty (p : Nat) (f : Party → Party) : M Unit := modify fun s => s.setParty p (f (s.party p))
/-- Change the camp. -/
def modCamp (c : Nat) (f : Camp → Camp) : M Unit := modify fun s => s.setCamp c (f (s.camp c))
/-- Change the die. -/
def modDie (d : Nat) (f : Die → Die) : M Unit := modify fun s => s.setDie d (f (s.die d))
/-- Change the partition. -/
def modPart (p : Nat) (f : Partition → Partition) : M Unit := modify fun s => s.setPart p (f (s.part p))
/-- Change a lane. -/
def modLane (k l : Nat) (f : Lane → Lane) : M Unit := modify fun s => s.mapLane k l f

/-- A new name for an operation. -/
def newUid : M Nat := fun s => .ok (s.uid, { s with uid := s.uid + 1 })

/-! ### Quotas (13 R306, R307) -/

/-- A request of `n` units of a resource by partition `p` is allowed (13 R307). -/
def quotaAllows (cap n p : Nat) (used quota floor : Nat → Nat) : Bool :=
  let ps := List.range 16
  let free := cap - (ps.map used).sum
  let reserved := ((ps.filter (· != p)).map fun q => floor q - used q).sum
  decide (used p + n ≤ quota p) && decide (n ≤ free) && (decide (n + reserved ≤ free) || decide (used p + n ≤ floor p))

/-! ### Masks of lanes -/

/-- The lanes of a mask, ascending. -/
def lanesOf (m : Word) : List Nat := (List.range 32).filter fun l => m.getLsbD l

/-- The mask of a list of lanes. -/
def maskOf (ls : List Nat) : Word := ls.foldl (fun m l => m ||| ((1 : Word) <<< l)) 0

/-- The lanes of an agent that have not exited. -/
def Agent.live (a : Agent) : List Nat :=
  (List.range a.lanes.length).filter fun l => !(a.lanes.getD l Lane.absent).exited

/-- Every lane has exited. -/
def Agent.ended (a : Agent) : Bool := a.live.isEmpty

/-! ### Registers -/

/-- Predicate p of a lane: p7 reads as 1 (05 R108). -/
def Lane.pred (x : Lane) (p : Nat) : Bool := if 7 ≤ p then true else x.preds.getLsbD p

/-- Set a predicate: a write to p7 has no effect (05 R108). -/
def Lane.setPred (x : Lane) (p : Nat) (v : Bool) : Lane :=
  if 7 ≤ p then x
  else { x with preds := if v then x.preds ||| ((1 : BitVec 7) <<< p) else x.preds &&& ~~~((1 : BitVec 7) <<< p) }

/-- Vector register of a lane: a dead one reads as 0 (05 R111). -/
def Agent.vreg (a : Agent) (reg l : Nat) : Word := Sparse.getD a.vregs (32 * reg + l) 0

/-- Scalar register. -/
def Agent.sreg (a : Agent) (reg : Nat) : Word := a.sregs.getD reg 0

/-- Write a vector register of a lane and set its live bit (05 R111). -/
def Agent.setV (a : Agent) (reg l : Nat) (v : Word) : Agent :=
  { a with vregs := Sparse.put a.vregs (32 * reg + l) v }

/-- Write a scalar register. -/
def Agent.setS (a : Agent) (reg : Nat) (v : Word) : Agent := { a with sregs := a.sregs.set reg v }

/-- Clear a live bit (05 R111), of a word that lies spilled or is still to be given as well. -/
def Agent.kill (a : Agent) (reg l : Nat) : Agent :=
  let spilled := a.spilled.map fun (e : Nat × Word) => if e.1 == reg then (e.1, e.2 &&& ~~~((1 : Word) <<< l)) else e
  { a with
    vregs := Sparse.drop a.vregs (32 * reg + l)
    spilled := spilled.filter fun e => e.1 != reg || e.2 != 0
    owed := a.owed.filter fun e => e.1 != 32 * reg + l }

/-- Write a destination. -/
def Agent.write (a : Agent) (d : Dest) (v : Word) : Agent :=
  match d with
  | .vreg reg l => a.setV reg l v
  | .sreg reg => a.setS reg v
  | .pred l p => { a with lanes := a.lanes.modify l fun x => x.setPred p (v != 0) }

/-- Write destinations in order. -/
def Agent.writeAll (a : Agent) (ws : List (Dest × Word)) : Agent :=
  ws.foldl (fun a w => a.write w.1 w.2) a

/-- A later write or clearing of a destination discards the flagged results on their way to it (05 R126). -/
def Agent.discard (a : Agent) (ds : List Dest) : Agent :=
  { a with flights := a.flights.map fun f => { f with writes := f.writes.filter fun w => !ds.contains w.1 } }

/-- How many operations of a class are counted: the outstanding counter (03 R62). -/
def Agent.counter (a : Agent) (c : EngClass) : Nat := (a.ops.filter fun o => o.cls == c).length

/-- The outstanding operations left once those that are done and the oldest of their class have been reported
(03 R63): an operation stays counted until every older one of its class is complete. -/
def reportOps (blocked : List EngClass) : List OutOp → List OutOp
  | [] => []
  | o :: t =>
    if o.done && !blocked.contains o.cls then reportOps blocked t
    else o :: reportOps (o.cls :: blocked) t

/-- Mark an operation done and report what can be reported. -/
def Agent.finish (a : Agent) (uid : Nat) : Agent :=
  { a with ops := reportOps [] (a.ops.map fun o => if o.uid == uid then { o with done := true } else o) }

/-! ### Physical memory -/

/-- Tiers of the physical map (02 R14). -/
def tierOf (pa : Nat) : Option Nat :=
  if pa < 0x8000000000 then some 0
  else if pa < 0x10000000000 then some 1
  else if 0x100000000000 ≤ pa && pa < 0x180000000000 then some 2
  else none

/-- HBM stack, 0 to 7, of an address in an HBM range (02 R15): stacks 0 to 3 stand on die 0, stacks 4 to 7 on die 1 (01 R7). -/
def hbmStack (pa : Nat) : Nat := 4 * (pa / 2 ^ 38 % 2) + pa / 2 ^ 12 % 4

/-- Flash stack, 0 to 3, of an address in flash (02 R15). -/
def flashStack (pa : Nat) : Nat := pa / 2 ^ 21 % 4

/-- Fabric engine of an Ethernet port, 0 to 127 (01 R7). -/
def portEngine (port : Nat) : Nat := port / 8

/-- Home slice of a physical address (02 R17): die and slice. -/
def homeSlice (pa : Nat) : Nat × Nat :=
  let die := if tierOf pa = some 0 then pa / 2 ^ 38 % 2 else pa / 2 ^ 12 % 2
  let q := pa / 2 ^ 7 % 2 ^ 45
  (die, (q % 2 ^ 13 + q / 2 ^ 13 % 2 ^ 13 + q / 2 ^ 26 % 2 ^ 13 + q / 2 ^ 39 % 2 ^ 6) % 80)

/-- The home slice as one number. -/
def sliceOf (pa : Nat) : Nat := 80 * (homeSlice pa).1 + (homeSlice pa).2

/-- The 32-byte sectors that `n` bytes touch. -/
def sectors (pa n : Nat) : List Nat := (List.range (ceilDiv (pa % 32 + n) 32)).map (pa / 32 + ·)

/-- Whether a read of bytes meets an uncorrectable sector (02 R22). -/
def State.eccBad (s : State) (pa n : Nat) : Bool := (sectors pa n).any s.badSectors.contains

/-- Store bytes at their home slices: a write that covers a sector whole clears its error (02 R22). -/
def State.writeHome (s : State) (pa : Nat) (bs : List Byte) : State :=
  { s with
    mem := s.mem.writeN pa bs
    badSectors := s.badSectors.filter fun x => !(decide (pa ≤ 32 * x) && decide (32 * x + 32 ≤ pa + bs.length)) }

/-- The storage processor begins to read a flash line (02 R20). -/
def State.startFlash (s : State) (line : Nat) : State :=
  if s.slowFlash.contains line || s.landedFlash.contains line then s else { s with slowFlash := s.slowFlash ++ [line] }

/-- Whether a writer may take a tile's version word: it is even, and no writer came before (03 R69). -/
def State.versionOpen (s : State) (pa k l : Nat) : Bool :=
  leNat (s.mem.readN pa 8) % 2 == 0 && (s.versions.find? fun e => e.1 == pa).all (· == (pa, k, l))

/-- The lane that queues for a group of lanes at a tile's version word: one of them that is in the queue, or else the issuing lane. -/
def State.versionLane (s : State) (pa k : Nat) (lanes : List Nat) (l : Nat) : Nat :=
  ((s.versions.find? fun e => e.1 == pa && e.2.1 == k && lanes.contains e.2.2).map (·.2.2)).getD l

/-- A writer queues for a tile's version word, once. -/
def State.queueVersion (s : State) (pa k l : Nat) : State :=
  if s.versions.contains (pa, k, l) then s else { s with versions := s.versions ++ [(pa, k, l)] }

/-- Bytes by physical address in HBM, LP-DRAM or flash; other addresses have no memory (02 R14). -/
def physRead (pa n : Nat) : M (List Byte) := fun s =>
  if (tierOf pa).isSome && (tierOf (pa + n - 1)).isSome then .ok (s.mem.readN pa n, s)
  else .error (.fault (.noMemory pa))

/-- Store bytes by physical address in HBM or LP-DRAM (the areas of 03 R52, 05 R113, 07 R157, 14 R337, 16 R358). -/
def physWrite (pa : Nat) (bs : List Byte) : M Unit := fun s =>
  if (tierOf pa).any (· < 2) && (tierOf (pa + bs.length - 1)).any (· < 2) then .ok ((), s.writeHome pa bs)
  else .error (.fault (.noMemory pa))

/-- The key of no agent. -/
def noAgent : Nat := 128 * 320

/-- An agent leaves the active set; its place stays free until a pending rope fills it (13 R312). -/
def Core.vacate (x : Core) (p : Nat → Bool) : Core :=
  { x with active := x.active.map fun e => if p e.agent then ⟨noAgent, 0⟩ else e }

/-- A core or a camp has a cycle. When it has had the one that CLOCK counts already, a new one begins on its die: cores and arrays share
one clock (01 R11, assumption log 6). -/
def State.tickDie (s : State) (d who : Nat) : State :=
  let x := s.die d
  s.setDie d (if x.cycled.contains who then { x with clock := x.clock + 1, cycled := [who] } else { x with cycled := who :: x.cycled })

/-! ### Clause state (05 R122 to R124) -/

/-- A clause is due: the next instruction must be a CLH. -/
def Clause.isDue (c : Clause) : Bool := c.count == 0

/-- The clause state after one more of its instructions. -/
def Clause.next (c : Clause) : Clause :=
  if c.pos + 1 == c.count then .due else { c with pos := c.pos + 1 }

/-- TCLS layout of a clause state (05 R124). -/
def Clause.toCls (c : Clause) : DWord :=
  ((0 : BitVec 44) ++ c.setb ++ c.seta ++ c.count ++ c.pos)

/-- Clause state of a TCLS value. -/
def Clause.ofCls (x : DWord) : Clause :=
  ⟨x.extractLsb' 16 4, x.extractLsb' 12 4, x.extractLsb' 6 6, x.extractLsb' 0 6⟩

/-! ### Waits -/

/-- The wait says how far an instruction has come, which a later wait at that instruction does not undo. -/
def Wait.isStep : Wait → Bool
  | .granted | .woken | .tlbi _ | .tile _ | .durable _ _ | .range _ _ => true
  | _ => false

/-- How far the instruction at which a lane stands has come. -/
def Lane.step (x : Lane) : Option Wait := (x.wait.filter Wait.isStep).or x.kept

/-- Put a lane to wait, noting when it began; a lane that waits on keeps its moment, and one that waits for something else at the same
instruction keeps what it has come to. -/
def Lane.sleep (x : Lane) (w : Wait) (clock : DWord) : Lane :=
  if x.wait = some w then x
  else { x with wait := some w, since := clock, age := 0, kept := if w.isStep then none else x.step }

/-- A lane leaves the instruction at which it stands. -/
def Lane.leave (x : Lane) : Lane := { x with wait := none, age := 0, kept := none, slow := false }

/-- End a lane's wait. -/
def Lane.wakeUp (x : Lane) : Lane := { x with wait := none }

/-- Put the lanes of a mask to wait. -/
def State.sleep (s : State) (k : Nat) (ls : List Nat) (w : Wait) : State :=
  ls.foldl (fun s l => s.mapLane k l fun x => x.sleep w (s.clock (coreOf k))) s

/-- End the wait of every lane of an agent that a test picks. -/
def State.wakeLanes (s : State) (k : Nat) (p : Wait → Bool) : State :=
  let a := s.agent k
  s.setAgent k { a with lanes := a.lanes.map fun x => if x.wait.any p then x.wakeUp else x }

/-- End the wait of every lane of every agent that a test picks. -/
def State.wakeAll (s : State) (p : Wait → Bool) : State :=
  { s with agents := s.agents.map fun e =>
      (e.1, { e.2 with lanes := e.2.lanes.map fun x => if x.wait.any p then x.wakeUp else x }) }

/-- Keys of the resident agents of a core. -/
def State.coreAgents (s : State) (c : Nat) : List Nat :=
  (s.agents.filter fun e => coreOf e.1 == c).map (·.1)

/-- Keys of the parties resident on a core. -/
def State.coreParties (s : State) (c : Nat) : List Nat :=
  (s.parties.filter fun e => e.2.core == c).map (·.1)

/-- The parties resident on the cores of a camp. -/
def State.campParties (s : State) (c : Nat) : List (Nat × Party) :=
  s.parties.filter fun e => campOf e.2.core == c

/-! ### Taking a trap and returning from one (14 R319 to R324, R327, R331, R332) -/

/-- The cause is delegable (14 R323). -/
def delegable : Cause → Bool
  | .hvcall | .debugHalt | .doubleTrap | .stage2Absent | .stage2Protection => false
  | _ => true

/-- TCAUSE layout (14 R319). -/
def causeWord (c : Cause) (sub : BitVec 4) (eng : Bool) : DWord :=
  (0 : BitVec 51) ++ BitVec.ofBool eng ++ sub ++ c.code

/-- NEST of a TSTAT value. -/
def nestOf (stat : DWord) : Bool := stat.getLsbD 2

/-- TSTAT layout (14 R319). -/
def statWord (bound : Bool) (preds : BitVec 7) (pnest nest : Bool) (pmode : Mode) : DWord :=
  (0 : BitVec 52) ++ BitVec.ofBool bound ++ preds ++ BitVec.ofBool pnest ++ BitVec.ofBool nest ++
    BitVec.ofNat 2 pmode.code

/-- DSTAT layout (14 R331). -/
def dstatWord (pend : Bool) (cause : BitVec 8) (inh : Bool) (mode : Mode) (level halted : Bool) : DWord :=
  (0 : BitVec 47) ++ BitVec.ofBool pend ++ cause ++ (0 : BitVec 3) ++ BitVec.ofBool inh ++
    BitVec.ofNat 2 mode.code ++ BitVec.ofBool level ++ BitVec.ofBool halted

/-- HALTED of DSTAT. -/
def Lane.halted (x : Lane) : Bool := x.dbg.stat.getLsbD 0
/-- PEND of DSTAT. -/
def Lane.haltPend (x : Lane) : Bool := x.dbg.stat.getLsbD 16

/-- Halt a lane at its boundary (14 R331). -/
def Lane.halt (x : Lane) (cause : BitVec 8) (level : Bool) : Lane :=
  { x with dbg := ⟨x.pc, x.clause.toCls, dstatWord false cause (x.mode != .u) x.mode level true⟩ }

/-- The vector base that trap entry to a mode uses. -/
def State.vectorBase (s : State) (k : Nat) (m : Mode) : DWord :=
  if m = .s then (s.bank (coreOf k) (s.partOf k)).stvec else (s.core (coreOf k)).htvec

/-- Where a trap of a lane goes (14 R321, R322, R324): the mode, and the cause, sub-cause and value after a
possible escalation to DOUBLE_TRAP. -/
def trapTarget (x : Lane) (hdeleg : DWord) (t : Trap) : Mode × Trap :=
  let deleg := x.mode != .h && delegable t.cause && hdeleg.getLsbD t.cause.code.toNat
  if deleg && x.mode == .s && !nestOf x.t.stat then
    (.h, ⟨.doubleTrap, 0, ((0 : BitVec 52) ++ t.sub ++ t.cause.code), t.eng⟩)
  else (if deleg then .s else .h, t)

/-- What trap entry writes into a trap slot (14 R321). -/
def TrapSlot.enter (x : TrapSlot) (t : Trap) (pc : DWord) (cl : Clause) (mode : Mode) (preds : BitVec 7)
    (bound : Bool) : TrapSlot :=
  { x with
    pc := pc, cls := cl.toCls, cause := causeWord t.cause t.sub t.eng, val := t.val
    stat := statWord bound preds (nestOf x.stat) false mode }

/-- Trap entry of one lane (14 R321): the slot is written, the mode and the pc change, and nothing else; a
trap in H with HSTAT.NEST = 0 stops the lane (R332). A user-level halt that pends is left pending. -/
def Lane.trap (x : Lane) (hdeleg : DWord) (base : Mode → DWord) (bound : Bool) (t : Trap) (pc : DWord)
    (cl : Clause) : Lane :=
  if x.mode = .h && !nestOf x.h.stat then
    ({ x.leave with pc := pc, clause := cl } : Lane).halt t.cause.code true
  else
    let (m, t') := trapTarget x hdeleg t
    let x' : Lane := { x.leave with
      mode := m, pc := (base m &&& ~~~(0xFFF : DWord)) + BitVec.ofNat 64 (64 * t'.cause.code.toNat)
      clause := .due }
    if m = .s then { x' with t := x.t.enter t' pc cl x.mode x.preds bound }
    else { x' with h := x.h.enter t' pc cl x.mode x.preds bound }

/-- A trap of a lane whose handler serves an engine fault lies one return further from where that fault struck. -/
def HeldFault.deeper (f : HeldFault) (l : Nat) : HeldFault :=
  match f.taken with
  | some (j, n) => if j == l then { f with taken := some (j, n + 1) } else f
  | none => f

/-- A lane in a handler of REDUNDANT_MISMATCH takes a trap: it lies one return deeper (16 R367). -/
def Lane.deeper (x : Lane) : Lane := { x with detour := x.detour.map fun d => (d.1, d.2 + 1) }

/-- A lane has returned from a trap: with the last return of a handler of REDUNDANT_MISMATCH, what it has retired there counts no more in the
comparison of its pair (16 R367). -/
def Lane.rejoin (x : Lane) : Lane :=
  match x.detour with
  | none => x
  | some (r, n) => if n ≤ 1 then { x with skew := x.skew + (x.rwc - r), detour := none } else { x with detour := some (r, n - 1) }

/-- The count of retired instructions by which a pair, a log and a replay line up (16 R360, R367). -/
def Lane.count (x : Lane) : DWord := x.rwc - x.skew

/-- Halt a lane, at once or once it is in U. -/
def Lane.request (x : Lane) (level : Bool) : Lane :=
  if x.halted then x
  else if level || x.mode == .u then x.halt Cause.debugHalt.code level
  else { x with dbg := { x.dbg with stat := x.dbg.stat ||| 0x10000 } }

/-- After a thermal halt every lane is halted at system level, those of parties placed or resumed later too (17 R384). -/
def State.heatHalts (s : State) (ks : List Nat) : State :=
  let stop := fun (x : Lane) => if x.exited then x else x.request true
  if s.platform.programStopped then
    { s with agents := s.agents.map fun e => if ks.contains e.1 then (e.1, { e.2 with lanes := e.2.lanes.map stop }) else e }
  else s

/-- Trap entry stops the lane instead (14 R321, R332). -/
def Lane.trapStops (x : Lane) : Bool := x.mode == .h && !nestOf x.h.stat

/-- A lane that a halt holds and that has taken a trap is halted at the pc and clause position it has come to (14 R331: trap first, then
halt). -/
def Lane.haltAgain (x old : Lane) : Lane :=
  if old.halted && !old.trapStops then x.halt (old.dbg.stat.extractLsb' 8 8) (old.dbg.stat.getLsbD 1) else x

/-- A lane takes a trap (14 R321), with the pc and clause position to save; a halted one stands at its handler's first instruction, halted
(14 R331). -/
def State.takeTrap (s : State) (k l : Nat) (t : Trap) (pc : DWord) (cl : Clause) : State :=
  let deleg := (s.bank (coreOf k) (s.partOf k)).hdeleg
  let bound := (s.agent k).bound.isSome
  let a := s.agent k
  let s := if a.faults.isEmpty then s else s.setAgent k { a with faults := a.faults.map fun f => f.deeper l }
  s.mapLane k l fun x => (x.deeper.trap deleg (s.vectorBase k) bound t pc cl).haltAgain x

/-- The slot that ERET of a lane uses. -/
def Lane.eretSlot (x : Lane) : TrapSlot := if x.mode = .h then x.h else x.t

/-- What ERET restores (14 R327): NEST from PNEST, p0 to p6, the mode, the pc and the clause position. -/
def Lane.eret (x : Lane) (m : Mode) : Lane :=
  let sl := x.eretSlot
  let stat := if sl.stat.getLsbD 3 then sl.stat ||| 4 else sl.stat &&& ~~~(4 : DWord)
  let sl' : TrapSlot := { sl with stat := stat }
  let x' : Lane := { x.leave with mode := m, pc := sl.pc, clause := .ofCls sl.cls, preds := sl.stat.extractLsb' 4 7 }
  if x.mode = .h then { x' with h := sl' } else { x' with t := sl' }

/-- A user-level halt that pends takes effect where the lane is in U (14 R331). -/
def Lane.boundary (x : Lane) : Lane :=
  if x.haltPend && x.mode == .u && !x.exited then x.halt Cause.debugHalt.code false else x

end Sys2Proof.Machine
end

