-- ==== Sys2Proof/Machine/Flags.lean ====
section
/-! DEFINITION. Flags and flagged results (spec/05 R122 to R126): what a read of a destination in flight returns, raising and
lowering a flag, and landing a result. -/

namespace Sys2Proof.Machine

/-- The choice of R126 for a flight, in a lane, or in a group of a bound rope (09 R219): the new value. -/
def earlyChoice (s : State) (k uid l : Nat) : Bool :=
  let i := match (s.agent k).bound with | some n => l / n | none => l
  Config.earlyRead ((s.fresh * 2 ^ 64 + uid) * 64 + i)

/-- The value that a flight brings to a destination. -/
def Flight.find (f : Flight) (d : Dest) : Option Word := (f.writes.find? fun w => w.1 == d).map (·.2)

/-- What a read of a destination returns while results are on their way to it: the old value, or that of one of
them, in issue order (05 R126). -/
def earlyValue (s : State) (k l : Nat) (d : Dest) (old : Word) : Word :=
  ((s.agent k).flights.filter (·.known)).foldl (fun v f => match f.find d with
    | some w => if earlyChoice s k f.uid l then w else v
    | none => v) old

/-- Read a vector register of a lane (05 R111, R126). -/
def State.readV (s : State) (k reg l : Nat) : Word :=
  earlyValue s k l (.vreg reg l) ((s.agent k).vreg reg l)

/-- Read a scalar register. -/
def State.readS (s : State) (k reg : Nat) : Word := earlyValue s k 0 (.sreg reg) ((s.agent k).sreg reg)

/-- Read a predicate of a lane (05 R108). -/
def State.readP (s : State) (k l p : Nat) : Bool :=
  if 7 ≤ p then true
  else earlyValue s k l (.pred l p) (if (s.lane k l).pred p then 1 else 0) != 0

/-- A flight still has something to bring to a destination. -/
def Agent.inFlight (a : Agent) (p : Dest → Bool) : Option Nat :=
  (a.flights.find? fun f => f.known && f.writes.any fun w => p w.1).map (·.uid)

/-- The value of a flag. -/
def Agent.flag (a : Agent) (f : Nat) : BitVec 6 := a.flags.getD f 0

/-- The flag that a flagged instruction raises: SETA or SETB by FS; 15 raises none (05 R125). A clause position that ERET restores may
hold 12 to 14, which name no flag: the spec does not say what a flagged instruction then does; here it raises none and its lanes do
not wait (assumption log 91). -/
def flagOf (c : Clause) (fs : Bool) : Option Nat :=
  let f := if fs then c.setb else c.seta
  if f == 15 then none else some f.toNat

/-- The flags that WAIT names and that are not 0 (05 R122). -/
def Agent.raised (a : Agent) (wait : BitVec 12) : Bool :=
  (List.range 12).any fun n => wait.getLsbD n && a.flag n != 0

/-- Send a result on its way and raise its flag (05 R125). -/
def Agent.launch (a : Agent) (f : Flight) : Agent :=
  { a with
    flights := a.flights ++ [f]
    flags := match f.flag with
      | some n => a.flags.set n (a.flag n + 1)
      | none => a.flags }

/-- Land a result: its destinations are written, results issued before it are kept from overwriting them, and its flag
falls by one (05 R125, R126). -/
def Agent.land (a : Agent) (uid : Nat) : Agent :=
  match a.flights.find? fun f => f.uid == uid with
  | none => a
  | some f =>
    let older := (a.flights.takeWhile fun g => g.uid != uid).map fun g =>
      { g with writes := g.writes.filter fun w => (f.find w.1).isNone }
    let newer := (a.flights.dropWhile fun g => g.uid != uid).drop 1
    let a : Agent := { a with
      flights := older ++ newer
      flags := match f.flag with
        | some n => a.flags.set n (a.flag n - 1)
        | none => a.flags }
    let alive := f.writes.filter fun w => match w.1 with
      | .vreg _ l => !(a.lanes.getD l Lane.absent).exited
      | .pred l _ => !(a.lanes.getD l Lane.absent).exited
      | .sreg _ => true
    a.writeAll alive

end Sys2Proof.Machine
end

