-- ==== Sys2Proof/Machine/Mmu.lean ====
section
/-! DEFINITION. Address translation (spec/02): page-table entries, the walk with its second stage, the TLBs and the
permission checks of R29. -/

namespace Sys2Proof.Machine

/-- Kinds of access that R29 distinguishes. -/
inductive Access where
  | fetch | load | store | atomic
  deriving DecidableEq, Repr

/-- The access writes. -/
def Access.writes : Access → Bool
  | .store | .atomic => true
  | _ => false

/-- VA[63:55] repeats VA[54] (02 R25). -/
def canonical (va : DWord) : Bool := (va.setWidth 55).signExtend 64 == va

/-- An 8-byte word of memory by physical address. -/
def State.word64 (s : State) (pa : Nat) : DWord := BitVec.ofNat 64 (leNat (s.mem.readN pa 8))

/-- Physical address that an entry's PPN names. -/
def ptePa (e : DWord) : Nat := (e.extractLsb' 16 36).toNat * 65536

/-- What an entry is (02 R28): absent, malformed, a pointer, or a leaf. Level 2 is the top, 0 the bottom. -/
inductive PteKind where
  | absent | bad | pointer | leaf
  deriving DecidableEq, Repr

/-- Decode an entry (02 R28, R32). -/
def pteKind (level : Nat) (e : DWord) : PteKind :=
  let v := e.getLsbD 0
  let r := e.getLsbD 1
  let w := e.getLsbD 2
  let x := e.getLsbD 3
  let rsv := e.extractLsb' 52 12 != 0 || e.extractLsb' 12 4 != 0
  let tier := (e.extractLsb' 8 2).toNat
  let ppn := e.extractLsb' 16 36
  if !v then .absent
  else if rsv then .bad
  else if !r && !w && !x then
    if level == 0 then .bad
    else if e.extractLsb' 1 11 != 0 then .bad
    else if (tierOf (ptePa e)).any (· < 2) then .pointer else .bad
  else if w && !r then .bad
  else if e.getLsbD 10 && tier == 2 then .bad
  else if level == 2 && (e.getLsbD 11 || ppn.extractLsb' 0 26 != 0) then .bad
  else if level == 1 && ppn.extractLsb' 0 13 != 0 then .bad
  else .leaf

/-- Bits of address below a level's index: 16, 29, 42 (02 R26). -/
def levelShift : Nat → Nat
  | 0 => 16 | 1 => 29 | _ => 42

/-- Size of the translation a leaf gives, contiguity included (02 R30). -/
def leafSize (level : Nat) (e : DWord) : Nat :=
  if e.getLsbD 11 then (if level == 0 then 2 ^ 21 else 2 ^ 36) else 2 ^ levelShift level

/-- The window of a hart holds an address: its 64 KiB frame of the register space (15 R341). -/
def inWindow (pa : Nat) : Bool := decide (0xF000001000000 ≤ pa) && decide (pa < 0xF000001000000 + 64 * 65536)

/-- The tier of a physical address for the check of R29; the frame of a hart's window counts as tier 0 when a hart translates (15 R341). -/
def tierFor (hart : Bool) (pa : Nat) : Option Nat := if hart && inWindow pa then some 0 else tierOf pa

/-- A leaf that maps a hart's window has R = W = 1 and X = 0 (15 R341). -/
def windowLeaf (pa : Nat) (bits : BitVec 12) : Bool := !inWindow pa || (bits.getLsbD 1 && bits.getLsbD 2 && !bits.getLsbD 3)

/-- A leaf found by a walk of one stage. -/
structure Leaf where
  pte : Nat
  entry : DWord
  size : Nat
  base : Nat
  deriving DecidableEq, Repr

/-- Address of an access under a leaf. -/
def Leaf.addr (l : Leaf) (a : Nat) : Nat := l.base + a % l.size

/-- The checks of a leaf that the access does not decide (02 R29), for the address that it gives: TIER is not 3, TIER fits the address. -/
def leafCheck (hart : Bool) (e : DWord) (pa : Nat) : Option (BitVec 4) :=
  let tier := (e.extractLsb' 8 2).toNat
  if tier == 3 then some 2 else if tierFor hart pa != some tier then some 3 else none

/-- Entries of a run at a level (02 R30). -/
def runLength : Nat → Nat
  | 0 => 32 | _ => 128

/-- Entries that stand as a run break the rule of 02 R30: some leaf among them has CH = 1, and they do not all have CH = 1 and equal
fields, A and D apart, with PPNs that rise by one page from an aligned one. -/
def runBroken (s : State) (level pte : Nat) : Bool :=
  let n := runLength level
  let first := pte / (8 * n) * (8 * n)
  let size := 2 ^ levelShift level
  let table : List Host.Cell := s.mem.filter fun c => decide (first ≤ c.1) && decide (c.1 < first + 8 * n)
  let at_ := fun (i : Nat) => BitVec.ofNat 64 (leNat (Memory.readN table (first + 8 * i) 8))
  let base := ptePa (at_ 0)
  let fields := fun (x : DWord) => x &&& ~~~(0xFFFFFFFFF00C0 : DWord)
  let joined := fun (i : Nat) => pteKind level (at_ i) == .leaf && (at_ i).getLsbD 11
  (List.range n).any joined && (base % (n * size) != 0 || (List.range n).any fun i =>
    !joined i || fields (at_ i) != fields (at_ 0) || ptePa (at_ i) != base + i * size)

/-- Level of a run's entries. -/
def Run.level (r : Run) : Nat := if r.size == 2 ^ 21 then 0 else 1

/-- The leaf by which a run translates: the base of its entry's PPN with the bits of the run cleared. -/
def Run.leaf (r : Run) : Leaf := ⟨r.pte, r.entry, r.size, ptePa r.entry / r.size * r.size⟩

/-- Whether a run holds an address of a stage in a space; a run of global leaves holds it in every space of the partition. -/
def Run.holds (r : Run) (sp : Space) (second : Bool) (addr : Nat) : Bool :=
  r.part == sp.part && r.guest == sp.g2.isSome && r.second == second && (second || r.asid == sp.asid || r.entry.getLsbD 5) &&
    decide (r.base ≤ addr) && decide (addr < r.base + r.size)

/-- The leaf by which a TLB translates an address inside a run that breaks its rule, whatever the address's own entry says: that of the entry
which first filled the TLB (02 R30). -/
def State.runLeaf (s : State) (runs : List Run) (sp : Space) (second : Bool) (addr : Nat) : Option Leaf :=
  (runs.find? fun r => r.holds sp second addr && runBroken s r.level r.pte).map Run.leaf

/-- One stage of a walk from a node, with a translation of entry addresses (the second stage, or none). The
pointers passed on the way are collected. -/
def walkStage (s : State) (hart : Bool) (entryPa : Nat → Except WalkFault Nat) (addr : Nat) :
    Nat → Nat → List (Nat × Nat) → Except WalkFault (Leaf × List (Nat × Nat))
  | level, node, ptrs =>
    match entryPa (node + 8 * (addr / 2 ^ levelShift level % 8192)) with
    | .error f => .error f
    | .ok pa =>
      if s.eccBad pa 8 then .error ⟨.eccUncorrectable, 0, none, false⟩ else
      let e := s.word64 pa
      match pteKind level e with
      | .absent => .error ⟨.pageAbsent, 0, none, false⟩
      | .bad => .error ⟨.pageProtection, 1, none, false⟩
      | .leaf =>
        let size := leafSize level e
        let l : Leaf := ⟨pa, e, size, ptePa e / size * size⟩
        match leafCheck hart e (l.addr addr) with
        | some sub => .error ⟨.pageProtection, sub, none, false⟩
        | none => .ok (l, ptrs)
      | .pointer =>
        match level with
        | 0 => .error ⟨.pageProtection, 1, none, false⟩
        | n + 1 => walkStage s hart entryPa addr n (ptePa e) (ptrs ++ [(n, ptePa e)])

/-- A walk of one stage, or in its place the leaf of a run that the TLB to be filled has kept (02 R30), with the checks of a leaf. -/
def walkFor (s : State) (hart : Bool) (entryPa : Nat → Except WalkFault Nat) (kept : Option Leaf) (addr : Nat) (from_ : Nat × Nat) :
    Except WalkFault (Leaf × List (Nat × Nat)) :=
  match kept with
  | none => walkStage s hart entryPa addr from_.1 from_.2 []
  | some l => match leafCheck hart l.entry (l.addr addr) with
    | some sub => .error ⟨.pageProtection, sub, none, false⟩
    | none => .ok (l, [])

/-- A stage-2 walk of an IPA (02 R34), of a stage-1 entry or of the access itself; its failures are stage-2 faults that carry the IPA. -/
def walk2 (s : State) (hart : Bool) (runs : List Run) (sp : Space) (node : Bool) (root : Nat) (ipa : Nat) : Except WalkFault Leaf :=
  let at_ := some (BitVec.ofNat 64 ipa)
  match walkFor s hart (fun n => .ok n) (s.runLeaf runs sp true ipa) ipa (2, root) with
  | .ok (l, _) =>
    -- a leaf that maps an IPA to a PA of another tier (R34)
    if tierFor hart ipa != tierFor hart (l.addr ipa) then .error ⟨.stage2Protection, 3, at_, node⟩ else .ok l
  | .error f =>
    match f.cause with
    | .pageAbsent => .error ⟨.stage2Absent, 0, at_, node⟩
    | .pageProtection => .error ⟨.stage2Protection, f.sub, at_, node⟩
    | _ => .error f

/-- Set bits of an entry at its home slice (02 R31). -/
def State.setPteBits (s : State) (pa : Nat) (bits : DWord) : State :=
  s.writeHome pa (leBytes 8 (s.word64 pa ||| bits).toNat)

/-- The TLB entry of a leaf, for an address of a space without a second stage. -/
def Leaf.single (l : Leaf) (sp : Space) (va : Nat) : TlbEntry :=
  ⟨sp.part, sp.asid, va / l.size * l.size, l.size, l.base, l.entry.setWidth 12 ||| 0x40, BitVec.allOnes 12, l.pte, none, none, l.entry, 0,
    none, l.size⟩

/-- The combined entry of a leaf of each stage (02 R34): of the smaller size. -/
def Leaf.combined (l g : Leaf) (sp : Space) (va : Nat) : TlbEntry :=
  let ipa := l.addr va
  let size := Nat.min l.size g.size
  ⟨sp.part, sp.asid, va / size * size, size, g.addr ipa / size * size, l.entry.setWidth 12 ||| 0x40, g.entry.setWidth 12 ||| 0x40, l.pte,
    some g.pte, some (ipa / size * size), l.entry, g.entry, some (ipa / g.size * g.size, g.size), l.size⟩

/-- A walk of both stages as needed (02 R26 to R34), for a TLB that has kept runs: the entry to install and the state with A set. `start` is
a cached pointer, as level and node; none for the root. The walk is one step, so that the compare-and-set of A finds the entry it read.
Where the stage-1 leaf refuses the access and stage 2 of its IPA fails as well, the failure of stage 2 is the fault, since both
stages are walked before the access is checked; and the read of a stage-1 entry through stage 2 asks that leaf for no permission and sets
neither its A nor its D: 02 R34 leaves both open, and they are the model's choice (assumption log 94). -/
def walk (s : State) (hart : Bool) (runs : List Run) (sp : Space) (start : Option (Nat × Nat)) (va : Nat) :
    Except WalkFault (TlbEntry × List (Nat × Nat) × State) :=
  let entryPa := fun n => match sp.g2 with
    | none => .ok n
    | some r => match walk2 s hart runs sp true r n with
      | .ok l => .ok (l.addr n)
      | .error f => .error f
  match walkFor s hart entryPa (s.runLeaf runs sp false va) va (start.getD (2, sp.root)) with
  | .error f => .error f
  | .ok (l, ptrs) =>
    match sp.g2 with
    | none => .ok (l.single sp va, ptrs, s.setPteBits l.pte 0x40)
    | some r =>
      match walk2 s hart runs sp false r (l.addr va) with
      | .error f => .error f
      | .ok g => .ok (l.combined g sp va, ptrs, (s.setPteBits l.pte 0x40).setPteBits g.pte 0x40)

/-- Canonical VA as a number of 55 bits. -/
def va55 (va : DWord) : Nat := va.toNat % 2 ^ 55

/-! ### TLBs (02 R30, R35) -/

/-- A TLB entry serves an address (02 R35): tags, G, range and kind of translation. -/
def TlbEntry.hits (e : TlbEntry) (part asid : Nat) (guest : Bool) (va : Nat) : Bool :=
  e.part == part && (e.asid == asid || e.bits.getLsbD 5) && e.ipa.isSome == guest &&
    decide (e.va ≤ va) && decide (va < e.va + e.size)

/-- What a TLB translates an address in a space by: inside a run that breaks its rule, without a second stage, the entry that first filled
the TLB (02 R30), and else the first entry that serves the address. -/
def State.lookup (s : State) (t : Tlb) (sp : Space) (va : Nat) : Option TlbEntry :=
  match if sp.g2.isNone then s.runLeaf t.runs sp false va else none with
  | some l => some (l.single sp va)
  | none => t.entries.find? fun e => e.hits sp.part sp.asid sp.g2.isSome va

/-- Two entries translate one range of one space. -/
def TlbEntry.sameRange (x e : TlbEntry) : Bool :=
  x.part == e.part && x.asid == e.asid && x.va == e.va && x.size == e.size && x.ipa.isSome == e.ipa.isSome

/-- Space of an entry; the roots do not matter to a run. -/
def TlbEntry.space (e : TlbEntry) : Space := ⟨e.part, e.asid, 0, e.ipa.map fun _ => 0⟩

/-- The runs of which an entry's leaves are a part. -/
def TlbEntry.runs (e : TlbEntry) : List Run :=
  let first : List Run := if e.entry.getLsbD 11 then
    [⟨e.part, e.asid, e.ipa.isSome, false, e.va / e.size1 * e.size1, e.size1, e.pte, e.entry⟩] else []
  let second : List Run := match e.range2, e.pte2 with
    | some (base, size), some pte => if e.entry2.getLsbD 11 then [⟨e.part, e.asid, true, true, base, size, pte, e.entry2⟩] else []
    | _, _ => []
  first ++ second

/-- A translation that another TLB holds as a TLB takes it in: inside a run of the second stage that breaks its rule, by the entry that
first filled this one (02 R30). -/
def State.choice (s : State) (t : Tlb) (e : TlbEntry) : TlbEntry :=
  match e.ipa with
  | none => e
  | some i =>
    match s.runLeaf t.runs e.space true i with
    | none => e
    | some g => (⟨e.pte, e.entry, e.size1, i - e.va % e.size1⟩ : Leaf).combined g e.space e.va

/-- Install an entry in a TLB whose entries may stand in sets of a number of ways; the oldest of its set leaves (assumption log 9). -/
def Tlb.add (ways : Nat) (set : TlbEntry → Nat) (t : Tlb) (e : TlbEntry) : Tlb :=
  let kept := t.entries.filter fun x => !x.sameRange e
  let mine := kept.filter fun x => set x == set e
  let out := mine.take (mine.length + 1 - ways)
  { entries := (kept.filter fun x => !out.contains x) ++ [e]
    runs := t.runs ++ e.runs.filter fun r => !t.runs.any fun x => x.holds e.space r.second r.base && x.size == r.size }

/-- A fully associative TLB of a size. -/
def Tlb.put (n : Nat) (t : Tlb) (e : TlbEntry) : Tlb := t.add n (fun _ => 0) e

/-- Entries of a core's instruction TLB. -/
def itlbSize : Nat := 32
/-- Entries of a core's data TLB. -/
def dtlbSize : Nat := 128
/-- Entries of a hart's TLB, whose size the spec leaves open (assumption log 9). -/
def htlbSize : Nat := 128

/-- The set of a last-level TLB that an entry stands in, of 128 (assumption log 9). -/
def ltlbSet (e : TlbEntry) : Nat := e.va / e.size % 128

/-- Install an entry in a last-level TLB: 12 ways of 128 sets. -/
def Tlb.putLast (t : Tlb) (e : TlbEntry) : Tlb := t.add 12 ltlbSet e

/-- Keep the entries and the runs that two tests pick. -/
def Tlb.keep (t : Tlb) (p : TlbEntry → Bool) (q : Run → Bool) : Tlb := ⟨t.entries.filter p, t.runs.filter q⟩

/-- D of leaves, by their physical addresses, is set in what a TLB holds of them (02 R31). -/
def Tlb.setD (t : Tlb) (leaf : Nat → Bool) : Tlb :=
  { entries := t.entries.map fun x =>
      { x with
        bits := if leaf x.pte then x.bits ||| 0x80 else x.bits
        bits2 := if x.pte2.any leaf then x.bits2 ||| 0x80 else x.bits2 }
    runs := t.runs.map fun r => if leaf r.pte then { r with entry := r.entry ||| 0x80 } else r }

/-- An entry in the place of another. -/
def Tlb.swap (t : Tlb) (e e' : TlbEntry) : Tlb := { t with entries := t.entries.map fun x => if x == e then e' else x }

/-- The address space of a partition's bank on a core, in a mode (14 R317, R320). -/
def State.space (s : State) (c p : Nat) (m : Mode) : Space :=
  let b := s.bank c p
  let guest := (s.part p).partcfg.getLsbD 1 && m != .h
  { part := p, asid := (b.ptbase.extractLsb' 52 12).toNat, root := (b.ptbase.extractLsb' 16 36).toNat * 65536
    g2 := if guest then some ((b.g2base.extractLsb' 16 36).toNat * 65536) else none }

/-! ### Using a translation -/

/-- The checks of R29 that depend on the access, after those of the tiers: FLASH_STORE, then USER_PAGE and ACCESS of each stage. The answer
is the sub-cause, and whether the second stage refuses. -/
def permCheck (e : TlbEntry) (m : Mode) (acc : Access) : Option (BitVec 4 × Bool) :=
  let tier := (e.bits.extractLsb' 8 2).toNat
  let ok := fun (b : BitVec 12) => match acc with
    | .fetch => b.getLsbD 3 && !b.getLsbD 10
    | .load => b.getLsbD 1
    | .store => b.getLsbD 2
    | .atomic => b.getLsbD 1 && b.getLsbD 2
  if acc.writes && tier == 2 then some (6, false)
  else if m == .u && !e.bits.getLsbD 4 then some (4, false)
  else if !ok e.bits then some (5, false)
  else if e.ipa.isSome && !ok e.bits2 then some (5, true)
  else none

/-- The tier check of R29 and R34 for an address of an entry: the tier that the leaf names against that of the IPA or the physical address,
and of the second stage against both; and the leaf of a window as 15 R341 says. -/
def tierCheck (hart : Bool) (e : TlbEntry) (off : Nat) : Option (BitVec 4 × Bool) :=
  let tier := fun (b : BitVec 12) => some (b.extractLsb' 8 2).toNat
  let pa := tierFor hart (e.pa + off)
  match e.ipa with
  | none => if pa != tier e.bits || !windowLeaf (e.pa + off) e.bits then some (3, false) else none
  | some i =>
    if tierFor hart (i + off) != tier e.bits then some (3, false)
    else if pa != tier e.bits2 || tierFor hart (i + off) != pa || !windowLeaf (e.pa + off) (e.bits &&& e.bits2) then some (3, true)
    else none

/-- A translated address: its physical address, and whether its page is append-only. -/
structure Phys where
  pa : Nat
  ao : Bool
  deriving DecidableEq, Repr

/-- The trap of a walk fault for an address: its TVAL is the address, or after a fault of the second stage the IPA of it, or of the stage-1
entry. -/
def WalkFault.trap (f : WalkFault) (va : DWord) : Trap :=
  ⟨f.cause, f.sub, match f.ipa with
    | none => va
    | some i => if f.node then i else (i &&& ~~~(0xFFFF : DWord)) ||| (va &&& 0xFFFF), false⟩

/-- Use a TLB entry: the checks of the tiers and of the permissions (02 R29). A page is append-only as its stage-1 leaf says; whether AO of
a stage-2 leaf makes it so too, 02 R34 leaves open: the model's choice (assumption log 94). -/
def useEntry (hart : Bool) (e : TlbEntry) (m : Mode) (acc : Access) (va : DWord) : M Phys :=
  let off := va55 va - e.va
  match (tierCheck hart e off).or (permCheck e m acc) with
  | some (sub, true) => abort (.trap ⟨.stage2Protection, sub, BitVec.ofNat 64 (e.ipa.getD 0 + off), false⟩)
  | some (sub, false) => abort (.trap ⟨.pageProtection, sub, va, false⟩)
  | none => pure ⟨e.pa + off, e.bits.getLsbD 10⟩

/-- A write may use an entry: D is set in both stages (02 R31). -/
def TlbEntry.dirty (e : TlbEntry) : Bool := e.bits.getLsbD 7 && (e.pte2.isNone || e.bits2.getLsbD 7)

/-- The leaves of an entry stand in memory as the walk found them, A and D apart (02 R31). -/
def TlbEntry.stands (e : TlbEntry) (s : State) : Bool :=
  let low := fun (x : DWord) => x &&& ~~~(0xC0 : DWord)
  low (s.word64 e.pte) == low e.entry && e.pte2.all fun p => low (s.word64 p) == low e.entry2

/-- The TLBs that an access fills: those of a core and its die, or a hart's. -/
inductive TlbHome where
  | core (c : Nat)
  | hart (n : Nat)
  deriving DecidableEq, Repr

/-- Change the TLBs of an access. -/
def State.mapTlbs (s : State) (home : TlbHome) (f : Tlb → Tlb) : State :=
  match home with
  | .hart n => s.setHart n { s.hart n with tlb := f (s.hart n).tlb }
  | .core c =>
    let x := s.core c
    let s := s.setCore c { x with itlb := f x.itlb, dtlb := f x.dtlb }
    let d := s.die (dieOf c)
    s.setDie (dieOf c) { d with ltlb := f d.ltlb }

/-- Set D of the leaves of an entry in memory and in the TLBs (02 R31). -/
def State.setDirty (s : State) (home : TlbHome) (e : TlbEntry) : State :=
  let s := s.setPteBits e.pte 0x80
  let s := match e.pte2 with | some p => s.setPteBits p 0x80 | none => s
  s.mapTlbs home fun t => t.setD fun p => p == e.pte || e.pte2 == some p

/-- The runs that the TLB of an access has kept, through which it walks again. -/
def State.homeRuns (s : State) (home : TlbHome) : List Run :=
  match home with
  | .hart n => (s.hart n).tlb.runs
  | .core c => (s.die (dieOf c)).ltlb.runs

/-- Use a TLB entry for an access, which may reach a window for a hart's own; a write sets D by a compare-and-set, and where the leaf has
changed since the walk, it walks again (02 R31). -/
def useTlb (home : TlbHome) (hart : Bool) (sp : Space) (e : TlbEntry) (m : Mode) (acc : Access) (va : DWord) : M Phys := do
  let ph ← useEntry hart e m acc va
  if !acc.writes || e.dirty then pure ph
  else do
    let s ← get
    if e.stands s then do
      set (s.setDirty home e)
      pure ph
    else
      match walk s hart (s.homeRuns home) sp none (va55 va) with
      | .error f => abort (.trap (f.trap va))
      | .ok (e', _, s') => do
        set (s'.mapTlbs home fun t => t.swap e e')
        let ph ← useEntry hart e' m acc va
        modify fun s => s.setDirty home e'
        pure ph

/-- Key of a granule: partition, ASID, kind of translation and VA[54:16]. -/
def granuleKey (sp : Space) (va : Nat) : Nat :=
  ((sp.part * 4096 + sp.asid) * 2 + (if sp.g2.isSome then 1 else 0)) * 2 ^ 39 + va / 65536

/-- Translate an address for an agent through its core's TLB (02 R25 to R36): on a miss the group waits, unless a
walk has answered it with a fault, which each lane takes with its own address. -/
def translate (k : Nat) (m : Mode) (va : DWord) (acc : Access) : M Phys := fun s =>
  if !canonical va then raiseSub .pageProtection 7 va s else
  let c := coreOf k
  let sp := s.space c (s.partOf k) m
  let t := if acc = .fetch then (s.core c).itlb else (s.core c).dtlb
  match s.lookup t sp (va55 va) with
  | some e => useTlb (.core c) false sp e m acc va s
  | none =>
    let g := granuleKey sp (va55 va)
    match (Sparse.find? (s.agent k).answers g).filter fun x => x.1 &&& s.issue.lanes != 0 with
    | some x => abort (.trap (x.2.trap va)) s
    | none => abort (.miss (acc = .fetch) g) s

/-- Translate for an operation of an agent's engine, in the mode it was issued in (02 R35): a copy through its core's data TLB, another
engine through the die's last-level TLB; on a miss the operation waits, unless a walk has answered it with a fault. -/
def translateUnit (k uid : Nat) (m : Mode) (copy : Bool) (va : DWord) (acc : Access) : M Phys := fun s =>
  if !canonical va then raiseSub .pageProtection 7 va s else
  let c := coreOf k
  let sp := s.space c (s.partOf k) m
  let t := if copy then (s.core c).dtlb else (s.die (dieOf c)).ltlb
  match s.lookup t sp (va55 va) with
  | some e => useTlb (.core c) false sp e m acc va s
  | none =>
    match s.answered.find? fun x => x.1 == uid && x.2.1 == granuleKey sp (va55 va) with
    | some x => abort (.trap (x.2.2.trap va)) s
    | none => abort (.unitMiss k uid copy m (va55 va)) s

/-- Translate at once, as the distributor and the storage processor do, through a die's last-level TLB: the walk is made
inline, and its translation installed there (assumption log 9). -/
def translateNow (d c : Nat) (sp : Space) (m : Mode) (va : DWord) (acc : Access) : M Phys := fun s =>
  if !canonical va then raiseSub .pageProtection 7 va s else
  match s.lookup (s.die d).ltlb sp (va55 va) with
  | some e => useTlb (.core c) false sp e m acc va s
  | none =>
    match walk s false (s.die d).ltlb.runs sp none (va55 va) with
    | .error f => abort (.trap (f.trap va)) s
    | .ok (e, _, s') =>
      let x := s'.die d
      useTlb (.core c) false sp e m acc va (s'.setDie d { x with ltlb := x.ltlb.putLast e })

/-- Translate for a hart, through its own TLB and the base die's walker (02 R35, 15 R340): for an access of its `own`, which may reach a
window through a leaf, or for an operation of its window, which may not (15 R341). -/
def translateHart (n : Nat) (own : Bool) (sp : Space) (m : Mode) (va : DWord) (acc : Access) : M Phys := fun s =>
  if !canonical va then raiseSub .pageProtection 7 va s else
  match s.lookup (s.hart n).tlb sp (va55 va) with
  | some e => useTlb (.hart n) own sp e m acc va s
  | none =>
    match walk s own (s.hart n).tlb.runs sp none (va55 va) with
    | .error f => abort (.trap (f.trap va)) s
    | .ok (e, _, s') =>
      let x := s'.hart n
      useTlb (.hart n) own sp e m acc va (s'.setHart n { x with tlb := x.tlb.put htlbSize e })

/-- Translate through a lane, an engine, an agent of a die or a hart. -/
def Via.translate (v : Via) (va : DWord) (acc : Access) : M Phys :=
  match v with
  | .lane k m => Sys2Proof.Machine.translate k m va acc
  | .unit k uid m copy => translateUnit k uid m copy va acc
  | .direct d c sp m => translateNow d c sp m va acc
  | .hart n sp m => translateHart n false sp m va acc

/-- The address space of an agent that translates. -/
def State.viaSpace (s : State) (v : Via) : Space :=
  match v with
  | .lane k m => s.space (coreOf k) (s.partOf k) m
  | .unit k _ m _ => s.space (coreOf k) (s.partOf k) m
  | .direct _ _ sp _ => sp
  | .hart _ sp _ => sp

/-- An agent of a die in place of a lane that leaves its core, in its mode. -/
def State.engineVia (s : State) (k : Nat) (m : Mode) : Via :=
  .direct (dieOf (coreOf k)) (coreOf k) (s.space (coreOf k) (s.partOf k) m) m

end Sys2Proof.Machine
end

