-- ==== Sys2Proof/Machine/Record.lean ====
section
/-! DEFINITION. The log of the deterministic modes (spec/16 R357 to R365): which parties log and which take from the log, the
layout of an entry, and the reads that a log serves. -/

namespace Sys2Proof.Machine

/-- The deterministic state of an agent's party. -/
def State.detOf (s : State) (k : Nat) : Option (Nat × Det) :=
  match (s.partyOf k).det with
  | some d => (Sparse.find? s.dets d).map fun x => (d, x)
  | none => none

/-- Role of an agent's party. -/
def State.roleOf (s : State) (k : Nat) : DetRole := (s.partyOf k).role

/-- Replace a deterministic state. -/
def State.setDet (s : State) (d : Nat) (x : Det) : State := { s with dets := Sparse.put s.dets d x }

/-- Rope code of an agent in a log entry (16 R360). -/
def logRope (s : State) (k : Nat) : Nat := if isLead k then 17 else if isProducer k then 16 else (s.agent k).rope

/-- The opcodes whose engines read global memory for a party. -/
def engineOpc (opc : BitVec 8) : Bool :=
  let n := opc.toNat
  n == 0xA9 || n == 0xAA || n == 0xD0 || n == 0xD5 || n == 0xD7 || n == 0xD8 || n == 0xE7

/-- Key of a cursor: a rope, or its engines. -/
def cursorKey (rope : Nat) (engine : Bool) : Nat := 2 * rope + (if engine then 1 else 0)

/-- An EVENT that no instruction takes: a clause WAIT, which ends at its CLH again, or an engine completion. -/
def LogEntry.passive (e : LogEntry) : Bool := e.kind == 3 && e.opc == 1

/-- An entry that a party takes with an instruction; of the EVENTs a trailer takes those of CLOCK alone (16 R364). -/
def LogEntry.taken (e : LogEntry) (trailer : Bool) : Bool := !e.passive && !(trailer && e.kind == 3 && e.opc != 0x96)

/-- The entries that a rope, or its engines, take, in order. -/
def Det.ropeEntries (d : Det) (trailer : Bool) (rope : Nat) (engine : Bool) : List LogEntry :=
  d.log.filter fun e => e.rope == rope && e.taken trailer && (e.kind == 1 && engineOpc e.opc) == engine

/-- The entries from a cursor on. -/
def Det.entriesFrom (d : Det) (trailer : Bool) (rope : Nat) (engine : Bool) : List LogEntry :=
  (d.ropeEntries trailer rope engine).drop (Sparse.getD (if trailer then d.cursor2 else d.cursor) (cursorKey rope engine) 0)

/-- The entries that an agent has still to take. -/
def State.entriesAhead (s : State) (k : Nat) (engine : Bool) : List LogEntry :=
  match s.detOf k with
  | none => []
  | some (_, d) => d.entriesFrom (s.roleOf k == .trailer) (logRope s k) engine

/-- The entry that an agent takes next. -/
def State.nextEntry (s : State) (k : Nat) (engine : Bool) : Option LogEntry := (s.entriesAhead k engine).head?

/-- The party takes outside values from the log: a trailer, a replayed party, and a leader while it re-executes what the
log holds (16 R362, R364, R367). -/
def State.takes (s : State) (k : Nat) (engine : Bool) : Bool :=
  match s.roleOf k, s.detOf k with
  | .replay, some (_, d) => d.replay.isSome
  | .trailer, some _ => true
  | .leader, some _ => (s.nextEntry k engine).isSome
  | _, _ => false

/-- A party is in a replay (16 R362). -/
def State.inReplay (s : State) (p : Nat) : Bool :=
  match (s.party p).role, (s.party p).det.bind (Sparse.find? s.dets) with
  | .replay, some d => d.replay.isSome
  | _, _ => false

/-- The party keeps its phased stores to itself and reads memory from the log alone: a trailer or a replayed party. -/
def State.isPrivate (s : State) (k : Nat) : Bool :=
  match s.roleOf k, s.detOf k with
  | .replay, some (_, d) => d.replay.isSome
  | .trailer, some _ => true
  | _, _ => false

/-- The party logs what it reads and does outside (16 R360). -/
def State.recordsLog (s : State) (k : Nat) (engine : Bool) : Bool :=
  (s.detOf k).isSome && !s.takes k engine && s.roleOf k != .trailer

/-- Payload of the EVENT that an engine completion logs: its code, and a value that names the operation by the lane that issued it and that
lane's count then, the same in every execution of the interval (16 R360, R362, assumption log 72). -/
def completionPayload (lane : Nat) (rwc : DWord) : List Byte := leBytes 4 2 ++ leBytes 4 (32 * rwc.toNat + lane)

/-- An operation of an agent that counts. -/
def State.countedOp (s : State) (k uid : Nat) : Option OutOp := (s.agent k).ops.find? fun o => o.uid == uid

/-- The entry is the completion of an operation of an agent. -/
def State.completes (s : State) (k uid : Nat) (e : LogEntry) : Bool :=
  e.passive && e.rope == logRope s k && (s.countedOp k uid).any fun o => e.payload == completionPayload o.lane o.rwc

/-- An engine operation writes nothing outside its party: that of a trailer or a replayed party, and one of a leader's that
executes again although the log holds its completion (16 R362, R364, R367). -/
def State.dry (s : State) (k uid : Nat) : Bool :=
  s.isPrivate k || match s.roleOf k, s.detOf k with
    | .leader, some (_, d) => d.log.any (s.completes k uid)
    | _, _ => false

/-- Move on to the next entry. -/
def consumeEntry (k : Nat) (engine : Bool) : M Unit := modify fun s =>
  match s.detOf k with
  | none => s
  | some (n, d) =>
    let key := cursorKey (logRope s k) engine
    if s.roleOf k == .trailer then s.setDet n { d with cursor2 := Sparse.put d.cursor2 key (Sparse.getD d.cursor2 key 0 + 1) }
    else s.setDet n { d with cursor := Sparse.put d.cursor key (Sparse.getD d.cursor key 0 + 1) }

/-- The bytes of an entry in memory (16 R360). -/
def LogEntry.bytes (e : LogEntry) : List Byte :=
  let pad := (16 - e.payload.length % 16) % 16
  leBytes 1 e.kind ++ leBytes 1 e.rope ++ leBytes 2 e.payload.length ++ leBytes 4 e.mask.toNat ++ leBytes 8 e.rwc.toNat ++
    e.payload ++ List.replicate pad 0

/-- Bytes of a log. -/
def Det.logBytes (d : Det) : Nat := (d.log.map fun e => e.bytes.length).sum

/-- The log is full (16 R360). -/
def Det.isFull (d : Det) : Bool := decide (4096 ≤ d.log.length) || decide (3 * 2 ^ 20 ≤ d.logBytes)

/-- FSZ of CTXBASE in MiB (14 R337). -/
def ctxFrameSize (b : Bank) : Nat := (b.ctxbase.extractLsb' 8 6).toNat

/-- Start of a deterministic slot (16 R358). -/
def detSlotBase (s : State) (p : Party) : Nat :=
  let b := s.bank p.core p.task.part
  (b.detbase.extractLsb' 20 32).toNat * 2 ^ 20 + p.detSlot.getD 0 * (ctxFrameSize b + 3) * 2 ^ 20

/-- Append an entry to the party's log and to the log in memory; a full log makes the rope wait (16 R360, R366). -/
def logEntry (k : Nat) (kind : Nat) (mask : Word) (payload : List Byte) (opc : BitVec 8) (recs : List LaneRec)
    (op : Option Nat := none) (col : Option ColOp := none) (app : Option Append := none) (done : Word := mask) (group : Word := 0)
    (lacks : BitVec 4 := 0) : M Unit := do
  let s ← get
  match s.detOf k with
  | none => pure ()
  | some (n, d) => do
    let group := if group == 0 then mask else group
    if d.isFull then waitFor .pair
    let rwc := (s.lane k ((lanesOf mask).headD 0)).count
    let e : LogEntry := ⟨kind, logRope s k, mask, rwc, payload, opc, recs, op, col, app, done, group, s.now, lacks⟩
    let p := s.partyOf k
    physWrite (detSlotBase s p + ctxFrameSize (s.bank p.core p.task.part) * 2 ^ 20 + d.logBytes) e.bytes
    modify fun s => match s.detOf k with
      | none => s
      | some (_, d) =>
        let d := { d with log := d.log ++ [e] }
        let key := cursorKey e.rope (kind == 1 && engineOpc opc)
        s.setDet n (if s.roleOf k == .trailer || e.passive then d else { d with cursor := Sparse.put d.cursor key (Sparse.getD d.cursor key 0 + 1) })

/-- VA of the line that holds an address. -/
def vaLine (va : DWord) : Nat := va.toNat / 128

/-- Payload of a LINE entry (16 R360). -/
def linePayload (va : DWord) (bytes : List Byte) : List Byte := leBytes 8 (128 * vaLine va) ++ bytes

/-- The entry is the LINE that an access at an address takes. -/
def LogEntry.isLine (e : LogEntry) (va : DWord) : Bool := e.kind == 1 && leNat (e.payload.take 8) == 128 * vaLine va

/-- Log a line as a party sees it, when it is its first read of the line in the phase or since a store to it (16 R360). -/
def noteLine (k : Nat) (va : DWord) (paLine : Nat) (bytes : List Byte) (opc : BitVec 8) : M Unit := do
  let s ← get
  match s.detOf k with
  | none => pure ()
  | some (_, d) =>
    if !s.recordsLog k false || d.seen.contains (vaLine va, paLine) then pure ()
    else do
      logEntry k 1 s.issue.lanes (linePayload va bytes) opc []
      modify fun s => match s.detOf k with
        | none => s
        | some (n, d) => s.setDet n { d with seen := d.seen ++ [(vaLine va, paLine)] }

/-- A store on a core to a line: parties that log read it again (16 R360). -/
def State.unsee (s : State) (c paLine : Nat) : State :=
  { s with dets := s.dets.map fun e =>
      if (s.party e.2.leader).core == c then
        let gone := (e.2.seen.filter fun x => x.2 == paLine).map (·.1)
        (e.1, { e.2 with seen := e.2.seen.filter fun x => x.2 != paLine, taken := e.2.taken.filter fun x => !gone.contains x.1 })
      else e }

/-- The leader's agent of a trailer's rope. -/
def State.leaderOf (s : State) (k : Nat) (d : Det) : Option Nat :=
  (s.party d.leader).agents.find? fun j => logRope s j == logRope s k

/-- The leader of a pair has gone past the instruction that a trailer's lane stands at; with `waiting`, or waits there for its trailer, its
operands read. -/
def leaderPast (s : State) (k l : Nat) (waiting : Bool) : Bool :=
  match s.detOf k with
  | none => true
  | some (_, d) =>
    match s.leaderOf k d with
    | none => true
    | some j =>
      let x := s.lane k l
      let y := s.lane j l
      y.exited || decide (x.count < y.count) || (waiting && y.count == x.count && y.wait == some .pair && !d.isFull)

/-- Bytes of a line as a private party sees them: the line taken from the log, with its own stores over it. -/
def Det.privateBytes (d : Det) (va : DWord) (n : Nat) (line : List Byte) : List Byte :=
  (List.range n).map fun i =>
    (Sparse.find? d.own (va.toNat + i)).getD (line.getD (va.toNat % 128 + i) 0)

/-- The entry is the FAR of a load of an append-only page by a lane (02 R32, 16 R360): the bytes that it brought. -/
def LogEntry.farBytes (e : LogEntry) (opc : BitVec 8) (l : Nat) (va : DWord) : Option (List Byte) :=
  if e.kind == 2 && e.opc == opc then
    ((e.recs.find? fun r => r.lane == l).bind (·.data)).bind fun x => if x.1 == va then some x.2 else none
  else none

/-- A load of an append-only page by a lane is a far access, and logged as one (16 R360). -/
def noteFarLoad (k l : Nat) (va : DWord) (bs : List Byte) (opc : BitVec 8) : M Unit := do
  let s ← get
  if s.recordsLog k false then
    logEntry k 2 ((1 : Word) <<< l) (bs.take 8 ++ List.replicate (8 - bs.length) 0) opc [⟨l, [], none, some (va, bs)⟩]
      (group := s.issue.lanes)
  else pure ()

/-- The entry belongs to other lanes of the rope than those of the issue: its instruction is none of theirs. -/
def State.foreign (s : State) (e : LogEntry) : Bool := e.mask &&& s.issue.lanes == 0

/-- A line that another rope has yet to take from the log for the party. -/
def Det.lineAhead (d : Det) (va : DWord) : Bool := d.log.any fun e => e.isLine va && !engineOpc e.opc

/-- A phased read of a private party (16 R362, R364): bytes it has stored itself, a line it has taken, or the next entry. A line that another
rope reads for the party, or lanes whose entry is another group's, wait for it. -/
def privateRead (k l : Nat) (va : DWord) (n : Nat) (opc : BitVec 8) : M (List Byte) := do
  let s ← get
  match s.detOf k with
  | none => pure (List.replicate n 0)
  | some (m, d) =>
    let rwc := (s.lane k (s.issue.lanes |> lanesOf |>.headD l)).count
    let known := (List.range n).all fun i => (Sparse.find? d.own (va.toNat + i)).isSome
    let held : Option (List Byte) := match Sparse.find? d.lines (vaLine va) with
      | some line => some (d.privateBytes va n line)
      | none => if known then some (d.privateBytes va n []) else none
    match s.nextEntry k false with
    | some e =>
      if e.isLine va && e.rwc == rwc then do
        let line := e.payload.drop 8
        modify fun s => s.setDet m { d with lines := Sparse.put d.lines (vaLine va) line }
        consumeEntry k false
        pure (d.privateBytes va n line)
      else
        match (if e.rwc == (s.lane k l).count then e.farBytes opc l va else none), held with
        | some bs, _ => do
          consumeEntry k false
          pure bs
        | none, some bs => pure bs
        | none, none => if s.foreign e || d.lineAhead va then waitFor .pair else abort .mismatch
    | none =>
      if s.roleOf k == .trailer && !leaderPast s k l true then waitFor .pair
      else
        match held with
        | some bs => pure bs
        | none => waitFor .pair

/-- Bytes of a line that a leader takes from the log, with its own stores of the interval over it. -/
def Det.leaderBytes (d : Det) (va : DWord) (n : Nat) (line : List Byte) : List Byte :=
  (List.range n).map fun i => (Sparse.find? d.wrote (va.toNat + i)).getD (line.getD (va.toNat % 128 + i) 0)

/-- The bytes that a leader's load of an append-only page takes from the log while it executes again (16 R367). -/
def State.leaderFar (s : State) (k l : Nat) (va : DWord) (opc : BitVec 8) : Option (List Byte) :=
  if s.roleOf k == .leader then
    ((s.nextEntry k false).filter fun e => e.rwc == (s.lane k l).count).bind fun e => e.farBytes opc l va
  else none

/-- The line that a phased read of a leader takes from the log while it executes again (16 R367): its next entry, or a line taken
before. `true` for an entry. -/
def State.leaderLine (s : State) (k l : Nat) (va : DWord) : Option (List Byte × Bool) :=
  match s.roleOf k, s.detOf k with
  | .leader, some (_, d) =>
    let rwc := (s.lane k (s.issue.lanes |> lanesOf |>.headD l)).count
    match (s.nextEntry k false).filter fun e => e.isLine va && e.rwc == rwc with
    | some e => some (e.payload.drop 8, true)
    | none => (Sparse.find? d.taken (vaLine va)).map fun line => (line, false)
  | _, _ => none

/-- A leader takes a line, with its physical line where the address still translates. -/
def takeLine (k : Nat) (va : DWord) (line : List Byte) (paLine : Option Nat) : M Unit := do
  consumeEntry k false
  modify fun s => match s.detOf k with
    | none => s
    | some (m, d) => s.setDet m { d with
        taken := Sparse.put d.taken (vaLine va) line
        seen := match paLine with | some p => d.seen ++ [(vaLine va, p)] | none => d.seen }

/-- A phased store of a private party. -/
def privateStore (k : Nat) (va : DWord) (bs : List Byte) : M Unit := modify fun s =>
  match s.detOf k with
  | none => s
  | some (m, d) =>
    s.setDet m { d with own := (List.range bs.length).foldl (fun o i => Sparse.put o (va.toNat + i) (bs.getD i 0)) d.own }

/-- A leader's phased store counts in the interval's signature (16 R366). -/
def noteStore (k : Nat) (va : DWord) (bs : List Byte) : M Unit := modify fun s =>
  match s.roleOf k, s.detOf k with
  | .leader, some (m, d) =>
    s.setDet m { d with wrote := (List.range bs.length).foldl (fun o i => Sparse.put o (va.toNat + i) (bs.getD i 0)) d.wrote }
  | _, _ => s

/-- The unit that an engine operation of a deterministic party has read last, and keeps. -/
def keepUnit (k uid : Nat) (u : EngineUnit) : M Unit := do
  let s ← get
  if (s.detOf k).isSome then
    modAgent k fun a => { a with ops := a.ops.map fun o => if o.uid == uid then { o with last := some u } else o }
  else pure ()

/-- Bytes of the unit: none where it is another's, or where they lie in a sector that it lacks. -/
def EngineUnit.bytesAt (u : EngineUnit) (va : DWord) (n : Nat) : Option (List Byte) :=
  let off := va.toNat % 128
  if u.line == vaLine va && (List.range 4).all fun i => !u.lacks.getLsbD i || decide (32 * i + 32 ≤ off) || decide (off + n ≤ 32 * i) then
    some ((u.bytes.drop off).take n)
  else none

/-- Bytes of the unit that an operation has read last. -/
def State.unitBytes (s : State) (k uid : Nat) (va : DWord) (n : Nat) : Option (List Byte) :=
  (s.countedOp k uid).bind fun o => o.last.bind fun u => u.bytesAt va n

/-- An engine's read of a private party: the next engine LINE of the log. -/
def privateEngineRead (k uid : Nat) (va : DWord) (n : Nat) : M (List Byte) := do
  let s ← get
  match s.nextEntry k true with
  | some e =>
    if e.isLine va then do
      let bytes := e.payload.drop 8
      consumeEntry k true
      keepUnit k uid ⟨vaLine va, bytes, e.lacks⟩
      pure ((bytes.drop (va.toNat % 128)).take n)
    else waitFor .pair
  | none => waitFor .pair

/-- A 128-byte unit that an engine has read for the party is logged once, under the lane that issued the operation (16 R360), and kept for
the operation's later elements. -/
def noteUnit (k uid : Nat) (u : EngineUnit) (opc : BitVec 8) : M Unit := do
  let s ← get
  if s.recordsLog k true then
    logEntry k 1 ((1 : Word) <<< ((s.countedOp k uid).map OutOp.lane).getD 0) (leBytes 8 (128 * u.line) ++ u.bytes) opc []
      (lacks := u.lacks)
  keepUnit k uid u

/-- Log an EVENT that no instruction takes (16 R360): its code and value. -/
def noteEvent (k : Nat) (mask : Word) (code value : Nat) : M Unit := do
  let s ← get
  if s.recordsLog k false then logEntry k 3 mask (leBytes 4 code ++ leBytes 4 value) 1 []
  else pure ()

/-- The entry of the completion of an operation of an agent (16 R360). -/
def State.completionOf (s : State) (k uid : Nat) : Option LogEntry :=
  match s.detOf k with
  | none => none
  | some (_, d) => d.log.find? (s.completes k uid)

/-- The lane at whose RWC an entry stands. -/
def LogEntry.lane (e : LogEntry) : Nat := (lanesOf e.mask).headD 0

/-- In a replay an operation completes when the lane that its EVENT names has reached the EVENT's RWC (16 R362). -/
def State.completionDue (s : State) (k uid : Nat) : Bool :=
  !s.inReplay (s.agent k).party || (s.completionOf k uid).any fun e => (s.lane k e.lane).exited || decide (e.rwc ≤ (s.lane k e.lane).count)

/-- A lane of a replay has reached the RWC at which the completion of an operation is delivered: it waits for that (16 R362). -/
def State.awaitsCompletion (s : State) (k l : Nat) : Bool :=
  s.inReplay (s.agent k).party && (s.agent k).ops.any fun o => !o.done &&
    (s.completionOf k o.uid).any fun e => e.lane == l && decide (e.rwc ≤ (s.lane k l).count)

/-- An engine completion: logged, once, and in a replay delivered when it is due (16 R360, R362). -/
def noteComplete (k uid : Nat) : M Unit := do
  let s ← get
  if !s.completionDue k uid then waitFor .pair
  match s.countedOp k uid with
  | some o =>
    if (s.detOf k).isSome && !s.isPrivate k && (s.completionOf k uid).isNone then
      logEntry k 3 ((1 : Word) <<< ((s.agent k).live.headD 0)) (completionPayload o.lane o.rwc) 1 []
    else pure ()
  | none => pure ()

end Sys2Proof.Machine
end

