-- ==== Sys2Proof/Machine/Access.lean ====
section
/-! DEFINITION. The accesses of spec/03 and spec/04: phased accesses through a core's L1 with its read marks and snapshot
spill area, publication, far accesses, scratchpad accesses and instruction fetch. -/

namespace Sys2Proof.Machine

/-- Replace bytes of a list from an index. -/
def spliceBytes (xs : List Byte) (i : Nat) (ys : List Byte) : List Byte :=
  xs.take i ++ ys ++ xs.drop (i + ys.length)

/-! ### Reads at the home slice -/

/-- A read of a flash line has to wait on the storage processor (02 R20): it is reading the line, or must, and has not delivered it. -/
def State.flashSlow (s : State) (line : Nat) : Bool :=
  !s.landedFlash.contains line && (s.slowFlash.contains line || Config.flashWaits line)

/-- The home slice has a line for a lane (02 R20, R21): the lane waits for a slow flash line, and faults on one that cannot be corrected. -/
def homeReady (va : DWord) (pa : Nat) : M Unit := fun s =>
  if tierOf pa == some 2 && s.flashSlow (pa / 128) then waitFor (.flash (pa / 128)) s
  else if tierOf pa == some 2 && s.badFlash.contains (pa / 128) then raise .flashReadError va s
  else .ok ((), s)

/-- A read at the home slice for a lane (02 R20 to R22): it faults on a sector that cannot be corrected. -/
def homeRead (va : DWord) (pa n : Nat) : M (List Byte) := do
  homeReady va pa
  let s ← get
  require (!s.eccBad pa n) .eccUncorrectable va
  pure (s.mem.readN pa n)

/-- A write at the home slice (03 R44). -/
def homeWrite (pa : Nat) (bs : List Byte) : M Unit := modify fun s => s.writeHome pa bs

/-- The sectors of a line that a test picks. -/
def sectorMask (p : Nat → Bool) : BitVec 4 := (List.range 4).foldl (fun m i => if p i then m ||| (1 <<< i) else m) 0

/-- The sectors of a line at its home slice that cannot be corrected (02 R22). -/
def State.badMask (s : State) (line : Nat) : BitVec 4 := sectorMask fun i => s.badSectors.contains (4 * line + i)

/-! ### Publication (03 R46) -/

/-- Publish the dirty bytes of a core that a test picks. -/
def State.publishBytes (s : State) (c : Nat) (pick : Nat × DirtyByte → Bool) : State :=
  let x := s.core c
  let out := x.dirty.filter pick
  let s := out.foldl (fun s e => s.writeHome e.1 [e.2.val]) s
  let whole := fun (x : Nat) => (List.range 32).all fun i => (Sparse.find? out (32 * x + i)).isSome
  let s := { s with badSectors := s.badSectors.filter fun x => !whole x }
  s.setCore c { x with
    dirty := x.dirty.filter fun e => !pick e
    clean := x.clean.map fun l => (l.1, { l.2 with
      bytes := (List.range 128).map fun i =>
        match Sparse.find? out (128 * l.1 + i) with
        | some d => d.val
        | none => l.2.bytes.getD i 0
      lacks := l.2.lacks &&& ~~~(sectorMask fun i => whole (4 * l.1 + i)) }) }

/-- Publish the dirty bytes of a core at addresses that a test picks; bytes that a redundant party holds back stay (16 R365). -/
def State.publish (s : State) (c : Nat) (pick : Nat → Bool) : State := s.publishBytes c fun e => pick e.1 && !e.2.held

/-- Publish every dirty byte of a core. -/
def State.publishAll (s : State) (c : Nat) : State := s.publish c fun _ => true

/-- Drop the unpublished bytes of a party (16 R365, R367). -/
def State.dropDirty (s : State) (p : Nat) : State :=
  let c := (s.party p).core
  let x := s.core c
  s.setCore c { x with dirty := x.dirty.filter fun e => !(e.2.owner == p && e.2.held) }

/-- A leader publishes the bytes that it has held back, and no other (16 R366). -/
def State.publishHeld (s : State) (p : Nat) : State := s.publishBytes (s.party p).core fun e => e.2.held && e.2.owner == p

/-! ### The snapshot spill area (03 R51, R52) -/

/-- Entries that a partition's area holds on a core: none when any part lies outside HBM (03 R52). -/
def State.snapCapacity (s : State) (c p : Nat) : Nat :=
  let b := s.bank c p
  let base := (b.snapbase.extractLsb' 16 36).toNat * 65536
  if tierOf (base + b.snapsize * 65536 - 1) == some 0 then b.snapsize * 256 else 0

/-- A free entry of a partition's area on a core, by physical address; which of them a spilled line takes 03 R51 leaves open, and the model
takes the lowest (assumption log 95). -/
def State.snapFree (s : State) (c p : Nat) : Option Nat :=
  let base := ((s.bank c p).snapbase.extractLsb' 16 36).toNat * 65536
  ((List.range (s.snapCapacity c p)).find? fun i =>
    !(s.core c).snaps.any fun u => u.pa == base + 256 * i).map fun i => base + 256 * i

/-- Bytes of a spill entry: the line, its address, the mask of party slots, zeros (03 R52). -/
def snapBytes (line : Nat) (bytes : List Byte) (slots : List Nat) : List Byte :=
  bytes ++ leBytes 8 (line * 128) ++ leBytes 4 (maskOf slots).toNat ++ List.replicate 116 0

/-- Spill one line for the parties of one partition that need it; the lane that needs the room faults when there
is none. -/
def spillLine (va : DWord) (c part line : Nat) (bytes : List Byte) (parties : List Nat) : M Nat := do
  let s ← get
  match s.snapFree c part with
  | none => raise .snapshotSpillFull va
  | some pa =>
    physWrite pa (snapBytes line bytes (parties.map fun p => (s.party p).pslot))
    modCore c fun x => { x with snaps := x.snaps ++ [⟨pa, part, line, parties⟩] }
    pure pa

/-- A marked byte of a line, from L1's care or from the spill entry. -/
def State.markByte (s : State) (m : Mark) (i : Nat) : Byte :=
  match m.entry with
  | some pa => if m.spilled.getLsbD i then s.mem.read (pa + i) else m.bytes.getD i 0
  | none => m.bytes.getD i 0

/-- The bytes of a mark. -/
def State.markBytes (s : State) (m : Mark) : List Byte := (List.range 128).map (s.markByte m)

/-- Marked bytes of a mark that L1 still holds. -/
def Mark.inL1 (m : Mark) : BitVec 128 := m.mask &&& ~~~m.spilled

/-- What one spill entry shall hold: parties whose marked bytes agree, the bytes they have marked, and their values. -/
structure SpillGroup where
  parties : List Nat
  mask : BitVec 128
  bytes : List Byte
  deriving DecidableEq, Repr

/-- Two marks agree on every byte that both have. -/
def spillAgrees (g : SpillGroup) (mask : BitVec 128) (bytes : List Byte) : Bool :=
  (List.range 128).all fun i => !((g.mask &&& mask).getLsbD i) || g.bytes.getD i 0 == bytes.getD i 0

/-- A party joins the first group that it agrees with, or makes one: parties of a partition share one entry, as 03 R51 says, except where
they have read different values of a byte, each in its own phase (assumption log 95). -/
def joinSpill (p : Nat) (mask : BitVec 128) (bytes : List Byte) : List SpillGroup → List SpillGroup
  | [] => [⟨[p], mask, bytes⟩]
  | g :: t =>
    if spillAgrees g mask bytes then
      ⟨g.parties ++ [p], g.mask ||| mask, (List.range 128).map fun i => if mask.getLsbD i then bytes.getD i 0 else g.bytes.getD i 0⟩ :: t
    else g :: joinSpill p mask bytes t

/-- A party gives up its part of the spill entries of a line. -/
def State.unspill (s : State) (c p line : Nat) : State :=
  let x := s.core c
  let out := fun (u : SnapUse) => if u.line == line then { u with parties := u.parties.filter (· != p) } else u
  s.setCore c { x with snaps := (x.snaps.map out).filter fun u => !u.parties.isEmpty }

/-- Evict a line of L1 (03 R46, R51, 16 R365): its dirty bytes are published, its read marks and a leader's held bytes go
to the spill areas. -/
def evictLine (va : DWord) (c line : Nat) : M Unit := do
  let s ← get
  let holds := fun (p : Nat) => (s.core c).dirty.any fun e => e.1 / 128 == line && e.2.held && e.2.owner == p
  let mark := fun (p : Nat) => Sparse.getD (s.party p).marks line ⟨0, List.replicate 128 0, none, 0⟩
  let mine := (s.coreParties c).filter fun p => (mark p).inL1 != 0 || holds p
  let base := ((Sparse.find? (s.core c).clean line).map (·.bytes)).getD (s.mem.readN (128 * line) 128)
  let now := (List.range 128).map fun i => match Sparse.find? (s.core c).dirty (128 * line + i) with
    | some d => d.val
    | none => base.getD i 0
  let old := mine.map fun p => (p, (mark p).mask, s.markBytes (mark p))
  forEach (List.range 16) fun q => do
    let groups := (old.filter fun e => (s.party e.1).task.part == q).foldl (fun g e => joinSpill e.1 e.2.1 e.2.2 g) []
    forEach groups fun g => do
      modify fun s => g.parties.foldl (fun s p => s.unspill c p line) s
      let bytes := (List.range 128).map fun i => if g.mask.getLsbD i then g.bytes.getD i 0 else now.getD i 0
      let pa ← spillLine va c q line bytes g.parties
      forEach g.parties fun p => modParty p fun x => { x with marks := Sparse.adjust x.marks line fun m =>
        { m with entry := some pa, spilled := m.mask } }
  modify fun s =>
    let s := s.publish c fun a => a / 128 == line
    let x := s.core c
    s.setCore c { x with clean := Sparse.drop x.clean line }

/-- Lines of a core's L1 that hold bytes which a party has read in its phase. -/
def State.markedLines (s : State) (c : Nat) : List Nat :=
  (s.coreParties c).flatMap fun p => ((s.party p).marks.filter fun (e : Nat × Mark) => e.2.inL1 != 0).map fun (e : Nat × Mark) => e.1

/-- Lines that a core's L1 holds: clean, dirty, or kept for the bytes that a party has read. -/
def State.lines (s : State) (c : Nat) : List Nat :=
  let x := s.core c
  (x.clean.map (fun (e : Nat × CleanLine) => e.1) ++ x.dirty.map (fun (e : Nat × DirtyByte) => e.1 / 128) ++ s.markedLines c).eraseDups

/-- Lines for which a core's L1 has room: 512 KiB less the scratchpad (01 R10). -/
def Core.lineRoom (x : Core) : Nat := 4096 - 512 * x.spadCur

/-- The line that a full L1 evicts: its oldest clean one, or where it holds none a dirty one, or one kept for its marks (assumption
log 8). -/
def State.victim (s : State) (c : Nat) : Option Nat :=
  let x := s.core c
  match x.clean.foldl (fun (b : Option (Nat × Nat)) (l : Nat × CleanLine) => match b with
      | some (_, t) => if l.2.stamp < t then some (l.1, l.2.stamp) else b
      | none => some (l.1, l.2.stamp)) none with
  | some b => some b.1
  | none => (x.dirty.head?.map fun (e : Nat × DirtyByte) => e.1 / 128).or (s.markedLines c).head?

/-- L1 takes in a line: the evictions that it makes now, and one more where it is full (assumption log 8). -/
def takeLineIn (va : DWord) (c line : Nat) : M Unit := do
  let s ← get
  let mine := s.evicts.filter fun e => e.1 == c
  modify fun s => { s with evicts := s.evicts.filter fun e => e.1 != c }
  forEach mine fun e => evictLine va c e.2
  let s ← get
  if (s.lines c).contains line || (s.lines c).length < (s.core c).lineRoom then pure ()
  else
    match s.victim c with
    | some v => evictLine va c v
    | none => pure ()

/-- Free what a party's marks hold in the spill area and drop the marks (03 R47, R51). -/
def State.endMarks (s : State) (p : Nat) : State :=
  let c := (s.party p).core
  let x := s.core c
  let s := s.setCore c { x with snaps :=
    (x.snaps.map fun u => { u with parties := u.parties.filter (· != p) }).filter fun u => !u.parties.isEmpty }
  s.setParty p { s.party p with marks := [] }

/-! ### Phased accesses (03 R46 to R50) -/

/-- The mark of a line in which nothing is marked. -/
def Mark.empty : Mark := ⟨0, List.replicate 128 0, none, 0⟩

/-- A mark with one byte read: the first value read stays (03 R49). -/
def Mark.read (m : Mark) (i : Nat) (b : Byte) : Mark :=
  if m.mask.getLsbD i then m else { m with mask := m.mask ||| ((1 : BitVec 128) <<< i), bytes := m.bytes.set i b }

/-- Record bytes as read by a party (03 R49). -/
def State.markBytesRead (s : State) (p line i : Nat) (bs : List Byte) : State :=
  let y := s.party p
  let m := (List.range bs.length).foldl (fun (m : Mark) j => m.read (i + j) (bs.getD j 0)) (Sparse.getD y.marks line Mark.empty)
  s.setParty p { y with marks := Sparse.put y.marks line m }

/-- A store by a party on the core to a byte that a party has marked (03 R50, R51): in L1, or over the spilled copy. -/
def State.markStored (s : State) (p line i : Nat) (b : Byte) : State :=
  let y := s.party p
  match Sparse.find? y.marks line with
  | none => s
  | some m =>
    if !m.mask.getLsbD i then s
    else match m.spilled.getLsbD i, m.entry with
      | true, some pa => s.writeHome (pa + i) [b]
      | _, _ => s.setParty p { y with marks := Sparse.put y.marks line { m with bytes := m.bytes.set i b } }

/-- A byte that a phased read returns without going to the home slice: dirty in L1, or read before in the phase. -/
def State.heldByte (s : State) (c p pa : Nat) : Option Byte :=
  match Sparse.find? (s.core c).dirty pa with
  | some d => some d.val
  | none =>
    match Sparse.find? (s.party p).marks (pa / 128) with
    | some m => if m.mask.getLsbD (pa % 128) then some (s.markByte m (pa % 128)) else none
    | none => none

/-- A byte that a phased read would take from a spill entry lies in a sector that cannot be corrected (02 R22). -/
def State.heldBad (s : State) (c p pa : Nat) : Bool :=
  (Sparse.find? (s.core c).dirty pa).isNone && (Sparse.find? (s.party p).marks (pa / 128)).any fun m =>
    m.spilled.getLsbD (pa % 128) && m.entry.any fun e => s.eccBad (e + pa % 128) 1

/-- The sectors of a line in which a phased read needs a byte that neither L1 nor a mark holds. -/
def sectorsOf (known : List (Option Byte)) (off : Nat) : BitVec 4 :=
  (List.range known.length).foldl (fun m i => if (known.getD i none).isSome then m else m ||| (1 <<< ((off + i) / 32))) 0

/-- The clean copy that a phased read may use: one filled after the read bound that holds the sectors it needs, unless the read goes to the
home slice all the same (03 R48). -/
def State.cleanFor (s : State) (c p line : Nat) (need : BitVec 4) : Option CleanLine :=
  (Sparse.find? (s.core c).clean line).filter fun l =>
    decide ((s.party p).bound ≤ l.stamp) && l.lacks &&& need == 0 && !Config.rereadHome s.fresh

/-- A phased read of bytes within one line (03 R48 to R50): dirty bytes first, then what the party has read in this
phase, then a clean copy filled after the read bound or the home slice. A byte that the home slice or a spill entry gives from a sector that
cannot be corrected faults; a fill leaves such a sector out of the line, so that a later access reads it anew (02 R22, R23). -/
def phasedRead (k : Nat) (va : DWord) (pa n : Nat) : M (List Byte) := do
  let c := coreOf k
  let s ← get
  let p := (s.agent k).party
  let line := pa / 128
  let known := (List.range n).map fun i => s.heldByte c p (pa + i)
  let need := sectorsOf known (pa % 128)
  require (!(List.range n).any fun i => s.heldBad c p (pa + i)) .eccUncorrectable va
  let bs ←
    if known.all Option.isSome then pure (known.map fun b => b.getD 0)
    else do
      let l ← match s.cleanFor c p line need with
        | some l => pure l
        | none => do
          homeReady va pa
          require (s.badMask line &&& need == 0) .eccUncorrectable va
          takeLineIn va c line
          let s ← get
          let l : CleanLine := ⟨s.mem.readN (128 * line) 128, s.now, s.badMask line⟩
          modCore c fun x => { x with clean := Sparse.put x.clean line l }
          pure l
      modify fun s => { s with fresh := s.fresh + 1 }
      pure ((List.range n).map fun i => ((known.getD i none).getD (l.bytes.getD (pa % 128 + i) 0)))
  modify fun s => s.markBytesRead p line (pa % 128) bs
  pure bs

/-- A phased store of bytes within one line (03 R50): they are dirty in L1 at once, and every party's mark of them
on the core takes the new value. -/
def State.phasedWrite (s : State) (k pa : Nat) (bs : List Byte) : State :=
  let c := coreOf k
  let p := (s.agent k).party
  let held := (s.party p).role == .leader || (s.party p).role == .trailer
  let x := s.core c
  let put := fun (d : Sparse DirtyByte) (i : Nat) => Sparse.put d (pa + i) ⟨bs.getD i 0, p, held⟩
  let s := s.setCore c { x with dirty := (List.range bs.length).foldl put x.dirty }
  (s.coreParties c).foldl (fun s q =>
    (List.range bs.length).foldl (fun s i => s.markStored q (pa / 128) (pa % 128 + i) (bs.getD i 0)) s) s

/-! ### Far accesses (03 R53 to R57) and atomics (08 R198) -/

/-- The new value of an atomic: FN, type, old value, compare value, datum (08 R198); a compare-and-swap compares the bits of the type. -/
def atomicNew (fn : BitVec 3) (ty : Ty) (old cmp c : DWord) : DWord :=
  let fl := ty == .f32
  match fn.toNat with
  | 0 => if fl then ty.fround ((ty.fval old).add false (ty.fval c)) .rne else ty.wrap (ty.intVal old + ty.intVal c)
  | 1 => if fl then ty.fround ((ty.fval old).min (ty.fval c)) .rne
         else if ty.intVal c < ty.intVal old then c else old
  | 2 => if fl then ty.fround ((ty.fval old).max (ty.fval c)) .rne
         else if ty.intVal old < ty.intVal c then c else old
  | 3 => old &&& c
  | 4 => old ||| c
  | 5 => old ^^^ c
  | 6 => c
  | _ => if old.setWidth ty.bits == cmp.setWidth ty.bits then c else old

/-- A number of bytes as a 64-bit operand. -/
def dwordOf (bs : List Byte) : DWord := BitVec.ofNat 64 (leNat bs)

/-- Low bytes of an operand. -/
def bytesOf (n : Nat) (x : DWord) : List Byte := leBytes n x.toNat

/-- Perform one deferred far operation at its home slice. -/
def State.performFar (s : State) (op : FarOp) : State :=
  match op.red with
  | none => s.writeHome op.pa op.bytes
  | some (fn, ty) =>
    let old := dwordOf (s.mem.readN op.pa op.bytes.length)
    s.writeHome op.pa (bytesOf op.bytes.length (atomicNew fn ty old 0 (dwordOf op.bytes)))

/-- Two deferred operations touch one byte. -/
def FarOp.overlaps (o p : FarOp) : Bool := decide (o.pa < p.pa + p.bytes.length) && decide (p.pa < o.pa + o.bytes.length)

/-- The deferred operations that a test picks, and the older ones that touch bytes of theirs and so come before them (03 R57). -/
def farDue (pick : FarOp → Bool) : List FarOp → List FarOp
  | [] => []
  | o :: t =>
    let later := farDue pick t
    if pick o || later.any o.overlaps then o :: later else later

/-- Perform the deferred far operations of an agent that a test picks, in order, and report those complete. -/
def State.drainFar (s : State) (k : Nat) (pick : FarOp → Bool) : State :=
  let go := farDue pick (s.agent k).far
  let s := go.foldl State.performFar s
  let a := s.agent k
  let a := { a with far := a.far.filter fun o => !go.contains o }
  let done := (go.map (·.uid)).filter fun u => !a.far.any fun o => o.uid == u
  s.setAgent k (done.foldl Agent.finish a)

/-- Perform every deferred far operation of an agent, as a release does (03 R60). -/
def State.drainAll (s : State) (k : Nat) : State := s.drainFar k fun _ => true

/-- Deferred far operations that touch the same bytes come first (03 R57). -/
def drainOverlap (k pa n : Nat) : M Unit := modify fun s =>
  s.drainFar k fun o => decide (o.pa < pa + n) && decide (pa < o.pa + o.bytes.length)

/-- A far read of an agent. -/
def farRead (k : Nat) (va : DWord) (pa n : Nat) : M (List Byte) := do
  drainOverlap k pa n
  homeRead va pa n

/-- A far write of an agent, performed at once. -/
def farWrite (k pa : Nat) (bs : List Byte) : M Unit := do
  drainOverlap k pa bs.length
  homeWrite pa bs

/-! ### Loads and stores of an agent, and the accesses of its engines -/

/-- A phased load of a leader that takes the line from the log (16 R367). -/
def leaderLoad (k : Nat) (m : Mode) (va : DWord) (n : Nat) (line : List Byte) (fresh : Bool) : M (List Byte) := do
  if fresh then do
    let r ← attempt (translate k m va .load)
    takeLine k va line (match r with | .ok ph => some (ph.pa / 128) | .error _ => none)
  else pure ()
  let s ← get
  pure (match s.detOf k with | some (_, d) => d.leaderBytes va n line | none => [])

/-- A phased load of an agent's lane (08 R189): a far access on an append-only page. A leader or a logging party notes the
line as it sees it. -/
def loadBytes (k l : Nat) (m : Mode) (va : DWord) (n : Nat) (opc : BitVec 8) : M (List Byte) := do
  let s ← get
  if s.isPrivate k then privateRead k l va n opc
  else match s.leaderLine k l va, s.leaderFar k l va opc with
  | some (line, fresh), _ => leaderLoad k m va n line fresh
  | none, some bs => do
    consumeEntry k false
    pure bs
  | none, none => do
    let ph ← translate k m va .load
    if ph.ao then do
      let bs ← farRead k va ph.pa n
      noteFarLoad k l va bs opc
      pure bs
    else do
      let bs ← phasedRead k va ph.pa n
      let s ← get
      if (s.detOf k).isSome then do
        let c := coreOf k
        let p := (s.agent k).party
        let line := (List.range 128).map fun i =>
          (s.heldByte c p (ph.pa / 128 * 128 + i)).getD (s.mem.read (ph.pa / 128 * 128 + i))
        noteLine k va (ph.pa / 128) line opc
      pure bs

/-- A phased store of an agent's lane: whether it was a far access, on an append-only page (08 R189). A store whose line L1 can take in only
by an eviction that finds no free spill entry takes SNAPSHOT_SPILL_FULL as a load does, which 03 R51 does not say and 16 R365 says of a
leader's: the model's choice (assumption log 95). -/
def storeBytes (k : Nat) (m : Mode) (va : DWord) (bs : List Byte) : M Bool := do
  let s ← get
  if s.isPrivate k then do
    privateStore k va bs
    pure false
  else do
    let ph ← translate k m va .store
    if ph.ao then do
      farWrite k ph.pa bs
      pure true
    else do
      takeLineIn va (coreOf k) (ph.pa / 128)
      modify fun s => (s.phasedWrite k ph.pa bs).unsee (coreOf k) (ph.pa / 128)
      noteStore k va bs
      pure false

/-- A read by an engine operation of an agent, of bytes within one line, performed at the home slice (03 R66). For a deterministic party the
engine reads a 128-byte unit once, which is logged (16 R360), and its later elements of that unit come from it. -/
def engineRead (k uid : Nat) (m : Mode) (copy : Bool) (va : DWord) (n : Nat) (opc : BitVec 8) : M (List Byte) := do
  let s ← get
  match s.unitBytes k uid va n with
  | some bs => pure bs
  | none =>
    if s.takes k true then privateEngineRead k uid va n
    else do
      let ph ← translateUnit k uid m copy va .load
      let bs ← homeRead va ph.pa n
      let s ← get
      noteUnit k uid ⟨vaLine va, s.mem.readN (ph.pa / 128 * 128) 128, s.badMask (ph.pa / 128)⟩ opc
      pure bs

/-- The cores on which the parties of a party's team are. -/
def State.siteCores (s : State) (p : Nat) : List Nat :=
  match (s.party p).team with
  | some t => (((Sparse.find? s.teams t).map Team.members).getD [p]).map fun q => (s.party q).core
  | none => [(s.party p).core]

/-- L1 gives up the clean copies of a line on the cores whose lanes may learn of a transfer from its barrier, so that they see its bytes
(03 R65). -/
def State.dropClean (s : State) (p line : Nat) : State :=
  (s.siteCores p).foldl (fun s c => s.setCore c { s.core c with clean := Sparse.drop (s.core c).clean line }) s

/-- A write by an engine operation of an agent. -/
def engineWrite (k uid : Nat) (m : Mode) (copy : Bool) (va : DWord) (bs : List Byte) : M Unit := do
  let s ← get
  if s.dry k uid then pure ()
  else do
    let ph ← translateUnit k uid m copy va .store
    homeWrite ph.pa bs
    modify fun s => s.dropClean (s.agent k).party (ph.pa / 128)

/-! ### Scratchpad (04 R78 to R83) -/

/-- The party and offset that a scratchpad address names, for `n` bytes; `dest` for a write other than a copy's. The
fault is ILLEGAL_OPERAND with the address (04 R79). -/
def State.spadPlace (s : State) (p : Nat) (addr : Word) (n : Nat) (dest : Bool) : Except Trap (Nat × Nat) :=
  let bad : Trap := ⟨.illegalOperand, 0, addr.setWidth 64, false⟩
  let nb := addr.getLsbD 21
  let rank := (addr.extractLsb' 19 2).toNat
  let off := (addr.extractLsb' 0 19).toNat
  let mates := match (s.party p).team with
    | some t => ((Sparse.find? s.teams t).map Team.members).getD [p]
    | none => [p]
  if addr.extractLsb' 22 10 != 0 || (!nb && rank != 0) || (nb && mates.length ≤ rank) || (nb && dest) then .error bad
  else
    let q := if nb then mates.getD rank p else p
    if (s.party q).spadK * 1024 < off + n then .error bad else .ok (q, off)

/-- Raise what a check answers. -/
def liftCheck {α : Type} (x : Except Trap α) : M α :=
  match x with
  | .ok a => pure a
  | .error t => abort (.trap t)

/-- Read scratchpad (04 R79). -/
def spadRead (k : Nat) (addr : Word) (n : Nat) : M (List Byte) := do
  let s ← get
  let (q, off) ← liftCheck (s.spadPlace (s.agent k).party addr n false)
  pure ((s.party q).spad.readN off n)

/-- Write scratchpad; `copy` for the copy engine, which may name a neighbour (04 R79). -/
def spadWrite (k : Nat) (addr : Word) (bs : List Byte) (copy : Bool) : M Unit := do
  let s ← get
  let (q, off) ← liftCheck (s.spadPlace (s.agent k).party addr bs.length (!copy))
  modParty q fun x => { x with spad := x.spad.writeN off bs }

/-- The words that an instruction's scratchpad accesses touch, each access as party × 2^20 + offset and its bytes. -/
def touchedWords (acc : List (Nat × Nat)) : List Nat :=
  (acc.flatMap fun a => (List.range (ceilDiv a.2 4)).map fun i => a.1 / 4 + i).eraseDups

/-- Requests to one bank: distinct words (04 R80, R81); a bank is a region's core and bits [6:2] of the offset. -/
def bankRequests (words : List Nat) (bank : Nat) : Nat :=
  (words.filter fun w => w / 2 ^ 18 * 32 + w % 32 == bank).length

/-- Replay cycles of a scratchpad instruction (04 R83). -/
def replayCycles (acc : List (Nat × Nat)) : Nat :=
  let words := touchedWords acc
  let m := (words.map fun w => bankRequests words (w / 2 ^ 18 * 32 + w % 32)).foldl Nat.max 0
  ceilDiv m 8 - 1

/-! ### The constant window (05 R109) and instruction fetch (03 R43) -/

/-- Read the constant window through the phased path. -/
def constRead (k l : Nat) (m : Mode) (off n : Nat) : M (List Byte) := do
  let s ← get
  loadBytes k l m ((s.partyOf k).param + BitVec.ofNat 64 off) n 0xA4

/-- Read a line for fetch: L0, then the camp instruction cache, then the home slice, filling both (03 R43). The spec does not say whether a
fetch consumes the whole line: here it does, and an uncorrectable sector anywhere in it is the fetch's fault (assumption log 92). -/
def fetchLine (c : Nat) (va : DWord) (line : Nat) : M (List Byte) := do
  let s ← get
  match Sparse.find? (s.core c).icache line with
  | some bs => pure bs
  | none =>
    let bs ← match Sparse.find? (s.camp (campOf c)).icache line with
      | some bs => pure bs
      | none => do
        let bs ← homeRead va (128 * line) 128
        modCamp (campOf c) fun x => { x with icache := Sparse.put x.icache line bs }
        pure bs
    modCore c fun x => { x with icache := Sparse.put x.icache line bs }
    pure bs

/-- Fetch the bytes of an instruction: `n` bytes at an address, all in one 32-byte block (05 R114). -/
def fetch (k : Nat) (m : Mode) (pc : DWord) (n : Nat) : M (List Byte) := do
  let ph ← translate k m pc .fetch
  let bs ← fetchLine (coreOf k) pc (ph.pa / 128)
  pure ((bs.drop (ph.pa % 128)).take n)

end Sys2Proof.Machine
end

