-- ==== Sys2Proof/Machine/Wake.lean ====
section
/-! DEFINITION. Waking at a home slice (spec/08 R205 to R207): armed wait entries, the overflow list, and the notification of a
lane stopped by a trap (spec/14 R332). -/

namespace Sys2Proof.Machine

/-! ### The tables of a home slice (08 R205, R206, 15 R344) -/

/-- Lock addresses and waiter records of a slice's lock table. -/
def lockAddressLimit : Nat := 256
/-- Waiter records of a slice's pool. -/
def lockRecordLimit : Nat := 4096
/-- Records of a slice's overflow list of lock waiters. -/
def lockOverflowLimit : Nat := 16384
/-- Entries of a slice's wait table. -/
def waitTableSize : Nat := 512
/-- Records of a slice's overflow list of armed waits. -/
def waitOverflowLimit : Nat := 8192

/-- The lock waiters of a slice, in its table or its overflow list. -/
def State.lockers (s : State) (slice : Nat) (overflow : Bool) : List LockWait :=
  s.locks.filter fun e => sliceOf e.pa == slice && e.overflow == overflow

/-- The table of a lock's slice has room for one more waiter of it. -/
def State.lockTabled (s : State) (pa : Nat) : Bool :=
  let es := s.lockers (sliceOf pa) false
  let pas := (es.map (·.pa)).eraseDups
  decide (es.length < lockRecordLimit) && (pas.contains pa || decide (pas.length < lockAddressLimit))

/-- The slice of a lock can record one more waiter of it. -/
def State.lockRoom (s : State) (pa : Nat) : Bool :=
  s.lockTabled pa || decide ((s.lockers (sliceOf pa) true).length < lockOverflowLimit)

/-- Armed waits of a slice, in its table or its overflow list. -/
def State.armed (s : State) (slice : Nat) (overflow : Bool) : Nat :=
  (s.waits.filter fun e => e.slice == slice && e.overflow == overflow).length

/-- The slice can record one more armed wait. -/
def State.armRoom (s : State) (slice : Nat) : Bool :=
  decide (s.armed slice false < waitTableSize) || decide (s.armed slice true < waitOverflowLimit)

/-- A waiter is woken: a lane's WWAIT, or a hart's (08 R206, 15 R344), executes again and returns. -/
def State.wakeWaiter (s : State) (w : Waiter) : State :=
  match w with
  | .lane k l => s.mapLane k l fun x => if x.wait = some .wwait then { x with wait := some .woken } else x
  | .hart n => s.setHart n { s.hart n with woken := true }
  | .dist _ _ => s

/-- A lock is granted to a waiter (08 R205). -/
def State.grantWaiter (s : State) (w : Waiter) : State :=
  match w with
  | .lane k l => s.mapLane k l fun x => if x.wait = some .qlock then { x with wait := some .granted } else x
  | .hart n => s.setHart n { s.hart n with woken := true }
  | .dist _ _ => s

/-- The entries that a WWAKE of a count wakes (08 R207): the oldest on its key, every one for a count of 0, and every
entry of the slice's overflow list. -/
def wakeTargets (slice part asid : Nat) (va : DWord) (n : Nat) : List WaitEntry → List WaitEntry
  | [] => []
  | e :: t =>
    if e.overflow then
      (if e.slice == slice then e :: wakeTargets slice part asid va n t else wakeTargets slice part asid va n t)
    else if e.part == part && e.asid == asid && e.va == va then
      match n with
      | 0 => e :: wakeTargets slice part asid va 0 t
      | 1 => e :: t.filter fun x => x.overflow && x.slice == slice
      | m + 2 => e :: wakeTargets slice part asid va (m + 1) t
    else wakeTargets slice part asid va n t

/-- A WWAKE performed at a home slice (08 R207). -/
def State.wake (s : State) (slice part asid : Nat) (va : DWord) (n : Nat) : State :=
  let go := wakeTargets slice part asid va n s.waits
  go.foldl (fun s e => s.wakeWaiter e.who) { s with waits := s.waits.filter fun e => !go.contains e }

/-- The wait holds a lane past its instruction until an operation is performed (11 R265, 08 R196). -/
def Wait.isHeld : Wait → Bool
  | .held | .cache _ _ => true
  | _ => false

/-- The CCTL.IINV that a lane's wait holds it for. -/
def Wait.iinv : Wait → Option Nat
  | .cache u true => some u
  | _ => none

/-- Operations that hold lanes of an agent are performed: the lanes may issue again, and IIACK counts a CCTL.IINV with the last of its lanes
(11 R265, 08 R196). -/
def State.performed (s : State) (k : Nat) (lanes : List Nat) : State :=
  let iinvs := (lanes.filterMap fun l => (s.lane k l).wait.bind Wait.iinv).eraseDups
  let s := lanes.foldl (fun s l => s.mapLane k l fun x => if x.wait.any Wait.isHeld then x.wakeUp else x) s
  let done := iinvs.filter fun u => !(s.agent k).lanes.any fun x => x.wait == some (.cache u true)
  if done.isEmpty then s
  else
    let x := s.core (coreOf k)
    s.setCore (coreOf k) { x with counters := { x.counters with iiack := x.counters.iiack + BitVec.ofNat 64 done.length } }

/-- Withdraw what a lane waits for at the home slices (08 R205, R206, 14 R335). -/
def State.withdraw (s : State) (k l : Nat) : State :=
  { s with
    waits := s.waits.filter fun e => e.who != .lane k l
    locks := s.locks.filter fun e => e.who != .lane k l
    versions := s.versions.filter fun e => e.2 != (k, l) }

/-- The core tells software that a lane of an agent has stopped (14 R332): an ATOM.add of 1 at the stop word and a WWAKE of
every waiter, in the address space of the partition's H code; an address that does not translate is not notified. -/
def State.notifyStop (s : State) (k : Nat) : State :=
  let c := coreOf k
  let va := (s.core c).hstopa
  if va == 0 then s else
  let sp := s.space c (s.partOf k) .h
  match translateNow (dieOf c) c sp .h va .atomic s with
  | .error _ => s
  | .ok (ph, s') =>
    let s' := s'.writeHome ph.pa (bytesOf 8 (dwordOf (s'.mem.readN ph.pa 8) + 1))
    s'.wake (sliceOf ph.pa) sp.part sp.asid va 0

end Sys2Proof.Machine
end

