-- ==== Sys2Proof/Machine/Context.lean ====
section
/-! DEFINITION. Saving and restoring a party (spec/14 R335 to R339): what a frame holds, its regions in memory, removal from a
core, return to one, and the roll-back of a redundant pair (spec/16 R359, R366, R367). -/

namespace Sys2Proof.Machine

/-! ### Saving -/

/-- Keys of a party's agents, with the producer slot when the party owns it. -/
def State.ownKeys (s : State) (p : Nat) : List Nat :=
  let y := s.party p
  y.agents ++ (if (s.core y.core).producer == some p then [128 * y.core + 64] else [])

/-- Address in the spill region of a register of an agent (05 R113). -/
def State.spillAddr (s : State) (k reg : Nat) : Nat :=
  ((s.bank (coreOf k) (s.partOf k)).ctxbase.extractLsb' 20 32).toNat * 2 ^ 20 + 16384 * slotOf k + 128 * reg

/-- Bring a spilled register back from its place, in the lanes whose live bits are set; a word that has been written since stays
(05 R113). -/
def State.refill (s : State) (k reg : Nat) : State :=
  let a := s.agent k
  match Sparse.find? a.spilled reg with
  | none => s
  | some live =>
    let bs := s.mem.readN (s.spillAddr k reg) 128
    let put := fun (a : Agent) (l : Nat) => if (Sparse.find? a.vregs (32 * reg + l)).isSome then a else a.setV reg l (BitVec.ofNat 32 (leNat ((bs.drop (4 * l)).take 4)))
    s.setAgent k ((lanesOf live).foldl put { a with spilled := Sparse.drop a.spilled reg })

/-- An agent with nothing spilled, and with every register that it was given at its start. -/
def State.whole (s : State) (k : Nat) : Agent :=
  let a := (((s.agent k).spilled.map (·.1)).foldl (fun s r => s.refill k r) s).agent k
  { a.owed.foldl (fun a e => a.setV (e.1 / 32) (e.1 % 32) e.2) a with owed := [] }

/-- The two words of a barrier in a frame (04 R92). -/
def Barrier.words (x : Barrier) : DWord × DWord :=
  (BitVec.ofNat 64 (x.arr * 2 ^ 28 + x.memb * 2 ^ 16 + x.phase), BitVec.ofNat 64 (x.landb * 2 ^ 32 + x.expb))

/-- The barrier that two words of a frame hold (04 R92). -/
def Barrier.ofWords (w0 w1 : DWord) : Barrier :=
  ⟨(w0.extractLsb' 28 12).toNat, (w0.extractLsb' 16 12).toNat, (w0.extractLsb' 0 16).toNat, (w1.extractLsb' 32 32).toNat,
    (w1.extractLsb' 0 32).toNat⟩

/-- The bytes of barriers in a frame, 16 each. -/
def barrierBytes (bs : List Barrier) : List Byte := bs.flatMap fun x => bytesOf 8 x.words.1 ++ bytesOf 8 x.words.2

/-- Barriers from the bytes of a frame. -/
def barriersOf (n : Nat) (bs : List Byte) : List Barrier :=
  (List.range n).map fun i => .ofWords (dwordOf ((bs.drop (16 * i)).take 8)) (dwordOf ((bs.drop (16 * i + 8)).take 8))

/-- Everything that a frame holds of a party (14 R338), as it stands. -/
def State.snapshot (s : State) (p : Nat) : Saved :=
  let y := s.party p
  let x := s.core y.core
  let ks := s.ownKeys p
  let prod := if x.producer == some p then some (s.whole (128 * y.core + 64), x.queues, x.queuesClosed) else none
  let inline := fun (e : Nat × Mark) => (e.1, { e.2 with bytes := s.markBytes e.2, entry := none, spilled := 0 })
  { party := { y with marks := y.marks.map inline }
    agents := y.agents.map fun k => (k, s.whole k)
    team := y.team.bind fun t => (Sparse.find? s.teams t).map Team.barriers
    producer := prod
    copies := x.copies.filter fun c => ks.contains c.agent
    gathers := x.gathers.filter fun c => ks.contains c.agent
    appends := x.appends.filter fun c => ks.contains c.agent
    cols := x.cols.filter fun c => ks.contains c.agent
    ops := (s.camp (campOf y.core)).ops.filter fun o => o.party == p
    frame := none }

/-- Take a party off its core: its agents, claims, engine work, marks and waits (14 R336). Its key stays its own. -/
def State.removeParty (s : State) (p : Nat) : State :=
  let y := s.party p
  let c := y.core
  let ks := s.ownKeys p
  let s := s.endMarks p
  let s := { s with
    waits := s.waits.filter fun e => match e.who with | .lane k _ => !ks.contains k | _ => true
    locks := s.locks.filter fun e => match e.who with | .lane k _ => !ks.contains k | _ => true
    versions := s.versions.filter fun e => !ks.contains e.2.1
    agents := s.agents.filter fun e => !ks.contains e.1
    parties := s.parties.filter fun e => e.1 != p
    ports := s.ports.filter fun i => !ks.contains i.agent }
  let x := s.core c
  let own := x.producer == some p
  let x := x.vacate ks.contains
  let s := s.setCore c { x with
    copies := x.copies.filter fun e => !ks.contains e.agent
    gathers := x.gathers.filter fun e => !ks.contains e.agent
    appends := x.appends.filter fun e => !ks.contains e.agent
    cols := x.cols.filter fun e => !ks.contains e.agent
    pending := x.pending.filter fun e => !ks.contains e.agent
    vfile := x.vfile.filter fun v => !ks.contains (128 * c + v / 128)
    dirty := x.dirty.filter fun e => !(e.2.held && e.2.owner == p)
    producer := if own then none else x.producer
    queues := if own then List.replicate 4 ⟨[]⟩ else x.queues
    queuesClosed := if own then false else x.queuesClosed
    misses := x.misses.map fun m => { m with waiters := m.waiters.filter fun w => !ks.contains w.1 } }
  let d := s.camp (campOf c)
  let s := s.setCamp (campOf c) { d with ops := d.ops.filter fun o => o.party != p }
  match y.team with
  | some t => if s.parties.any (fun e => e.2.team == some t) then s else { s with teams := Sparse.drop s.teams t }
  | none => s

/-! ### The frame in memory (14 R337, R338) -/

/-- Write a region of a frame: cleared, then its bytes. -/
def writeRegion (pa size : Nat) (cells : List (Nat × Byte)) : M Unit := fun s =>
  if (tierOf pa).any (· < 2) && (tierOf (pa + size - 1)).any (· < 2) then
    .ok ((), { s with
      mem := cells.foldl (fun m e => m.write (pa + e.1) e.2) (s.mem.clear pa size)
      badSectors := s.badSectors.filter fun x => !(decide (pa ≤ 32 * x) && decide (32 * x + 32 ≤ pa + size)) })
  else .error (.fault (.noMemory pa))

/-- The bytes of words laid out from an offset. -/
def wordCells (off : Nat) (ws : List Word) : List (Nat × Byte) :=
  (List.range (4 * ws.length)).map fun i => (off + i, ((bytesOf 4 ((ws.getD (i / 4) 0).setWidth 64)).getD (i % 4) 0))

/-- The 32 words of a register with a live lane; dead lanes have no defined value (05 R113). -/
def regWords (s : State) (a : Agent) (reg : Nat) : List Word :=
  (List.range 32).map fun l => (Sparse.find? a.vregs (32 * reg + l)).getD (Config.deadLane (s.fresh * 4096 + 32 * reg + l))

/-- Registers of an agent that have a live lane. -/
def liveRegs (a : Agent) : List Nat := ((a.vregs.map fun e => e.1 / 32).eraseDups)

/-- Write an agent's vector registers in the spill layout, from an address (05 R113). -/
def writeVectors (pa : Nat) (a : Agent) : M Unit := do
  let s ← get
  forEach (liveRegs a) fun r => physWrite (pa + 128 * r) ((regWords s a r).flatMap fun w => bytesOf 4 (w.setWidth 64))

/-- Start of a frame of a core's context area (14 R337). -/
def frameBase (b : Bank) (j : Nat) : Nat :=
  (b.ctxbase.extractLsb' 20 32).toNat * 2 ^ 20 + 2 ^ 21 + j * ctxFrameSize b * 2 ^ 20

/-- Start of an agent's spilled return frames on a core, for a lane (07 R156). -/
def laneFrames (b : Bank) (k l : Nat) : Nat :=
  (b.lstkbase.extractLsb' 16 36).toNat * 65536 + 32 * ((b.lstkbase.extractLsb' 0 12).toNat * (32 * slotOf k + l))

/-- Lane number in a frame: 32 × rope + lane, the producer as rope 16, the lead as lane 544 (14 R338). -/
def frameLane (a : Agent) (l : Nat) : Nat := if a.rope == 17 then 544 else 32 * a.rope + l

/-- Copy the spilled return frames of a lane between two areas. -/
def copyFrames (src dst n : Nat) : M Unit := do
  if n == 0 then pure ()
  else do
    let bs ← physRead src (32 * n)
    physWrite dst bs

/-- Write a saved party's frame from an address (14 R338): the regions of fixed layout, and in the header, from offset 0, its 16 barriers and
4 team barriers in the two-word form of 04 R92. The rest of the header and the rope areas are the implementation's own; the
model keeps what they hold in `Saved` (assumption log 13). -/
def writeFrame (base : Nat) (sv : Saved) : M Unit := do
  let s ← get
  let b := s.bank sv.party.core sv.party.task.part
  let depth := (b.lstkbase.extractLsb' 0 12).toNat
  let prod := match sv.producer with | some (a, _, _) => [(128 * sv.party.core + 64, a)] | none => []
  physWrite base (barrierBytes (sv.party.barriers.take 16 ++ sv.team.getD (sv.party.barriers.drop 16)))
  forEach (sv.agents ++ prod) fun e => do
    if e.2.rope == 17 then pure () else writeVectors (base + 0x50000 + 0x4000 * e.2.rope) e.2
    forEach (List.range e.2.lanes.length) fun l =>
      copyFrames (laneFrames b e.1 l) (base + 0x600000 + 32 * depth * frameLane e.2 l) (e.2.lanes.getD l Lane.absent).rsd
  let queues := match sv.producer with | some (_, q, _) => q | none => []
  let entries := (List.range 4).flatMap fun q => (List.range 32).flatMap fun i =>
    wordCells (4096 * q + 128 * i) (((queues.getD q ⟨[]⟩).entries.getD i []))
  writeRegion (base + 0x94000) 0x4000 entries
  if sv.party.spadK == 0 then pure ()
  else writeRegion (base + 0xA0000) (1024 * sv.party.spadK) sv.party.spad
  forEach sv.party.slots fun e => writeRegion (base + 0x200000 + 0x4000 * e.1) 0x4000 e.2.bytes
  forEach sv.party.tiles fun e => writeRegion (base + 0x400000 + 0x10000 * e.1) 0x10000
    (e.2.words.flatMap fun w => wordCells (4 * w.1) [w.2])
  let lines := base + 0x600000 + 17440 * depth
  forEach ((List.range sv.party.marks.length).zip sv.party.marks) fun e =>
    physWrite (lines + 256 * e.1) (snapBytes e.2.1 e.2.2.bytes [sv.party.pslot])

/-- Bytes that a party's frame needs (14 R338). -/
def frameNeed (s : State) (sv : Saved) : Nat :=
  let b := s.bank sv.party.core sv.party.task.part
  6 * 2 ^ 20 + 17440 * (b.lstkbase.extractLsb' 0 12).toNat + 256 * sv.party.marks.length

/-! ### Returning to a core (14 R339) -/

/-- A wait that pre-emption withdraws: the lane executes the instruction again. A lane that is past its instruction, asleep at a
collective, in an interlocked operation, for a result or for a TLBI, sleeps on; one whose wait is over returns, and an AFNC keeps
the slot that it waits for (12 R284). -/
def resumeWait : Option Wait → Option Wait
  | some (.phase t n) => some (.phase t n)
  | some .held => some .held
  | some (.cache u i) => some (.cache u i)
  | some (.range va n) => some (.range va n)
  | some (.result u) => some (.result u)
  | some .granted => some .granted
  | some .woken => some .woken
  | some (.tlbi n) => some (.tlbi n)
  | some (.durable n upto) => some (.durable n upto)
  | some (.camp u) => some (.camp u)
  | _ => none

/-- Slots 0 to 63 of a core that hold no rope, in order. -/
def freeSlots (s : State) (c from_ n : Nat) : List Nat :=
  ((List.range n).map (from_ + ·)).filter fun i => (Sparse.find? s.agents (128 * c + i)).isNone

/-- The new keys of a saved party's agents on a core: ropes in free rope slots, the lead in a free lead context. -/
def newKeys (s : State) (c : Nat) (agents : List (Nat × Agent)) : List (Nat × Nat) :=
  let ropes := agents.filter fun e => e.2.rope != 17
  let leads := agents.filter fun e => e.2.rope == 17
  (ropes.zip (freeSlots s c 0 64)).map (fun e => (e.1.1, 128 * c + e.2)) ++
    (leads.zip (freeSlots s c 65 16)).map (fun e => (e.1.1, 128 * c + e.2))

/-- A free party slot of a core. -/
def freePartySlot (s : State) (c : Nat) : Nat :=
  ((List.range 32).find? fun i => !(s.coreParties c).any fun p => (s.party p).pslot == i).getD 0

/-- The name by which an operation stands in the arrival order of its camp: a key block has its ATTN's (10 R236). -/
def CampOp.arrival (o : CampOp) : Nat :=
  match o.kind with
  | .attn _ _ _ _ parent _ => parent
  | _ => o.uid

/-- Put an operation in its place of the arrival order, behind those of its own instruction. -/
def insertArrival (o : CampOp) : List CampOp → List CampOp
  | [] => [o]
  | x :: t => if o.arrival < x.arrival then o :: x :: t else x :: insertArrival o t

/-- Put a saved party back: on the agents' own places for a roll-back, on new ones of a core for a resumption. -/
def State.install (s : State) (p : Nat) (sv : Saved) (c : Nat) (keys : List (Nat × Nat)) : State :=
  let key := fun (k : Nat) => if k % 128 == 64 then 128 * c + 64 else ((keys.find? fun e => e.1 == k).map (·.2)).getD k
  let up := fun (x : Lane) => { x with wait := (resumeWait x.wait).or (resumeWait x.kept), kept := none }
  let wake := fun (a : Agent) => { a with lanes := a.lanes.map up }
  let party : Party := { sv.party with core := c, pslot := freePartySlot s c, agents := sv.party.agents.map key, bound := s.now, halted := false }
  let s := { s with
    parties := Sparse.put s.parties p party
    agents := sv.agents.foldl (fun (m : Sparse Agent) (e : Nat × Agent) => Sparse.put m (key e.1) (wake e.2)) s.agents }
  let s := match sv.producer with
    | some (a, _, _) => s.setAgent (128 * c + 64) (wake a)
    | none => s
  let s := s.heatHalts ((128 * c + 64) :: party.agents)
  let x := s.core c
  let copies := sv.copies.map fun (e : Copy) => { e with agent := key e.agent }
  let gathers := sv.gathers.map fun (e : Gather) => { e with agent := key e.agent }
  let appends := sv.appends.map fun (e : Append) => { e with agent := key e.agent }
  let cols := sv.cols.map fun (e : ColOp) => { e with agent := key e.agent }
  let ropes := sv.agents.filter fun e => e.2.rope != 17
  let prod := match sv.producer with
    | some (a, _, _) => if a.ended then [] else [Pending.mk (128 * c + 64) 0]
    | none => []
  let ready := (ropes.filter fun e => !e.2.ended).map (fun e => Pending.mk (key e.1) 0) ++ prod
  let x : Core := { x with
    copies := x.copies ++ copies, gathers := x.gathers ++ gathers, appends := x.appends ++ appends, cols := x.cols ++ cols
    pending := x.pending ++ ready }
  let x := match sv.producer with
    | some (_, q, cl) => { x with producer := some p, queues := q, queuesClosed := cl }
    | none => x
  let s := s.setCore c x
  let d := s.camp (campOf c)
  let put := fun (ops : List CampOp) (o : CampOp) => insertArrival { o with agent := key o.agent } ops
  s.setCamp (campOf c) { d with ops := sv.ops.foldl put d.ops }

/-! ### Checkpoints and roll-back (16 R359, R367) -/

/-- Results in flight land, and operations already performed let their lanes go on (14 R335, 16 R359). -/
def State.landAll (s : State) (p : Nat) : State :=
  (s.ownKeys p).foldl (fun s k =>
    let s := (s.drainAll k).performed k (List.range (s.agent k).lanes.length)
    let a := ((s.agent k).flights.filter (·.known)).foldl (fun a f => (a.land f.uid).finish f.uid) (s.agent k)
    s.setAgent k a) s

/-- Write a checkpoint of a party to its deterministic slot, as a save writes it, and start an interval with an empty log (16 R359). -/
def startInterval (n : Nat) : M Unit := do
  let s ← get
  match Sparse.find? s.dets n with
  | none => pure ()
  | some d => do
    modify fun s => d.trailer.toList.foldl State.landAll (s.landAll d.leader)
    let s ← get
    let sv := s.snapshot d.leader
    writeFrame (detSlotBase s sv.party) sv
    let sv2 ← match d.trailer with
      | some t => do
        let s ← get
        let tv := s.snapshot t
        writeFrame (detSlotBase s tv.party) tv
        pure (some tv)
      | none => pure none
    modify fun s => s.setDet n { d with
      checkpoint := some sv, checkpoint2 := sv2, log := [], cursor := [], cursor2 := [], posted := [], lines := [], own := []
      wrote := [], seen := [], taken := [], reached := [], mismatches := 0, halted := none }

/-- Reservation-table entries of a party that are not yet granted are withdrawn, with their place in the order (14 R335 step 2, 10 R248). -/
def State.withdrawOps (s : State) (p : Nat) : State :=
  let c := campOf (s.party p).core
  let back := fun (o : CampOp) => match o.phase with
    | .tabled _ _ n => if o.party == p then { o with phase := .arrived 0 n } else o
    | _ => o
  s.setCamp c { s.camp c with ops := (s.camp c).ops.map back }

/-- A party halts (14 R335): it issues no more, its table entries that are not granted are withdrawn, and so are its waits in the wait
table and the lock queues. -/
def State.haltParty (s : State) (p : Nat) : State :=
  let ks := s.ownKeys p
  let s := (s.setParty p { s.party p with halted := true }).withdrawOps p
  let s := ks.foldl (fun s k => (s.agent k).live.foldl (fun s l => s.withdraw k l) s) s
  let up := fun (x : Lane) => if x.wait == some .wwait || x.wait == some .qlock then x.wakeUp else x
  let s := ks.foldl (fun s k => s.setAgent k { s.agent k with lanes := (s.agent k).lanes.map up }) s
  { s with ports := s.ports.filter fun i => !ks.contains i.agent }

/-- The far stores and REDs that a party has issued are performed (14 R335). -/
def State.drainParty (s : State) (p : Nat) : State := (s.ownKeys p).foldl State.drainAll s

/-- Put a party back as a checkpoint holds it, on its own core, after a halt (16 R367). -/
def State.rollBack (s : State) (p : Nat) (sv : Option Saved) : State :=
  match sv with
  | none => s
  | some v =>
    let team := (s.party p).team
    let teams := s.teams
    let s := ((s.haltParty p).drainParty p).removeParty p
    let s := match team, v.team with
      | some t, some bs => { s with teams := Sparse.adjust teams t fun x => { x with barriers := bs } }
      | _, _ => { s with teams := teams }
    s.install p v v.party.core []

/-- How far the lanes of a party, its producer's and those that have exited among them, have come in their interval, beside how far they
came before. -/
def State.reachedBy (s : State) (p : Nat) (old : Sparse DWord) : Sparse DWord :=
  (s.ownKeys p).foldl (fun m k => (List.range (s.agent k).lanes.length).foldl (fun m l =>
    let key := 32 * logRope s k + l
    let x := s.lane k l
    if x.rwc ≤ Sparse.getD m key 0 then m else Sparse.put m key x.rwc) m) old

/-- A deterministic state whose parties begin their interval again, the log as it stands. -/
def Det.again (d : Det) (reached : Sparse DWord) : Det :=
  { d with cursor := [], cursor2 := [], posted := [], lines := [], own := [], wrote := [], seen := [], taken := [], reached := reached }

/-- An effect that has been performed and is logged. -/
def LogEntry.performed (e : LogEntry) : Bool :=
  e.passive || (e.kind == 2 && !(e.opc == 0xA0 || (decide (0xA4 ≤ e.opc.toNat) && decide (e.opc.toNat ≤ 0xA5)) || e.opc == 0xA7 ||
    e.opc == 0xAE || e.opc == 0xD4))

/-- The log up to a mismatch that the trailer found in a rope (16 R367): the rope's entries that the trailer has not taken go, but for the
effects among them, which are performed and are not to be performed again. -/
def Det.upTo (d : Det) (rope : Nat) : List LogEntry :=
  let gone := (d.entriesFrom true rope false).filter fun e => !e.performed
  d.log.filter fun e => !gone.contains e

/-- The log of a pair in its leader's deterministic slot, written anew. -/
def State.writeLog (s : State) (d : Det) : State :=
  let y := s.party d.leader
  s.writeHome (detSlotBase s y + ctxFrameSize (s.bank y.core y.task.part) * 2 ^ 20) (d.log.flatMap LogEntry.bytes)

/-- Both parties of a pair return to the interval's checkpoint and execute it again, with the log up to the mismatch, which the trailer found
in a rope, or at a compare or in its leader's effect (16 R367). -/
def State.reexecute (s : State) (n : Nat) (rope : Option Nat) : State :=
  match Sparse.find? s.dets n with
  | none => s
  | some d =>
    let reached := s.reachedBy d.leader d.reached
    let d := match rope with | some r => { d with log := d.upTo r } | none => d
    let s := if rope.isSome then s.writeLog d else s
    let s := (s.dropDirty d.leader).rollBack d.leader d.checkpoint
    let s := match d.trailer with | some t => s.rollBack t d.checkpoint2 | none => s
    s.setDet n (d.again reached)

/-- TVAL of REDUNDANT_MISMATCH (16 R367). -/
def mismatchValue (phase : Word) (code : Nat) : DWord := (phase.setWidth 64 <<< 16) ||| BitVec.ofNat 64 code

/-- One lane takes a trap at a pc and clause position; a lane that stops instead is notified (14 R321, R332). -/
def State.trapLane (s : State) (k l : Nat) (t : Trap) (pc : DWord) (cl : Clause) : State :=
  let stops := (s.lane k l).trapStops
  let s := s.takeTrap k l t pc cl
  if stops then s.notifyStop k else s

/-- Every lane of an agent that has not exited takes a trap where it stands, its wait withdrawn. -/
def State.trapAgent (s : State) (k : Nat) (t : Trap) : State :=
  (s.agent k).live.foldl (fun s l =>
    let x := s.lane k l
    (s.withdraw k l).trapLane k l t x.pc x.clause) s

/-- A halted party goes on. -/
def State.unhaltParty (s : State) (p : Nat) : State := s.setParty p { s.party p with halted := false }

/-- A mismatch of a pair (16 R367), by its code, and the rope in which the trailer found it: the third in an interval halts the pair and is
taken by the trailer's lanes; an earlier one rolls both parties back. -/
def State.pairMismatch (s : State) (n code : Nat) (rope : Option Nat := none) : State :=
  match Sparse.find? s.dets n with
  | none => s
  | some d =>
    match d.trailer with
    | none => s
    | some t =>
      let c := (s.party t).core
      let x := s.core c
      let s := s.setCore c { x with counters := { x.counters with rm := x.counters.rm + 1 } }
      if d.mismatches + 1 < 3 then (s.setDet n { d with mismatches := d.mismatches + 1 }).reexecute n rope
      else
        let s := s.setDet n { d with mismatches := d.mismatches + 1, halted := some code }
        let s := ((s.haltParty d.leader).landAll d.leader).haltParty t
        let s := (s.landAll t).unhaltParty t
        let away := fun (x : Lane) => { x with detour := some (x.rwc, 1) }
        (s.ownKeys t).foldl (fun s k =>
          let live := (s.agent k).live
          let s := s.trapAgent k ⟨.redundantMismatch, 0, mismatchValue (s.partyOf k).phaseId code, false⟩
          live.foldl (fun s l => s.mapLane k l away) s) s

/-- A mismatch found by an agent of a pair; a replay that leaves its log stays where it is. -/
def State.noteMismatch (s : State) (k code : Nat) : State :=
  match s.detOf k with
  | some (n, _) => s.pairMismatch n code (if s.roleOf k == .trailer then some (logRope s k) else none)
  | none => s

/-- The signature of an interval (16 R366). -/
def signature (bytes : Sparse Byte) : DWord :=
  bytes.foldl (fun r e => r + mix64 (BitVec.ofNat 64 (e.1 % 2 ^ 55 * 256 + e.2.toNat))) 0

/-- The signatures of a pair agree. -/
def Det.agrees (d : Det) : Bool := signature d.wrote == signature d.own

end Sys2Proof.Machine
end

