-- ==== Sys2Proof/Machine/Operands.lean ====
section
/-! DEFINITION. How an issue group executes an instruction: guards, operands of every kind (spec/05 R111, R115 to R117),
destinations, retirement with the loop test (07 R159), waits, misses and traps. -/

namespace Sys2Proof.Machine

/-! ### Guards -/

/-- The agent of the issue in hand. -/
def State.who (s : State) : Nat := s.issue.agent

/-- The lanes of the issue in hand. -/
def State.issued (s : State) : List Nat := lanesOf s.issue.lanes

/-- The guard of an instruction holds in a lane (05 R115). -/
def State.guard (s : State) (k : Nat) (b : Base) (l : Nat) : Bool :=
  b.grd == 7 || (s.readP k l b.grd.toNat != b.gneg)

/-- The lanes of the issue in which the guard holds. -/
def State.acting (s : State) (b : Base) : List Nat := s.issued.filter (s.guard s.who b)

/-- Mode of the issue group. -/
def State.mode (s : State) : Mode := (s.lane s.who (s.issued.headD 0)).mode

/-- Clause state of the issue group. -/
def State.clause (s : State) : Clause := (s.lane s.who (s.issued.headD 0)).clause

/-! ### Sources -/

/-- The element type of a packed pair (05 R118). -/
def pairElem (fn : BitVec 3) : Ty :=
  match fn.toNat with
  | 0 => .f16 | 1 => .bf16 | 2 => .i16 | _ => .n16

/-- An integer as the bits of an element type. -/
def Ty.ofLit (t : Ty) (v : Int) : DWord :=
  if t.isInt then t.wrap v else t.fround (ofInt v) .rne

/-- The value of a literal (05 R117): `wide` when it stands in an extension word. -/
def litValue (t : Ty) (fn : BitVec 3) (wide : Option Word) (field : BitVec 8) : DWord :=
  match wide with
  | some w => if t == .i64 then w.signExtend 64 else w.setWidth 64
  | none =>
    match t with
    | .pair =>
      let e := Ty.ofLit (pairElem fn) field.toInt
      e ||| (e <<< 16)
    | _ => Ty.ofLit t field.toInt

/-- Read a vector register, or a pair, of a lane. -/
def State.readVec (s : State) (k l reg : Nat) (wide : Bool) : DWord :=
  if wide then joinWords (s.readV k (reg + 1) l) (s.readV k reg l) else (s.readV k reg l).setWidth 64

/-- Read a scalar register, or a pair. -/
def State.readScl (s : State) (k reg : Nat) (wide : Bool) : DWord :=
  if wide then joinWords (s.readS k (reg + 1)) (s.readS k reg) else (s.readS k reg).setWidth 64

/-- The value of source number `i` in a lane, as the bits of its type (05 R107, R109, R116, R117). -/
def readSrc (f : Form) (b : Base) (i l : Nat) : M DWord := fun s =>
  let src := b.src i
  let t := (f.srcRule i).ty.of b
  match src.kind with
  | .vec => .ok (s.readVec s.who l src.field.toNat t.is64, s)
  | .scl => .ok (s.readScl s.who src.field.toNat t.is64, s)
  | .lit => .ok (litValue t b.fn (b.extOf f.layout i) src.field, s)
  | .cst =>
    match constRead s.who l s.mode (4 * b.cstIdx f.layout i src) (if t.is64 then 8 else 4) s with
    | .ok (bs, s') => .ok (dwordOf bs, s')
    | .error e => .error e

/-- The values of sources A, B and C in a lane; a position that is not used reads as 0. -/
structure Operands where
  a : DWord
  b : DWord
  c : DWord
  deriving DecidableEq, Repr

/-- Read every source an instruction uses. -/
def readSrcs (f : Form) (b : Base) (l : Nat) : M Operands := do
  let a ← if f.a.used then readSrc f b 0 l else pure 0
  let x ← if f.b.used then readSrc f b 1 l else pure 0
  let c ← if f.c.used then readSrc f b 2 l else pure 0
  pure ⟨a, x, c⟩

/-- The vector registers that an instruction names as sources. -/
def srcRegs (f : Form) (b : Base) : List Nat :=
  (List.range 3).flatMap fun i =>
    let src := b.src i
    if (f.srcRule i).used && src.kind == .vec then
      (if ((f.srcRule i).ty.of b).is64 then [src.field.toNat, src.field.toNat + 1] else [src.field.toNat])
    else []

/-- The registers whose live bits the last-use bits clear (05 R111). -/
def lastUse (f : Form) (b : Base) : List Nat :=
  (List.range 3).flatMap fun i =>
    let src := b.src i
    if b.lu.getLsbD i && src.kind == .vec then
      (if ((f.srcRule i).ty.of b).is64 then [src.field.toNat, src.field.toNat + 1] else [src.field.toNat])
    else []

/-! ### Destinations -/

/-- A result of a type in register form (07 R152 rule 5): sign-extended for i8 and i16, zero-extended otherwise. -/
def extendTo (t : Ty) (x : DWord) : DWord :=
  match t with
  | .i8 => (x.setWidth 8).signExtend 64
  | .i16 => (x.setWidth 16).signExtend 64
  | .n8 | .e4m3 | .e5m2 => (x.setWidth 8).setWidth 64
  | .n16 | .f16 | .bf16 => (x.setWidth 16).setWidth 64
  | .e2m1 | .df4 => (x.setWidth 4).setWidth 64
  | _ => x

/-- The writes of a value to the destination register of an instruction, or to its pair, from a register number. -/
def regWrites (b : Base) (l reg : Nat) (wide : Bool) (x : DWord) : List (Dest × Word) :=
  let d := fun r => if b.dk == .scl then Dest.sreg r else Dest.vreg r l
  if wide then [(d reg, loWord x), (d (reg + 1), hiWord x)] else [(d reg, loWord x)]

/-- The writes of a typed result to the destination. -/
def dstWrites (b : Base) (l : Nat) (t : Ty) (x : DWord) : List (Dest × Word) :=
  regWrites b l b.dst.toNat t.is64 (extendTo t x)

/-- The write of a predicate. -/
def predWrite (l p : Nat) (v : Bool) : List (Dest × Word) := [(.pred l p, if v then 1 else 0)]

/-! ### Retirement -/

/-- The loop test after an instruction that does not transfer control (07 R159): the next pc, the loop registers, and
whether the lane goes back to a START, where a clause is due. -/
def loopTest (mode : Mode) : Nat → DWord → LoopReg → LoopReg → DWord × LoopReg × LoopReg × Bool
  | 0, pc, l0, l1 => (pc, l0, l1, false)
  | n + 1, pc, l0, l1 =>
    if l0.valid && mode == l0.mode && pc == l0.fin then
      if l0.rem - 1 != 0 then (l0.start, { l0 with rem := l0.rem - 1 }, l1, true)
      else loopTest mode n pc l1 { l1 with valid := false }
    else (pc, l0, l1, false)

/-- A lane goes on to the next instruction under a clause state: pc, loop test, RWC (05 R110, 07 R159). -/
def Lane.goOn (x : Lane) (len : Nat) (cl : Clause) : Lane :=
  let (pc, l0, l1, back) := loopTest x.mode 2 (x.pc + BitVec.ofNat 64 len) x.lc0 x.lc1
  { x.leave with pc := pc, lc0 := l0, lc1 := l1, clause := if back then .due else cl, rwc := x.rwc + 1 }

/-- A lane goes on to the next instruction of its clause (05 R123). -/
def Lane.advance (x : Lane) (len : Nat) : Lane := x.goOn len x.clause.next

/-- A lane transfers control: a clause is due at the target (05 R123). -/
def Lane.jump (x : Lane) (target : DWord) : Lane :=
  { x.leave with pc := target, clause := .due, rwc := x.rwc + 1 }

/-- A lane leaves the loops that a branch target lies outside of (07 R159). -/
def leaveLoops (mode : Mode) (target : DWord) : Nat → LoopReg → LoopReg → LoopReg × LoopReg
  | 0, l0, l1 => (l0, l1)
  | n + 1, l0, l1 =>
    if l0.valid && mode == l0.mode && !(decide (l0.start ≤ target) && decide (target < l0.fin)) then
      leaveLoops mode target n l1 { l1 with valid := false }
    else (l0, l1)

/-- A taken branch: the loops it leaves end (07 R155, R159). -/
def Lane.branch (x : Lane) (target : DWord) : Lane :=
  let (l0, l1) := leaveLoops x.mode target 2 x.lc0 x.lc1
  { x.jump target with lc0 := l0, lc1 := l1 }

/-! ### What the lanes of a group do -/

/-- What an instruction does in one lane, besides the effects already made on the state. -/
structure LaneOut where
  /-- register and predicate writes, made after every lane's last-use bits are cleared -/
  writes : List (Dest × Word) := []
  /-- the lane's pc has been set by the effect -/
  moved : Bool := false
  /-- the lane goes on and then sleeps -/
  hold : Option Wait := none
  /-- the lane sleeps at this instruction and executes it again -/
  stay : Option Wait := none
  /-- the accesses of a memory instruction, as address and bytes, for its sampled record and its replays -/
  touch : List (Nat × Nat) := []
  /-- they are scratchpad accesses, as party × 2^20 + offset -/
  banked : Bool := false
  /-- a store that was a far access, on an append-only page (02 R32) -/
  far : Bool := false
  /-- the bytes that an LDV wrote to scratchpad, and where -/
  tile : Option (DWord × List Byte) := none
  deriving DecidableEq, Repr

/-- The outcome of a group: traps by lane, what the other lanes do, and traps taken once the instruction is done. -/
structure GroupOut where
  traps : List (Nat × Trap) := []
  outs : List (Nat × LaneOut) := []
  /-- traps taken at the next instruction (08 R194, 14 R321) -/
  after : List (Nat × Trap) := []
  deriving DecidableEq, Repr

/-- The issue in hand is of a bound rope. -/
def State.isBound (s : State) : Bool := (s.agent s.who).bound.isSome

/-- Perform an effect in each lane in order; a lane that traps is undone, and its siblings go on (02 R37), but in a bound rope no lane
after it is performed (09 R218). -/
def eachLane : List Nat → (Nat → M LaneOut) → M GroupOut
  | [], _ => pure {}
  | l :: ls, act => do
    let r ← attempt (act l)
    match r with
    | .ok o => do
      let g ← eachLane ls act
      pure { g with outs := (l, o) :: g.outs }
    | .error t => do
      let s ← get
      if s.isBound then pure { traps := [(l, t)] }
      else do
        let g ← eachLane ls act
        pure { g with traps := (l, t) :: g.traps }

/-- The trap that a bound rope takes as a unit: that of the lowest lane (09 R217). -/
def unitTraps (lanes : List Nat) (traps : List (Nat × Trap)) : List (Nat × Trap) :=
  match traps with
  | [] => []
  | (_, t) :: _ => lanes.map fun l => (l, t)

/-- In a bound rope, a trap in any lane undoes every lane's effect (09 R217, R218); `keep` for the atomics, whose performed
lanes stay performed. -/
def boundRule (keep : Bool) (m : M GroupOut) : M GroupOut := fun s =>
  match m s with
  | .error e => .error e
  | .ok (g, s') =>
    if (s.agent s.who).bound.isSome && !g.traps.isEmpty then
      .ok ({ traps := unitTraps s.issued g.traps, outs := [] }, if keep then s' else s)
    else .ok (g, s')

/-- Clear the last-use registers of lanes, discarding results on their way to them (05 R111, R126). -/
def Agent.killRegs (a : Agent) (regs lanes : List Nat) : Agent :=
  let ds := regs.flatMap fun r => lanes.map fun l => Dest.vreg r l
  (regs.foldl (fun a r => lanes.foldl (fun a l => a.kill r l) a) a).discard ds

/-- WWAIT and QLOCK of a bound rope retire for the rope when the last lane returns (09 R219): while a lane sleeps, the others stay with it,
as lanes that have returned. -/
def GroupOut.joined (g : GroupOut) (s : State) (f : Form) : GroupOut :=
  if s.isBound && g.traps.isEmpty && (f.opc == 0xCA || f.opc == 0xCC) && g.outs.any fun o => o.2.stay.isSome then
    let back : Wait := if f.opc == 0xCA then .granted else .woken
    { g with outs := s.issued.map fun l =>
        (l, { stay := some (((g.outs.find? fun o => o.1 == l).bind fun o => o.2.stay).getD back) }) }
  else g

/-- Make the writes of an interlocked instruction (05 R125, R126). -/
def Agent.commit (a : Agent) (ws : List (Dest × Word)) : Agent := (a.discard (ws.map (·.1))).writeAll ws

/-- Take the traps of a group, each lane at its own pc and clause position (14 R321). -/
def State.takeTraps (s : State) (k : Nat) (ts : List (Nat × Trap)) : State :=
  ts.foldl (fun s e => s.trapLane k e.1 e.2 (s.lane k e.1).pc (s.lane k e.1).clause) s

/-- Lanes of an outcome that a test of their effect picks. -/
def GroupOut.lanesBy (g : GroupOut) (p : LaneOut → Bool) : List Nat := (g.outs.filter fun o => p o.2).map (·.1)

/-- The register writes of an outcome, lane after lane. -/
def GroupOut.writes (g : GroupOut) : List (Dest × Word) := g.outs.flatMap fun o => o.2.writes

/-- What the log of an agent's party and the other party of its pair have come to, as far as a wait of the agent for them may end by it
(16 R364): whether the log is full, the rope's entries and how many of them are taken, the lines and bytes at hand, how far the
rope's lanes have come here and at the leader, and the effects that the trailer has posted for the rope. -/
def State.pairMark (s : State) (k : Nat) : List Nat :=
  match s.detOf k with
  | none => []
  | some (_, d) =>
    let trailer := s.roleOf k == .trailer
    let rope := logRope s k
    let counts := fun (j : Nat) => (s.agent j).lanes.map fun x => 2 * x.rwc.toNat + (if x.exited then 1 else 0)
    let leader := match s.leaderOf k d with
      | some j => if j == k then [] else counts j ++ (s.agent j).lanes.map fun x => if x.wait == some .pair then 1 else 0
      | none => []
    [if d.isFull then 1 else 0, (d.ropeEntries trailer rope false).length, (d.entriesFrom trailer rope false).length,
      d.lines.length, d.own.length, d.taken.length] ++ counts k ++ leader ++
      (d.posted.filter fun p => p.rope == rope).flatMap fun p => [p.lane, p.rwc.toNat]

/-- Lanes go to sleep at the instruction of the issue in hand, whose word they note (14 R333). -/
def State.sleepHere (s : State) (k : Nat) (lanes : List Nat) (w : Wait) : State :=
  let mark := if w == .pair then s.pairMark k else []
  lanes.foldl (fun s l => s.mapLane k l fun x => { x with word := s.issue.word, seen := mark }) (s.sleep k lanes w)

/-- Put the lanes of an outcome to sleep that its effects say. -/
def State.sleepOuts (s : State) (k : Nat) (outs : List (Nat × LaneOut)) (w : LaneOut → Option Wait) : State :=
  outs.foldl (fun s o => match w o.2 with | some x => s.sleepHere k [o.1] x | none => s) s

/-- The flagged sequence instructions, SQRSV and SQLEN: their lanes issue no more until the flag falls (11 R259). -/
def heldByFlag (opc : BitVec 8) : Bool := opc == 0xE9 || opc == 0xEE

/-- A flagged result is sent on its way under its flag; the lanes of one without a flag, or of one that `held` says, wait for it
(05 R125, 11 R259). -/
def State.launchFlight (s : State) (k : Nat) (flag : Option Nat) (held : Bool) (lanes : List Nat) (ws : List (Dest × Word)) : State :=
  let u := s.uid
  let s := { s.setAgent k ((s.agent k).launch ⟨u, flag, ws, true⟩) with uid := u + 1 }
  if flag.isNone || held then s.sleep k lanes (.result u) else s

/-- The class MEM (13 R314). -/
def memClass (opc : BitVec 8) : Bool :=
  let n := opc.toNat
  (decide (0xA0 ≤ n) && decide (n ≤ 0xAE)) || (decide (0xC0 ≤ n) && decide (n ≤ 0xC3))

/-- The accesses of an outcome. -/
def GroupOut.touched (g : GroupOut) : List (Nat × Nat) := g.outs.flatMap fun o => o.2.touch

/-- Replay cycles of an outcome: those of its scratchpad accesses. -/
def GroupOut.replays (g : GroupOut) : Nat := if g.outs.any (fun o => o.2.banked) then replayCycles g.touched else 0

/-- How many blocks of a size an outcome touches. -/
def GroupOut.blocks (g : GroupOut) (size : Nat) : Nat :=
  (g.touched.flatMap fun a => (List.range (ceilDiv (a.1 % size + a.2) size)).map (a.1 / size + ·)).eraseDups.length

/-- A number cut to bytes, little endian, saturated. -/
def satBytes (n x : Nat) : List Byte := leBytes n (Nat.min x (2 ^ (8 * n) - 1))

/-- The record of a sampled memory instruction (16 R370), CLOCK excepted: the lane that returned last and the queue times
are free values (assumption log 18). -/
def sampleRecord (s : State) (f : Form) (b : Base) (g : GroupOut) : List Byte :=
  let k := s.who
  let act := g.outs.map (·.1)
  let time := fun (i : Nat) => Config.sampleTime (s.fresh * 8 + i)
  let returns := g.outs.any fun o => !o.2.writes.isEmpty
  let last := if returns then act.getD ((time 0).toNat % act.length) 0 else 255
  let scope := if f.opc == 0xC0 || f.opc == 0xC2 then (if b.len == .w64 then 3 else (b.mod.extractLsb' 2 3).toNat) else 0
  leBytes 1 1 ++ leBytes 1 last ++ leBytes 1 f.opc.toNat ++ leBytes 1 (b.fn.toNat + 16 * scope) ++
    leBytes 4 (maskOf act).toNat ++ leBytes 8 s.issue.pc.toNat ++ leBytes 8 (s.lane k (act.headD 0)).rwc.toNat ++
    satBytes 2 (g.blocks 32) ++ satBytes 2 (g.blocks 128) ++ satBytes 2 g.replays ++ leBytes 2 (coreOf k) ++
    (List.range 5).flatMap (fun i => leBytes 4 (time (1 + i)).toNat) ++ leBytes 4 (s.partyOf k).task.slot ++
    leBytes 8 0

/-- No trace record of a lane is written (16 R357): in a trailer, in a replay, and in a re-execution up to where it has caught up. -/
def State.traceMuted (s : State) (k l : Nat) : Bool :=
  s.isPrivate k || match s.detOf k with
    | some (_, d) => decide ((s.lane k l).rwc < Sparse.getD d.reached (32 * logRope s k + l) 0)
    | none => false

/-- Put a trace record of an agent's partition in its core's buffer of 32; a full buffer drops it and counts TRDROP (16 R369). -/
def State.bufferTrace (s : State) (k : Nat) (bytes : List Byte) : State :=
  let c := coreOf k
  let x := s.core c
  if 32 ≤ x.trace.length then s.setCore c { x with counters := { x.counters with trdrop := x.counters.trdrop + 1 } }
  else s.setCore c { x with trace := x.trace ++ [(s.partOf k, bytes)] }

/-- An operation of a name has still to complete. -/
def Agent.awaits (a : Agent) (uid : Nat) : Bool :=
  a.flights.any (fun f => f.uid == uid) || a.ops.any (fun o => o.uid == uid && !o.done) || a.far.any fun o => o.uid == uid

/-- The wait is of a lane that is past its instruction until an operation, or a commit, is performed. -/
def Wait.holds : Wait → Bool
  | .camp _ => true
  | w => w.isHeld

/-- A record of an instruction that is still to complete. -/
def Sample.open_ (e : Sample) : Bool := e.due.isSome || e.held != 0

/-- The instruction of a record has completed in its last lane (16 R370). -/
def Agent.completed (a : Agent) (e : Sample) : Bool :=
  e.due.all (fun u => !a.awaits u) && (lanesOf e.held).all fun l => !(a.lanes.getD l Lane.absent).wait.any Wait.holds

/-- A record takes CLOCK as its instruction completes (16 R370). -/
def Sample.settle (e : Sample) (a : Agent) (clock : DWord) : Sample :=
  if e.open_ && a.completed e then ⟨none, 0, e.bytes.take 56 ++ bytesOf 8 clock⟩ else e

/-- Records of an agent take CLOCK as their instructions complete, and go to the buffer in issue order: one that is open keeps those behind it
(16 R369, R370). -/
def State.releaseSamples (s : State) (k : Nat) : State :=
  let a := s.agent k
  if a.samples.isEmpty then s
  else
    let es := a.samples.map fun e => e.settle a (s.clock (coreOf k))
    let s := s.setAgent k { a with samples := es.dropWhile fun e => !e.open_ }
    (es.takeWhile fun e => !e.open_).foldl (fun s e => s.bufferTrace k e.bytes) s

/-- A trace record of an agent takes its place in the issue order (16 R369). -/
def State.queueTrace (s : State) (k : Nat) (e : Sample) : State :=
  let a := s.agent k
  s.setAgent k { a with samples := a.samples ++ [e] }

/-- The record of a sampled memory instruction: it is open until the operation of a name has completed and lanes are held no more, and
has CLOCK at once where neither is to come (16 R370). -/
def State.holdSample (s : State) (due : Option Nat) (held : Word) (bytes : List Byte) : State :=
  if s.traceMuted s.who (s.issued.headD 0) then s
  else
    let e : Sample := ⟨due, held, bytes⟩
    s.queueTrace s.who (if e.open_ then e else ⟨none, 0, bytes.take 56 ++ bytesOf 8 (s.clock (coreOf s.who))⟩)

/-- What a core counts of a memory instruction: its replay cycles in BCRCNT (04 R83), and the sample that is due every
2^(PER + 4) of them (16 R369, R370). -/
def State.countMem (s : State) (f : Form) (b : Base) (all : GroupOut) (due : Option Nat) : State :=
  let held := maskOf (all.lanesBy fun o => o.hold.isSome)
  let g : GroupOut := { all with outs := all.outs.filter fun o => o.2.stay.isNone }
  if !memClass f.opc || g.outs.isEmpty then s
  else
    let c := coreOf s.who
    let x := s.core c
    let s := s.setCore c { x with counters := { x.counters with bcr := x.counters.bcr + BitVec.ofNat 64 g.replays } }
    let p := s.partOf s.who
    let ctl := (s.part p).trctl
    if !(ctl.getLsbD 0 && ctl.getLsbD 1) then s
    else
      let x := s.core c
      let n := Sparse.getD x.sampled p 0 + 1
      if n < 2 ^ ((ctl.extractLsb' 2 4).toNat + 4) then s.setCore c { x with sampled := Sparse.put x.sampled p n }
      else (s.setCore c { x with sampled := Sparse.put x.sampled p 0 }).holdSample due held (sampleRecord s f b g)

/-- The answers that a reader has used are given up. -/
def State.dropAnswers (s : State) (who : Nat) : State :=
  { s with remotes := s.remotes.filter fun r => r.agent != who || r.answer.isNone }

/-- Lanes of an agent give up the walk faults that were answered to them; each of the others keeps its own (02 R36 rule 6). -/
def State.useAnswers (s : State) (k : Nat) (lanes : List Nat) : State :=
  let a := s.agent k
  let left := a.answers.map fun (e : Nat × Word × WalkFault) => (e.1, e.2.1 &&& ~~~(maskOf lanes), e.2.2)
  s.setAgent k { a with answers := left.filter fun (e : Nat × Word × WalkFault) => e.2.1 != 0 }

/-- Retire a group (05 R111, R125): clear last-use bits in the lanes that do not trap, write the results or send them on
their way under a flag, advance the lanes, and take the traps. An interlocked operation of one lane holds the group (11 R265). -/
def State.retire (s : State) (f : Form) (b : Base) (g : GroupOut) : State :=
  let k := s.who
  let stays := g.lanesBy fun o => o.stay.isSome
  let out := g.traps.map (·.1) ++ stays
  let going := s.issued.filter fun l => !out.contains l
  let moved := g.lanesBy fun o => o.moved
  let flag := flagOf s.clause b.fs
  let flies := f.flagged && !g.writes.isEmpty
  let counted := f.opc == 0xA6 || f.opc == 0xA9 || f.opc == 0xAA || f.opc == 0xC2
  let due := if flies then some s.uid else if counted then (s.agent k).ops.getLast?.map (·.uid) else none
  let s := s.countMem f b g due
  let s := s.setAgent k ((s.agent k).killRegs (lastUse f b) going)
  let s := (going.filter fun l => !moved.contains l).foldl (fun s l => s.mapLane k l fun x => x.advance s.issue.len) s
  let s := if flies then s.launchFlight k flag (heldByFlag f.opc) going g.writes
    else s.setAgent k ((s.agent k).commit g.writes)
  let s := if g.outs.any fun o => o.2.hold == some .held then s.sleepOuts k (going.map fun l => (l, { hold := some .held })) fun o => o.hold
    else s.sleepOuts k g.outs fun o => o.hold
  let s := s.sleepOuts k g.outs fun o => o.stay
  let s := (s.useAnswers k going).dropAnswers k
  let s := if memClass f.opc || f.opc == 0xFB then s.releaseSamples k else s
  let s := { s with fresh := s.fresh + 1 }
  (s.takeTraps k g.traps).takeTraps k
    (if (s.agent k).bound.isSome then unitTraps s.issued g.after else g.after)

/-! ### Waits, misses and the outcome -/

/-- Who waits at a miss table: an operation of an engine, by its name. -/
def unitWho (uid : Nat) : Nat := 2 ^ 40 + uid

/-- A request misses on the granule of a miss-table entry. -/
def Miss.same (e f : Miss) : Bool :=
  e.part == f.part && e.asid == f.asid && e.granule == f.granule && e.guest == f.guest

/-- The miss-table entry of a granule. -/
def missFor (sp : Space) (fetch : Bool) (va : Nat) (waiters : List (Nat × Word)) : Miss :=
  ⟨sp.part, sp.asid, va / 65536, sp.g2.isSome, fetch, !fetch, waiters⟩

/-- A waiter joins the entry of its granule, whether it fetches or reaches data; a name that waits there already does not join twice. -/
def joinMiss (f : Miss) (es : List Miss) : List Miss :=
  es.map fun e =>
    if e.same f then
      { e with fetch := e.fetch || f.fetch, data := e.data || f.data, waiters := e.waiters ++ f.waiters.filter fun w => !e.waiters.contains w }
    else e

/-- Two requests for one translation. -/
def DieReq.same (a b : DieReq) : Bool :=
  a.part == b.part && a.asid == b.asid && a.granule == b.granule && a.g2.isSome == b.g2.isSome

/-- Die of a request. -/
def DieReq.die (r : DieReq) : Nat := if r.core < 320 then dieOf r.core else r.core - 320

/-- Space of a request. -/
def DieReq.space (r : DieReq) : Space := ⟨r.part, r.asid, r.root, r.g2⟩

/-- A request joins the walk of its translation, which WMRGCNT of its core counts, or takes a walk slot, or none (02 R36 rule 3). -/
def State.takeSlot (s : State) (r : DieReq) : Option State :=
  let d := s.die r.die
  if d.walks.any fun w => w.reqs.any r.same then
    let s := if r.core < 320 then
        let x := s.core r.core
        s.setCore r.core { x with counters := { x.counters with wmrg := x.counters.wmrg + 1 } }
      else s
    some (s.setDie r.die { d with walks := d.walks.map fun w => if w.reqs.any r.same then { w with reqs := w.reqs ++ [r] } else w })
  else if d.walks.length < 256 then some (s.setDie r.die { d with walks := d.walks ++ [⟨[r]⟩] })
  else none

/-- A translation fills the instruction TLB, or the data TLB, of a requesting core, which takes what the last-level TLB holds (02 R30). -/
def State.fillCore (s : State) (c : Nat) (fetch : Bool) (e : TlbEntry) : State :=
  let x := s.core c
  s.setCore c (if fetch then { x with itlb := x.itlb.put itlbSize (s.choice x.itlb e) }
    else { x with dtlb := x.dtlb.put dtlbSize (s.choice x.dtlb e) })

/-- A request reaches its die (02 R36 rules 2 and 3): a hit in the last-level TLB fills the core's TLB, a walk in progress is joined, a
free slot starts a walk unless older requests wait for one, or the request queues. The answer says whether it was a hit. -/
def State.requestWalk (s : State) (r : DieReq) : State × Bool :=
  let d := s.die r.die
  match s.lookup d.ltlb r.space (r.granule * 65536) with
  | some e => (if r.core < 320 then s.fillCore r.core r.fetch e else s, true)
  | none =>
    let joins := d.walks.any fun w => w.reqs.any r.same
    match if joins || d.queue.isEmpty then s.takeSlot r else none with
    | some s' => (s', false)
    | none => (s.setDie r.die { d with queue := d.queue ++ [r] }, false)

/-- A waiter misses on a granule at its core (02 R36 rule 1): it joins or allocates an entry of the core's miss table, unless the die's
last-level TLB holds the translation; none when the table is full. The answer says whether it waits. -/
def State.coreMiss (s : State) (c : Nat) (sp : Space) (fetch : Bool) (va : Nat) (waiters : List (Nat × Word)) : Option (State × Bool) :=
  let x := s.core c
  let f := missFor sp fetch va waiters
  if x.misses.any f.same then some (s.setCore c { x with misses := joinMiss f x.misses }, true)
  else if 64 ≤ x.misses.length then none
  else
    let (s', hit) := s.requestWalk ⟨c, sp.part, sp.asid, va / 65536, fetch, sp.root, sp.g2⟩
    if hit then some (s', false)
    else some (s'.setCore c { s'.core c with misses := (s'.core c).misses ++ [f] }, true)

/-- A group misses on a granule: its lanes wait for it, or for a place in the miss table (02 R36 rule 1). -/
def State.noteMiss (s : State) (k : Nat) (lanes : List Nat) (fetch : Bool) (g : Nat) : State :=
  let c := coreOf k
  let sp := s.space c (s.partOf k) (s.lane k (lanes.headD 0)).mode
  match s.coreMiss c sp fetch (g % 2 ^ 39 * 65536) [(k, maskOf lanes)] with
  | some (s', true) => s'.sleep k lanes (.miss g)
  | some (s', false) => s'
  | none => s.sleep k lanes .missFull

/-- Whether an engine operation finds its miss table full, so that its engine waits (02 R36 rule 2). -/
def State.unitStuck (s : State) (k uid : Nat) (full : Bool) : State :=
  let a := s.agent k
  if a.stuck.contains uid == full then s
  else s.setAgent k { a with stuck := if full then a.stuck ++ [uid] else a.stuck.filter (· != uid) }

/-- An engine operation misses (02 R35, R36 rule 2): a copy at its core's miss table, another at its die's engine miss table of 256; where
the table is full its engine waits. -/
def State.noteUnitMiss (s : State) (k uid : Nat) (copy : Bool) (m : Mode) (va : Nat) : State :=
  let c := coreOf k
  let sp := s.space c (s.partOf k) m
  let who := [(unitWho uid, (0 : Word))]
  if copy then
    match s.coreMiss c sp false va who with
    | some e => e.1.unitStuck k uid false
    | none => s.unitStuck k uid true
  else
    let n := dieOf c
    let d := s.die n
    let f := missFor sp false va who
    let joins := d.engMisses.any f.same
    let full := !joins && decide (256 ≤ d.engMisses.length)
    let s := s.unitStuck k uid full
    if joins then s.setDie n { d with engMisses := joinMiss f d.engMisses }
    else if full then s
    else
      let (s', hit) := s.requestWalk ⟨320 + n, sp.part, sp.asid, va / 65536, false, sp.root, sp.g2⟩
      if hit then s' else s'.setDie n { s'.die n with engMisses := (s'.die n).engMisses ++ [f] }

/-- The wait is for a flash line. -/
def Wait.forFlash : Wait → Bool
  | .flash _ => true
  | _ => false

/-- A group waits; its first wait on a flash line counts in LLFCNT, and another line of the same instruction does not (02 R20, R24). -/
def State.noteWait (s : State) (k : Nat) (lanes : List Nat) (w : Wait) : State :=
  let s := if w.forFlash && !lanes.any fun l => (s.lane k l).slow then
      let x := s.core (coreOf k)
      s.setCore (coreOf k) { x with counters := { x.counters with llf := x.counters.llf + 1 } }
    else s
  let s := if w.forFlash then lanes.foldl (fun s l => s.mapLane k l fun x => { x with slow := true }) s else s
  let s := match w with
    | .flash line => s.startFlash line
    | .version pa j => s.queueVersion pa k j
    | _ => s
  s.sleepHere k lanes w

/-- This module's partition may send Roilo traffic (15 R347). -/
def State.fabOn (s : State) (p : Nat) : Bool := (s.part p).fabcfg.getLsbD 24

/-- JobID of a partition (15 R347). -/
def State.job (s : State) (p : Nat) : Nat := ((s.part p).fabcfg.extractLsb' 0 24).toNat

/-- A message of a partition, without its particulars (15 R348). -/
def State.message (s : State) (p kind tag : Nat) : Msg := ⟨kind, s.job p, s.chip, tag, 0, 0, 0, 0, [], none⟩

/-- Send a message to a chip; one for this chip arrives at once. -/
def State.send (s : State) (dest : Nat) (m : Msg) : State :=
  if dest == s.chip then { s with msgs := Sparse.put s.msgs s.uid m, uid := s.uid + 1 }
  else { s with sent := s.sent ++ [⟨dest, m⟩] }

/-- Ask another chip for bytes by a READ, once (11 R255, 15 R348); where the partition has no job the request fails. The
answer names the request. -/
def State.askRemote (s : State) (k p chip : Nat) (va : DWord) (n : Nat) : State × Nat :=
  match s.remotes.find? fun r => r.agent == k && r.chip == chip && r.va == va && r.len == n with
  | some r => (s, r.uid)
  | none =>
    let u := s.uid
    let on := s.fabOn p
    let r : Remote := ⟨u, k, chip, va, n, if on then none else some (.error (.queueState, 0))⟩
    let s := { s with uid := u + 1, remotes := s.remotes ++ [r] }
    (if on then s.send chip { s.message p 0 u with addr := va, len := n } else s, u)

/-- Name under which the engines of an agent read from other chips. -/
def engineWho (k : Nat) : Nat := 2 ^ 32 + k

/-- The issue waits for a read of another chip. -/
def State.noteRemote (s : State) (k p chip : Nat) (va : DWord) (n : Nat) : State :=
  let (s, u) := s.askRemote k p chip va n
  s.noteWait s.who s.issued (.remote u)

/-- The outcome of an effect of the issue in hand: a wait or a miss leaves the state as it was but for the wait; a trap that
no lane's rule has caught is taken by every lane of the issue. -/
def runM (m : M Unit) (s : State) : Host.Outcome State Fault Refusal :=
  match m s with
  | .ok (_, s') => .next s'
  | .error (.fault f) => .fault f
  | .error (.wait w) => .next (s.noteWait s.who s.issued w)
  | .error (.miss fetch g) => .next (s.noteMiss s.who s.issued fetch g)
  | .error (.unitMiss k u copy m va) => .next (s.noteUnitMiss k u copy m va)
  | .error .mismatch => .next (s.noteMismatch s.who 1)
  | .error (.remote k p chip va n) => .next (s.noteRemote k p chip va n)
  | .error (.trap t) => .next (s.takeTraps s.who (s.issued.map fun l => (l, t)))

/-! ### Checks before an instruction acts -/

/-- The opcodes that a producer slot may execute (04 R99). -/
def producerMay (opc : BitVec 8) : Bool :=
  let n := opc.toNat
  n == 0 || n == 1 || n == 3 || n == 4 || n == 8 || n == 9 || n == 0x0A || n == 0x10 || n == 0x0E ||
    (decide (0x20 ≤ n) && decide (n ≤ 0x48)) || n == 0xA0 || n == 0xA2 || n == 0xA4 || n == 0xA5 || n == 0xD3

/-- The opcodes that the producer slot executes in no mode (08 R201, R202, R209, R211): PHASE, the barrier instructions, SPOP, SQRY, DQPSH
and DQPOP. -/
def producerNever (opc : BitVec 8) : Bool :=
  let n := opc.toNat
  (decide (0xC5 ≤ n) && decide (n ≤ 0xC8)) || n == 0xCE || n == 0xD2 || n == 0xD4 || n == 0xDA || n == 0xDB

/-- An agent takes ILLEGAL_INSTRUCTION on an opcode: a micro-program executes only R99's, which does not bind a trap handler in S or H (04
R99), and some instructions are a rope's, a lead's or the producer's alone (08 R201, R202, R209, R211, 09 R214). -/
def agentBars (k : Nat) (m : Mode) (opc : BitVec 8) : Bool :=
  if isProducer k then (m == .u && !producerMay opc) || producerNever opc
  else if isLead k then opc == 0xC6 || opc == 0xD3 || opc == 0xDB || opc == 0xF0
  else opc == 0xD3 || opc == 0xDA

/-- The instruction names a vector register as a source or destination (05 R106). -/
def namesVector (f : Form) (b : Base) : Bool :=
  ((List.range 3).any fun i => (f.srcRule i).used && (b.src i).kind == .vec) ||
    (match f.dst with
     | .vec _ | .both _ | .scl _ => b.dk == .vec
     | _ => false)

/-- A decode fault that depends on the agent, in the order of 05 R121: an opcode that it may not execute, and a vector register that a lead
names (05 R106). -/
def agentFault (k : Nat) (m : Mode) (f : Form) (b : Base) : Option Cause :=
  if agentBars k m f.opc then some .illegalInstruction
  else if isLead k && namesVector f b then some .illegalOperand
  else none

/-- The opcodes whose guard must be the same in every lane of a bound rope (09 R216): the control transfers, REPEAT, SYSC, HVC,
and ERET, which would part the lanes. -/
def ropeWide (opc : BitVec 8) : Bool :=
  let n := opc.toNat
  n == 0x04 || (decide (0x08 ≤ n) && decide (n ≤ 0x0D)) || n == 0x10 || n == 0xF4 || n == 0xF5 || n == 0xF8

/-- Guards that differ within one group of a bound rope (09 R216): the mask of lanes whose guard holds. -/
def State.guardSplit (s : State) (f : Form) (b : Base) : Option Word :=
  match (s.agent s.who).bound with
  | none => none
  | some n =>
    let on := fun l => s.guard s.who b l
    let n := if ropeWide f.opc then 32 else n
    if b.grd != 7 && (List.range 32).any (fun l => on l != on (l / n * n)) then some (maskOf (s.acting b)) else none

/-- An instruction with a value of each lane, whose scalar destination is ILLEGAL_OPERAND outside a lead thread (07 R152, R175, R177, R183, 08
R209): SEL, ADDX, SUBX, MOVI, QNT, DQNT, RAND, SPOP, and RDSR of LANEID and RWC. -/
def laneValue (b : Base) (opc : BitVec 8) : Bool :=
  let n := opc.toNat
  n == 0x3A || n == 0x3D || n == 0x3E || n == 0x42 || n == 0x83 || n == 0x84 || n == 0x87 || n == 0xD2 ||
    (n == 0x96 && ((b.litWord .ext 0 b.a) == 0 || (b.litWord .ext 0 b.a) == 9))

/-- The instruction meets a decode fault of its own, which comes before any fault found in execution, and before it needs a register (05
R121): one that an agent may not execute or that names a vector register in a lead, a value of each lane into a scalar register of a rope, a
REPEAT whose end does not follow it, and one whose mode is not enough for HVC, ERET, CCTL.IINV and TLBI.STAGE2 and its like. -/
def State.decodeBarred (s : State) (f : Form) (b : Base) : Bool :=
  (agentFault s.who s.mode f b).isSome || (laneValue b f.opc && b.dk == .scl && !isLead s.who) ||
    (f.opc == 0x04 && decide (s.issue.pc + 4 * BitVec.ofInt 64 b.offset ≤ s.issue.pc + BitVec.ofNat 64 s.issue.len)) ||
    (s.mode == .u && (f.opc == 0xF8 || f.opc == 0xF5 || f.opc == 0xF9 || (f.opc == 0xAD && b.fn == 3))) ||
    (s.mode == .s && f.opc == 0xF9 && b.fn == 3)

/-- RDPR, WRPR and TLBI, whose operands decide on faults of decode: they look at the guards of a bound rope after those. -/
def splitsLater (opc : BitVec 8) : Bool := opc == 0xF6 || opc == 0xF7 || opc == 0xF9

/-- Every acting lane takes one trap; the others go on. In a bound rope the unit takes it. -/
def trapActing (b : Base) (t : Trap) : M GroupOut := do
  let s ← get
  pure { traps := (s.acting b).map fun l => (l, t) }

/-- The guards of a bound rope that differ, for an instruction whose operands decide first on faults of decode (05 R121, 09 R216). -/
def splitAfter (f : Form) (b : Base) (check : Nat → M Unit) (act : M GroupOut) : M GroupOut := do
  let s ← get
  match s.guardSplit f b, s.acting b with
  | some m, l :: _ => do
    let split : Trap := ⟨.divergeBound, 0, m.setWidth 64, false⟩
    match ← attempt (check l) with
    | .ok _ => trapActing b split
    | .error t => trapActing b (if t.cause == .illegalOperand || t.cause == .privilege then t else split)
  | _, _ => act

/-! ### The vector register file (05 R112, R113) -/

/-- Vector registers that results in flight write; their entries were taken at issue and stay (05 R112, R113, R126). -/
def Agent.flightRegs (a : Agent) : List Nat :=
  a.flights.flatMap fun f => f.writes.filterMap fun w => match w.1 with
    | .vreg r _ => some r
    | _ => none

/-- Registers of an agent that have an entry in the file: those with a live lane that are not spilled, and those that a result in flight
writes. -/
def Agent.entries (a : Agent) : List Nat := (liveRegs a ++ a.flightRegs).eraseDups

/-- Entries that a partition uses on a core (13 R306). -/
def State.vregsUsed (s : State) (c q : Nat) : Nat :=
  (((s.coreAgents c).filter fun k => s.partOf k == q).map fun k => (s.agent k).entries.length).sum

/-- Entries of a core's file. -/
def fileSize : Nat := 2048

/-- A number of new entries is allowed to a partition on a core (13 R307). -/
def State.fileAllows (s : State) (c p n : Nat) : Bool :=
  let fld := fun (w : DWord) => (w.extractLsb' 13 12).toNat
  quotaAllows fileSize n p (s.vregsUsed c) (fun q => fld (s.bank c q).qcore) (fun q => fld (s.bank c q).qfloor)

/-- The loads, whose destination is a run of VEC elements (08 R185). -/
def vecLoad (f : Form) : Bool :=
  f.opc == 0xA0 || f.opc == 0xA2 || f.opc == 0xA4 || f.opc == 0xA5 || f.opc == 0xAE || (f.opc == 0xAC && f.fnSel == some 0)

/-- The stores, whose datum is a run of VEC elements. -/
def vecStore (f : Form) : Bool :=
  f.opc == 0xA1 || f.opc == 0xA3 || f.opc == 0xA6 || (f.opc == 0xAC && f.fnSel == some 1)

/-- RDSR of CLOCK or RWC writes a pair (05 R110, 07 R183). -/
def rdsrWide (b : Base) : Bool := (b.litWord .ext 0 b.a) == 8 || (b.litWord .ext 0 b.a) == 9

/-- The vector registers that an instruction writes. -/
def dstRegs (f : Form) (b : Base) : List Nat :=
  let run := fun (t : OpTy) =>
    if vecLoad f then b.vecCount * b.ty.regs
    else if f.opc == 0x87 && b.fn == 1 then 4
    else if f.opc == 0xF3 || (f.opc == 0x96 && rdsrWide b) then 2
    else if (t.of b).is64 then 2 else 1
  match f.dst with
  | .vec t | .both t => if b.dk == .vec then (List.range (run t)).map (b.dst.toNat + ·) else []
  | _ => []

/-- A register that the agent was given at its start still waits for an entry. -/
def Agent.owes (a : Agent) (reg : Nat) : Bool := a.owed.any fun e => e.1 / 32 == reg

/-- A register given at the start has its entry. -/
def State.giveOwed (s : State) (k reg : Nat) : State :=
  let a := s.agent k
  let mine := a.owed.filter fun e => e.1 / 32 == reg
  s.setAgent k { mine.foldl (fun a e => a.setV (e.1 / 32) (e.1 % 32) e.2) a with owed := a.owed.filter fun e => e.1 / 32 != reg }

/-- Give an agent a register at its start: at once where the file and the quota allow an entry, else when they do (05 R113, 08 R210). -/
def State.startReg (s : State) (k reg : Nat) (ws : List (Nat × Word)) : State :=
  let room := s.fileAllows (coreOf k) (s.partOf k) 1
  let a := s.agent k
  let s := s.setAgent k { a with owed := ws.map fun w => (32 * reg + w.1, w.2) }
  if room then
    let x := (s.giveOwed k reg).core (coreOf k)
    (s.giveOwed k reg).setCore (coreOf k) { x with vfile := (x.vfile.filter fun y => y != 128 * slotOf k + reg) ++ [128 * slotOf k + reg] }
  else s

/-- The vector registers that an instruction reads: its sources, and the run of a store's datum. -/
def readRegs (f : Form) (b : Base) : List Nat :=
  srcRegs f b ++
    (if vecStore f && b.c.kind == .vec then (List.range (b.vecCount * b.ty.regs)).map (b.c.field.toNat + ·) else [])

/-- The registers that an instruction needs new entries for. -/
def State.newRegs (s : State) (f : Form) (b : Base) : List Nat :=
  (dstRegs f b).filter fun r => !(s.agent s.who).entries.contains r

/-- A rope is in its core's active set. -/
def State.isActive (s : State) (k : Nat) : Bool := (s.core (coreOf k)).active.any fun p => p.agent == k

/-- The entries that may be spilled, least recently used first (05 R113): those of ropes outside the active set, and, once it
waits, those of the issuing rope that the instruction does not name; in its own party alone where the quota is the limit. -/
def State.candidates (s : State) (k : Nat) (named : List Nat) (own : Bool) : List (Nat × Nat) :=
  let c := coreOf k
  let waits := (s.agent k).lanes.any fun x => match x.wait with | some (.entry _ _) => true | _ => false
  ((s.core c).vfile.map fun v => (128 * c + v / 128, v % 128)).filter fun e =>
    (s.agent e.1).entries.contains e.2 && !(s.agent e.1).flightRegs.contains e.2 &&
      (if e.1 == k then waits && !named.contains e.2 else !s.isActive e.1) &&
      (!own || (s.agent e.1).party == (s.agent k).party)

/-- Spill a register (05 R113). -/
def spillReg (k reg : Nat) : M Unit := do
  let s ← get
  let a := s.agent k
  let live := maskOf ((List.range 32).filter fun l => (Sparse.find? a.vregs (32 * reg + l)).isSome)
  physWrite (s.spillAddr k reg) ((regWords s a reg).flatMap fun w => bytesOf 4 (w.setWidth 64))
  modAgent k fun a => { a with spilled := Sparse.put a.spilled reg live, vregs := a.vregs.filter fun e => e.1 / 32 != reg }

/-- Make room for new entries of a rope, spilling one candidate after another; the rope waits when there is none. -/
def makeRoom (k : Nat) (named : List Nat) (n : Nat) : Nat → M Unit
  | 0 => pure ()
  | fuel + 1 => do
    let s ← get
    let c := coreOf k
    if s.fileAllows c (s.partOf k) n then pure ()
    else
      let total := ((List.range 16).map (s.vregsUsed c)).sum
      match (s.candidates k named (decide (total + n ≤ fileSize))).head? with
      | none => waitFor (.entry n named)
      | some e => do
        spillReg e.1 e.2
        makeRoom k named n fuel

/-- Allocate the entries that an instruction needs (05 R112, R113). -/
def allocate (f : Form) (b : Base) : M Unit := do
  let s ← get
  match s.newRegs f b with
  | [] => pure ()
  | rs => makeRoom s.who (readRegs f b ++ dstRegs f b) rs.length (fileSize + 1)

/-- The entries that an instruction names become the most recently used. -/
def State.useRegs (s : State) (f : Form) (b : Base) : State :=
  let k := s.who
  let c := coreOf k
  let named := ((readRegs f b ++ dstRegs f b).eraseDups.filter (s.agent k).entries.contains).map fun r => 128 * slotOf k + r
  if named.isEmpty then s
  else
    let x := s.core c
    s.setCore c { x with vfile := (x.vfile.filter fun v => !named.contains v) ++ named }

/-- The instructions that read their own destination: LOP3 (07 R163) and LARI.lacc (09 R225). -/
def readsDst (f : Form) : Bool := f.opc == 0x39 || (f.opc == 0xF1 && f.fnSel == some 5)

/-- The instructions that read predicates as operands: SEL, ADDX, SUBX, PLOP, P2V and VOTE. -/
def readsPreds (f : Form) : Bool :=
  f.opc == 0x3A || f.opc == 0x3D || f.opc == 0x3E || f.opc == 0x44 || f.opc == 0x45 || f.opc == 0x91

/-- The scalar registers that an instruction reads. -/
def scalarReads (f : Form) (b : Base) : List Nat :=
  let wide := fun (t : OpTy) => if (t.of b).is64 then 2 else 1
  let run := fun (r n : Nat) => (List.range n).map (r + ·)
  ((List.range 3).flatMap fun i =>
    if (f.srcRule i).used && (b.src i).kind == .scl then run (b.src i).field.toNat (wide (f.srcRule i).ty) else []) ++
    (if vecStore f && b.c.kind == .scl then run b.c.field.toNat (b.vecCount * b.ty.regs) else []) ++
    (if readsDst f && b.dk == .scl then run b.dst.toNat b.ty.regs else []) ++
    (if f.opc == 0xFB && b.b.kind == .scl then run b.b.field.toNat 8 else [])

/-- Results in flight to registers that the instruction reads, in a deterministic mode (16 R357): the reader waits. -/
def State.detHazard (s : State) (f : Form) (b : Base) : Option Nat :=
  if (s.partyOf s.who).role == .none then none
  else
    let regs := readRegs f b ++ (if readsDst f then dstRegs f b else [])
    let srg := scalarReads f b
    (s.agent s.who).inFlight fun d => match d with
      | .vreg r _ => regs.contains r
      | .sreg r => srg.contains r
      | .pred _ p => p == b.grd.toNat || readsPreds f

/-- A register named by the instruction lies spilled, or a flag or register must be free first (05 R113, R125). -/
def State.busy (s : State) (f : Form) (b : Base) : Option Wait :=
  let a := s.agent s.who
  match (a.owed.map fun e => e.1 / 32) ++ (readRegs f b ++ dstRegs f b).filter fun r => (Sparse.find? a.spilled r).isSome with
  | r :: _ => some (.vreg r)
  | [] =>
    match s.detHazard f b with
    | some u => some (.result u)
    | none =>
      if f.flagged then
        match flagOf s.clause b.fs with
        | some n => if a.flag n == 63 then some (.flagFull n) else none
        | none => none
      else none

/-! ### The deterministic modes (16 R360 to R364) -/

/-- How an instruction reaches outside its party. -/
inductive OutClass where
  | inside
  /-- a read from outside, logged as FAR -/
  | read
  /-- an effect outside, performed once both parties of a pair have issued it -/
  | effect
  /-- a read of CLOCK, logged as EVENT -/
  | event
  /-- a wait whose return is logged as EVENT -/
  | wait
  deriving DecidableEq, Repr

/-- The class of an instruction by its opcode (16 R360, R364). -/
def outClass (b : Base) (opc : BitVec 8) : OutClass :=
  match opc.toNat with
  | 0x96 => if (b.litWord .ext 0 b.a) == 8 then .event else .inside
  | 0xA5 | 0xA7 | 0xAE | 0xCC | 0xD4 | 0xE7 => .read
  | 0xA6 | 0xA8 | 0xAA | 0xC0 | 0xC1 | 0xC2 | 0xCA | 0xCB | 0xCD | 0xD0 | 0xD5 | 0xD6 | 0xD7 | 0xD8 => .effect
  | 0xE8 | 0xE9 | 0xEA | 0xEB | 0xEC | 0xED | 0xEE | 0xEF | 0xFA => .effect
  | 0xC7 | 0xC9 => .wait
  | _ => .inside

/-- KIND of the entry that the class logs. -/
def OutClass.kind : OutClass → Nat
  | .event | .wait => 3
  | _ => 2

/-- The payload of a FAR or EVENT entry: 8 bytes for each lane, or code and value (16 R360; the codes are the model's). -/
def entryPayload (c : OutClass) (opc : BitVec 8) (recs : List LaneRec) : List Byte :=
  let value := fun (r : LaneRec) => joinWords ((r.writes.drop 1).headD (.pred 0 0, 0)).2 (r.writes.headD (.pred 0 0, 0)).2
  if c.kind == 3 then
    leBytes 4 opc.toNat ++ leBytes 4 (match recs with | r :: _ => (value r).toNat | [] => 0)
  else recs.flatMap fun r => leBytes 8 (value r).toNat

/-- The record of an outcome's lanes that are done. -/
def GroupOut.recs (g : GroupOut) : List LaneRec :=
  (g.outs.filter fun o => o.2.stay.isNone).map fun o => ⟨o.1, o.2.writes, none, o.2.tile⟩

/-- The payload of a FAULT entry (16 R360). -/
def faultPayload (ts : List (Nat × Trap)) : List Byte :=
  ts.flatMap fun t => leBytes 8 (causeWord t.2.cause t.2.sub t.2.eng).toNat ++ leBytes 8 t.2.val.toNat

/-- The data of an effect beyond its sources (16 R364): a store's run of registers, the tile that an STTA reads, or the record of a COLL or
ATTN in the constant window. -/
def effectData (f : Form) (b : Base) (l : Nat) (x : Operands) : M (List DWord) := do
  let s ← get
  if vecStore f then
    pure ((List.range (b.vecCount * b.ty.regs)).map fun i =>
      let r := b.c.field.toNat + i
      if b.c.kind == .vec then s.readVec s.who l r false else if b.c.kind == .scl then s.readScl s.who r false else 0)
  else if f.opc == 0xA8 then do
    let r ← attempt (spadRead s.who (loWord x.c) (16 * (b.e2.extractLsb' 0 11).toNat))
    pure (match r with | .ok bs => bs.map fun y => y.setWidth 64 | .error _ => [])
  else if (f.opc == 0xD7 || f.opc == 0xE7) && b.e2.getLsbD 5 then do
    let at_ := (loWord (if f.opc == 0xD7 then x.a else x.b)).toNat
    let r ← attempt (collect (List.range (if f.opc == 0xD7 then 16 else 8)) fun i => constRead s.who l s.mode (at_ + 4 * i) 4)
    pure (match r with | .ok bs => bs.map dwordOf | .error _ => [])
  else pure []

/-- What the acting lanes of an instruction do outside, by which a pair compares an effect (16 R364): its fields and its operands. -/
def effectsOf (f : Form) (b : Base) : M (List Effect) := do
  let s ← get
  collect (s.acting b) fun l => do
    let x ← readSrcs f b l
    let data ← effectData f b l x
    pure ⟨logRope s s.who, l, (s.lane s.who l).count, f.opc,
      [b.fn.setWidth 64, b.ty.code.setWidth 64, b.mod.setWidth 64, b.e1.setWidth 64, b.e2.setWidth 64, x.a, x.b, x.c] ++ data⟩

/-- The outcome that a log entry gives its lanes. -/
def entryOut (e : LogEntry) : GroupOut :=
  { outs := e.recs.filterMap fun r => if r.trap.isNone then some (r.lane, { writes := r.writes }) else none
    traps := e.recs.filterMap fun r => r.trap.map fun t => (r.lane, t) }

/-- The acting lanes outside a mask stay at the instruction. -/
def stayOthers (s : State) (b : Base) (mask : Word) (w : Wait) : List (Nat × LaneOut) :=
  ((s.acting b).filter fun l => !mask.getLsbD l).map fun l => (l, { stay := some w })

/-- Of an instruction that acts once for its group and sleeps, the other acting lanes sleep with the issuing one. -/
def GroupOut.withMates (g : GroupOut) (acting : List Nat) : GroupOut :=
  match g.outs with
  | [(l, o)] => if o.stay.isSome then
      { g with outs := (l, o) :: (acting.filter (· != l)).map fun j => (j, { stay := some (.mate l) }) } else g
  | _ => g

/-- The whole issue stays at the instruction, and waits for the other party of its pair or for its log. -/
def stayAll (s : State) : GroupOut := { outs := s.issued.map fun l => (l, { stay := some .pair }) }

/-- Run an effect for the lanes of the issue outside a mask. -/
def withoutLanes (mask : Word) (act : M GroupOut) : M GroupOut := fun s =>
  match act { s with issue := { s.issue with lanes := s.issue.lanes &&& ~~~mask } } with
  | .ok (g, s') => .ok (g, { s' with issue := s.issue })
  | .error e => .error e

/-- A lane takes an engine fault, with the faults of the same operation that a bound rope takes as a unit (14 R402, 09 R218). -/
def Agent.takeFault (a : Agent) (uid lane taker : Nat) : Agent :=
  let mine := fun (f : HeldFault) => f.uid == uid && f.taken.isNone && (a.bound.isSome || f.lane == lane)
  let mark := fun (f : HeldFault) => if mine f then { f with taken := some (taker, 0) } else f
  let ended := a.faults.filter fun f => mine f && f.ends
  ended.foldl (fun a f => a.finish f.uid) { a with faults := (a.faults.filter fun f => !(mine f && f.ends)).map mark }

/-- The engine faults that a log entry delivers are taken (16 R364). -/
def Agent.takeLoggedFaults (a : Agent) (recs : List LaneRec) : Agent :=
  recs.foldl (fun a r => match a.faults.find? fun f => f.taken.isNone && r.trap == some f.trap with
    | some f => a.takeFault f.uid f.lane r.lane
    | none => a) a

/-- The opcodes that hand a copy, a scatter or an attention to an engine, which a party that takes from the log issues for itself. -/
def issuesAgain (opc : BitVec 8) : Bool := opc == 0xAA || opc == 0xD0 || opc == 0xE7

/-- WWAIT and QLOCK, whose lanes return each in its own time. -/
def returnsApart (opc : BitVec 8) : Bool := opc == 0xCA || opc == 0xCC

/-- The engine operation that an entry's instruction began goes on in the party that takes the entry, under the name it had,
or a new one in a trailer. -/
def beginAgain (k l : Nat) (e : LogEntry) : M Unit := do
  let s ← get
  let u := if s.roleOf k == .trailer then s.uid else e.op.getD 0
  let note := fun (c : EngClass) => modAgent k fun a => { a with ops := a.ops ++ [⟨c, u, false, l, (s.lane k l).count, none⟩] }
  match e.col, e.app with
  | some x, _ => do
    note .col
    let x : ColOp := { x with uid := u, agent := k, lane := l }
    modCore (coreOf k) fun y => { y with cols := y.cols ++ [x] }
  | none, some x => do
    note .apn
    let x : Append := { x with uid := u, agent := k, lane := l }
    modCore (coreOf k) fun y => { y with appends := y.appends ++ [x] }
  | none, none => pure ()
  if u == s.uid then modify fun s => { s with uid := s.uid + 1 }

/-- Issue an engine instruction whose entry the log holds: its operation keeps the name it had, but for a trailer's. -/
def issueAgain (e : LogEntry) (act : M GroupOut) : M GroupOut := do
  let s ← get
  match e.op with
  | some u =>
    if s.roleOf s.who == .trailer then act
    else do
      set { s with uid := u }
      let g ← act
      modify fun t => { t with uid := s.uid }
      pure g
  | none => act

/-- Some lanes go as entries of the log say, and the others act. -/
def besideLogged (es : List LogEntry) (act : M GroupOut) : M GroupOut := do
  let g ← withoutLanes (es.foldl (fun m e => m ||| e.mask) 0) act
  pure { g with traps := es.flatMap (fun e => (entryOut e).traps) ++ g.traps, outs := es.flatMap (fun e => (entryOut e).outs) ++ g.outs }

/-- The far stores and the faults that the log holds for an instruction of the lanes of the issue, which stand behind the lines that its
other lanes read. -/
def State.resultsAhead (s : State) (k : Nat) (f : Form) : List LogEntry :=
  let mine := fun (e : LogEntry) => (e.kind == 4 || (e.kind == 2 && vecStore f)) && e.opc == f.opc && e.mask &&& ~~~s.issue.lanes == 0 &&
    e.rwc == (s.lane k e.lane).count
  match (s.entriesAhead k false).find? mine with
  | some e => (s.entriesAhead k false).filter fun x => mine x && x.moment == e.moment
  | none => []

/-- Take the entries of a list that the cursor stands at. -/
def consumeAll (k : Nat) : List LogEntry → M Unit
  | [] => pure ()
  | e :: es => do
    let s ← get
    if s.nextEntry k false == some e then consumeEntry k false
    consumeAll k es

/-- A constant of the window is among the sources of an instruction. -/
def readsConst (f : Form) (b : Base) : Bool := (List.range 3).any fun i => (f.srcRule i).used && (b.src i).kind == .cst

/-- An instruction that may read or act outside its party: memory, atomics, locks and waits, engines, sequences, LAUNCH, and any that reads a
constant. -/
def reachesOut (f : Form) (b : Base) : Bool :=
  let n := f.opc.toNat
  n == 0xA0 || n == 0xA1 || (decide (0xA4 ≤ n) && decide (n ≤ 0xAE)) || (decide (0xC0 ≤ n) && decide (n ≤ 0xC2)) ||
    (decide (0xCA ≤ n) && decide (n ≤ 0xCD)) || n == 0xD0 || (decide (0xD4 ≤ n) && decide (n ≤ 0xD8)) ||
    (decide (0xE7 ≤ n) && decide (n ≤ 0xEF)) || n == 0xFA || readsConst f b

/-- Note the effects that lanes of a trailer have issued, for its leader (16 R364). -/
def postEffects (ys : List Effect) : M Unit := modify fun s =>
  match s.detOf s.who with
  | some (n, d) => s.setDet n { d with posted := d.posted.filter (fun p => !ys.any fun y => y.rope == p.rope && y.lane == p.lane) ++ ys }
  | none => s

/-- An instruction that reads nothing but memory, or stores, under the log: its lines come from it, its faults, and its far accesses. A
trailer waits until its leader has gone past it, since only the leader finds a fault, or a page that is append-only. -/
def takeLines (f : Form) (b : Base) (act : M GroupOut) : M GroupOut := do
  let s ← get
  let k := s.who
  match s.resultsAhead k f with
  | [] =>
    if s.roleOf k == .trailer && reachesOut f b && !(s.acting b).all fun l => leaderPast s k l (!vecStore f) then
      if vecStore f then do
        match ← attempt (effectsOf f b) with
        | .ok ys => postEffects ys
        | .error _ => pure ()
        pure (stayAll s)
      else waitFor .pair
    else act
  | es => do
    let g ← besideLogged es act
    consumeAll k es
    pure g

/-- The entries of one instruction at the cursor of an agent: those of one moment. -/
def State.entriesNow (s : State) (k : Nat) : List LogEntry :=
  match s.entriesAhead k false with
  | [] => []
  | e :: es => e :: es.takeWhile fun x => x.moment == e.moment && x.opc == e.opc && x.kind != 1

/-- How the lanes of an entry stand to those that an instruction acts for. -/
inductive EntryFit where
  /-- it is what the instruction needs -/
  | fits
  /-- it is for other lanes, or for more lanes than have come -/
  | waits
  /-- it is not -/
  | differs
  deriving DecidableEq, Repr

/-- An entry against an instruction that acts for some lanes (16 R362, R364): a trailer needs the very lanes, but for WWAIT and QLOCK; a
party that executes again waits until all of them have come. -/
def State.entryFit (s : State) (k : Nat) (f : Form) (c : OutClass) (acting : Word) (e : LogEntry) : EntryFit :=
  if e.group &&& acting == 0 then .waits
  else if !((e.kind == c.kind || e.kind == 4) && e.opc == f.opc && e.rwc == (s.lane k e.lane).count) then .differs
  else if e.group == acting then .fits
  else if s.roleOf k == .trailer then (if returnsApart f.opc && e.group &&& ~~~acting == 0 then .fits else .differs)
  else if e.group &&& ~~~acting == 0 then .fits else .waits

/-- The bytes that an entry's LDV wrote to scratchpad are written again (16 R363). -/
def writeTiles (k : Nat) (e : LogEntry) : M Unit := forEach e.recs fun r => match r.data with
  | some (at_, bs) => if e.opc == 0xA7 then spadWrite k (loWord at_) bs false else pure ()
  | none => pure ()

/-- An instruction that reads or acts outside, under the log: its operands first, which may take lines of the constant window, and then
its entries. Without one it waits, and a trailer posts its effects for its leader (16 R364). -/
def takeOutside (f : Form) (b : Base) (c : OutClass) (act : M GroupOut) : M GroupOut := do
  let x ← attempt (effectsOf f b)
  let s ← get
  let k := s.who
  match s.entriesNow k with
  | e :: es =>
    match s.entryFit k f c (maskOf (s.acting b)) e with
    | .differs => abort .mismatch
    | .waits => pure (stayAll s)
    | .fits => do
      forEach (e :: es) fun e => do
        writeTiles k e
        if e.kind == 4 then pure ()
        else if issuesAgain f.opc then do
          let _ ← issueAgain e act
          pure ()
        else beginAgain k e.lane e
        consumeEntry k false
      let over_ := (e :: es).foldl (fun m e => m ||| e.mask ||| e.done) 0
      pure { outs := (e :: es).flatMap (fun e => (entryOut e).outs) ++ stayOthers s b over_ .pair
             traps := (e :: es).flatMap fun e => (entryOut e).traps }
  | [] => do
    match x with
    | .ok ys => if c == .effect && s.roleOf k == .trailer then postEffects ys else pure ()
    | .error _ => pure ()
    pure (stayAll s)

/-- BWAIT names a barrier of a team of several parties. -/
def State.waitsTeam (s : State) (f : Form) (b : Base) : Bool :=
  f.opc == 0xC7 && decide (16 ≤ (b.litWord .ext 0 b.a).toNat) && (s.partyOf s.who).team.isSome

/-- A wait under the log (16 R362): at a team's barrier, which parties outside the replay reach, it returns when its EVENT says; at its own
barriers and counters it returns as they stand in the re-execution, and its EVENT is taken with it. -/
def takeWait (f : Form) (b : Base) (act : M GroupOut) : M GroupOut := do
  let s ← get
  let k := s.who
  let mine := (s.nextEntry k false).filter fun e => e.kind == 3 && e.opc == f.opc && e.rwc == (s.lane k e.lane).count
  if (s.acting b).isEmpty then act
  else if s.inReplay (s.agent k).party && mine.isNone then waitFor .pair
  else if s.roleOf k != .trailer && s.waitsTeam f b then
    match mine with
    | some e => do
      consumeEntry k false
      pure { outs := (entryOut e).outs }
    | none => waitFor .pair
  else do
    let g ← act
    if mine.isSome && g.traps.isEmpty then consumeEntry k false
    pure g

/-- Take an instruction by its class. -/
def takeClass (f : Form) (b : Base) (c : OutClass) (act : M GroupOut) : M GroupOut := do
  let s ← get
  match c with
  | .inside => takeLines f b act
  | .wait => takeLines f b (takeWait f b act)
  | _ => if (s.acting b).isEmpty then act else takeOutside f b c act

/-- Take an instruction's result from the log (16 R362, R364); a FAULT of opcode 0 is an engine's, taken before the
instruction. -/
def takeLogged (f : Form) (b : Base) (c : OutClass) (act : M GroupOut) : M GroupOut := do
  let s ← get
  let k := s.who
  let rwc := (s.lane k (s.issued.headD 0)).count
  match (s.nextEntry k false).filter fun e => e.kind == 4 && e.opc == 0 && e.rwc == rwc with
  | some e => do
    consumeEntry k false
    modAgent k fun a => a.takeLoggedFaults e.recs
    besideLogged [e] (takeClass f b c act)
  | none => takeClass f b c act

/-- The trailer has issued the effects that a leader's lanes are to make: all of them, equal or not, or not yet (16 R364). -/
def Det.rendezvous (d : Det) (ys : List Effect) : Option Bool :=
  let mate := fun (y : Effect) => d.posted.find? fun p => p.rope == y.rope && p.lane == y.lane && p.rwc == y.rwc
  if ys.any fun y => (mate y).any (· != y) then some false
  else if ys.all fun y => (mate y).isSome then some true
  else none

/-- A leader's effects: made when the trailer has posted the same ones with the same operands, and else it waits (16 R364). -/
def meetTrailer (ys : List Effect) (act : M GroupOut) : M GroupOut := do
  let s ← get
  match s.detOf s.who with
  | none => act
  | some (n, d) =>
    match d.rendezvous ys with
    | none => pure (stayAll s)
    | some false => abort .mismatch
    | some true => do
      modify fun s => s.setDet n { d with posted := d.posted.filter fun p => !ys.contains p }
      act

/-- A leader's instruction of the class effect. -/
def rendezvous (f : Form) (b : Base) (act : M GroupOut) : M GroupOut := do
  match ← attempt (effectsOf f b) with
  | .error _ => act
  | .ok ys => meetTrailer ys act

/-- A leader's store: one that finds an append-only page is a far write, and so an effect (02 R32, 16 R364). -/
def leaderStore (f : Form) (b : Base) (act : M GroupOut) : M GroupOut := do
  let s ← get
  let g ← act
  if g.outs.any fun o => o.2.far then do
    set s
    match ← attempt (effectsOf f b) with
    | .error _ => act
    | .ok ys => meetTrailer ys act
  else pure g

/-- Log what an instruction read or did outside, and the faults it met (16 R360). -/
def logOutcome (f : Form) (b : Base) (c : OutClass) (uid : Nat) (g : GroupOut) : M Unit := do
  let s ← get
  let k := s.who
  let op := if engineOpc f.opc || f.opc == 0xAA then (if s.uid == uid then none else some uid) else none
  let x := s.core (coreOf k)
  let col := x.cols.find? fun (e : ColOp) => op == some e.uid
  let app := x.appends.find? fun (e : Append) => op == some e.uid
  let group := maskOf (s.acting b)
  let mine := if c == .inside then { g with outs := g.outs.filter fun o => o.2.far } else g
  let rs := mine.recs.filter fun r => (s.acting b).contains r.lane
  let over_ := (g.outs.filter fun o => o.2.stay.isSome).map (·.1) ++ g.traps.map (·.1)
  let done := if c == .inside then maskOf (rs.map (·.lane)) else maskOf ((s.acting b).filter fun l => !over_.contains l)
  if !rs.isEmpty then
    logEntry k c.kind (maskOf (rs.map (·.lane))) (entryPayload c f.opc rs) f.opc rs op col app done group
  if reachesOut f b && !g.traps.isEmpty then
    logEntry k 4 (maskOf (g.traps.map (·.1))) (faultPayload g.traps) f.opc (g.traps.map fun t => ⟨t.1, [], some t.2, none⟩)
      (done := if rs.isEmpty then done else 0) (group := group)

/-- An effect under the deterministic modes: taken from the log, or performed and logged. -/
def deterministic (f : Form) (b : Base) (act : M GroupOut) : M GroupOut := do
  let s ← get
  let k := s.who
  if (s.detOf k).isNone then act
  else do
    let c := outClass b f.opc
    if s.takes k false then takeLogged f b c act
    else do
      let leads := s.roleOf k == .leader && !(s.acting b).isEmpty
      let g ← if leads && c == .effect then rendezvous f b act else if leads && c == .inside && vecStore f then leaderStore f b act else act
      logOutcome f b c s.uid g
      pure g

/-! ### Execution -/

/-- A trap that the effect on a group does not give to a lane of its own is taken by each acting lane (08 R188). -/
def caught (b : Base) (act : M GroupOut) : M GroupOut := do
  match ← attempt act with
  | .ok g => pure g
  | .error t => trapActing b t

/-- Execute an instruction by an effect on the whole issue group: the checks that come first, then the effect, then
retirement. `keep` as in `boundRule`. -/
def runGroup (f : Form) (b : Base) (keep : Bool) (act : M GroupOut) : State → Host.Outcome State Fault Refusal :=
  runM do
    let s ← get
    let barred := s.decodeBarred f b
    match if barred then none else s.busy f b with
    | some w => waitFor w
    | none => pure ()
    if !barred then allocate f b
    let g ← boundRule keep (match if barred || splitsLater f.opc then none else s.guardSplit f b with
      | some m => trapActing b ⟨.divergeBound, 0, m.setWidth 64, false⟩
      | none => match agentFault s.who s.mode f b with
        | some c => trapActing b ⟨c, 0, s.issue.word, false⟩
        | none => deterministic f b (caught b act))
    modify fun s => (s.retire f b (g.joined s f)).useRegs f b

/-- A per-lane instruction: the effect in each lane whose guard holds. -/
def runLanes (f : Form) (b : Base) (act : Nat → M LaneOut) : State → Host.Outcome State Fault Refusal :=
  runGroup f b false do
    let s ← get
    eachLane (s.acting b) act

/-- An instruction that acts once per issue group (08 R188): the issuing lane is the lowest whose guard holds, and takes
the faults found in execution. -/
def onceOut (b : Base) (act : Nat → M LaneOut) : M GroupOut := do
  let s ← get
  match s.acting b with
  | [] => pure {}
  | l :: _ => do
    let r ← attempt (act l)
    match r with
    | .ok o => pure { outs := [(l, o)] }
    | .error t => pure { traps := [(l, t)] }

/-- Execute an instruction once per issue group. -/
def runOnce (f : Form) (b : Base) (act : Nat → M LaneOut) : State → Host.Outcome State Fault Refusal :=
  runGroup f b false (onceOut b act)

/-- A decode fault found by a meaning: taken by every acting lane, with the word in TVAL (05 R121). -/
def decodeFault {α : Type} (c : Cause) : M α := fun s => raise c s.issue.word s

/-- The form of an instruction; every encoded instruction but CLH and BKPT has one. -/
def formOf (i : Instr) : Form := i.form.getD { opc := 0 }

/-- A computing instruction (07 R152): operands in, writes out, in each acting lane, or once for a scalar destination. `only` for
one that a scalar destination makes ILLEGAL_OPERAND outside a lead thread. -/
def runAlu (f : Form) (b : Base) (only : Bool) (g : State → Nat → Operands → List (Dest × Word)) :
    State → Host.Outcome State Fault Refusal :=
  let act := fun l => do
    let x ← readSrcs f b l
    let s ← get
    pure { writes := g s l x }
  runGroup f b false do
    let s ← get
    if only && b.dk == .scl && !isLead s.who then trapActing b ⟨.illegalOperand, 0, s.issue.word, false⟩
    else if b.dk == .scl then onceOut b act
    else eachLane (s.acting b) act

/-- A computing instruction that gives one typed result. -/
def runResult (f : Form) (b : Base) (t : Ty) (g : Operands → DWord) : State → Host.Outcome State Fault Refusal :=
  runAlu f b false fun _ l x => dstWrites b l t (g x)

/-- The value a rule gives to a predicate number in source C. -/
def predNumber (b : Base) : Nat := (b.litWord .ext 2 b.c).toNat

/-- The lane whose predicates an instruction reads or writes. -/
def State.predOf (s : State) (l p : Nat) : Bool := s.readP s.who l p

end Sys2Proof.Machine
end

