-- ==== Sys2Proof/Machine/Barrier.lean ====
section
/-! DEFINITION. Barriers (spec/04 R92 to R97, spec/08 R202), the counted operations of an agent (spec/03 R62 to R65) and the faults
that engines hold (spec/14 R402). -/

namespace Sys2Proof.Machine

/-! ### Barriers -/

/-- The team barriers stand with the team where the party has one of several parties, else with the party. -/
def State.barrier (s : State) (p b : Nat) : Barrier :=
  match (if 16 ≤ b then (s.party p).team else none) with
  | some t => (((Sparse.find? s.teams t).map Team.barriers).getD []).getD (b - 16) .reset
  | none => (s.party p).barriers.getD b .reset

/-- The test after each event (04 R93): the phase completes when every member has arrived and every byte has landed. -/
def Barrier.test (x : Barrier) : Barrier :=
  if x.arr == x.memb && x.landb == x.expb then { x with phase := (x.phase + 1) % 65536, arr := 0, landb := 0, expb := 0 }
  else x

/-- One member arrives with landed bytes; none for a misuse (04 R93, R95). -/
def Barrier.arrive (x : Barrier) (bytes : Nat) : Option Barrier :=
  if x.arr == x.memb || 2 ^ 32 ≤ x.landb + bytes then none
  else
    let y : Barrier := { x with arr := x.arr + 1, landb := x.landb + bytes }
    if y.arr == y.memb && decide (y.expb < y.landb) then none else some y.test

/-- More bytes are expected; none for a misuse. -/
def Barrier.expect (x : Barrier) (n : Nat) : Option Barrier :=
  if x.memb == 0 || 2 ^ 32 ≤ x.expb + n then none else some (Barrier.test { x with expb := x.expb + n })

/-- The distance of R94: how far the barrier's phase lies past a phase. -/
def Barrier.past (x : Barrier) (ph : Nat) : Nat := (x.phase + 65536 - ph % 65536) % 65536

/-- A phase has passed (04 R94). -/
def Barrier.passed (x : Barrier) (ph : Nat) : Bool := decide (1 ≤ x.past ph) && decide (x.past ph ≤ 32767)

/-- The trap of a barrier misuse (04 R95). -/
def barrierTrap (b : Nat) : Trap := ⟨.barrierState, 0, BitVec.ofNat 64 b, false⟩

/-- The parties whose ropes may sleep on a barrier. -/
def State.barrierParties (s : State) (p b : Nat) : List Nat :=
  match (if 16 ≤ b then (s.party p).team else none) with
  | some t => ((Sparse.find? s.teams t).map Team.members).getD []
  | none => [p]

/-- The lanes that sleep on a barrier for a phase that has passed return from their BWAIT (04 R93, R94). -/
def Agent.passBarrier (a : Agent) (b : Nat) (x : Barrier) : Agent :=
  { a with lanes := a.lanes.map fun y => match y.wait with
      | some (.barrier c ph) => if c == b && x.passed ph then { y with wait := some .woken } else y
      | _ => y }

/-- A party in a replay reaches the barriers of a team of several parties no more: they lie outside it (16 R362). -/
def State.mutedBarrier (s : State) (p b : Nat) : Bool := decide (16 ≤ b) && (s.party p).team.isSome && s.inReplay p

/-- Replace a barrier; what waits on it is tested again (04 R93). -/
def State.setBarrier (s : State) (p b : Nat) (x : Barrier) : State :=
  let keys := (s.barrierParties p b).flatMap fun q => (s.party q).agents
  let s : State := { s with agents := s.agents.map fun e => if keys.contains e.1 then (e.1, e.2.passBarrier b x) else e }
  match (if 16 ≤ b then (s.party p).team else none) with
  | some t => { s with teams := Sparse.adjust s.teams t fun y => { y with barriers := y.barriers.set (b - 16) x } }
  | none => s.setParty p { s.party p with barriers := (s.party p).barriers.set b x }

/-- A rope or lead sleeps on a barrier. -/
def State.sleepers (s : State) (p b : Nat) : Bool :=
  (s.barrierParties p b).any fun q => (s.party q).agents.any fun k =>
    (s.agent k).lanes.any fun x => match x.wait with
      | some (.barrier c _) => c == b
      | _ => false

/-! ### The four instructions -/

/-- The barrier that an instruction names. -/
def barNumber (b : Base) : Nat := (b.litWord .ext 0 b.a).toNat

/-- Act on the value of source B in the issuing lane, which takes the fault of reading it; nothing acts without one (08 R188). -/
def issuingB (f : Form) (b : Base) (act : Nat → Word → M GroupOut) : M GroupOut := do
  let s ← get
  match s.acting b with
  | [] => pure {}
  | l :: _ => do
    match ← attempt (readSrc f b 1 l) with
    | .ok x => act l (loWord x)
    | .error t => pure { traps := [(l, t)] }

/-- A trap of one lane alone. -/
def trapLaneOnly (l : Nat) (t : Trap) : GroupOut := { traps := [(l, t)] }

/-- BINIT (04 R93, R95). -/
def execBinit (b : Base) (s : State) : Host.Outcome State Fault Refusal :=
  let f := formOf (.binit b)
  runGroup f b false (issuingB f b fun l m => do
    let s ← get
    let p := (s.agent s.who).party
    let n := barNumber b
    let x := s.barrier p n
    if s.mutedBarrier p n then pure {}
    else if m.toNat == 0 || 4095 < m.toNat then pure (trapLaneOnly l ⟨.illegalOperand, 0, s.issue.word, false⟩)
    else if x.arr != 0 || x.landb != 0 || x.expb != 0 || s.sleepers p n then trapActing b (barrierTrap n)
    else do
      modify fun s => s.setBarrier p n { Barrier.reset with memb := m.toNat }
      pure {}) s

/-- BEXP (04 R93, R95). -/
def execBexp (b : Base) (s : State) : Host.Outcome State Fault Refusal :=
  let f := formOf (.bexp b)
  runGroup f b false (issuingB f b fun _ m => do
    let s ← get
    let p := (s.agent s.who).party
    let n := barNumber b
    if s.mutedBarrier p n then pure {}
    else match (s.barrier p n).expect m.toNat with
    | none => trapActing b (barrierTrap n)
    | some x => do
      modify fun s => s.setBarrier p n x
      pure {}) s

/-- BWAIT (04 R94): the group returns when the phase has passed, and sleeps until then. -/
def execBwait (b : Base) (s : State) : Host.Outcome State Fault Refusal :=
  let f := formOf (.bwait b)
  runGroup f b false (issuingB f b fun l m => do
    let s ← get
    let n := barNumber b
    let x := s.barrier (s.agent s.who).party n
    let ph := m.toNat % 65536
    let back : GroupOut := { outs := (s.acting b).map fun l => (l, {}) }
    if (s.lane s.who l).step == some .woken then pure back
    else if x.memb == 0 || x.past ph == 32768 then trapActing b (barrierTrap n)
    else if x.passed ph then pure back
    else waitFor (.barrier n ph)) s

/-- Every lane of an agent that has executed the BARA has done so: its arrival is due. -/
def Agent.baraDue (a : Agent) (b : Nat) : Bool :=
  let m := Sparse.getD a.bara b 0
  m != 0 && a.live.all fun l => m.getLsbD l

/-- A rope arrives where its arrival is due; the misuse, if it is one (04 R93, R95). -/
def State.baraArrive (s : State) (k b : Nat) : State × Bool :=
  if !(s.agent k).baraDue b then (s, true)
  else
    let p := (s.agent k).party
    let done := fun (s : State) => s.setAgent k { s.agent k with bara := Sparse.drop (s.agent k).bara b }
    if s.mutedBarrier p b then (done s, true)
    else match ((s.barrier p b).arrive 0) with
    | none => (s, false)
    | some x => (done (s.setBarrier p b x), true)

/-- BARA (04 R93): a misused arrival is taken by every lane of the rope. -/
def execBara (b : Base) (s : State) : Host.Outcome State Fault Refusal :=
  let f := formOf (.bara b)
  runGroup f b false (do
    let s ← get
    let k := s.who
    let n := barNumber b
    if isLead k then trapActing b ⟨.illegalInstruction, 0, s.issue.word, false⟩
    else if (s.barrier (s.agent k).party n).memb == 0 && !s.mutedBarrier (s.agent k).party n then trapActing b (barrierTrap n)
    else
      let a := s.agent k
      let s1 := s.setAgent k { a with bara := Sparse.put a.bara n (Sparse.getD a.bara n 0 ||| maskOf s.issued) }
      match s1.baraArrive k n with
      | (s2, true) => do
        set s2
        pure {}
      | (_, false) => do
        let others := (s.agent k).live.filter fun l => !s.issued.contains l
        modify fun s => others.foldl (fun s l => (s.withdraw k l).trapLane k l (barrierTrap n) (s.lane k l).pc (s.lane k l).clause) s
        trapActing b (barrierTrap n)) s

/-! ### Counted operations -/

/-- The value at which a counter is full: one more would make it 64 (03 R62). -/
def counterLimit : Nat := 63

/-- Wait while an outstanding counter is full (03 R62). -/
def roomFor (c : EngClass) : M Unit := do
  let s ← get
  if counterLimit ≤ (s.agent s.who).counter c then waitFor (.counter c)

/-- Count a new operation of an agent, issued by a lane. -/
def countOp (k l : Nat) (c : EngClass) : M Nat := do
  let u ← newUid
  let s ← get
  modAgent k fun a => { a with ops := a.ops ++ [⟨c, u, false, l, (s.lane k l).count, none⟩] }
  pure u

/-- An operation is done: its counter falls once every older one of its class is complete (03 R63). -/
def State.finishOp (s : State) (k uid : Nat) : State := s.setAgent k ((s.agent k).finish uid)

/-- An engine holds a fault for a lane (14 R402), at the end of its operation or in the midst of it; a retried access walks again
(02 R36 rule 6). -/
def State.holdFault (s : State) (k uid lane : Nat) (t : Trap) (ends : Bool := false) : State :=
  let a := s.agent k
  let s : State := { s with answered := s.answered.filter fun e => e.1 != uid }
  s.setAgent k { a with faults := a.faults ++ [⟨uid, lane, { t with eng := true }, none, ends⟩] }

/-- A transfer lands its last byte (04 R93, 03 R65): it arrives at its barrier, and is done. A misused arrival is a
fault for its issuing lane, and the transfer is done once that is taken (14 R402). -/
def State.land (s : State) (k uid lane bar bytes : Nat) : State :=
  let p := (s.agent k).party
  if bar == 31 || s.mutedBarrier p bar then s.finishOp k uid
  else
    match (s.barrier p bar).arrive bytes with
    | some x => (s.finishOp k uid).setBarrier p bar x
    | none => s.holdFault k uid lane (barrierTrap bar) true

end Sys2Proof.Machine
end

