-- ==== Sys2Proof/Machine/Memory.lean ====
section
/-! DEFINITION. Loads, stores, tiles, gathers, prefetch, cache control and atomics (spec/08 R184 to R199). SQLD stands with the
sequences. -/

namespace Sys2Proof.Machine

/-! ### Addresses and data (08 R184 to R186) -/

/-- Address in global space (08 R184). -/
def globalEa (b : Base) (x : Operands) : DWord := x.a + BitVec.ofInt 64 ((loWord x.b).toInt * b.scale + b.offset)

/-- Address in scratchpad, constant-window and lane-stack space (08 R184). -/
def localEa (b : Base) (x : Operands) : Word := loWord x.a + BitVec.ofInt 32 ((loWord x.b).toInt * b.scale + b.offset)

/-- Address from source A and OFFSET alone. -/
def offsetEa (b : Base) (x : Operands) : DWord := x.a + BitVec.ofInt 64 b.offset

/-- Bytes of one element. -/
def elemBytes (b : Base) : Nat := b.ty.bits / 8

/-- Bytes of the access, VEC included (08 R185). -/
def memBytes (b : Base) : Nat := elemBytes b * b.vecCount

/-- The address is a multiple of the size (08 R185). -/
def checkAlign (addr : DWord) (n : Nat) : M Unit := require (addr.toNat % n == 0) .misaligned addr

/-- Element `e` of loaded bytes. -/
def elemOf (b : Base) (bs : List Byte) (e : Nat) : DWord := dwordOf ((bs.drop (e * elemBytes b)).take (elemBytes b))

/-- The register writes of a load (08 R185, R189). -/
def loadWrites (b : Base) (l : Nat) (bs : List Byte) : List (Dest × Word) :=
  (List.range b.vecCount).flatMap fun e =>
    regWrites b l (b.dst.toNat + e * b.ty.regs) b.ty.is64 (extendTo b.ty (elemOf b bs e))

/-- The bytes of a store's datum (08 R185, R186): source C, or a run of registers from it. -/
def storeData (b : Base) (s : State) (l : Nat) (x : Operands) : List Byte :=
  if b.vecCount == 1 then bytesOf (elemBytes b) x.c
  else (List.range b.vecCount).flatMap fun e =>
    let reg := b.c.field.toNat + e * b.ty.regs
    bytesOf (elemBytes b) (if b.c.kind == .vec then s.readVec s.who l reg b.ty.is64 else s.readScl s.who reg b.ty.is64)

/-- One lane of a load: address, alignment, read. -/
def loadLane (f : Form) (b : Base) (l : Nat) (ea : Operands → DWord) (read : DWord → Nat → M (List Byte)) : M LaneOut := do
  let x ← readSrcs f b l
  checkAlign (ea x) (memBytes b)
  let bs ← read (ea x) (memBytes b)
  pure { writes := loadWrites b l bs, touch := [((ea x).toNat, memBytes b)] }

/-- One lane of a store: address, alignment, write; a far access on an append-only page holds the lane until it is
performed (08 R189). -/
def storeLane (f : Form) (b : Base) (l : Nat) (ea : Operands → DWord) (write : DWord → List Byte → M Bool) : M LaneOut := do
  let x ← readSrcs f b l
  checkAlign (ea x) (memBytes b)
  let s ← get
  let far ← write (ea x) (storeData b s l x)
  pure { hold := if far then some .held else none, far := far, touch := [((ea x).toNat, memBytes b)] }

/-- The faults of translation, protection, alignment and scratchpad bounds, which a bound rope looks for in every lane before any is
performed (09 R218 step 1); the others come with a lane's data. -/
def stepOne (c : Cause) : Bool :=
  c == .misaligned || c == .pageAbsent || c == .pageProtection || c == .stage2Absent || c == .stage2Protection || c == .illegalOperand

/-- Memory accesses of lanes, which `go` performs: in a bound rope each lane is tried before any is performed, and where one meets a fault of
step 1 of 09 R218, none is. -/
def checkedFirst (lanes : List Nat) (act : Nat → M LaneOut) (go : M GroupOut) : M GroupOut := do
  let s ← get
  if !s.isBound then go
  else do
    let pre ← eachLane lanes fun l => do
      match ← attempt (act l) with
      | .ok o => pure o
      | .error t => if stepOne t.cause then abort (.trap t) else pure {}
    set s
    if pre.traps.isEmpty then go else pure { traps := pre.traps }

/-- Memory accesses of the acting lanes, or of the issuing lane for a scalar destination (08 R188). -/
def accessLanes (b : Base) (act : Nat → M LaneOut) : M GroupOut := do
  let s ← get
  if b.dk == .scl then checkedFirst ((s.acting b).take 1) act (onceOut b act)
  else checkedFirst (s.acting b) act (eachLane (s.acting b) act)

/-- A load in each acting lane, or once for a scalar destination (08 R188). -/
def runLoad (f : Form) (b : Base) (act : Nat → M LaneOut) : State → Host.Outcome State Fault Refusal := runGroup f b false (accessLanes b act)

/-- A store in each acting lane. -/
def runStore (f : Form) (b : Base) (act : Nat → M LaneOut) : State → Host.Outcome State Fault Refusal := runGroup f b false do
  let s ← get
  checkedFirst (s.acting b) act (eachLane (s.acting b) act)

/-- A phased load of the issue's agent. -/
def phasedLoad (l : Nat) (opc : BitVec 8) (va : DWord) (n : Nat) : M (List Byte) := do
  let s ← get
  loadBytes s.who l s.mode va n opc

/-- A phased store of the issue's agent. -/
def phasedStore (va : DWord) (bs : List Byte) : M Bool := do
  let s ← get
  storeBytes s.who s.mode va bs

/-- A far load of the issue's agent. -/
def farLoad (va : DWord) (n : Nat) : M (List Byte) := do
  let s ← get
  let ph ← translate s.who s.mode va .load
  farRead s.who va ph.pa n

/-! ### Loads and stores (08 R189, R190) -/

/-- LD (08 R189). -/
def execLd (b : Base) (s : State) : Host.Outcome State Fault Refusal :=
  let f := formOf (.ld b)
  runLoad f b (fun l => loadLane f b l (globalEa b) (phasedLoad l f.opc)) s

/-- ST (08 R189). -/
def execSt (b : Base) (s : State) : Host.Outcome State Fault Refusal :=
  let f := formOf (.st b)
  runStore f b (fun l => storeLane f b l (globalEa b) phasedStore) s

/-- The scratchpad place of an access, as party × 2^20 + offset. -/
def spadTouch (addr : Word) (n : Nat) (dest : Bool) : M (Nat × Nat) := do
  let s ← get
  let (q, off) ← liftCheck (s.spadPlace (s.agent s.who).party addr n dest)
  pure (q * 2 ^ 20 + off, n)

/-- LDS (08 R189, 04 R79 to R82). -/
def execLds (b : Base) (s : State) : Host.Outcome State Fault Refusal :=
  let f := formOf (.lds b)
  runLoad f b (fun l => do
    let x ← readSrcs f b l
    let addr := localEa b x
    checkAlign (addr.setWidth 64) (memBytes b)
    let t ← spadTouch addr (memBytes b) false
    let s ← get
    let bs ← spadRead s.who addr (memBytes b)
    pure { writes := loadWrites b l bs, touch := [t], banked := true }) s

/-- STS (08 R189, 04 R79 to R82). -/
def execSts (b : Base) (s : State) : Host.Outcome State Fault Refusal :=
  let f := formOf (.sts b)
  runLanes f b (fun l => do
    let x ← readSrcs f b l
    let addr := localEa b x
    checkAlign (addr.setWidth 64) (memBytes b)
    let t ← spadTouch addr (memBytes b) true
    let s ← get
    spadWrite s.who addr (storeData b s l x) false
    pure { touch := [t], banked := true }) s

/-- LDC (08 R189): the window ends at 65,536. -/
def execLdc (b : Base) (s : State) : Host.Outcome State Fault Refusal :=
  let f := formOf (.ldc b)
  runLoad f b (fun l => do
    let x ← readSrcs f b l
    let off := localEa b x
    checkAlign (off.setWidth 64) (memBytes b)
    let s ← get
    require (decide (off.toNat + memBytes b ≤ 65536)) .illegalOperand s.issue.word
    let bs ← constRead s.who l s.mode off.toNat (memBytes b)
    pure { writes := loadWrites b l bs, touch := [(((s.partyOf s.who).param + off.setWidth 64).toNat, memBytes b)] }) s

/-- LDF (08 R189). -/
def execLdf (b : Base) (s : State) : Host.Outcome State Fault Refusal :=
  let f := formOf (.ldf b)
  runLoad f b (fun l => loadLane f b l (globalEa b) farLoad) s

/-- Defer a far write or a far atomic without return, under the number of its instruction (03 R57, R62). -/
def deferFar (uid l : Nat) (va : DWord) (pa : Nat) (red : Option (BitVec 3 × Ty)) (bs : List Byte) : M Unit := do
  let s ← get
  modAgent s.who fun a => { a with far := a.far ++ [⟨uid, l, va, pa, red, bs⟩] }

/-- A far instruction without return, counted in FAR: one operation for the instruction (03 R62). `keep` as in `boundRule`. -/
def runFar (f : Form) (b : Base) (keep : Bool) (act : Nat → Nat → M LaneOut) : State → Host.Outcome State Fault Refusal :=
  runGroup f b keep do
    let s ← get
    if (s.acting b).isEmpty then pure {}
    else do
      roomFor .far
      let u ← countOp s.who ((s.acting b).headD 0) .far
      let g ← checkedFirst (s.acting b) (act u) (eachLane (s.acting b) (act u))
      if g.outs.isEmpty then modify fun s => s.finishOp s.who u
      pure g

/-- STF (08 R189). -/
def execStf (b : Base) (s : State) : Host.Outcome State Fault Refusal :=
  let f := formOf (.stf b)
  runFar f b false (fun u l => storeLane f b l (globalEa b) fun va bs => do
    let s ← get
    let ph ← translate s.who s.mode va .store
    deferFar u l va ph.pa none bs
    pure false) s

/-- Virtual address of a lane-stack access (08 R190). -/
def stackEa (b : Base) (s : State) (x : Operands) : DWord := (s.partyOf s.who).lsva + (localEa b x).setWidth 64

/-- LDL (08 R190). -/
def execLdl (b : Base) (s : State) : Host.Outcome State Fault Refusal :=
  let f := formOf (.ldl b)
  runLoad f b (fun l => do
    let s ← get
    loadLane f b l (stackEa b s) (phasedLoad l f.opc)) s

/-- STL (08 R190). -/
def execStl (b : Base) (s : State) : Host.Outcome State Fault Refusal :=
  let f := formOf (.stl b)
  runStore f b (fun l => do
    let s ← get
    storeLane f b l (stackEa b s) phasedStore) s

/-! ### Tiles (08 R191 to R193, 03 R68 to R71) -/

/-- The pieces of a range that lie within one line each, as offset and length. -/
def lineChunks (va n : Nat) : List (Nat × Nat) :=
  (List.range (ceilDiv (va % 128 + n) 128)).map fun i =>
    let from_ := Nat.max va ((va / 128 + i) * 128)
    let upto := Nat.min (va + n) ((va / 128 + i + 1) * 128)
    (from_ - va, upto - from_)

/-- Read a range far. -/
def farRange (va : DWord) (n : Nat) : M (List Byte) := do
  let parts ← collect (lineChunks va.toNat n) fun c => farLoad (va + BitVec.ofNat 64 c.1) c.2
  pure parts.flatten

/-- Length of a tile in bytes (08 R192). -/
def tileBytes (b : Base) : Nat := 16 * (b.e2.extractLsb' 0 11).toNat

/-- A try of an LDV has failed (03 R70): it is repeated up to 64 times. -/
def retryTile (l : Nat) (t : DWord) : M Unit := do
  let s ← get
  let n := match (s.lane s.who l).step with
    | some (.tile n) => n
    | _ => 0
  if 64 ≤ n then raise .tileRetryLimit t else waitFor (.tile (n + 1))

/-- LDV (08 R192, 03 R70): the three reads of a try stand in one step, so a try fails where the word is odd. The destination is accessed in
units of 16 bytes (04 R79, assumption log 40). -/
def execLdv (b : Base) (s : State) : Host.Outcome State Fault Refusal :=
  let f := formOf (.ldv b)
  runOnce f b (fun l => do
    let x ← readSrcs f b l
    let t := offsetEa b x
    let n := tileBytes b
    checkAlign t 64
    checkAlign ((loWord x.c).setWidth 64) 16
    let _ ← spadTouch (loWord x.c) n true
    let v1 ← farRange t 8
    let enc ← farRange (t + 8) 4
    let data ← farRange (t + 64) n
    if (dwordOf v1).getLsbD 0 then retryTile l t
    let s ← get
    spadWrite s.who (loWord x.c) data false
    pure { writes := dstWrites b l .n32 (dwordOf enc), touch := [(t.toNat, 64 + n)], tile := some ((loWord x.c).setWidth 64, data) }) s

/-- Write pieces far, each within a line, until one faults. -/
def farWrites : List (DWord × List Byte) → M (Option Trap)
  | [] => pure none
  | (va, bs) :: rest => do
    let r ← attempt (do
      let s ← get
      let ph ← translate s.who s.mode va .store
      farWrite s.who ph.pa bs)
    match r with
    | .ok _ => farWrites rest
    | .error t => pure (some t)

/-- The pieces of a tile's ENC and data. -/
def tilePieces (t : DWord) (enc : Word) (data : List Byte) : List (DWord × List Byte) :=
  (t + 8, bytesOf 4 (enc.setWidth 64)) ::
    (lineChunks (t.toNat + 64) data.length).map fun c => (t + 64 + BitVec.ofNat 64 c.1, (data.drop c.1).take c.2)

/-- What STTA holds once its first step is done. -/
structure TileWrite where
  pa : Nat
  ver : DWord
  pieces : List (DWord × List Byte)
  deriving DecidableEq, Repr

/-- STTA up to the compare-and-swap of the version word (03 R69 step 1). In a bound rope every piece must translate first
(09 R218). -/
def openTile (f : Form) (b : Base) (l : Nat) : M TileWrite := do
  let x ← readSrcs f b l
  let t := offsetEa b x
  checkAlign t 64
  checkAlign ((loWord x.c).setWidth 64) 16
  let s ← get
  let data ← spadRead s.who (loWord x.c) (tileBytes b)
  let pieces := tilePieces t (loWord x.b) data
  if (s.agent s.who).bound.isSome then
    forEach pieces fun p => do
      let _ ← translate s.who s.mode p.1 .store
      pure ()
  let ph ← translate s.who s.mode t .atomic
  let old ← farRead s.who t ph.pa 8
  let e := dwordOf old
  let j := s.versionLane ph.pa s.who s.issued l
  if !s.versionOpen ph.pa s.who j then waitFor (.version ph.pa j)
  modify fun s => { s with versions := s.versions.erase (ph.pa, s.who, j) }
  farWrite s.who ph.pa (bytesOf 8 (e + 1))
  pure ⟨ph.pa, e, pieces⟩

/-- STTA (08 R193, 03 R69): a fault of step 2 is taken after the version word is even again. -/
def execStta (b : Base) (s : State) : Host.Outcome State Fault Refusal :=
  let f := formOf (.stta b)
  runGroup f b true (do
    let s ← get
    match s.acting b with
    | [] => pure {}
    | l :: _ => do
      let r ← attempt (openTile f b l)
      match r with
      | .error t => pure { traps := [(l, t)] }
      | .ok w => do
        let bad ← farWrites w.pieces
        farWrite s.who w.pa (bytesOf 8 (w.ver + 2))
        match bad with
        | some t => pure { traps := [(l, t)] }
        | none => pure { outs := s.issued.map fun j => (j, { hold := some .held }) }) s

/-! ### Gather and scatter (08 R194) -/

/-- Element size of an E2 word (08 R194). -/
def eszOf (b : Base) : Nat := 2 ^ (b.e2.extractLsb' 5 3).toNat
/-- Barrier of an E2 word; 31 for none. -/
def barOf (b : Base) : Nat := (b.e2.extractLsb' 0 5).toNat
/-- Scratchpad stride of an E2 word. -/
def lstrOf (b : Base) : Nat := (b.e2.extractLsb' 16 16).toNat

/-- The element of one lane, after the scratchpad checks made at issue. -/
def gatherElem (f : Form) (b : Base) (scatter : Bool) (l : Nat) : M (DWord × Word) := do
  let x ← readSrcs f b l
  let sp := loWord x.c + BitVec.ofNat 32 (lstrOf b * l)
  let _ ← spadTouch sp (eszOf b) (!scatter)
  checkAlign (sp.setWidth 64) (eszOf b)
  pure (globalEa b x, sp)

/-- The scratchpad address of each acting lane, for the trap that every one of them takes. -/
def gatherTraps (f : Form) (b : Base) (t : Trap) : M GroupOut := do
  let s ← get
  let ts ← collect (s.acting b) fun l => do
    let x ← readSrcs f b l
    pure (l, { t with val := (loWord x.c + BitVec.ofNat 32 (lstrOf b * l)).setWidth 64 })
  pure { traps := ts }

/-- GTH and SCT at issue (08 R194): the scratchpad ranges are checked, and the transfer is handed to the engine. -/
def issueGather (f : Form) (b : Base) (scatter : Bool) : M GroupOut := do
  let s ← get
  let k := s.who
  if (s.acting b).isEmpty then pure {}
  else do
    roomFor .gth
    let r ← attempt (collect (s.acting b) (gatherElem f b scatter))
    match r with
    | .error t => gatherTraps f b t
    | .ok es => do
      let u ← countOp k ((s.acting b).headD 0) .gth
      let elems := ((s.acting b).zip es).map fun e => (e.1, e.2.1, e.2.2, false)
      let g : Gather := ⟨u, k, scatter, eszOf b, barOf b, eszOf b * es.length, elems, s.mode⟩
      modCore (coreOf k) fun x => { x with gathers := x.gathers ++ [g] }
      pure { outs := elems.map fun e => (e.1, { touch := [(e.2.1.toNat, eszOf b)] }) }

/-- GTH (08 R194). -/
def execGth (b : Base) (s : State) : Host.Outcome State Fault Refusal :=
  let f := formOf (.gth b)
  runGroup f b false (issueGather f b false) s

/-- SCT (08 R194). -/
def execSct (b : Base) (s : State) : Host.Outcome State Fault Refusal :=
  let f := formOf (.sct b)
  runGroup f b false (issueGather f b true) s

/-! ### Prefetch and cache control (08 R195, R196) -/

/-- PFT (08 R195): a fill of L1 takes the line as it stands at its home slice, and a flash read that must wait begins; nothing faults and
nothing waits. -/
def execPft (b : Base) (s : State) : Host.Outcome State Fault Refusal :=
  let f := formOf (.pft b)
  runLanes f b (fun l => do
    let x ← readSrcs f b l
    let s ← get
    if s.isPrivate s.who then pure {}
    else do
      let r ← attempt (do
        let ph ← translate s.who s.mode (globalEa b x) .load
        let line := ph.pa / 128
        if tierOf ph.pa == some 2 && s.flashSlow line then modify fun s => s.startFlash line
        else if ph.ao || b.fn == 1 then pure ()
        else do
          homeReady (globalEa b x) ph.pa
          takeLineIn (globalEa b x) (coreOf s.who) (ph.pa / 128)
          let s ← get
          let line : CleanLine := ⟨s.mem.readN (ph.pa / 128 * 128) 128, s.now, s.badMask (ph.pa / 128)⟩
          modCore (coreOf s.who) fun c => { c with clean := Sparse.put c.clean (ph.pa / 128) line })
      match r with
      | .ok _ => pure { touch := [((globalEa b x).toNat, 1)] }
      | .error _ => pure {}) s

/-- Where the core's data TLB finds an address, whatever its permissions: nowhere without a valid translation (08 R196); none of these while
the core has still to translate its granule (02 R36). -/
def State.probe (s : State) (k : Nat) (m : Mode) (va : DWord) : Option (Option Nat) :=
  if !canonical va then some none
  else
    let c := coreOf k
    let sp := s.space c (s.partOf k) m
    match s.lookup (s.core c).dtlb sp (va55 va) with
    | some e => some (some (e.pa + (va55 va - e.va)))
    | none =>
      if (Sparse.find? (s.agent k).answers (granuleKey sp (va55 va))).any fun x => x.1 &&& s.issue.lanes != 0 then some none else none

/-- The part of a virtual range within its first granule, by length. -/
def firstPart (va : DWord) (n : Nat) : Nat := Nat.min n (65536 - va.toNat % 65536)

/-- The leading part of a virtual range that the core has translated: its physical ranges, as start and length, with pages without a
translation left out, and where the rest begins, with its length. -/
def State.physRanges (s : State) (k : Nat) (m : Mode) : Nat → DWord → Nat → List (Nat × Nat) × DWord × Nat
  | 0, va, n => ([], va, n)
  | fuel + 1, va, n =>
    if n == 0 then ([], va, 0)
    else
      match s.probe k m va with
      | none => ([], va, n)
      | some pa =>
        let p := firstPart va n
        let (rs, rest) := s.physRanges k m fuel (va + BitVec.ofNat 64 p) (n - p)
        ((pa.toList.map fun a => (a, p)) ++ rs, rest)

/-- A byte lies in a list of ranges. -/
def inRanges (rs : List (Nat × Nat)) (a : Nat) : Bool := rs.any fun r => decide (r.1 ≤ a) && decide (a < r.1 + r.2)

/-- A line overlaps a list of ranges. -/
def lineInRanges (rs : List (Nat × Nat)) (line : Nat) : Bool :=
  rs.any fun r => decide (r.1 < 128 * line + 128) && decide (128 * line < r.1 + r.2)

/-- Drop the clean lines of a core in ranges that carry no read mark (08 R196). -/
def State.dropLines (s : State) (c : Nat) (rs : List (Nat × Nat)) : State :=
  let marked := fun (line : Nat) => (s.coreParties c).any fun p =>
    (Sparse.find? (s.party p).marks line).any fun m => m.inL1 != 0
  let x := s.core c
  s.setCore c { x with clean := x.clean.filter fun l => !lineInRanges rs l.1 || marked l.1 }

/-- A core is in a scope of a core (08 R196, 14 R329): 0 CORE, 1 CAMP, 2 DIE, 3 MODULE. -/
def inScope (scope c d : Nat) : Bool :=
  match scope with
  | 0 => c == d
  | 1 => campOf c == campOf d
  | 2 => dieOf c == dieOf d
  | _ => true

/-- Drop ranges from the instruction caches of every core in a scope (08 R196). -/
def State.dropFetched (s : State) (c scope : Nat) (rs : List (Nat × Nat)) : State :=
  let keep := fun (x : Sparse (List Byte)) => x.filter fun l => !lineInRanges rs l.1
  let camp := fun (d : Nat) => (List.range 4).any fun i => inScope scope c (4 * d + i)
  { s with
    cores := s.cores.map fun e => if inScope scope c e.1 then (e.1, { e.2 with icache := keep e.2.icache }) else e
    camps := s.camps.map fun e => if camp e.1 then (e.1, { e.2 with icache := keep e.2.icache }) else e }

/-- The range that a CCTL has before it: what is left of it, or that of its sources. -/
def cctlRange (f : Form) (b : Base) (l : Nat) : M (DWord × Nat) := do
  let s ← get
  match (s.lane s.who l).step with
  | some (.range va n) => pure (va, n)
  | _ => do
    let x ← readSrcs f b l
    pure (offsetEa b x, (loWord x.b).toNat)

/-- A CCTL acts on its range part by part, as the core translates it: it misses on the next granule, or goes on from there. With the last part
the group is held until the operation is complete (08 R196); a length of 0 has no effect. -/
def runCctl (f : Form) (b : Base) (iinv : Bool) (act : State → List (Nat × Nat) → State) : State → Host.Outcome State Fault Refusal :=
  runGroup f b false do
    let s ← get
    match s.acting b with
    | [] => pure {}
    | l :: _ => do
      match ← attempt (cctlRange f b l) with
      | .error t => pure { traps := [(l, t)] }
      | .ok (va, n) => do
        let s ← get
        if n == 0 then pure {}
        else
          let (rs, va', left) := s.physRanges s.who s.mode (ceilDiv (va.toNat % 65536 + n) 65536) va n
          if left == n then abort (.miss false (granuleKey (s.space (coreOf s.who) (s.partOf s.who) s.mode) (va55 va)))
          else do
            set (act s rs)
            if left != 0 then pure { outs := s.issued.map fun j => (j, { stay := some (.range va' left) }) }
            else do
              let u ← newUid
              pure { outs := s.issued.map fun j => (j, { hold := some (.cache u iinv) }) }

/-- CCTL.PUB (08 R196). -/
def execCctlPub (b : Base) (s : State) : Host.Outcome State Fault Refusal :=
  runCctl (formOf (.cctlPub b)) b false (fun s rs => s.publish (coreOf s.who) (inRanges rs)) s

/-- CCTL.WB (08 R196): memory and its home slices are one in the model, so the write back changes nothing more. -/
def execCctlWb (b : Base) (s : State) : Host.Outcome State Fault Refusal :=
  runCctl (formOf (.cctlWb b)) b false (fun s rs => s.publish (coreOf s.who) (inRanges rs)) s

/-- CCTL.INV (08 R196). -/
def execCctlInv (b : Base) (s : State) : Host.Outcome State Fault Refusal :=
  runCctl (formOf (.cctlInv b)) b false
    (fun s rs => (s.publish (coreOf s.who) (inRanges rs)).dropLines (coreOf s.who) rs) s

/-- CCTL.IINV (08 R196): PRIVILEGE in U; IIACK counts it as it completes. -/
def execCctlIinv (b : Base) (s : State) : Host.Outcome State Fault Refusal :=
  let f := formOf (.cctlIinv b)
  if s.mode = .u then runGroup f b false (trapActing b ⟨.privilege, 0, s.issue.word, false⟩) s
  else
    runCctl f b true (fun s rs => s.dropFetched (coreOf s.who) b.vecCode rs) s

/-! ### Atomics (08 R198, R199) -/

/-- One lane of a global atomic with return. -/
def atomLane (b : Base) (l : Nat) (fn : BitVec 3) (ea cmp c : DWord) : M LaneOut := do
  let n := elemBytes b
  checkAlign ea n
  let s ← get
  let ph ← translate s.who s.mode ea .atomic
  let bs ← farRead s.who ea ph.pa n
  farWrite s.who ph.pa (bytesOf n (atomicNew fn b.ty (dwordOf bs) cmp c))
  pure { writes := dstWrites b l b.ty (dwordOf bs), touch := [(ea.toNat, n)] }

/-- Atomics of a group in ascending lane order (08 R187, R198); lanes performed before a fault stay performed, in a bound
rope as well (09 R218). -/
def runAtomic (f : Form) (b : Base) (act : Nat → Operands → M LaneOut) :
    State → Host.Outcome State Fault Refusal :=
  runGroup f b true (accessLanes b fun l => do
    let x ← readSrcs f b l
    act l x)

/-- ATOM (08 R198). -/
def execAtom (b : Base) (s : State) : Host.Outcome State Fault Refusal :=
  let f := formOf (.atom b)
  runAtomic f b (fun l x => atomLane b l b.fn (globalEa b x) 0 x.c) s

/-- ATOMC (08 R199). -/
def execAtomc (b : Base) (s : State) : Host.Outcome State Fault Refusal :=
  let f := formOf (.atomc b)
  runAtomic f b (fun l x => atomLane b l 7 (offsetEa b x) x.b x.c) s

/-- RED (08 R198): an operand sector that cannot be corrected faults at issue; in a bound rope the lanes below it stay performed (09 R218
item 4). -/
def execRed (b : Base) (s : State) : Host.Outcome State Fault Refusal :=
  let f := formOf (.red b)
  runFar f b true (fun u l => do
    let x ← readSrcs f b l
    let va := globalEa b x
    let n := elemBytes b
    checkAlign va n
    let s ← get
    let ph ← translate s.who s.mode va .store
    require (!s.eccBad ph.pa n) .eccUncorrectable va
    deferFar u l va ph.pa (some (b.fn, b.ty)) (bytesOf n x.c)
    pure { touch := [(va.toNat, n)] }) s

/-- ATOMS (08 R198, 04 R82): cas takes its address from A and OFFSET and compares with B. -/
def execAtoms (b : Base) (s : State) : Host.Outcome State Fault Refusal :=
  let f := formOf (.atoms b)
  let n := elemBytes b
  let ea := fun (x : Operands) => if b.fn == 7 then loWord (offsetEa b x) else localEa b x
  let lane := fun l => do
    let x ← readSrcs f b l
    checkAlign ((ea x).setWidth 64) n
    let t ← spadTouch (ea x) n true
    let s ← get
    let bs ← spadRead s.who (ea x) n
    spadWrite s.who (ea x) (bytesOf n (atomicNew b.fn b.ty (dwordOf bs) x.b x.c)) false
    pure { writes := dstWrites b l b.ty (dwordOf bs), touch := [t], banked := true }
  runGroup f b false (do
    let s ← get
    if b.dk == .scl then onceOut b lane else eachLane (s.acting b) lane) s

end Sys2Proof.Machine
end

