-- ==== Sys2Proof/Machine/Sync.lean ====
section
/-! DEFINITION. Fences, the PHASE collectives, CWAIT, queue locks, wait and wake (spec/03 R46 to R64, spec/08 R200 to R207). -/

namespace Sys2Proof.Machine

/-! ### FENCE (08 R200, 03 R60) -/

/-- FENCE: a release performs the agent's deferred far accesses; an acquire finds every earlier read already performed
(assumption log 4). -/
def execFence (b : Base) (s : State) : Host.Outcome State Fault Refusal :=
  runGroup (formOf (.fence b)) b false (do
    let s ← get
    if (s.acting b).isEmpty || b.fn == 1 then pure {}
    else do
      modify fun s => s.drainAll s.who
      pure {}) s

/-! ### PHASE (08 R201, 03 R47) -/

/-- The parties that a collective of a party takes in. -/
def State.collectiveParties (s : State) (p : Nat) (team : Bool) : List Nat :=
  match (if team then (s.party p).team else none) with
  | some t => (((Sparse.find? s.teams t).map Team.members).getD []).filter fun q => (Sparse.find? s.parties q).isSome
  | none => [p]

/-- A party of the team is saved in a frame, so the collective cannot complete. -/
def State.teamAway (s : State) (p : Nat) (team : Bool) : Bool :=
  match (if team then (s.party p).team else none) with
  | some t => s.saved.any fun v => v.party.team == some t && v.frame.isSome
  | none => false

/-- Every live lane of an agent sleeps at the collective; an agent that has ended is no member. -/
def State.atPhase (s : State) (team : Bool) (k : Nat) : Bool :=
  (s.agent k).live.all fun l => match (s.lane k l).wait with
    | some (.phase t _) => t == team
    | _ => false

/-- A party is there: each rope and the lead have arrived or ended, and one has arrived. -/
def State.partyArrived (s : State) (team : Bool) (p : Nat) : Bool :=
  let ks := (s.party p).agents.filter fun k => !(s.agent k).ended
  !ks.isEmpty && ks.all (s.atPhase team)

/-- A party of which nothing is left to arrive. -/
def State.partyGone (s : State) (p : Nat) : Bool := (s.party p).agents.all fun k => (s.agent k).ended

/-- A lane that a halt holds stays halted where it has come to (14 R331). -/
def Lane.followHalt (x : Lane) : Lane := if x.halted then { x with dbg := { x.dbg with pc := x.pc, cls := x.clause.toCls } } else x

/-- Lanes asleep at the collective go on (03 R47 step 5). -/
def State.passPhase (s : State) (k : Nat) : State :=
  (s.agent k).live.foldl (fun s l => match (s.lane k l).wait with
    | some (.phase _ n) => s.mapLane k l fun x => (x.advance n).followHalt
    | _ => s) s

/-- The five steps of R47 for the participating parties. -/
def State.completePhase (s : State) (ps : List Nat) : State :=
  let ks := ps.flatMap s.ownKeys
  let s := ks.foldl State.drainAll s
  let s := ((ps.map fun p => (s.party p).core).eraseDups).foldl State.publishAll s
  let s := ps.foldl State.endMarks s
  let s := ps.foldl (fun s p =>
    let x := s.party p
    s.setParty p { x with bound := s.now, phaseId := x.phaseId + 1 }) s
  ks.foldl State.passPhase s

/-- The deterministic pairs and parties of a list of parties, by number. -/
def State.detsOf (s : State) (ps : List Nat) : List Nat := (ps.filterMap fun p => (s.party p).det).eraseDups

/-- Every party that a list's pairs hold. -/
def State.pairParties (s : State) (ps : List Nat) : List Nat :=
  (ps ++ (s.detsOf ps).flatMap fun n => match Sparse.find? s.dets n with
    | some d => if (s.party d.leader).role == .leader then d.leader :: d.trailer.toList else []
    | none => []).eraseDups

/-- The first pair of a list whose signatures differ (16 R366). -/
def State.disagreeing (s : State) (ps : List Nat) : Option Nat :=
  (s.detsOf ps).find? fun n => match Sparse.find? s.dets n with
    | some d => d.trailer.isSome && !d.agrees
    | none => false

/-- Start a new interval in each deterministic state of a list (16 R359). -/
def startIntervals (ns : List Nat) : M Unit := forEach ns startInterval

/-- Complete a collective if its last member has arrived (08 R201, 03 R47, 16 R366); a party in a replay completes none, since the log of
its interval ends there (16 R362). -/
def collective (p : Nat) (team : Bool) : M Unit := do
  let s ← get
  let own := s.collectiveParties p team
  let all := s.pairParties own
  let here := all.filter fun q => !s.partyGone q
  if s.teamAway p team || own.any s.inReplay || here.isEmpty || !here.all (s.partyArrived team) then pure ()
  else
    match s.disagreeing all with
    | some n => modify fun s => s.pairMismatch n 3
    | none => do
      let ns := s.detsOf all
      modify fun s =>
        let s := (all.filter fun q => (s.party q).role == .leader).foldl State.publishHeld s
        s.completePhase here
      startIntervals ns

/-- PHASE and PHASE.TEAM (08 R201): the lanes sleep at the instruction, which they leave when the collective completes. -/
def runPhase (f : Form) (b : Base) (team : Bool) (s : State) : Host.Outcome State Fault Refusal :=
  let team := team && (s.partyOf s.who).team.isSome
  match runGroup f b false (do
      let s ← get
      pure { outs := s.issued.map fun l => (l, { stay := some (.phase team b.len.bytes) }) }) s with
  | .next t => runM (collective (t.agent t.who).party team) t
  | o => o

/-- PHASE (08 R201). -/
def execPhase (b : Base) (s : State) : Host.Outcome State Fault Refusal := runPhase (formOf (.phase b)) b false s

/-- PHASE.TEAM (08 R201). -/
def execPhaseTeam (b : Base) (s : State) : Host.Outcome State Fault Refusal := runPhase (formOf (.phaseTeam b)) b true s

/-! ### CWAIT (08 R203, 03 R64) -/

/-- Engine class of its code. -/
def EngClass.ofCode : Nat → EngClass
  | 0 => .cpy | 1 => .gth | 2 => .mat | 3 => .col | 4 => .apn | _ => .far

/-- CWAIT (08 R203). -/
def execCwait (b : Base) (s : State) : Host.Outcome State Fault Refusal :=
  let f := formOf (.cwait b)
  runGroup f b false (issuingB f b fun l m => do
    let s ← get
    let cls := EngClass.ofCode (b.litWord .ext 0 b.a).toNat
    if 63 < m.toNat then pure (trapLaneOnly l ⟨.illegalOperand, 0, s.issue.word, false⟩)
    else if (s.agent s.who).counter cls ≤ m.toNat then pure { outs := (s.acting b).map fun l => (l, {}) }
    else waitFor (.cwait cls m.toNat)) s

/-! ### Queue locks (08 R204, R205) -/

/-- Identity of a lane as a lock's owner (08 R204): words 0 and 1. -/
def ownerWords (s : State) (k l : Nat) : DWord × DWord :=
  let y := s.partyOf k
  let kind := if isLead k then 2 else if isProducer k then 1 else 0
  let rope := if isLead k || isProducer k then 0 else (s.agent k).rope
  (BitVec.ofNat 64 (y.task.slot * 2 ^ 32 + 2 ^ 31 + kind * 2 ^ 29 + y.task.qidx * 2 ^ 25 + y.task.part * 2 ^ 21),
   BitVec.ofNat 64 (y.partyId * 2 ^ 40 + rope * 2 ^ 36 + l * 2 ^ 30))

/-- The 16 bytes of a lock word pair. -/
def lockBytes (w : DWord × DWord) : List Byte := bytesOf 8 w.1 ++ bytesOf 8 w.2

/-- What a QLOCK finds at the home slice. -/
inductive LockResult where
  | acquired | owned | queued | full
  deriving DecidableEq, Repr

/-- QLOCK at the home slice (08 R205): a waiter is recorded in the table or in the overflow list, and where neither has room the request is
sent again. -/
def lockAcquire (pa : Nat) (who : Waiter) (id : DWord × DWord) : M LockResult := do
  let s ← get
  let old := s.mem.readN pa 16
  let free := old.all (· == 0) && !s.locks.any fun e => e.pa == pa
  if free then do
    homeWrite pa (lockBytes id)
    pure .acquired
  else if old == lockBytes id then pure .owned
  else if s.lockRoom pa then do
    modify fun s => { s with locks := s.locks ++ [⟨pa, who, id.1, id.2, !s.lockTabled pa⟩] }
    pure .queued
  else pure .full

/-- QUNLK at the home slice (08 R205): whether the caller owned the lock. -/
def lockRelease (pa : Nat) (id : DWord × DWord) : M Bool := do
  let s ← get
  if s.mem.readN pa 16 != lockBytes id then pure false
  else
    match s.locks.find? fun e => e.pa == pa with
    | some e => do
      homeWrite pa (lockBytes (e.word0, e.word1))
      modify fun s => ({ s with locks := s.locks.erase e } : State).grantWaiter e.who
      pure true
    | none => do
      homeWrite pa (List.replicate 16 0)
      pure true

/-- Physical address of a lock of a lane. -/
def lockPlace (va : DWord) : M Nat := do
  checkAlign va 16
  let s ← get
  let ph ← translate s.who s.mode va .atomic
  let _ ← farRead s.who va ph.pa 16
  pure ph.pa

/-- QLOCK (08 R205): a lane that is queued executes again once the lock is granted. -/
def execQlock (b : Base) (s : State) : Host.Outcome State Fault Refusal :=
  let f := formOf (.qlock b)
  runLanes f b (fun l => do
    let x ← readSrcs f b l
    let s ← get
    if (s.lane s.who l).step == some .granted then pure {}
    else do
      let pa ← lockPlace (globalEa b x)
      let s ← get
      if s.locks.any (fun e => e.who == .lane s.who l) then pure { stay := some .qlock }
      else do
        let r ← lockAcquire pa (.lane s.who l) (ownerWords s s.who l)
        match r with
        | .acquired => pure {}
        | .owned => raise .lockState (globalEa b x)
        | .queued => pure { stay := some .qlock }
        | .full => pure { stay := some (.slice pa true) }) s

/-- QUNLK (08 R205): a release, then the handover. -/
def execQunlk (b : Base) (s : State) : Host.Outcome State Fault Refusal :=
  let f := formOf (.qunlk b)
  runLanes f b (fun l => do
    let x ← readSrcs f b l
    let pa ← lockPlace (globalEa b x)
    modify fun s => s.drainAll s.who
    let s ← get
    let ok ← lockRelease pa (ownerWords s s.who l)
    require ok .lockState (globalEa b x)
    pure {}) s

/-! ### Wait and wake (08 R206, R207) -/

/-- Arm a wait entry at a slice; past the table it joins the overflow list. -/
def State.arm (s : State) (part asid : Nat) (va : DWord) (slice : Nat) (who : Waiter) : State :=
  { s with waits := s.waits ++ [⟨part, asid, va, slice, who, decide (waitTableSize ≤ s.armed slice false)⟩] }

/-- The address space of the issue, by ASID. -/
def State.asid (s : State) : Nat := (s.space (coreOf s.who) (s.partOf s.who) s.mode).asid

/-- One lane of a WWAIT: it returns when it has been woken or the word differs, and sleeps armed otherwise. -/
def wwaitLane (f : Form) (b : Base) (l : Nat) : M LaneOut := do
  let x ← readSrcs f b l
  let n := elemBytes b
  let va := globalEa b x
  checkAlign va n
  let s ← get
  let k := s.who
  let ph ← translate k s.mode va .load
  let bs ← farRead k va ph.pa n
  let out : LaneOut := { writes := dstWrites b l b.ty (dwordOf bs) }
  let s ← get
  let woken := (s.lane k l).step == some .woken
  if woken || dwordOf bs != (x.c &&& BitVec.ofNat 64 (2 ^ b.ty.bits - 1)) then do
    modify fun s => s.withdraw k l
    pure out
  else do
    if s.waits.any fun e => e.who == .lane k l then pure { stay := some .wwait }
    else if s.armRoom (sliceOf ph.pa) then do
      modify fun s => s.arm (s.partOf k) s.asid va (sliceOf ph.pa) (.lane k l)
      pure { stay := some .wwait }
    else pure { stay := some (.slice ph.pa false) }

/-- WWAIT (08 R206): in each acting lane, or once for a scalar destination, and then every acting lane sleeps until it is written
(08 R188). -/
def execWwait (b : Base) (s : State) : Host.Outcome State Fault Refusal :=
  let f := formOf (.wwait b)
  runGroup f b false (do
    let s ← get
    let g ← accessLanes b (wwaitLane f b)
    pure (if b.dk == .scl then g.withMates (s.acting b) else g)) s

/-- WWAKE (08 R207): a release, then the wakes; the lane is held until they are performed. -/
def execWwake (b : Base) (s : State) : Host.Outcome State Fault Refusal :=
  let f := formOf (.wwake b)
  runLanes f b (fun l => do
    let x ← readSrcs f b l
    let va := globalEa b x
    checkAlign va (elemBytes b)
    let s ← get
    let k := s.who
    let ph ← translate k s.mode va .load
    modify fun s => (s.drainAll k).wake (sliceOf ph.pa) (s.partOf k) s.asid va (loWord x.c).toNat
    pure { hold := some .held }) s

end Sys2Proof.Machine
end

