-- ==== Sys2Proof/Machine/Stream.lean ====
section
/-! DEFINITION. Stream queues, the producer slot and the decision queue (spec/04 R98 to R102, spec/08 R209 to R212). -/

namespace Sys2Proof.Machine

/-! ### Stream queues -/

/-- Entries of a stream queue (04 R100). -/
def queueDepth : Nat := 32

/-- The queue that an instruction names. -/
def queueNumber (b : Base) : Nat := (b.litWord .ext 0 b.a).toNat

/-- A queue of a core. -/
def Core.queue (x : Core) (q : Nat) : StreamQ := x.queues.getD q ⟨[]⟩

/-- The issue's party owns its core's queues (04 R98). -/
def State.ownsQueues (s : State) : Bool := (s.core (coreOf s.who)).producer == some (s.agent s.who).party

/-- QUEUE_STATE with the word of the instruction. -/
def queueState (s : State) : Trap := ⟨.queueState, 0, s.issue.word, false⟩

/-- The trap of the issuing lane. -/
def trapIssuing (b : Base) (t : Trap) : M GroupOut := do
  let s ← get
  pure { traps := (s.acting b).head?.toList.map fun l => (l, t) }

/-- Since when a lane waits on a queue. -/
def Lane.queueSince (x : Lane) (q : Nat) : Option DWord :=
  if x.wait == some (.stream q) && !x.halted then some x.since else none

/-- Another group began to wait on the queue before this one (04 R101). Of those that began at the same CLOCK the one of the lower agent
key and lane goes first, which the spec leaves open: the model's choice (assumption log 89). -/
def State.streamAhead (s : State) (q : Nat) : Bool :=
  let mine := (s.lane s.who (s.issued.headD 0)).queueSince q
  (s.coreAgents (coreOf s.who)).any fun k =>
    !isProducer k && (s.agent k).live.any fun l =>
      (k != s.who || !s.issued.contains l) &&
        match (s.lane k l).queueSince q, mine with
        | some t, some t' => decide (t < t') || (t == t' && decide (64 * k + l < 64 * s.who + s.issued.headD 0))
        | some _, none => true
        | none, _ => false

/-- SPOP (04 R101, R102, 08 R209). -/
def execSpop (b : Base) (s : State) : Host.Outcome State Fault Refusal :=
  runGroup (formOf (.spop b)) b false (do
    let s ← get
    let c := coreOf s.who
    let x := s.core c
    let q := queueNumber b
    if b.dk == .scl && !isLead s.who then trapActing b ⟨.illegalOperand, 0, s.issue.word, false⟩
    else if (s.acting b).isEmpty then pure {}
    else if !s.ownsQueues then trapIssuing b (queueState s)
    else
      match (x.queue q).entries with
      | [] => if x.queuesClosed then trapIssuing b (queueState s) else waitFor (.stream q)
      | e :: rest =>
        if s.streamAhead q then waitFor (.stream q)
        else do
          modCore c fun x => { x with queues := x.queues.set q ⟨rest⟩ }
          pure { outs := (s.acting b).map fun l => (l, { writes := dstWrites b l .n32 ((e.getD l 0).setWidth 64) }) }) s

/-- SPSH (04 R101, 08 R209). -/
def execSpsh (b : Base) (s : State) : Host.Outcome State Fault Refusal :=
  runGroup (formOf (.spsh b)) b false (do
    let s ← get
    let k := s.who
    let c := coreOf k
    let q := queueNumber b
    if !isProducer k then trapActing b ⟨.illegalInstruction, 0, s.issue.word, false⟩
    else if (s.acting b).isEmpty then pure {}
    else if queueDepth ≤ ((s.core c).queue q).entries.length then waitFor (.stream q)
    else do
      let act := s.acting b
      let entry := (List.range 32).map fun l => if act.contains l then s.readV k b.b.field.toNat l else 0
      modCore c fun x => { x with queues := x.queues.set q ⟨(x.queue q).entries ++ [entry]⟩ }
      pure {}) s

/-- The word of SQRY (04 R100). -/
def queueWord (x : Core) (q : Nat) : Nat :=
  let fill := (x.queue q).entries.length
  (if x.queuesClosed then 2 ^ 16 else 0) + (queueDepth - fill) * 2 ^ 8 + fill

/-- SQRY (04 R100, R102, 08 R209). -/
def execSqry (b : Base) (s : State) : Host.Outcome State Fault Refusal :=
  runGroup (formOf (.sqry b)) b false (do
    let s ← get
    if (s.acting b).isEmpty then pure {}
    else if !s.ownsQueues then trapIssuing b (queueState s)
    else
      let w := BitVec.ofNat 64 (queueWord (s.core (coreOf s.who)) (queueNumber b))
      pure { outs := (s.acting b).map fun l => (l, { writes := dstWrites b l .n32 w }) }) s

/-! ### The producer slot (04 R98, R99, 08 R210) -/

/-- The producer rope at the start of a micro-program (04 R99), but for its v0: s0 to s7 hold the parameters. Its ROPEID reads 16, by the model's choice
(assumption log 107). -/
def producerRope (party : Nat) (seed : DWord) (entry : DWord) (params : List Word) : Agent :=
  { Agent.absent with
    party := party, rope := 16, key := seed, lanes := List.replicate 32 (Lane.start entry)
    sregs := params ++ List.replicate (64 - params.length) 0, flags := List.replicate 12 0 }

/-- A producer starts, or starts anew: v0 holds the lane number (04 R99), and its core's queues are emptied and open. -/
def State.startProducer (s : State) (c p : Nat) (entry : DWord) (params : List Word) : State :=
  let key := 128 * c + 64
  let s := ((s.setAgent key (producerRope p (s.party p).seed entry params)).startReg key 0
    ((List.range 32).map fun l => (l, BitVec.ofNat 32 l))).heatHalts [key]
  let x := (s.core c).vacate fun k => k == key
  s.setCore c { x with
    producer := some p, queues := List.replicate 4 ⟨[]⟩, queuesClosed := false
    pending := (x.pending.filter fun e => e.agent != key) ++ [⟨key, 0⟩] }

/-- PRDL (08 R210). -/
def execPrdl (b : Base) (s : State) : Host.Outcome State Fault Refusal :=
  let f := formOf (.prdl b)
  runOnce f b (fun l => do
    let x ← readSrcs f b l
    let s ← get
    let k := s.who
    let c := coreOf k
    let p := (s.agent k).party
    let own := (s.core c).producer
    if own.any (fun q => q != p) || (own == some p && !(s.agent (128 * c + 64)).ended) then
      abort (.trap (queueState s))
    checkAlign ((loWord x.b).setWidth 64) 4
    let bs ← spadRead k (loWord x.b) 32
    let params := (List.range 8).map fun i => loWord (dwordOf ((bs.drop (4 * i)).take 4))
    let entry := s.issue.pc + BitVec.ofInt 64 (4 * b.e1.toInt)
    modify fun s => s.startProducer c p entry params
    pure {}) s

/-- The producer's last lane has exited: its queues close (04 R98, R102). -/
def State.closeQueues (s : State) (c : Nat) : State :=
  let x := s.core c
  s.setCore c { x with queuesClosed := true }

/-! ### The decision queue (08 R211) -/

/-- Entries of a decision queue. -/
def decisionDepth : Nat := 64

/-- Ropes of a party that have not ended. -/
def State.liveRopes (s : State) (p : Nat) : List Nat :=
  (s.party p).agents.filter fun k => !isLead k && !(s.agent k).ended

/-- Free the entries that every rope has popped. -/
def State.freeDecisions (s : State) (p : Nat) : State :=
  let x := s.party p
  let upto := ((s.liveRopes p).map fun k => (s.agent k).dqPos).foldl Nat.min (x.dq.base + x.dq.entries.length)
  s.setParty p { x with dq := ⟨upto, x.dq.entries.drop (upto - x.dq.base)⟩ }

/-- The party's lead is there and has not ended. -/
def State.leadLives (s : State) (p : Nat) : Bool := (s.party p).agents.any fun k => isLead k && !(s.agent k).ended

/-- DQPSH (08 R211). -/
def execDqpsh (b : Base) (s : State) : Host.Outcome State Fault Refusal :=
  let f := formOf (.dqpsh b)
  runGroup f b false (do
    let s ← get
    let p := (s.agent s.who).party
    if !isLead s.who then trapActing b ⟨.illegalInstruction, 0, s.issue.word, false⟩
    else if (s.acting b).isEmpty then pure {}
    else if decisionDepth ≤ (s.party p).dq.entries.length then waitFor .decision
    else do
      let x ← readSrc f b 0 0
      modParty p fun y => { y with dq := { y.dq with entries := y.dq.entries ++ [x] } }
      modify fun s => s.freeDecisions p
      pure {}) s

/-- DQPOP (08 R211). -/
def execDqpop (b : Base) (s : State) : Host.Outcome State Fault Refusal :=
  runGroup (formOf (.dqpop b)) b false (do
    let s ← get
    let k := s.who
    let p := (s.agent k).party
    let pos := (s.agent k).dqPos
    if isLead k then trapActing b ⟨.illegalInstruction, 0, s.issue.word, false⟩
    else if (s.acting b).isEmpty then pure {}
    else
      match (s.party p).dq.entries[pos - (s.party p).dq.base]? with
      | none => if s.leadLives p then waitFor .decision else trapIssuing b (queueState s)
      | some x => do
        modAgent k fun a => { a with dqPos := pos + 1 }
        modify fun s => s.freeDecisions p
        pure { outs := (s.acting b).map fun l => (l, { writes := dstWrites b l .n64 x }) }) s

end Sys2Proof.Machine
end

