-- ==== Sys2Proof/Machine/Copy.lean ====
section
/-! DEFINITION. The copy engine and the gather engine (spec/04 R84 to R91, spec/08 R194, R208): issue, progress and completion. -/

namespace Sys2Proof.Machine

/-! ### The traverse record (04 R84 to R86) -/

/-- A field of a record's bytes, unsigned. -/
def recField (bs : List Byte) (i n : Nat) : Nat := leNat ((bs.drop i).take n)

/-- A field of a record's bytes, as i32. -/
def recInt (bs : List Byte) (i : Nat) : Int := (BitVec.ofNat 32 (recField bs i 4)).toInt

/-- The six indices of an element number in traverse order (04 R86). -/
def elemIndices (counts : List Nat) (e : Nat) : List Nat :=
  match counts with
  | [] => []
  | c :: rest => (if c = 0 then 0 else e % c) :: elemIndices rest (if c = 0 then 0 else e / c)

/-- Elements of a walk. -/
def Traverse.total (t : Traverse) : Nat := t.counts.foldl (· * ·) 1

/-- Offset of an element by its indices and strides. -/
def walkOffset : List Nat → List Int → Int
  | i :: is, d :: ds => i * d + walkOffset is ds
  | _, _ => 0

/-- The record of a walk from its 64 bytes; reserved codes and bits give none (04 R84, R85). -/
def parseTraverse (bs : List Byte) : Option Traverse :=
  let ctl := recField bs 60 4
  let esz := ctl % 8
  let ssp := ctl / 8 % 8
  let dsp := ctl / 64 % 8
  if 512 ≤ ctl || 4 < esz || 2 < dsp || (ssp != 0 && ssp != 1 && ssp != 3) then none
  else
    let ks := List.range 6
    some { counts := ks.map fun k => recField bs (10 * k) 2, sstr := ks.map fun k => recInt bs (10 * k + 2)
           dstr := ks.map fun k => recInt bs (10 * k + 6), esz := 2 ^ esz, ssp := ssp, dsp := dsp }

/-- Copies that a core takes in: 8 at work and 32 waiting (04 R90). -/
def copyPlaces : Nat := 40

/-- The bytes of a record in the constant window, word by word through the phased path. -/
def constRecord (k l : Nat) (m : Mode) (off : Nat) : M (List Byte) := do
  let parts ← collect (List.range 16) fun i => constRead k l m (off + 4 * i) 4
  pure parts.flatten

/-- The record that a CPY names, after the checks of its address (08 R208). -/
def copyRecord (b : Base) (l : Nat) (ra : Word) : M (List Byte) := do
  let s ← get
  checkAlign (ra.setWidth 64) 64
  if b.e2.getLsbD 5 then do
    require (decide (ra.toNat + 64 ≤ 65536)) .illegalOperand s.issue.word
    constRecord s.who l s.mode ra.toNat
  else do
    let _ ← spadTouch ra 64 true
    spadRead s.who ra 64

/-- CPY at issue (08 R208). -/
def issueCopy (f : Form) (b : Base) (l : Nat) : M LaneOut := do
  let x ← readSrcs f b l
  let s ← get
  let k := s.who
  let c := coreOf k
  roomFor .cpy
  if copyPlaces ≤ (s.core c).copies.length then waitFor .copyFull
  let bs ← copyRecord b l (loWord x.c)
  match parseTraverse bs with
  | none => raise .reservedField ((loWord x.c).setWidth 64)
  | some t => do
    require (!((t.ssp != 0 && hiWord x.a != 0) || (t.dsp != 0 && hiWord x.b != 0))) .illegalOperand s.issue.word
    require (decide (t.total * t.esz < 2 ^ 32)) .illegalOperand s.issue.word
    let u ← countOp k l .cpy
    let m := s.mode
    modCore c fun y => { y with copies := y.copies ++ [⟨u, k, l, t, x.a, x.b, (b.e2.extractLsb' 0 5).toNat, 0, false, m, []⟩] }
    pure {}

/-- CPY (08 R208). -/
def execCpy (b : Base) (s : State) : Host.Outcome State Fault Refusal :=
  let f := formOf (.cpy b)
  runOnce f b (issueCopy f b) s

/-! ### Elements (04 R87 to R89) -/

/-- TVAL of SLOT_STATE (10 R235). -/
def slotValue (tile : Bool) (reason ref : Nat) : DWord :=
  BitVec.ofNat 64 ((if tile then 2 ^ 16 else 0) + reason * 2 ^ 12 + ref)

/-- Raise SLOT_STATE. -/
def slotFault {α : Type} (tile : Bool) (reason ref : Nat) : M α := raise .slotState (slotValue tile reason ref)

/-- Write bytes of a claimed slot. -/
def slotWrite (p n off : Nat) (bs : List Byte) : M Unit :=
  modParty p fun x => { x with slots := Sparse.adjust x.slots n fun c => { c with bytes := c.bytes.writeN off bs } }

/-- Read the source of an element. -/
def readElement (e : Copy) (addr : DWord) : M (List Byte) := do
  let s ← get
  checkAlign addr e.trav.esz
  match e.trav.ssp with
  | 0 => engineRead e.agent e.uid e.mode true addr e.trav.esz 0xD0
  | 1 => spadRead e.agent (loWord addr) e.trav.esz
  | _ => do
    require (decide (addr.toNat + e.trav.esz ≤ 65536)) .illegalOperand addr
    engineRead e.agent e.uid e.mode true ((s.partyOf e.agent).param + addr) e.trav.esz 0xD0

/-- Change a copy of a core. -/
def modCopy (c uid : Nat) (f : Copy → Copy) : M Unit :=
  modCore c fun x => { x with copies := x.copies.map fun e => if e.uid == uid then f e else e }

/-- The bytes that a copy has for claimed slots reach them: a unit of 16 bytes is then wholly new for a pass that reads it (10 R237). -/
def State.flushSlots (s : State) (e : Copy) : State :=
  let p := (s.agent e.agent).party
  let y := s.party p
  s.setParty p { y with slots := y.slots.map fun c =>
    (c.1, { c.2 with bytes := (e.slotted.filter fun b => b.1 / 2 ^ 14 == c.1).foldl (fun m b => m.write (b.1 % 2 ^ 14) b.2) c.2.bytes }) }

/-- A copy's bytes for slots are written, and none is kept back. -/
def flushCopy (c uid : Nat) : M Unit := do
  let s ← get
  match (s.core c).copies.find? fun e => e.uid == uid with
  | none => pure ()
  | some e => do
    if !e.slotted.isEmpty then modify fun s => s.flushSlots e
    modCopy c uid fun e => { e with slotted := [] }

/-- Write the destination of an element. Bytes for a slot are kept back until the copy ends, or is held at a fault (04 R89): until then each
16-byte unit is wholly old (10 R237). -/
def writeElement (e : Copy) (addr : DWord) (bs : List Byte) : M Unit := do
  let s ← get
  checkAlign addr e.trav.esz
  match e.trav.dsp with
  | 0 => engineWrite e.agent e.uid e.mode true addr bs
  | 1 => spadWrite e.agent (loWord addr) bs true
  | _ => do
    require (decide (addr.toNat < 2 ^ 21)) .illegalOperand addr
    let n := addr.toNat / 2 ^ 14
    let p := (s.agent e.agent).party
    if ((Sparse.find? (s.party p).slots n).isNone) then slotFault false 1 n
    let add := fun (m : Sparse Byte) (i : Nat) => Sparse.put m (addr.toNat + i) (bs.getD i 0)
    modCopy (coreOf e.agent) e.uid fun x => { x with slotted := (List.range bs.length).foldl add x.slotted }

/-- The address of an element in a space: modulo 2^64 in global space, modulo 2^32 in scratchpad and slots (04 R86), and so in the constant
window, for which R86 states no modulus: the model's choice (assumption log 90). -/
def elementAddr (space : Nat) (base : DWord) (off : Int) : DWord :=
  let x := base + BitVec.ofInt 64 off
  if space == 0 then x else (loWord x).setWidth 64

/-- Move one element. -/
def moveElement (e : Copy) : M Unit := do
  let ix := elemIndices e.trav.counts e.next
  let bs ← readElement e (elementAddr e.trav.ssp e.sbase (walkOffset ix e.trav.sstr))
  writeElement e (elementAddr e.trav.dsp e.dbase (walkOffset ix e.trav.dstr)) bs

/-- The lane that takes an operation's faults: its own while it has not exited, else the lowest that has not (14 R402). -/
def State.deliveryLane (s : State) (k l : Nat) : Nat :=
  if (s.lane k l).exited then ((s.agent k).live).headD l else l

/-- A transfer lands (04 R93). -/
def landTransfer (k uid lane bar bytes : Nat) : M Unit := do
  noteComplete k uid
  modify fun s => s.land k uid lane bar bytes

/-- A copy whose elements have all moved lands. -/
def endCopy (c uid : Nat) : M Unit := do
  let s ← get
  match (s.core c).copies.find? fun e => e.uid == uid with
  | none => pure ()
  | some e =>
    if e.held || e.next < e.trav.total then pure ()
    else do
      flushCopy c uid
      modCore c fun x => { x with copies := x.copies.filter fun e => e.uid != uid }
      landTransfer e.agent uid e.lane e.bar (e.trav.total * e.trav.esz)

/-- Move up to a number of elements of a copy, until it ends or an element faults (04 R89, R90). -/
def moveElements (c uid : Nat) : Nat → M Unit
  | 0 => endCopy c uid
  | n + 1 => do
    let s ← get
    match (s.core c).copies.find? fun e => e.uid == uid with
    | none => pure ()
    | some e =>
      if e.held then pure ()
      else if e.trav.total ≤ e.next then endCopy c uid
      else do
        let r ← attempt (moveElement e)
        match r with
        | .ok _ => do
          modCopy c uid fun e => { e with next := e.next + 1 }
          moveElements c uid n
        | .error t => do
          flushCopy c uid
          modCopy c uid fun e => { e with held := true }
          modify fun s => s.holdFault e.agent uid e.lane t

/-- Elements of a copy in one cycle (04 R90): at most 16, and at most 64 bytes. -/
def perCycle (t : Traverse) : Nat := Nat.min 16 (64 / t.esz)

/-- The outcome of an event: where an effect would wait, nothing happens yet; a mismatch is the pair's. -/
def runEvent (k : Nat) (m : M Unit) (s : State) : Host.Outcome State Fault Refusal :=
  match m s with
  | .ok (_, s') => .next s'
  | .error (.fault f) => .fault f
  | .error .mismatch => .next (s.noteMismatch k 1)
  | .error (.remote who p chip va n) => .next (s.askRemote who p chip va n).1
  | .error (.wait (.flash line)) => .next (s.startFlash line)
  | .error (.unitMiss k u copy m va) => .next (s.noteUnitMiss k u copy m va)
  | .error _ => .next s

/-- COPY_PROGRESS (04 R90, R91): one of the eight copies at work moves one cycle's worth of elements; with the last, it lands. -/
def execCopyProgress (core uid : Nat) (s : State) : Host.Outcome State Fault Refusal :=
  match (((s.core core).copies.take 8).find? fun e => e.uid == uid) with
  | none => .next s
  | some e => if (s.partyOf e.agent).halted then .next s else runEvent e.agent (moveElements core uid (perCycle e.trav)) s

/-! ### Gathers and scatters (08 R194) -/

/-- What one element of a gather reads, or that a scatter's element may be written; the bytes to move. -/
def checkElement (g : Gather) (e : Nat × DWord × Word × Bool) : M (List Byte) := do
  checkAlign e.2.1 g.esz
  if g.scatter then do
    let s ← get
    let bs ← spadRead g.agent e.2.2.1 g.esz
    if !s.dry g.agent g.uid then do
      let _ ← translateUnit g.agent g.uid g.mode false e.2.1 .store
      pure ()
    pure bs
  else engineRead g.agent g.uid g.mode false e.2.1 g.esz 0xA9

/-- The elements with what each brings, or the trap that holds it. -/
def checkElements (g : Gather) : List (Nat × DWord × Word × Bool) →
    M (List ((Nat × DWord × Word × Bool) × Except Trap (List Byte)))
  | [] => pure []
  | e :: es => do
    let r ← attempt (checkElement g e)
    let rest ← checkElements g es
    pure ((e, r) :: rest)

/-- Move a checked element; lanes go in ascending order, so the highest one's value remains (08 R187). -/
def placeElement (g : Gather) (e : (Nat × DWord × Word × Bool) × Except Trap (List Byte)) : M Unit :=
  match e.2 with
  | .ok bs => if g.scatter then engineWrite g.agent g.uid g.mode false e.1.2.1 bs else spadWrite g.agent e.1.2.2.1 bs false
  | .error _ => pure ()

/-- A gather or scatter goes on (08 R194): elements that fault are held for their lanes; when none is, all move and the
transfer lands. -/
def moveGather (g : Gather) : M Unit := do
  if g.elems.any fun e => e.2.2.2 then pure ()
  else do
    let s ← get
    let rs ← checkElements g g.elems
    let bad := rs.filterMap fun r => match r.2 with | .error t => some (r.1, t) | .ok _ => none
    if bad.isEmpty then do
      forEach rs (placeElement g)
      modCore (coreOf g.agent) fun x => { x with gathers := x.gathers.filter fun e => e.uid != g.uid }
      landTransfer g.agent g.uid ((g.elems.map (·.1)).headD 0) g.bar g.bytes
    else do
      set s
      let mark := fun (e : Nat × DWord × Word × Bool) =>
        (e.1, e.2.1, e.2.2.1, bad.any fun x => x.1.1 == e.1)
      modCore (coreOf g.agent) fun x => { x with gathers := x.gathers.map fun e =>
        if e.uid == g.uid then { e with elems := e.elems.map mark } else e }
      forEach bad fun x => modify fun s => s.holdFault g.agent g.uid x.1.1 x.2

end Sys2Proof.Machine
end

