-- ==== Sys2Proof/Machine/Camp.lean ====
section
/-! DEFINITION. The camp matrix engine (spec/10): slot and tile references, claims, operand values, the order of operations at
the camp, the reservation table and its arbiter, and the ten instructions but ATTN. -/

namespace Sys2Proof.Machine

/-! ### References and misuse (10 R229, R234, R235) -/

/-- The party and slot that a slot reference names, and its NB (10 R229). -/
def slotRef (v : Word) : M (Nat × Nat × Bool) := do
  let s ← get
  let p := (s.agent s.who).party
  let nb := v.getLsbD 9
  let rank := (v.extractLsb' 7 2).toNat
  let mates := match (s.party p).team with
    | some t => ((Sparse.find? s.teams t).map Team.members).getD [p]
    | none => [p]
  require (v.extractLsb' 10 22 == 0 && (nb || rank == 0) && decide (rank < mates.length)) .illegalOperand s.issue.word
  pure (if nb then mates.getD rank p else p, (v.extractLsb' 0 7).toNat, nb)

/-- The tile that a tile reference names (10 R234). -/
def tileRef (v : Word) : M Nat := do
  let s ← get
  require (v.extractLsb' 5 27 == 0) .illegalOperand s.issue.word
  pure v.toNat

/-- The operations of the camp of a party's core, in arrival order. -/
def State.campOps (s : State) (p : Nat) : List CampOp := (s.camp (campOf (s.party p).core)).ops

/-- A slot that a party holds; one with a release under way is held no more (10 R235). -/
def State.heldSlot (s : State) (p n : Nat) : Option SlotClaim :=
  if (s.campOps p).any (fun o => o.party == p && o.kind == .orel n) then none else Sparse.find? (s.party p).slots n

/-- A tile that a party holds. -/
def State.heldTile (s : State) (p n : Nat) : Option TileClaim :=
  if (s.campOps p).any (fun o => o.party == p && o.kind == .arel n) then none else Sparse.find? (s.party p).tiles n

/-- The claim of a slot reference that must have NB = 0 (10 R235: NOT_CLAIMED before FOREIGN). -/
def ownSlot (v : Word) : M (Nat × SlotClaim) := do
  let (p, n, nb) ← slotRef v
  let s ← get
  match s.heldSlot p n with
  | none => slotFault false 1 v.toNat
  | some c => if nb then slotFault false 2 v.toNat else pure (n, c)

/-- The claim of a tile reference. -/
def ownTile (v : Word) : M (Nat × TileClaim) := do
  let n ← tileRef v
  let s ← get
  match s.heldTile (s.agent s.who).party n with
  | none => slotFault true 1 n
  | some c => pure (n, c)

/-! ### Quotas of slots and tiles (13 R305 to R307) -/

/-- Slots, or tiles, that a partition has claimed at a camp (13 R306). -/
def State.campUsed (s : State) (c : Nat) (tile : Bool) (q : Nat) : Nat :=
  (((s.campParties c).filter fun e => e.2.task.part == q).map fun e =>
    if tile then e.2.tiles.length else e.2.slots.length).sum

/-- One more slot, or tile, is allowed at a camp (13 R305, R307). -/
def State.campAllows (s : State) (c p : Nat) (tile : Bool) : Bool :=
  let fld := fun (q lo n : Nat) => ((s.qcamp c q).extractLsb' lo n).toNat
  if tile then quotaAllows 32 1 p (s.campUsed c true) (fun q => fld q 8 6) (fun q => fld q 22 6)
  else quotaAllows 128 1 p (s.campUsed c false) (fun q => fld q 0 8) (fun q => fld q 14 8)

/-! ### Records and operand values (10 R230 to R233) -/

/-- Class of a pass by element type (10 R228): 0 FP4, 1 FP8, 2 INT8, 3 BF16/FP16, 4 FP32. -/
def passClass : Ty → Nat
  | .e2m1 | .df4 => 0
  | .e4m3 | .e5m2 => 1
  | .i8 | .n8 => 2
  | .f16 | .bf16 => 3
  | _ => 4

/-- Reduction extent of a pass (10 R228). -/
def kFull : Nat → Nat
  | 0 => 256 | 1 => 128 | 2 => 128 | 3 => 64 | _ => 16

/-- Chunk length of a pass (10 R228). -/
def chunkLen : Nat → Nat
  | 0 => 32 | 1 => 32 | 2 => 32 | 3 => 16 | _ => 4

/-- Fields of a format word (10 R230). -/
def fmtRole (w : Word) : Nat := (w.extractLsb' 0 2).toNat
/-- LAYOUT. -/
def fmtLayout (w : Word) : Bool := w.getLsbD 2
/-- BAND. -/
def fmtBand (w : Word) : Bool := w.getLsbD 3
/-- BLEN. -/
def fmtBlen (w : Word) : Nat := (w.extractLsb' 4 2).toNat
/-- SSLOT. -/
def fmtSslot (w : Word) : Nat := (w.extractLsb' 6 7).toNat
/-- BSOFF of an offset word. -/
def offBlock (w : Word) : Nat := (w.extractLsb' 0 14).toNat
/-- BNOFF of an offset word. -/
def offBand (w : Word) : Nat := (w.extractLsb' 16 14).toNat
/-- Block length of a BLEN code. -/
def blockLen (code : Nat) : Nat := 4 * 2 ^ code

/-- The record uses its scale slot. -/
def fmtScaled (w : Word) : Bool := fmtBlen w != 0 || fmtBand w

/-- The element types with block scales. -/
def scaledTy (t : Ty) : Bool := t == .e4m3 || t == .e5m2 || t == .e2m1 || t == .df4

/-- The checks of a reservation record (10 R230). -/
def recordFault (t : Ty) (w off : Word) : Option Cause :=
  let blen := fmtBlen w
  let role := fmtRole w
  if role == 3 || w.extractLsb' 13 19 != 0 || off.extractLsb' 30 2 != 0 || off.extractLsb' 14 2 != 0 ||
      (!fmtScaled w && fmtSslot w != 0) || (blen == 0 && offBlock off != 0) || (!fmtBand w && offBand off != 0) then
    some .reservedField
  else if (fmtScaled w && !scaledTy t) || (t == .df4 && (blen != 1 || !fmtBand w)) ||
      (fmtLayout w && (t == .e2m1 || t == .df4 || role == 2)) || (role == 2 && !scaledTy t) ||
      (blen != 0 && decide (16384 < offBlock off + 128 * kFull (passClass t) / blockLen blen)) ||
      (fmtBand w && (offBand off % 2 != 0 || decide (16384 < offBand off + 4))) then
    some .illegalOperand
  else none

/-- An operand as a pass reads it: its claim, and the bytes of its scale and metadata slots. -/
structure Operand where
  claim : SlotClaim
  scales : Memory
  descs : Memory
  deriving DecidableEq, Repr

/-- The operand in a slot of a party. -/
def State.operand (s : State) (p n : Nat) : Operand :=
  let slot := fun (m : Nat) => ((Sparse.find? (s.party p).slots m).map SlotClaim.bytes).getD []
  let c := (Sparse.find? (s.party p).slots n).getD ⟨.f32, 0, 0, 0, []⟩
  ⟨c, slot (fmtSslot c.fmt), slot c.metaSlot⟩

/-- The encoding of stored element `e` of row `r` (10 R231). -/
def rawElem (c : SlotClaim) (kf r e : Nat) : DWord :=
  let row := if fmtRole c.fmt == 2 then kf / 2 else kf
  if passClass c.ty == 0 then
    let x := (c.bytes.read (r * (row / 2) + e / 2)).toNat
    BitVec.ofNat 64 (if e % 2 == 0 then x % 16 else x / 16)
  else
    let w := c.ty.bits / 8
    dwordOf (c.bytes.readN (if fmtLayout c.fmt then (e * 128 + r) * w else (r * row + e) * w) w)

/-- The stored element that stands at index `k` of row `r` (10 R232); none at a position that stores none. -/
def storedAt (o : Operand) (kf r k : Nat) : Option Nat :=
  if fmtRole o.claim.fmt != 2 then some k
  else
    let g := k / 4
    let x := (o.descs.read (r * (kf / 8) + g / 2)).toNat
    let d := if g % 2 == 0 then x % 16 else x / 16
    if k % 4 == d % 4 then some (2 * g)
    else if k % 4 == d / 4 && decide (d % 4 < d / 4) then some (2 * g + 1)
    else none

/-- `elem` of an operand of a floating class (10 R233). -/
def operandElem (o : Operand) (kf r k : Nat) : FVal :=
  let c := o.claim
  let x := match storedAt o kf r k with
    | some e => c.ty.fval (rawElem c kf r e)
    | none => .zero false
  let bl := blockLen (fmtBlen c.fmt)
  let sc := (o.scales.read (offBlock c.off + r * (kf / bl) + k / bl)).toNat
  if fmtBlen c.fmt != 0 && sc == 0 then .zero false
  else
    let x := if fmtBlen c.fmt != 0 then x.mul (e3m5Val sc) else x
    if fmtBand c.fmt then x.mul (bf16Val (leNat (o.scales.readN (offBand c.off + 2 * (r / 64)) 2))) else x

/-- `elem` of an INT8 operand. -/
def operandInt (o : Operand) (kf r k : Nat) : Int := o.claim.ty.intVal (rawElem o.claim kf r k)

/-- One word of a pass's tile (10 R246): row `i` of A, row `j` of B, over `k` indices. -/
def passWord (a b : Operand) (k : Nat) (acc : Word) (i j : Nat) : Word :=
  let cls := passClass a.claim.ty
  let kf := kFull cls
  let ks := List.range k
  if cls == 2 then intSum acc (ks.map fun x => (operandInt a kf i x, operandInt b kf j x))
  else chunkSum (chunkLen cls) 256 acc (ks.map fun x => (operandElem a kf i x, operandElem b kf j x))

/-- The words of a tile, listed where they are not zero. -/
def tileWords (f : Nat → Word) : Sparse Word :=
  (List.range 16384).filterMap fun i => if f i == 0 then none else some (i, f i)

/-- What a pass writes to its tile. -/
def State.passResult (s : State) (o : CampOp) : Sparse Word :=
  match o.kind with
  | .mma ap a bp b tile zero klen =>
    let x := s.operand ap a
    let y := s.operand bp b
    let k := if klen == 0 then kFull (passClass x.claim.ty) else klen
    let t := ((Sparse.find? (s.party o.party).tiles tile).map TileClaim.words).getD []
    tileWords fun i => passWord x y k (if zero then 0 else Sparse.getD t i 0) (i / 128) (i % 128)
  | _ => []

/-! ### The order of operations (10 R236) -/

/-- The slots that a pass reads for an operand: its own, and those of its scales and metadata. -/
def State.operandSlots (s : State) (p n : Nat) : List (Nat × Nat) :=
  match Sparse.find? (s.party p).slots n with
  | none => [(p, n)]
  | some c =>
    (p, n) :: ((if fmtScaled c.fmt then [(p, fmtSslot c.fmt)] else []) ++ (if fmtRole c.fmt == 2 then [(p, c.metaSlot)] else []))

/-- QSLOT of an attention record (11 R273). -/
def attnQslot (bs : List Byte) : Nat := recField bs 20 4 % 128

/-- Slots that an operation reads. -/
def State.slotReads (s : State) (o : CampOp) : List (Nat × Nat) :=
  match o.kind with
  | .mma ap a bp b _ _ _ => s.operandSlots ap a ++ s.operandSlots bp b
  | .attn _ bs _ _ _ _ => [(o.party, attnQslot bs)]
  | _ => []

/-- Slots that an operation writes or drops. -/
def CampOp.slotWrites (o : CampOp) : List (Nat × Nat) :=
  match o.kind with
  | .old n _ _ _ _ | .orel n => [(o.party, n)]
  | _ => []

/-- The tile that an operation touches, and whether it writes it. -/
def CampOp.tileUse (o : CampOp) : Option (Nat × Bool) :=
  match o.kind with
  | .mma _ _ _ _ t _ _ | .attn _ _ t _ _ _ | .attnf t | .arel t => some (t, true)
  | .acwrReg t _ _ | .acwrSpad t _ _ _ => some (t, true)
  | .acrdReg t _ _ _ _ | .acrdSpad t _ _ _ _ _ => some (t, false)
  | _ => none

/-- An operation is a release. -/
def CampOp.isRelease (o : CampOp) : Bool :=
  match o.kind with
  | .orel _ | .arel _ => true
  | _ => false

/-- A pass has read its slots: its occupancy has ended, and a key block has its query (10 R236). -/
def CampOp.hasRead (o : CampOp) : Bool :=
  match o.kind, o.phase with
  | .mma .., .writing _ _ => true
  | .attn _ _ _ _ _ query, _ => query.isSome
  | _, _ => false

/-- An earlier operation must end before a later one may start (10 R236, R243). -/
def State.conflicts (s : State) (x y : CampOp) : Bool :=
  let reads := if x.hasRead && !y.isRelease then [] else s.slotReads x
  let slots := reads.any y.slotWrites.contains ||
    x.slotWrites.any (fun z => (s.slotReads y).contains z || y.slotWrites.contains z)
  let tiles := match x.tileUse, y.tileUse with
    | some (t, w), some (u, v) => x.party == y.party && t == u && (w || v || y.isRelease)
    | _, _ => false
  slots || tiles

/-- An operation of a camp waits for an earlier one, or for its halted party (14 R335). -/
def State.blocked (s : State) (c : Nat) (o : CampOp) : Bool :=
  (s.party o.party).halted || ((s.camp c).ops.takeWhile fun x => x.uid != o.uid).any fun x => s.conflicts x o

/-- Change an operation of a camp. -/
def modOp (c uid : Nat) (f : CampOp → CampOp) : M Unit :=
  modCamp c fun x => { x with ops := x.ops.map fun o => if o.uid == uid then f o else o }

/-- An operation of a camp. -/
def State.campOp (s : State) (c uid : Nat) : Option CampOp := (s.camp c).ops.find? fun o => o.uid == uid

/-- An operation leaves its camp. -/
def dropOp (c uid : Nat) : M Unit := modCamp c fun x => { x with ops := x.ops.filter fun o => o.uid != uid }

/-- An operation arrives at the camp of the issue's core, in a phase. -/
def arriveOp (uid lane : Nat) (kind : CampKind) (phase : CampPhase) : M Unit := do
  let s ← get
  let k := s.who
  let p := (s.agent k).party
  modCamp (campOf (coreOf k)) fun x =>
    { x with ops := x.ops ++ [⟨uid, k, p, lane, s.mode, (s.party p).prio, kind, phase⟩] }

/-- The moment of an arrival. -/
def arrivedNow : M CampPhase := do
  let s ← get
  pure (.arrived (s.clock (coreOf s.who)) s.uid)

/-- A counted operation of the camp: the issue waits while MAT is full (03 R62). -/
def arriveCounted (lane : Nat) (kind : CampKind) (phase : CampPhase) : M Nat := do
  let s ← get
  let u ← countOp s.who lane .mat
  arriveOp u lane kind phase
  pure u

/-- An instruction that acts once and puts every lane of the issue to sleep: the issuing lane's writes and the wait. -/
def onceHeld (b : Base) (act : Nat → M (List (Dest × Word) × Option Wait)) : M GroupOut := do
  let s ← get
  match s.acting b with
  | [] => pure {}
  | l :: _ => do
    let r ← attempt (act l)
    match r with
    | .error t => pure { traps := [(l, t)] }
    | .ok (ws, w) => pure { outs := s.issued.map fun j => (j, { writes := if j == l then ws else [], hold := w }) }

/-! ### Claims and releases (10 R242 to R244) -/

/-- The number that a claim of any number takes, and the reference that its faults name. -/
def claimAny (tile : Bool) (n : Nat) (held : Nat → Bool) : M Nat :=
  match (List.range n).find? fun i => !held i with
  | some i => pure i
  | none => slotFault tile 5 0x3FF

/-- The metadata slot of an OCLM (10 R242). -/
def metaOf (b : Base) (role : Nat) (c : Word) : M Nat := do
  let s ← get
  if role == 2 then do
    let (_, n, nb) ← slotRef c
    if nb then slotFault false 2 c.toNat
    pure n
  else do
    require (b.c.kind == .lit && c == 0) .illegalOperand s.issue.word
    pure 0

/-- OCLM (10 R242). -/
def execOclm (b : Base) (s : State) : Host.Outcome State Fault Refusal :=
  let f := formOf (.oclm b)
  runGroup f b false (onceHeld b fun l => do
    let x ← readSrcs f b l
    let s ← get
    let p := (s.agent s.who).party
    let a := loWord x.a
    let fmt := loWord x.b
    let any := a == 0xFFFFFFFF
    let n ← if any then claimAny false 128 fun i => (s.heldSlot p i).isSome
      else do
        let (_, n, nb) ← slotRef a
        if nb then slotFault false 2 a.toNat
        if (s.heldSlot p n).isSome then slotFault false 3 a.toNat
        pure n
    match recordFault b.ty fmt b.e2 with
    | some c => raise c s.issue.word
    | none => pure ()
    let m ← metaOf b (fmtRole fmt) (loWord x.c)
    if (Sparse.find? (s.party p).slots n).isSome then waitFor (.release false n)
    if !s.campAllows (campOf (coreOf s.who)) (s.partOf s.who) false then
      slotFault false 5 (if any then 0x3FF else a.toNat)
    modParty p fun y => { y with slots := Sparse.put y.slots n ⟨b.ty, fmt, b.e2, m, []⟩ }
    pure (dstWrites b l .n32 (BitVec.ofNat 64 n), some .held)) s

/-- ACLM (10 R244). -/
def execAclm (b : Base) (s : State) : Host.Outcome State Fault Refusal :=
  let f := formOf (.aclm b)
  runGroup f b false (onceHeld b fun l => do
    let x ← readSrcs f b l
    let s ← get
    let p := (s.agent s.who).party
    let a := loWord x.a
    let any := a == 0xFFFFFFFF
    let n ← if any then claimAny true 32 fun i => (s.heldTile p i).isSome
      else do
        let n ← tileRef a
        if (s.heldTile p n).isSome then slotFault true 3 n
        pure n
    if (Sparse.find? (s.party p).tiles n).isSome then waitFor (.release true n)
    if !s.campAllows (campOf (coreOf s.who)) (s.partOf s.who) true then slotFault true 5 (if any then 0x3FF else n)
    modParty p fun y => { y with tiles := Sparse.put y.tiles n ⟨b.ty, []⟩ }
    pure (dstWrites b l .n32 (BitVec.ofNat 64 n), some .held)) s

/-- OREL (10 R243): the lanes sleep until the claim is dropped. -/
def execOrel (b : Base) (s : State) : Host.Outcome State Fault Refusal :=
  let f := formOf (.orel b)
  runGroup f b false (onceHeld b fun l => do
    let x ← readSrcs f b l
    let (n, _) ← ownSlot (loWord x.a)
    let u ← newUid
    let ph ← arrivedNow
    arriveOp u l (.orel n) ph
    pure ([], some (.camp u))) s

/-- AREL (10 R243). -/
def execArel (b : Base) (s : State) : Host.Outcome State Fault Refusal :=
  let f := formOf (.arel b)
  runGroup f b false (onceHeld b fun l => do
    let x ← readSrcs f b l
    let (n, _) ← ownTile (loWord x.a)
    let u ← newUid
    let ph ← arrivedNow
    arriveOp u l (.arel n) ph
    pure ([], some (.camp u))) s

/-- RELEASE_COMPLETE (10 R243): once every earlier operation on it is complete, the claim is dropped and its lanes go on. -/
def execReleaseComplete (camp op : Nat) (s : State) : Host.Outcome State Fault Refusal :=
  match s.campOp camp op with
  | none => .next s
  | some o =>
    if !o.isRelease || s.blocked camp o then .next s
    else
      runEvent o.agent (do
        dropOp camp op
        modParty o.party fun y => match o.kind with
          | .orel n => { y with slots := Sparse.drop y.slots n }
          | .arel n => { y with tiles := Sparse.drop y.tiles n }
          | _ => y
        modify fun s => s.wakeLanes o.agent fun w => w == .camp op) s

/-! ### OLD (10 R245) -/

/-- OLD (10 R245). Where several causes hold it takes that of the claim, then of LEN, then MISALIGNED of B, then of C,
then of the range: the spec gives no order, and this one is the model's choice (assumption log 107). -/
def execOld (b : Base) (s : State) : Host.Outcome State Fault Refusal :=
  let f := formOf (.old b)
  runOnce f b (fun l => do
    let x ← readSrcs f b l
    let (n, _) ← ownSlot (loWord x.a)
    let src := loWord x.b
    let off := (loWord x.c).toNat
    let len := 16 * (b.e2.extractLsb' 16 11).toNat
    let s ← get
    require (len != 0 && decide (len ≤ 16384) && decide (off + len ≤ 16384)) .illegalOperand s.issue.word
    checkAlign (src.setWidth 64) 16
    checkAlign (BitVec.ofNat 64 off) 16
    let _ ← spadRead s.who src len
    roomFor .mat
    let ph ← arrivedNow
    let _ ← arriveCounted l (.old n src off len (b.e2.extractLsb' 0 5).toNat) ph
    pure {}) s

/-! ### MMA (10 R246) -/

/-- A slot that an operand's record names is held by the operand's party. -/
def needSlot (p n : Nat) : M Unit := do
  let s ← get
  if (s.heldSlot p n).isNone then slotFault false 1 n

/-- The operand that a reference names, after its checks (10 R235): not claimed, then its format. -/
def mmaOperand (v : Word) (isB : Bool) : M (Nat × Nat × SlotClaim) := do
  let (p, n, _) ← slotRef v
  let s ← get
  match s.heldSlot p n with
  | none => slotFault false 1 v.toNat
  | some c => do
    if fmtScaled c.fmt then needSlot p (fmtSslot c.fmt)
    if fmtRole c.fmt == 2 then needSlot p c.metaSlot
    if (fmtRole c.fmt == 0) == isB then slotFault false 4 v.toNat
    pure (p, n, c)

/-- Entries of a reservation table (10 R238). -/
def tableSize : Nat := 64

/-- Entries in use. -/
def Camp.tabled (x : Camp) : Nat :=
  (x.ops.filter fun o => match o.phase with | .tabled _ _ _ => true | _ => false).length

/-- An operation is a key block, or an MMA of a resumed party (10 R248), that waits for a place: since when, and its number among those of
one moment. One of a halted party waits for none (14 R335). -/
def State.waitsPlace (s : State) (o : CampOp) : Option (DWord × Nat) :=
  if (s.party o.party).halted then none
  else match o.kind, o.phase with
    | .attn _ bs _ _ _ _, .arrived t n => if recField bs 0 4 < recField bs 4 4 then some (t, n) else none
    | .mma .., .arrived t n => some (t, n)
    | _, _ => none

/-- An MMA began before a moment to wait at its core for a place in a camp's table (10 R238). -/
def State.laneAhead (s : State) (c : Nat) (t : DWord) : Bool :=
  s.agents.any fun e => campOf (coreOf e.1) == c && e.2.lanes.any fun x => x.wait == some .table && decide (x.since < t)

/-- Something began before a moment to wait for a place in a camp's table: an MMA at its core, or a key block. -/
def State.placeAhead (s : State) (c : Nat) (t : DWord) : Bool :=
  ((s.camp c).ops.any fun o => (s.waitsPlace o).any fun e => decide (e.1 < t)) || s.laneAhead c t

/-- An MMA waits for a place while the table is full, or while others began to wait before it. -/
def tablePlace (l : Nat) : M Unit := do
  let s ← get
  let c := campOf (coreOf s.who)
  let x := s.lane s.who l
  let t := if x.wait == some .table then x.since else s.clock (coreOf s.who)
  if tableSize ≤ (s.camp c).tabled || s.placeAhead c t then waitFor .table

/-- MMA (10 R246). A bad KLEN is checked after every SLOT_STATE case: the spec gives no order between them, and this one is the
model's choice (assumption log 107). -/
def execMma (b : Base) (s : State) : Host.Outcome State Fault Refusal :=
  let f := formOf (.mma b)
  runOnce f b (fun l => do
    let x ← readSrcs f b l
    let (ap, an, ac) ← mmaOperand (loWord x.a) false
    let (bp, bn, bc) ← mmaOperand (loWord x.b) true
    let cls := passClass ac.ty
    if cls != passClass bc.ty then slotFault false 4 (loWord x.b).toNat
    let (t, tc) ← ownTile (loWord x.c)
    if tc.ty != (if cls == 2 then .i32 else .f32) then slotFault true 4 t
    let klen := (b.e2.extractLsb' 0 9).toNat
    let s ← get
    require (klen % chunkLen cls == 0 && decide (klen ≤ kFull cls)) .illegalOperand s.issue.word
    tablePlace l
    roomFor .mat
    let s ← get
    let _ ← arriveCounted l (.mma ap an bp bn t (b.fn == 1) klen) (.tabled 0 0 s.uid)
    pure {}) s

/-! ### ACRD and ACWR (10 R247) -/

/-- The type of a tile fits an ACRD or ACWR. -/
def tileFits (t : TileClaim) (ty : Ty) : Bool := if t.ty == .i32 then ty == .i32 else ty != .i32

/-- FIRST and NROWS of the scratchpad form. -/
def tileRows (b : Base) : Nat × Nat := ((b.e2.extractLsb' 0 7).toNat, (b.e2.extractLsb' 7 7).toNat + 1)

/-- Bytes of one element of a row in scratchpad. -/
def rowSize (ty : Ty) : Nat := if ty == .f16 || ty == .bf16 then 2 else 4

/-- The tile that an ACRD or ACWR names, with the checks of its type and of its index or rows. The type comes before the index or rows, and
both before the alignment and the range of a scratchpad address: the model's choice of an order that the spec does not give (assumption
log 107). -/
def tileOperand (b : Base) (x : Operands) : M Nat := do
  let (t, tc) ← ownTile (loWord x.a)
  if !tileFits tc b.ty then slotFault true 4 t
  let s ← get
  let (first, rows) := tileRows b
  let fits := if b.e2.getLsbD 14 then decide (first + rows ≤ 128) else decide ((loWord x.b).toNat ≤ 511)
  require fits .illegalOperand s.issue.word
  pure t

/-- Scratchpad address of the scratchpad forms, checked for its rows. -/
def tileSpad (b : Base) (x : Operands) (dest : Bool) : M Word := do
  let addr := loWord x.b + BitVec.ofInt 32 b.offset
  checkAlign (addr.setWidth 64) 16
  let s ← get
  let _ ← liftCheck (s.spadPlace (s.agent s.who).party addr ((tileRows b).2 * 128 * rowSize b.ty) dest)
  pure addr

/-- ACRD (10 R247). -/
def execAcrd (b : Base) (s : State) : Host.Outcome State Fault Refusal :=
  let f := formOf (.acrd b)
  runOnce f b (fun l => do
    let x ← readSrcs f b l
    let t ← tileOperand b x
    let s ← get
    let act := s.acting b
    let ph ← arrivedNow
    if b.e2.getLsbD 14 then do
      let addr ← tileSpad b x true
      roomFor .mat
      let _ ← arriveCounted l (.acrdSpad t addr (tileRows b).1 (tileRows b).2 b.ty b.fn) ph
      pure {}
    else do
      roomFor .mat
      let reg := b.dst.toNat
      let u ← arriveCounted l (.acrdReg t reg (maskOf act) (loWord x.b).toNat 0) ph
      let ws := act.map fun j => (Dest.vreg reg j, (0 : Word))
      modAgent s.who fun a => { a with flights := a.flights ++ [⟨u, none, ws, false⟩] }
      pure {}) s

/-- ACWR (10 R247): the data of a register form is read at issue. -/
def execAcwr (b : Base) (s : State) : Host.Outcome State Fault Refusal :=
  let f := formOf (.acwr b)
  runOnce f b (fun l => do
    let x ← readSrcs f b l
    let t ← tileOperand b x
    let s ← get
    let act := s.acting b
    let ph ← arrivedNow
    if b.e2.getLsbD 14 then do
      let addr ← tileSpad b x false
      roomFor .mat
      let _ ← arriveCounted l (.acwrSpad t addr (tileRows b).1 (tileRows b).2) ph
      pure {}
    else do
      roomFor .mat
      let data := act.map fun j => (j, s.readV s.who b.c.field.toNat j)
      let _ ← arriveCounted l (.acwrReg t (loWord x.b).toNat data) ph
      pure {}) s

/-- ATTNF (11 R277). -/
def execAttnf (b : Base) (s : State) : Host.Outcome State Fault Refusal :=
  let f := formOf (.attnf b)
  runOnce f b (fun l => do
    let x ← readSrcs f b l
    let (t, tc) ← ownTile (loWord x.c)
    if tc.ty != .f32 then slotFault true 4 t
    roomFor .mat
    let ph ← arrivedNow
    let _ ← arriveCounted l (.attnf t) ph
    pure {}) s

/-! ### Performing an operation -/

/-- Word of a tile of a party. -/
def State.tileWord (s : State) (p t i : Nat) : Word :=
  Sparse.getD (((Sparse.find? (s.party p).tiles t).map TileClaim.words).getD []) i 0

/-- Write words of a tile. -/
def tileWrite (p t : Nat) (ws : List (Nat × Word)) : M Unit :=
  modParty p fun y => { y with tiles := Sparse.adjust y.tiles t fun c =>
    { c with words := ws.foldl (fun m w => if w.2 == 0 then Sparse.drop m w.1 else Sparse.put m w.1 w.2) c.words } }

/-- The bytes of a tile word in scratchpad (10 R247). -/
def rowBytes (ty : Ty) (fn : BitVec 3) (w : Word) : List Byte :=
  if rowSize ty == 2 then bytesOf 2 (convert ty .f32 (w.setWidth 64) (RMode.ofFn fn 0) false) else bytesOf 4 (w.setWidth 64)

/-- An ACRD register form is performed: from now the new values may be read (10 R247). -/
def fillFlight (k uid p t index : Nat) : M Unit := modify fun s =>
  let value := fun (d : Dest) => match d with
    | .vreg _ l => s.tileWord p t (32 * index + l)
    | _ => 0
  let a := s.agent k
  s.setAgent k { a with flights := a.flights.map fun f =>
    if f.uid == uid then { f with known := true, writes := f.writes.map fun w => (w.1, value w.1) } else f }

/-- The effect of an OLD, ACRD, ACWR or ATTNF at the camp. -/
def campEffect (o : CampOp) : M Unit := do
  let s ← get
  match o.kind with
  | .old n src off len _ => do
    let bs ← spadRead o.agent src len
    slotWrite o.party n off bs
  | .acrdReg t _ _ index _ => fillFlight o.agent o.uid o.party t index
  | .acwrReg t index data => tileWrite o.party t (data.map fun d => (32 * index + d.1, d.2))
  | .acrdSpad t dst first rows ty fn =>
    spadWrite o.agent dst ((List.range (128 * rows)).flatMap fun i => rowBytes ty fn (s.tileWord o.party t (128 * first + i))) false
  | .acwrSpad t src first rows => do
    let bs ← spadRead o.agent src (512 * rows)
    tileWrite o.party t ((List.range (128 * rows)).map fun i =>
      (128 * first + i, loWord (dwordOf ((bs.drop (4 * i)).take 4))))
  | .attnf t =>
    tileWrite o.party t ((List.range 8192).map fun i =>
      (i, rneF32 ((f32Val (s.tileWord o.party t i)).div (f32Val (s.tileWord o.party t (128 * 65 + i / 128))))))
  | _ => pure ()

/-- The operation moves data by itself, outside the reservation table. -/
def CampOp.moves (o : CampOp) : Bool :=
  match o.kind with
  | .old .. | .acrdReg .. | .acwrReg .. | .acrdSpad .. | .acwrSpad .. | .attnf _ => true
  | _ => false

/-- Barrier of an operation, with its bytes. -/
def CampOp.barrier (o : CampOp) : Nat × Nat :=
  match o.kind with
  | .old _ _ _ len bar => (bar, len)
  | _ => (31, 0)

/-- An operation that nothing blocks is performed, and leaves the camp (10 R236). -/
def performCamp (c : Nat) (o : CampOp) : M Unit := do
  let s ← get
  if !o.moves || s.blocked c o then pure ()
  else do
    campEffect o
    dropOp c o.uid
    match o.kind with
    | .acrdReg .. => pure ()
    | _ => landTransfer o.agent o.uid o.lane o.barrier.1 o.barrier.2

/-- The data of an ACRD register form has arrived: its counter may fall (10 R247). -/
def landRead (k uid : Nat) : M Unit := do
  noteComplete k uid
  modify fun s => (s.setAgent k ((s.agent k).land uid)).finishOp k uid

/-! ### The reservation table and the arbiter (10 R238 to R240, R228) -/

/-- The arrays of a core's pair: its own and its clockwise neighbour's, by place in the camp (01 R9). -/
def pairArrays (core : Nat) : List Nat := [core % 4, (core % 4 + 1) % 4]

/-- Effective priority (10 R238). -/
def CampOp.ep (o : CampOp) : Nat :=
  match o.phase with
  | .tabled _ age _ => Nat.min 7 (o.prio + age)
  | _ => 0

/-- Arrival number of an entry of the table. -/
def CampOp.seq (o : CampOp) : Option Nat :=
  match o.phase with
  | .tabled _ _ n => some n
  | _ => none

/-- Put an entry in its place by arrival number. -/
def insertSeq (o : CampOp) : List CampOp → List CampOp
  | [] => [o]
  | x :: xs => if decide (o.seq.getD 0 < x.seq.getD 0) then o :: x :: xs else x :: insertSeq o xs

/-- Entries by EP, highest first, in arrival order within one EP. -/
def byEp (ops : List CampOp) : List CampOp :=
  (List.range 8).flatMap fun i =>
    (ops.filter fun o => o.seq.isSome && o.ep == 7 - i).foldl (fun xs o => insertSeq o xs) []

/-- Cycles of occupancy of a pass (10 R228), with the 16 of the tile write for a key block. -/
def State.occupancy (s : State) (o : CampOp) : Nat :=
  match o.kind with
  | .mma _ _ bp b _ _ _ =>
    if (Sparse.find? (s.party bp).slots b).any fun c => fmtRole c.fmt == 2 then 32 else 64
  | _ => 80

/-- An operation keeps its pair's arrays busy. -/
def CampOp.occupies (o : CampOp) : Bool :=
  match o.kind, o.phase with
  | .mma .., .granted _ => true
  | .attn .., .granted n => decide (16 < n)
  | _, _ => false

/-- One walk of the arbiter (10 R239): arrays busy, arrays reserved, and the entries granted. -/
def arbitrate (s : State) (c : Nat) : List CampOp → List Nat → List Nat → List Nat
  | [], _, _ => []
  | o :: rest, busy, reserved =>
    let need := pairArrays (coreOf o.agent)
    if s.blocked c o then arbitrate s c rest busy reserved
    else if need.all fun a => !busy.contains a && !reserved.contains a then
      o.uid :: arbitrate s c rest (need ++ busy) reserved
    else arbitrate s c rest busy (need ++ reserved)

/-- AGE of a wait counter. -/
def ageOf (w : Nat) : Nat := Nat.min 255 (w / 256)

/-- A cycle passes for an operation: a grant's occupancy and a tile write run down, a key block has read its query when its occupancy ends
(10 R236), and a waiting entry ages. -/
def State.tick (s : State) (o : CampOp) : CampOp :=
  match o.kind, o.phase with
  | .mma .., .granted n => if n ≤ 1 then { o with phase := .writing 16 (s.passResult o) } else { o with phase := .granted (n - 1) }
  | .attn d bs t b u query, .granted n =>
    let slot := Sparse.find? (s.party o.party).slots (attnQslot bs)
    { o with kind := .attn d bs t b u (if n ≤ 17 then query.or slot else query), phase := .granted (n - 1) }
  | _, .granted n => { o with phase := .granted (n - 1) }
  | _, .writing n ws => { o with phase := .writing (n - 1) ws }
  | _, .tabled w _ n => { o with phase := .tabled w (ageOf w) n }
  | _, _ => o

/-- Of the operations of a camp that wait for a place, the one that began first. -/
def State.firstWaiting (s : State) (c : Nat) : Option CampOp :=
  let ops := (s.camp c).ops
  let before := fun (e f : DWord × Nat) => decide (e.1 < f.1) || (e.1 == f.1 && decide (e.2 < f.2))
  ops.find? fun o => (s.waitsPlace o).any fun e => !ops.any fun y => (s.waitsPlace y).any fun f => before f e

/-- The operations that wait for a place enter the table in the order in which they began to wait, while it has one and no MMA at a core
came before them (10 R238). -/
def State.enterTable (s : State) (c : Nat) : Nat → State
  | 0 => s
  | n + 1 =>
    let x := s.camp c
    match s.firstWaiting c with
    | none => s
    | some o =>
      if tableSize ≤ x.tabled || (s.waitsPlace o).any fun e => s.laneAhead c e.1 then s
      else
        let s := s.setCamp c { x with ops := x.ops.map fun y => if y.uid == o.uid then { y with phase := .tabled 0 0 s.uid } else y }
        { s with uid := s.uid + 1 }.enterTable c n

/-- The key block after one of an ATTN, from its first slot to KEND (11 R276); it has its own name and arrives now. -/
def CampOp.nextBlock (o : CampOp) (uid : Nat) (now : DWord) : Option CampOp :=
  match o.kind with
  | .attn d bs t n parent _ =>
    if n + 64 < recField bs 4 4 then some { o with uid := uid, kind := .attn d bs t (n + 64) parent none, phase := .arrived now uid } else none
  | _ => none

/-- Grant entries; behind a granted key block the next one of its ATTN arrives. -/
def State.grant (s : State) (c : Nat) (won : List Nat) : State :=
  won.foldl (fun s u =>
    let x := s.camp c
    let ops := x.ops.flatMap fun o =>
      if o.uid == u then { o with phase := .granted (s.occupancy o) } :: (o.nextBlock s.uid (s.clock (coreOf o.agent))).toList
      else [o]
    { s.setCamp c { x with ops := ops } with uid := s.uid + 1 }) s

/-- ARBITER_CYCLE (10 R239): a cycle of a camp's arrays, which share the clock of their die (01 R11). -/
def execArbiterCycle (camp : Nat) (s : State) : Host.Outcome State Fault Refusal :=
  let s := s.tickDie (camp / 40) (320 + camp)
  let x := s.camp camp
  let s := s.setCamp camp { x with ops := x.ops.map s.tick }
  let s := s.enterTable camp tableSize
  let ops := (s.camp camp).ops
  let busy := (ops.filter (·.occupies)).flatMap fun o => pairArrays (coreOf o.agent)
  let won := arbitrate s camp (byEp ops) busy []
  let wait := fun (o : CampOp) => match o.phase with
    | .tabled w age n => if won.contains o.uid then o else { o with phase := .tabled (w + 1) age n }
    | _ => o
  .next ((s.setCamp camp { s.camp camp with ops := ops.map wait }).grant camp won)

/-- RESERVATION_AGE (10 R238): AGE follows the wait counter. -/
def execReservationAge (camp op : Nat) (s : State) : Host.Outcome State Fault Refusal :=
  let up := fun (o : CampOp) => match o.phase with
    | .tabled w _ n => if o.uid == op then { o with phase := .tabled w (ageOf w) n } else o
    | _ => o
  let x := s.camp camp
  .next (s.setCamp camp { x with ops := x.ops.map up })

/-- PASS_RETIRE (10 R228): a pass writes its tile 16 cycles after its occupancy and is complete. -/
def execPassRetire (camp op : Nat) (s : State) : Host.Outcome State Fault Refusal :=
  match s.campOp camp op with
  | none => .next s
  | some o =>
    match o.kind, o.phase with
    | .mma _ _ _ _ t _ _, .writing 0 ws =>
      runEvent o.agent (do
        modParty o.party fun y => { y with tiles := Sparse.adjust y.tiles t fun c => { c with words := ws } }
        dropOp camp op
        noteComplete o.agent op
        modify fun s => s.finishOp o.agent op) s
    | _, _ => .next s

end Sys2Proof.Machine
end

