-- ==== Sys2Proof/Machine/Sequence.lean ====
section
/-! DEFINITION. Sequences (spec/11): descriptors, pools, block tables, location of slots, and the operations at the home slice,
for lanes, harts and the agents of the module alike. -/

namespace Sys2Proof.Machine

/-! ### Access at the home slice, through a lane or another agent -/

/-- Earlier far operations of a lane's agent on the same bytes come first (03 R57). -/
def Via.drain (v : Via) (pa n : Nat) : M Unit :=
  match v with
  | .lane k _ => drainOverlap k pa n
  | .unit .. | .direct .. | .hart .. => pure ()

/-- Read bytes far, a line at a time. -/
def viaRead (v : Via) (va : DWord) (n : Nat) (acc : Access) : M (List Byte) := do
  let parts ← collect (lineChunks va.toNat n) fun c => do
    let at_ := va + BitVec.ofNat 64 c.1
    let ph ← v.translate at_ acc
    v.drain ph.pa c.2
    homeRead at_ ph.pa c.2
  pure parts.flatten

/-- Write bytes far, a line at a time. -/
def viaWrite (v : Via) (va : DWord) (bs : List Byte) : M Unit :=
  forEach (lineChunks va.toNat bs.length) fun c => do
    let ph ← v.translate (va + BitVec.ofNat 64 c.1) .store
    v.drain ph.pa c.2
    homeWrite ph.pa ((bs.drop c.1).take c.2)

/-- Wake every waiter armed on an address in the space of an accessor, as WWAKE with a count of 0 (08 R207). -/
def viaWake (v : Via) (va : DWord) : M Unit := do
  let ph ← v.translate va .load
  modify fun s =>
    let sp := s.viaSpace v
    s.wake (sliceOf ph.pa) sp.part sp.asid va 0

/-! ### Descriptors (11 R249 to R252) -/

/-- A sequence descriptor as read. -/
structure Desc where
  va : DWord
  cl : Nat
  rt : Nat
  cfg : Word
  held : Nat
  bt1 : DWord
  pool : DWord
  theta : DWord
  posb : Nat
  cost : Word
  pend : BitVec 128
  deriving DecidableEq, Repr

/-- A descriptor from its 64 bytes. -/
def Desc.parse (va : DWord) (bs : List Byte) : Desc :=
  let f := recField bs
  ⟨va, f 0 4, f 4 4, BitVec.ofNat 32 (f 8 4), f 12 4, BitVec.ofNat 64 (f 16 8), BitVec.ofNat 64 (f 24 8), BitVec.ofNat 64 (f 32 8), f 40 4,
    BitVec.ofNat 32 (f 44 4), BitVec.ofNat 128 (f 48 16)⟩

/-- SLOG (11 R250). -/
def Desc.slog (d : Desc) : Nat := (d.cfg.extractLsb' 0 4).toNat
/-- BLOG. -/
def Desc.blog (d : Desc) : Nat := (d.cfg.extractLsb' 4 5).toNat
/-- TLOG. -/
def Desc.tlog (d : Desc) : Nat := (d.cfg.extractLsb' 9 5).toNat
/-- DUR. -/
def Desc.dur (d : Desc) : Bool := d.cfg.getLsbD 14
/-- ROT. -/
def Desc.rot (d : Desc) : Bool := d.cfg.getLsbD 15
/-- FREED. -/
def Desc.freed (d : Desc) : Bool := d.cfg.getLsbD 16
/-- RTY. -/
def Desc.rty (d : Desc) : Nat := (d.cfg.extractLsb' 17 2).toNat
/-- RLAY. -/
def Desc.rlay (d : Desc) : Bool := d.cfg.getLsbD 19
/-- RDIM. -/
def Desc.rdim (d : Desc) : Nat := (d.cfg.extractLsb' 20 12).toNat
/-- Bytes of a slot. -/
def Desc.slotBytes (d : Desc) : Nat := 2 ^ (d.slog + 4)
/-- Slots of a block. -/
def Desc.blockSlots (d : Desc) : Nat := 2 ^ d.blog
/-- Bytes of a block. -/
def Desc.blockBytes (d : Desc) : Nat := 2 ^ (d.slog + 4 + d.blog)
/-- Bytes of a rotary element. -/
def Desc.rsize (d : Desc) : Nat := if d.rty == 0 then 4 else 2
/-- The most that RT may reach (11 R250). -/
def Desc.limit (d : Desc) : Nat := Nat.min (2 ^ (d.tlog + d.blog)) 0xFFFFFF00

/-- CFG breaks a limit of R250. -/
def Desc.malformed (d : Desc) : Bool :=
  decide (12 < d.slog) || decide (16 < d.blog) || decide (20 < d.tlog) || decide (d.blockBytes < 128) ||
    decide (2 ^ 22 < d.blockBytes) || d.rty == 3 ||
    (if d.rot then d.rdim == 0 || decide (d.slotBytes < 2 * d.rdim * d.rsize) else d.rdim != 0 || d.rty != 0)

/-- Read a descriptor, with the checks of its address (11 R261). -/
def readDesc (v : Via) (va : DWord) (acc : Access) : M Desc := do
  require (va != 0) .illegalOperand va
  checkAlign va 64
  let bs ← viaRead v va 64 acc
  pure (Desc.parse va bs)

/-- Read a descriptor for an instruction that a freed or malformed one stops (11 R261). -/
def openDesc (v : Via) (va : DWord) (acc : Access) : M Desc := do
  let d ← readDesc v va acc
  require (!d.freed && !d.malformed) .queueState va
  pure d

/-- The descriptor of an instruction that a durable stream stops. -/
def openPlain (v : Via) (va : DWord) (acc : Access) : M Desc := do
  let d ← openDesc v va acc
  require (!d.dur) .queueState va
  pure d

/-- Write a word of a descriptor. -/
def writeWord (v : Via) (va : DWord) (off x : Nat) : M Unit := viaWrite v (va + BitVec.ofNat 64 off) (leBytes 4 x)

/-- PEND marks a slot. -/
def Desc.marked (d : Desc) (i : Nat) : Bool := decide (d.cl ≤ i) && d.pend.getLsbD (i - d.cl)

/-! ### Pools (11 R253) -/

/-- A pool descriptor as read. -/
structure Pool where
  va : DWord
  free : Nat
  cap : Nat
  stack : DWord
  tier : Nat
  chip : Nat
  lost : Nat
  deriving DecidableEq, Repr

/-- The pool of a sequence, refused with QUEUE_STATE where it breaks R253; TVAL names the instruction's descriptor. Reading it needs R; a pop
or a push, which updates it, needs W too (11 R261). -/
def openPool (v : Via) (named : DWord) (d : Desc) : M Pool := do
  require (d.pool.toNat % 64 == 0) .queueState named
  let bs ← viaRead v d.pool 64 .load
  let s ← get
  let f := recField bs
  let cfg := f 16 4
  let stack := f 8 8
  let ok := decide (f 0 4 ≤ f 4 4) && stack % 8 == 0 && decide (7 ≤ cfg % 32) && decide (cfg % 32 ≤ 22) &&
    decide (cfg / 32 % 4 < 2) && cfg / 128 % 1024 == s.chip && cfg / 2 ^ 17 == 0 && f 24 40 == 0 && d.blockBytes == 2 ^ (cfg % 32)
  require ok .queueState named
  pure ⟨d.pool, f 0 4, f 4 4, BitVec.ofNat 64 stack, cfg / 32 % 4, cfg / 128 % 1024, f 20 4⟩

/-- Pop a block address. -/
def popBlock (v : Via) (p : Pool) : M DWord := do
  let bs ← viaRead v p.va 4 .atomic
  let n := leNat bs
  let a ← viaRead v (p.stack + BitVec.ofNat 64 (8 * (n - 1))) 8 .load
  writeWord v p.va 0 (n - 1)
  pure (dwordOf a)

/-- Push a block address; a full pool loses it. -/
def pushBlock (v : Via) (p : Pool) (a : DWord) : M Unit := do
  let bs ← viaRead v p.va 24 .atomic
  let n := recField bs 0 4
  if recField bs 4 4 ≤ n then writeWord v p.va 20 ((recField bs 20 4 + 1) % 2 ^ 32)
  else do
    viaWrite v (p.stack + BitVec.ofNat 64 (8 * n)) (bytesOf 8 a)
    writeWord v p.va 0 (n + 1)

/-! ### The block table (11 R254, R255) -/

/-- A block-table entry. -/
structure Entry where
  w0 : DWord
  w1 : DWord
  deriving DecidableEq, Repr

/-- Address of an entry. -/
def entryVa (bt1 : DWord) (b : Nat) : DWord := bt1 + BitVec.ofNat 64 (16 * b)

/-- Read an entry. -/
def readEntry (v : Via) (bt1 : DWord) (b : Nat) (acc : Access) : M Entry := do
  let bs ← viaRead v (entryVa bt1 b) 16 acc
  pure ⟨dwordOf (bs.take 8), dwordOf (bs.drop 8)⟩

/-- Write an entry. -/
def writeEntry (v : Via) (bt1 : DWord) (b : Nat) (e : Entry) : M Unit :=
  viaWrite v (entryVa bt1 b) (bytesOf 8 e.w0 ++ bytesOf 8 e.w1)

/-- Address of the block of an origin entry: GBN × 128. -/
def Entry.block (e : Entry) : DWord := ((e.w0.extractLsb' 16 48 ++ (0 : BitVec 7)) : BitVec 55).signExtend 64
/-- REFCNT. -/
def Entry.refs (e : Entry) : Nat := (e.w0.extractLsb' 0 16).toNat
/-- TIER. -/
def Entry.tier (e : Entry) : Nat := (e.w1.extractLsb' 3 2).toNat
/-- CHIP. -/
def Entry.chip (e : Entry) : Nat := (e.w1.extractLsb' 5 10).toNat
/-- ORIGIN is zero: an origin entry. -/
def Entry.isOrigin (e : Entry) : Bool := e.w1.extractLsb' 15 49 == 0
/-- Address of the descriptor that holds the origin entry of a forked one. -/
def Entry.origin (e : Entry) : DWord := ((e.w1.extractLsb' 15 49 ++ (0 : BitVec 6)) : BitVec 55).signExtend 64
/-- The entry with another count. -/
def Entry.setRefs (e : Entry) (n : Nat) : Entry :=
  { e with w0 := (e.w0 &&& ~~~(0xFFFF : DWord)) ||| BitVec.ofNat 64 (n % 65536) }

/-- The origin entry of a block just allocated (11 R264). -/
def Entry.fresh (p : Pool) (a : DWord) : Entry :=
  ⟨(a.extractLsb' 7 48).setWidth 64 <<< 16 ||| 1, BitVec.ofNat 64 (p.chip * 32 + p.tier * 8 + 4)⟩

/-- The forked entry of a block whose origin lies in a descriptor (11 R254). -/
def Entry.forked (desc : DWord) : Entry := ⟨0, (desc.extractLsb' 6 49).setWidth 64 <<< 15⟩

/-- The origin entry of block `b`, with the descriptor that holds it. -/
def originOf (v : Via) (d : Desc) (b : Nat) (acc : Access) : M (DWord × DWord × Entry) := do
  let e ← readEntry v d.bt1 b .load
  if e.isOrigin then do
    let e ← readEntry v d.bt1 b acc
    pure (d.va, d.bt1, e)
  else do
    let bs ← viaRead v (e.origin + 16) 8 .load
    let o ← readEntry v (dwordOf bs) b acc
    pure (e.origin, dwordOf bs, o)

/-- The cost comparator (11 R257, R258). -/
def comparator (d : Desc) (b : Nat) : DWord :=
  let c := fun (i : Nat) => (d.cost.extractLsb' (8 * i) 8).toNat
  let done := Nat.min d.cl ((b + 1) * d.blockSlots) - b * d.blockSlots
  let rfet := 64 * c 0 + c 1 * ceilDiv d.blockBytes 1024
  let rcmp := 64 * c 2 + 16 * c 3 * done
  BitVec.ofNat 64 ((if rcmp < rfet then 2 ^ 63 else 0) + rcmp % 2 ^ 31 * 2 ^ 32 + rfet % 2 ^ 32)

/-- Where slot `i` lies: chip and address (11 R255). -/
def locate (v : Via) (d : Desc) (i : Nat) : M (Nat × DWord) := do
  let b := i / d.blockSlots
  let (_, _, e) ← originOf v d b .load
  require (e.tier != 3) .droppedBlock (comparator d b)
  pure (e.chip, e.block + BitVec.ofNat 64 (i % d.blockSlots * d.slotBytes))

/-- The page fault that a target's translation or protection fault is to the requester, of either stage (15 R349); none for any other. -/
def remoteCause (c : Cause) : Option Cause :=
  match c with
  | .pageAbsent | .stage2Absent => some .pageAbsent
  | .pageProtection | .stage2Protection => some .pageProtection
  | _ => none

/-- Read bytes of a located slot or block: here, or from another chip for a named reader (11 R255); a read that fails to
deliver is DROPPED_BLOCK with the comparator's result (15 R349). -/
def locatedRead (v : Via) (who chip : Nat) (va : DWord) (n : Nat) (lost : DWord) : M (List Byte) := do
  let s ← get
  if chip == s.chip then viaRead v va n .load
  else
    match s.remotes.find? fun r => r.agent == who && r.chip == chip && r.va == va && r.len == n with
    | some r =>
      match r.answer with
      | some (.ok bs) => pure bs
      | some (.error (c, sub)) =>
        match remoteCause c with
        | some c => abort (.trap ⟨c, sub, va, true⟩)
        | none => abort (.trap ⟨.droppedBlock, 0, lost, true⟩)
      | none => abort (.remote who (s.viaSpace v).part chip va n)
    | none => abort (.remote who (s.viaSpace v).part chip va n)

/-! ### The operations (11 R263 to R271) -/

/-- Pop and enter the blocks that the slots up to a number need (11 R264). -/
def addBlocks (v : Via) (d : Desc) (p : Pool) : List Nat → M Unit
  | [] => pure ()
  | b :: bs => do
    let a ← popBlock v p
    writeEntry v d.bt1 b (Entry.fresh p a)
    addBlocks v d p bs

/-- The numbers from `a` up to but not `b`. -/
def upTo (a b : Nat) : List Nat := (List.range (b - a)).map (a + ·)

/-- Reserve slots (11 R264): the first slot, or a status. -/
def reserveSlots (v : Via) (d : Desc) (n limit : Nat) : M (Except Nat Nat) := do
  let p ← openPool v d.va d
  let old := ceilDiv d.rt d.blockSlots
  let new := ceilDiv (d.rt + n) d.blockSlots
  if n == 0 then pure (.ok d.rt)
  else if limit < d.rt + n then pure (.error 5)
  else if p.free < new - old then pure (.error 4)
  else do
    addBlocks v d p (upTo old new)
    writeWord v d.va 4 (d.rt + n)
    pure (.ok d.rt)

/-- What SQRSV writes (11 R260). -/
def reserveWord (r : Except Nat Nat) : DWord :=
  match r with
  | .ok n => BitVec.ofNat 64 n
  | .error c => BitVec.ofNat 64 (0xFFFFFF00 + c)

/-- Slots of a range that PEND marks. -/
def Desc.firstMarked (d : Desc) (a b : Nat) : Option Nat :=
  ((List.range 128).map (d.cl + ·)).find? fun i => decide (a ≤ i) && decide (i < b) && d.marked i

/-- The first index of a range at fault for an abandonment: outside [CL, RT). -/
def Desc.outside (d : Desc) (b c : Nat) : Option Nat :=
  if b < d.cl then some b else if d.rt < b + c then some (Nat.max b d.rt) else none

/-- The first index of a range at fault for a commit: below CL, marked in PEND, or at RT and above, whichever is the lowest (11 R261,
R267). -/
def Desc.firstBad (d : Desc) (b c : Nat) : Option Nat :=
  if b < d.cl then some b
  else
    match d.firstMarked b (b + c), d.outside b c with
    | some i, some j => some (Nat.min i j)
    | i, j => i.or j

/-- Bits of a range above CL. -/
def rangeBits (cl b c : Nat) : BitVec 128 :=
  (List.range 128).foldl (fun m i => if decide (b ≤ cl + i) && decide (cl + i < b + c) then m ||| ((1 : BitVec 128) <<< i) else m) 0

/-- Maximal runs of 1 bits (11 R252). -/
def runCount (x : BitVec 128) : Nat :=
  ((List.range 128).filter fun i => x.getLsbD i && !(decide (0 < i) && x.getLsbD (i - 1))).length

/-- CL advanced over the ranges that touch it (11 R267). -/
def absorb : Nat → Nat → BitVec 128 → Nat × BitVec 128
  | 0, cl, pend => (cl, pend)
  | n + 1, cl, pend => if pend.getLsbD 0 then absorb n (cl + 1) (pend >>> 1) else (cl, pend)

/-- Clear PIN of blocks (11 R256). -/
def unpin (v : Via) (bt1 : DWord) : List Nat → M Unit
  | [] => pure ()
  | b :: bs => do
    let e ← readEntry v bt1 b .atomic
    if e.isOrigin && e.w1.getLsbD 2 then viaWrite v (entryVa bt1 b + 8) (bytesOf 8 (e.w1 &&& ~~~(4 : DWord)))
    unpin v bt1 bs

/-- Commit a range (11 R267): its status. -/
def commitSlots (v : Via) (d : Desc) (b c : Nat) : M Nat := do
  if c == 0 then pure 0
  else
    match d.firstBad b c with
    | some i => raise .seqBounds (BitVec.ofNat 64 i)
    | none =>
      if b == d.cl then do
        let (cl, pend) := absorb 128 (b + c) (if 128 ≤ c then 0 else d.pend >>> c)
        writeWord v d.va 0 cl
        viaWrite v (d.va + 48) (leBytes 16 pend.toNat)
        unpin v d.bt1 (upTo (d.cl / d.blockSlots) (cl / d.blockSlots))
        viaWake v d.va
        pure 0
      else
        let pend := d.pend ||| rangeBits d.cl b c
        if d.cl + 128 < b + c || 16 < runCount pend then pure 1
        else do
          viaWrite v (d.va + 48) (leBytes 16 pend.toNat)
          pure 0

/-- Give blocks back to a pool by their origin entries. -/
def returnBlocks (v : Via) (bt1 : DWord) (p : Pool) : List Nat → M Unit
  | [] => pure ()
  | b :: bs => do
    let e ← readEntry v bt1 b .load
    pushBlock v p e.block
    returnBlocks v bt1 p bs

/-- Abandon a range (11 R268): its status. -/
def abandonSlots (v : Via) (d : Desc) (b c : Nat) : M Nat := do
  let p ← openPool v d.va d
  if c == 0 then pure 0
  else
    match d.outside b c with
    | some i => raise .seqBounds (BitVec.ofNat 64 i)
    | none =>
      if b + c != d.rt then pure 2
      else if (d.firstMarked b (b + c)).isSome then pure 3
      else do
        returnBlocks v d.bt1 p (upTo (ceilDiv b d.blockSlots) (ceilDiv d.rt d.blockSlots))
        writeWord v d.va 4 b
        pure 0

/-- The image of a new sequence is sound (11 R263). -/
def Desc.imageOk (d : Desc) : Bool :=
  d.cl == 0 && d.rt == 0 && d.held == 0 && d.pend == 0 && !d.freed && !d.malformed && canonical d.bt1 && d.bt1.toNat % 64 == 0 &&
    canonical d.pool && d.pool.toNat % 64 == 0 && d.theta.toNat % 4 == 0 && (d.rot || d.theta == 0)

/-- Write a new descriptor from its image (11 R263); `src` names the image in TVAL. -/
def newSequence (v : Via) (va : DWord) (bs : List Byte) (src : DWord) : M Unit := do
  require (va != 0) .illegalOperand va
  checkAlign va 64
  require (Desc.parse va bs).imageOk .queueState src
  viaWrite v va bs

/-- Raise the counts of the origin entries of a fork's whole blocks and write its forked entries (11 R269). -/
def shareBlocks (v : Via) (parent child : Desc) : List Nat → M Unit
  | [] => pure ()
  | b :: bs => do
    let (od, bt1, o) ← originOf v parent b .atomic
    writeEntry v bt1 b (o.setRefs (o.refs + 1))
    writeEntry v child.bt1 b (Entry.forked od)
    shareBlocks v parent child bs

/-- Copy the slots of a fork's last, partial block (11 R269). -/
def copySlots (v : Via) (who : Nat) (parent : Desc) (dst : DWord) (first : Nat) : List Nat → M Unit
  | [] => pure ()
  | i :: is => do
    let (chip, va) ← locate v parent i
    let bs ← locatedRead v who chip va parent.slotBytes (comparator parent (i / parent.blockSlots))
    viaWrite v (dst + BitVec.ofNat 64 ((i - first) * parent.slotBytes)) bs
    copySlots v who parent dst first is

/-- Fork (11 R269): a status. -/
def forkSequence (v : Via) (who : Nat) (a b : DWord) (k : Nat) : M Nat := do
  let parent ← openDesc v a .load
  let child ← openPlain v b .atomic
  let p ← openPool v b child
  require (decide (k ≤ parent.cl)) .seqBounds (BitVec.ofNat 64 parent.cl)
  if parent.slog != child.slog || parent.blog != child.blog || child.cl != 0 || child.rt != 0 then pure 6
  else do
    let w := k / parent.blockSlots
    let all := ceilDiv k parent.blockSlots
    if 2 ^ child.tlog < all then pure 5
    else do
      let counts ← collect (upTo 0 w) fun x => do
        let (_, _, e) ← originOf v parent x .load
        pure e.refs
      if counts.contains 65535 then pure 5
      else if w < all && p.free == 0 then pure 4
      else do
        if w < all then do
          let blk ← popBlock v p
          copySlots v who parent blk (w * parent.blockSlots) (upTo (w * parent.blockSlots) k)
          writeEntry v child.bt1 w (Entry.fresh p blk)
        shareBlocks v parent child (upTo 0 w)
        writeWord v b 0 k
        writeWord v b 4 k
        pure 0

/-- TIER of a sequence's pool, as its descriptor stands (11 R253). -/
def poolTier (v : Via) (named : DWord) (d : Desc) : M Nat := do
  require (d.pool.toNat % 64 == 0) .queueState named
  let bs ← viaRead v (d.pool + 16) 4 .load
  pure (leNat bs / 32 % 4)

/-- Drop a sequence's references (11 R271); a pool that would not receive the block is not opened (11 R261). -/
def dropRefs (v : Via) (d : Desc) : List Nat → M Unit
  | [] => pure ()
  | b :: bs => do
    let (od, bt1, o) ← originOf v d b .atomic
    let n := (o.refs + 65535) % 65536
    writeEntry v bt1 b (o.setRefs n)
    if n == 0 then do
      let x ← readDesc v od .load
      if o.tier == (← poolTier v d.va x) then do
        let p ← openPool v d.va x
        pushBlock v p o.block
      if od != d.va then do
        let hs ← viaRead v (od + 12) 4 .atomic
        let h := (leNat hs + 2 ^ 32 - 1) % 2 ^ 32
        writeWord v od 12 h
        if h == 0 then viaWake v (od + 12)
    dropRefs v d bs

/-- Free a sequence (11 R271): HELD. -/
def freeSequence (v : Via) (va : DWord) : M Nat := do
  let d ← openDesc v va .atomic
  let blocks := upTo 0 (ceilDiv d.rt d.blockSlots)
  dropRefs v d blocks
  let es ← collect blocks fun b => readEntry v d.bt1 b .load
  let held := (es.filter fun e => e.isOrigin && e.refs != 0).length
  writeWord v va 12 held
  viaWrite v (va + 8) (bytesOf 4 ((d.cfg ||| 0x10000).setWidth 64))
  if held == 0 then viaWake v (va + 12)
  pure held

/-- A field of a descriptor that SQLEN reads (11 R270). -/
def lengthField (v : Via) (va : DWord) (fn : BitVec 3) : M DWord := do
  require (va != 0) .illegalOperand va
  checkAlign va 64
  let bs ← viaRead v (va + (match fn.toNat with | 0 => 0 | 1 => 4 | _ => 12)) 4 .load
  pure (dwordOf bs)

/-! ### Commits that wait in their slice (13 R301, R303) -/

/-- Commit one slot for an agent that waits in the slice while the commit would be BUSY: whether it is done. -/
def commitOne (v : Via) (va : DWord) (slot : Nat) : M Bool := do
  let d ← openDesc v va .atomic
  let r ← commitSlots v d slot 1
  pure (r == 0)

/-- A parked commit meets a fault: it stays, and where it is the distributor's, placement stops (13 R301). -/
def faultParked (p : Parked) : M Unit :=
  match p.via with
  | .direct _ _ sp _ => modPart sp.part fun x => if x.appended.any fun e => e.1 == p.uid then { x with stopped := true } else x
  | _ => pure ()

/-- Try the parked commits once each, in order. -/
def retryParked : List Parked → M Unit
  | [] => pure ()
  | p :: ps => do
    let r ← attempt (commitOne p.via p.desc p.slot)
    match r with
    | .ok false => pure ()
    | .error _ => faultParked p
    | .ok true => modify fun s =>
      ({ s with parked := s.parked.filter fun x => x.uid != p.uid } : State).wakeAll fun w => w == .camp p.uid
    retryParked ps

/-- After a commit, those that waited are tried again, until none more can be performed. -/
def settle : Nat → M Unit
  | 0 => pure ()
  | n + 1 => do
    let s ← get
    retryParked s.parked
    settle n

/-- Settle the commits that wait. -/
def settleParked : M Unit := do
  let s ← get
  settle s.parked.length

/-- Commit one slot, or leave the commit parked under a name: whether it is done. -/
def commitOrPark (uid : Nat) (v : Via) (va : DWord) (slot : Nat) : M Bool := do
  let ok ← commitOne v va slot
  if ok then do
    settleParked
    pure true
  else do
    modify fun s => { s with parked := s.parked ++ [⟨uid, v, va, slot⟩] }
    pure false

/-! ### The rotary store (11 R266) -/

/-- Type of a rotary element. -/
def Desc.rotTy (d : Desc) : Ty := match d.rty with | 0 => .f32 | 1 => .bf16 | _ => .f16

/-- The element numbers of a pair. -/
def Desc.pairAt (d : Desc) (i : Nat) : Nat × Nat := if d.rlay then (i, i + d.rdim) else (2 * i, 2 * i + 1)

/-- One pair rotated by its position. -/
def rotaryPair (t : Ty) (pos : Nat) (theta : FVal) (x y : DWord) : DWord × DWord :=
  let ang := (ofInt pos).mul theta
  let c := f32Val (rneF32 (fcosVal ang))
  let n := f32Val (rneF32 (fsinVal ang))
  (t.fround (sumTerms [(t.fval x).mul c, ((t.fval y).mul n).neg]) .rne, t.fround (sumTerms [(t.fval x).mul n, (t.fval y).mul c]) .rne)

/-- Rotate the pairs of a slot's bytes. -/
def rotateSlot (v : Via) (d : Desc) (slot : Nat) (bs : List Byte) : List Nat → M (List Byte)
  | [] => pure bs
  | i :: is => do
    let th ← viaRead v (d.theta + BitVec.ofNat 64 (4 * i)) 4 .load
    let (a, b) := d.pairAt i
    let n := d.rsize
    let el := fun (e : Nat) => dwordOf ((bs.drop (n * e)).take n)
    let (x, y) := rotaryPair d.rotTy (slot + d.posb) (f32Val (loWord (dwordOf th))) (el a) (el b)
    rotateSlot v d slot (spliceBytes (spliceBytes bs (n * a) (bytesOf n x)) (n * b) (bytesOf n y)) is

/-- Write bytes of a reserved slot (11 R265); `word` is TVAL of the operand faults. -/
def storeSlot (v : Via) (va : DWord) (i : Nat) (off : Int) (bs : List Byte) (rotary : Bool) (word : DWord) : M Unit := do
  let d ← openPlain v va .load
  require (decide (d.cl ≤ i) && decide (i < d.rt) && !d.marked i) .seqBounds (BitVec.ofNat 64 i)
  require (decide (0 ≤ off) && off % 16 == 0 && decide (off + bs.length ≤ d.slotBytes)) .illegalOperand word
  require (!rotary || (d.rot && off == 0 && decide (2 * d.rdim * d.rsize ≤ bs.length))) .illegalOperand word
  let (_, slot) ← locate v d i
  let out ← if rotary then rotateSlot v d i bs (List.range d.rdim) else pure bs
  viaWrite v (slot + BitVec.ofInt 64 off) out

/-! ### The instructions -/

/-- The lane that a sequence instruction acts through. -/
def laneVia : M Via := do
  let s ← get
  pure (.lane s.who s.mode)

/-- A per-lane sequence instruction, or once for a scalar destination. -/
def seqLanes (b : Base) (act : Nat → M LaneOut) : M GroupOut := do
  let s ← get
  if b.dk == .scl then onceOut b act else eachLane (s.acting b) act

/-- SQNEW (11 R263). -/
def execSqnew (b : Base) (s : State) : Host.Outcome State Fault Refusal :=
  let f := formOf (.sqnew b)
  runGroup f b false (onceHeld b fun l => do
    let x ← readSrcs f b l
    let src := loWord x.b
    let s ← get
    checkAlign (src.setWidth 64) 64
    let bs ← spadRead s.who src 64
    let v ← laneVia
    newSequence v x.a bs (src.setWidth 64)
    pure ([], some .held)) s

/-- SQRSV (11 R264). -/
def execSqrsv (b : Base) (s : State) : Host.Outcome State Fault Refusal :=
  let f := formOf (.sqrsv b)
  runGroup f b true (seqLanes b fun l => do
    let x ← readSrcs f b l
    let v ← laneVia
    let d ← openPlain v x.a .atomic
    let r ← reserveSlots v d (loWord x.b).toNat d.limit
    pure { writes := dstWrites b l .n32 (reserveWord r) }) s

/-- SQST in either form (11 R265). -/
def runSqst (f : Form) (b : Base) (rotary : Bool) : State → Host.Outcome State Fault Refusal :=
  runLanes f b fun l => do
    let x ← readSrcs f b l
    let s ← get
    let v ← laneVia
    let n := 16 * (b.e2.extractLsb' 0 13).toNat
    let d ← openPlain v x.a .load
    let i := (loWord x.b).toNat
    require (decide (d.cl ≤ i) && decide (i < d.rt) && !d.marked i) .seqBounds (BitVec.ofNat 64 i)
    require (decide (0 ≤ b.offset) && b.offset % 16 == 0 && decide (b.offset + n ≤ d.slotBytes)) .illegalOperand s.issue.word
    checkAlign ((loWord x.c).setWidth 64) 16
    let bs ← spadRead s.who (loWord x.c) n
    storeSlot v x.a i b.offset bs rotary s.issue.word
    pure { hold := some .held }

/-- SQST.plain (11 R265). -/
def execSqstPlain (b : Base) (s : State) : Host.Outcome State Fault Refusal := runSqst (formOf (.sqstPlain b)) b false s

/-- SQST.rotary (11 R265, R266). -/
def execSqstRotary (b : Base) (s : State) : Host.Outcome State Fault Refusal := runSqst (formOf (.sqstRotary b)) b true s

/-- SQCMT (11 R267): earlier far writes of the lane come first. -/
def execSqcmt (b : Base) (s : State) : Host.Outcome State Fault Refusal :=
  let f := formOf (.sqcmt b)
  runGroup f b true (seqLanes b fun l => do
    let x ← readSrcs f b l
    let v ← laneVia
    modify fun s => s.drainFar s.who fun o => o.lane == l
    let d ← openPlain v x.a .atomic
    let r ← commitSlots v d (loWord x.b).toNat (loWord x.c).toNat
    settleParked
    pure { writes := dstWrites b l .n32 (BitVec.ofNat 64 r), hold := some .held }) s

/-- SQABN (11 R268), lanes in descending order. -/
def execSqabn (b : Base) (s : State) : Host.Outcome State Fault Refusal :=
  let f := formOf (.sqabn b)
  let act := fun l => do
    let x ← readSrcs f b l
    let v ← laneVia
    let d ← openPlain v x.a .atomic
    let r ← abandonSlots v d (loWord x.b).toNat (loWord x.c).toNat
    pure { writes := dstWrites b l .n32 (BitVec.ofNat 64 r), hold := some .held }
  runGroup f b true (do
    let s ← get
    if b.dk == .scl then onceOut b act
    else do
      let g ← eachLane (s.acting b).reverse act
      pure { g with outs := g.outs.reverse, traps := g.traps.reverse }) s

/-- SQFRK (11 R269). -/
def execSqfrk (b : Base) (s : State) : Host.Outcome State Fault Refusal :=
  let f := formOf (.sqfrk b)
  runGroup f b false (onceHeld b fun l => do
    let x ← readSrcs f b l
    let s ← get
    let v ← laneVia
    let r ← forkSequence v s.who x.a x.b (loWord x.c).toNat
    pure (dstWrites b l .n32 (BitVec.ofNat 64 r), some .held)) s

/-- SQLEN (11 R270). -/
def execSqlen (b : Base) (s : State) : Host.Outcome State Fault Refusal :=
  let f := formOf (.sqlen b)
  runGroup f b false (seqLanes b fun l => do
    let x ← readSrcs f b l
    let v ← laneVia
    let w ← lengthField v x.a b.fn
    pure { writes := dstWrites b l .n32 w }) s

/-- SQFRE (11 R271). -/
def execSqfre (b : Base) (s : State) : Host.Outcome State Fault Refusal :=
  let f := formOf (.sqfre b)
  runGroup f b false (onceHeld b fun l => do
    let x ← readSrcs f b l
    let v ← laneVia
    let r ← freeSequence v x.a
    pure (dstWrites b l .n32 (BitVec.ofNat 64 r), some .held)) s

/-- SQLD (08 R197). -/
def execSqld (b : Base) (s : State) : Host.Outcome State Fault Refusal :=
  let f := formOf (.sqld b)
  runLoad f b (fun l => do
    let x ← readSrcs f b l
    let s ← get
    let v ← laneVia
    let d ← openDesc v x.a .load
    let i := (loWord x.b).toNat
    let n := memBytes b
    require (decide (i < d.cl)) .seqBounds (BitVec.ofNat 64 i)
    require (decide (0 ≤ b.offset) && decide (b.offset + n ≤ d.slotBytes)) .illegalOperand s.issue.word
    let (chip, slot) ← locate v d i
    let va := slot + BitVec.ofInt 64 b.offset
    checkAlign va n
    let bs ← locatedRead v s.who chip va n (comparator d (i / d.blockSlots))
    pure { writes := loadWrites b l bs, touch := [(va.toNat, n)] }) s

end Sys2Proof.Machine
end

