-- ==== Sys2Proof/Machine/Attention.lean ====
section
/-! DEFINITION. Attention (spec/11 R273 to R276): the record and its checks, one key block, and the instruction ATTN. ATTNF
stands with the camp. -/

namespace Sys2Proof.Machine

/-! ### The record (11 R273) -/

/-- KBEG. -/
def attnBegin (bs : List Byte) : Nat := recField bs 0 4
/-- KEND. -/
def attnEnd (bs : List Byte) : Nat := recField bs 4 4
/-- Word CTL. -/
def attnCtl (bs : List Byte) : Nat := recField bs 20 4
/-- CAUSAL. -/
def attnCausal (bs : List Byte) : Bool := attnCtl bs / 128 % 2 == 1
/-- INIT. -/
def attnInit (bs : List Byte) : Bool := attnCtl bs / 256 % 2 == 1
/-- Element type of a code 9 to 12. -/
def attnTy (code : Nat) : Ty :=
  match code with
  | 9 => .f16 | 10 => .bf16 | 11 => .e4m3 | _ => .e5m2
/-- KTY. -/
def attnKty (bs : List Byte) : Nat := attnCtl bs / 4096 % 16
/-- VTY. -/
def attnVty (bs : List Byte) : Nat := attnCtl bs / 65536 % 16
/-- KOFF. -/
def attnKoff (bs : List Byte) : Nat := recField bs 16 2
/-- VOFF. -/
def attnVoff (bs : List Byte) : Nat := recField bs 18 2

/-- Reserved bits of a record. -/
def attnReserved (bs : List Byte) : Bool :=
  attnCtl bs / 512 % 8 != 0 || attnCtl bs / 2 ^ 20 != 0 || recField bs 24 8 != 0

/-- Bytes of a vector of 128 elements. -/
def vectorBytes (ty : Ty) : Nat := 128 * (ty.bits / 8)

/-- Types, offsets and vectors of a record fit a sequence's slots (11 R274). -/
def attnFits (bs : List Byte) (d : Desc) : Bool :=
  let k := attnKty bs
  let v := attnVty bs
  decide (9 ≤ k) && decide (k ≤ 12) && decide (9 ≤ v) && decide (v ≤ 10) && attnKoff bs % 16 == 0 && attnVoff bs % 16 == 0 &&
    decide (attnKoff bs + vectorBytes (attnTy k) ≤ d.slotBytes) && decide (attnVoff bs + vectorBytes (attnTy v) ≤ d.slotBytes)

/-- The bytes of a record, after the checks of its address (11 R274). -/
def attnRecord (b : Base) (l : Nat) (ra : Word) : M (List Byte) := do
  let s ← get
  checkAlign (ra.setWidth 64) 16
  if b.e2.getLsbD 5 then do
    require (decide (ra.toNat + 32 ≤ 65536)) .illegalOperand s.issue.word
    let parts ← collect (List.range 8) fun i => constRead s.who l s.mode (ra.toNat + 4 * i) 4
    pure parts.flatten
  else do
    let _ ← spadTouch ra 32 true
    spadRead s.who ra 32

/-- The bytes of the descriptor that an ATTN names, read once for a pair or a replay, and else taken from the log (16 R360, R364). -/
def attnDescriptor (l : Nat) (va : DWord) : M (List Byte) := do
  require (va != 0) .illegalOperand va
  checkAlign va 64
  let s ← get
  if s.takes s.who false then
    match (s.nextEntry s.who false).bind fun e => (e.recs.find? fun r => r.lane == l).bind (·.data) with
    | some (_, bs) => pure bs
    | none => waitFor .pair
  else do
    let v ← laneVia
    viaRead v va 64 .load

/-- ATTN (11 R273 to R276). -/
def execAttn (b : Base) (s : State) : Host.Outcome State Fault Refusal :=
  let f := formOf (.attn b)
  runOnce f b (fun l => do
    let x ← readSrcs f b l
    let s ← get
    let bs ← attnRecord b l (loWord x.b)
    require (!attnReserved bs) .reservedField s.issue.word
    let raw ← attnDescriptor l x.a
    let d := Desc.parse x.a raw
    require (!d.freed && !d.malformed) .queueState x.a
    require (attnFits bs d) .illegalOperand s.issue.word
    let q := attnQslot bs
    let p := (s.agent s.who).party
    match s.heldSlot p q with
    | none => slotFault false 1 q
    | some c => do
      let cls := passClass c.ty
      if fmtRole c.fmt != 0 || fmtScaled c.fmt || fmtLayout c.fmt || cls != passClass (attnTy (attnKty bs)) then slotFault false 4 q
    let (t, tc) ← ownTile (loWord x.c)
    if tc.ty != .f32 then slotFault true 4 t
    require (decide (attnBegin bs ≤ attnEnd bs) && decide (attnEnd bs ≤ d.cl)) .seqBounds (BitVec.ofNat 64 (attnEnd bs))
    roomFor .mat
    let ph ← arrivedNow
    let u ← countOp s.who l .mat
    arriveOp u l (.attn x.a bs t (attnBegin bs) u none) ph
    pure { tile := some (x.a, raw) }) s

/-! ### One key block (11 R275) -/

/-- A range that the engine of an ATTN reads, unit by unit (16 R360). -/
def attnRange (k uid : Nat) (m : Mode) (va : DWord) (n : Nat) : M (List Byte) := do
  let parts ← collect (lineChunks va.toNat n) fun c => engineRead k uid m false (va + BitVec.ofNat 64 c.1) c.2 0xE7
  pure parts.flatten

/-- An entry of a block table as that engine reads it. -/
def attnEntry (k uid : Nat) (m : Mode) (bt1 : DWord) (b : Nat) : M Entry := do
  let bs ← attnRange k uid m (entryVa bt1 b) 16
  pure ⟨dwordOf (bs.take 8), dwordOf (bs.drop 8)⟩

/-- Where a slot lies, as that engine finds it (11 R255). -/
def attnPlace (k uid : Nat) (m : Mode) (d : Desc) (i : Nat) : M (Nat × DWord) := do
  let b := i / d.blockSlots
  let e ← attnEntry k uid m d.bt1 b
  let e ← if e.isOrigin then pure e
    else do
      let bs ← attnRange k uid m (e.origin + 16) 8
      attnEntry k uid m (dwordOf bs) b
  require (e.tier != 3) .droppedBlock (comparator d b)
  pure (e.chip, e.block + BitVec.ofNat 64 (i % d.blockSlots * d.slotBytes))

/-- Bytes of a slot at its place for the engine of an agent, from an offset: through the log in a deterministic party. Of a remote unit the
log has the bytes that were asked for. -/
def attnRead (k uid : Nat) (m : Mode) (d : Desc) (i : Nat) (place : Nat × DWord) (off n : Nat) : M (List Byte) := do
  let va := place.2 + BitVec.ofNat 64 off
  let parts ← collect (lineChunks va.toNat n) fun c => do
    let at_ := va + BitVec.ofNat 64 c.1
    let s ← get
    if place.1 == s.chip || s.takes k true then engineRead k uid m false at_ c.2 0xE7
    else do
      let bs ← locatedRead (.unit k uid m false) (engineWho k) place.1 at_ c.2 (comparator d (i / d.blockSlots))
      let line := List.replicate (at_.toNat % 128) 0 ++ bs
      noteUnit k uid ⟨vaLine at_, line ++ List.replicate (128 - line.length) 0, 15⟩ 0xE7
      pure bs
  pure parts.flatten

/-- The elements of a vector's bytes. -/
def vectorElems (ty : Ty) (bs : List Byte) : List FVal :=
  (List.range 128).map fun i => ty.fval (dwordOf ((bs.drop (i * (ty.bits / 8))).take (ty.bits / 8)))

/-- One key of a block: its slot, its key vector and its value vector. -/
structure Key where
  index : Nat
  key : List FVal
  value : List FVal
  deriving DecidableEq, Repr

/-- The keys of a block. -/
def attnKeys (k uid : Nat) (m : Mode) (d : Desc) (bs : List Byte) : List Nat → M (List Key)
  | [] => pure []
  | i :: is => do
    let kt := attnTy (attnKty bs)
    let vt := attnTy (attnVty bs)
    let place ← attnPlace k uid m d i
    let kb ← attnRead k uid m d i place (attnKoff bs) (vectorBytes kt)
    let vb ← attnRead k uid m d i place (attnVoff bs) (vectorBytes vt)
    let rest ← attnKeys k uid m d bs is
    pure (⟨i, vectorElems kt kb, vectorElems vt vb⟩ :: rest)

/-- The exact product with log₂ e. -/
def timesLog2e (x : FVal) : FVal :=
  match x with
  | .fin n d => .fin (n * 2 ^ fixBits) (d * ln2Fix)
  | _ => x

/-- ex2 of the difference of two f32 values, scaled by log₂ e (11 R275). -/
def expDiff (x m : FVal) : FVal :=
  f32Val (rneF32 (fex2Val (f32Val (rneF32 (timesLog2e (x.add false m.neg))))))

/-- The score of a key for a row (11 R275). -/
def attnScore (len : Nat) (q : List FVal) (scale : FVal) (masked : Bool) (key : List FVal) : FVal :=
  let t := f32Val (chunkSum len 128 0 (q.zip key))
  if masked then .inf true else f32Val (rneF32 (t.mul scale))

/-- The running state of a row: m, l and O. -/
structure AttnRow where
  m : FVal
  l : FVal
  o : List Word
  deriving DecidableEq, Repr

/-- Sums of probabilities and values over chunks of 16 keys, each rounded once; the first begins at the exact value `t`. -/
def attnSum : Nat → FVal → List (FVal × FVal) → FVal
  | 0, t, _ => t
  | n + 1, t, ps =>
    match ps with
    | [] => t
    | _ => attnSum n (f32Val (rneF32 (sumTerms (t :: (ps.take 16).map fun p => p.1.mul p.2)))) (ps.drop 16)

/-- One row over one key block (11 R275). -/
def attnRow (len : Nat) (scale : FVal) (masked : Nat → Bool) (keys : List Key) (q : List FVal) (r : AttnRow) : AttnRow :=
  let ss := keys.map fun j => attnScore len q scale (masked j.index) j.key
  let m := match ss with
    | [] => r.m
    | x :: t => f32Val (rneF32 (r.m.max (t.foldl FVal.max x)))
  let gone := m == .inf true
  let alpha := if gone then FVal.fin 1 1 else expDiff r.m m
  let ps := ss.map fun x => if gone then FVal.zero false else expDiff x m
  let l := ps.foldl (fun l p => f32Val (rneF32 (l.add false p))) (f32Val (rneF32 (alpha.mul r.l)))
  let pb := ps.map fun p => bf16Val (bf16Fmt.round p .rne)
  let o := (List.range 128).map fun d =>
    rneF32 (attnSum 4 (alpha.mul (f32Val (r.o.getD d 0))) (pb.zip (keys.map fun j => j.value.getD d (.zero false))))
  ⟨m, l, o⟩

/-- A row as the tile holds it, or as INIT sets it. -/
def State.attnStart (s : State) (p t : Nat) (init : Bool) (r : Nat) : AttnRow :=
  if init then ⟨.inf true, .zero false, List.replicate 128 0⟩
  else ⟨f32Val (s.tileWord p t (8192 + r)), f32Val (s.tileWord p t (8320 + r)), (List.range 128).map fun d => s.tileWord p t (128 * r + d)⟩

/-- The words of rows in a tile. -/
def attnWords (rows : List AttnRow) : List (Nat × Word) :=
  (List.range rows.length).flatMap fun r =>
    let x := rows.getD r ⟨.zero false, .zero false, []⟩
    (8192 + r, rneF32 x.m) :: (8320 + r, rneF32 x.l) :: (List.range 128).map fun d => (128 * r + d, x.o.getD d 0)

/-- Row of the query tile (11 R273). -/
def queryRow (c : SlotClaim) (r : Nat) : List FVal :=
  vectorElems c.ty (c.bytes.readN (r * vectorBytes c.ty) (vectorBytes c.ty))

/-- Compute one key block and write the tile: its query rows are those that its occupancy found in the slot (10 R236). -/
def attnBlock (o : CampOp) (desc : DWord) (bs : List Byte) (t t0 parent : Nat) (query : Option SlotClaim) : M Unit := do
  let raw ← attnRange o.agent parent o.mode desc 64
  let d := Desc.parse desc raw
  let keys ← attnKeys o.agent parent o.mode d bs (upTo t0 (Nat.min (t0 + 64) (attnEnd bs)))
  let s ← get
  match query.or (Sparse.find? (s.party o.party).slots (attnQslot bs)) with
  | none => pure ()
  | some q =>
    let init := attnInit bs && t0 == attnBegin bs
    let scale := f32Val (BitVec.ofNat 32 (recField bs 12 4))
    let row := fun (r : Nat) =>
      attnRow (chunkLen (passClass q.ty)) scale (fun j => attnCausal bs && decide (recField bs 8 4 + r < j + d.posb)) keys
        (queryRow q r) (s.attnStart o.party t init r)
    tileWrite o.party t (attnWords ((List.range 64).map row))

/-- A block without keys writes the tile once (11 R276). -/
def attnEmpty (o : CampOp) (bs : List Byte) (t : Nat) : M Unit := do
  let s ← get
  tileWrite o.party t (attnWords ((List.range 64).map (s.attnStart o.party t (attnInit bs))))

/-- ATTN_BLOCK_DONE (11 R276): a granted block ends and its tile is written; with the last, the ATTN is complete. A block that
faults is held at its place until ERET, whether the fault is this module's or a remote one (11 R276; 15 R349 ends only the operations
whose own rules do not hold them, assumption log 98). -/
def execAttnBlockDone (camp op : Nat) (s : State) : Host.Outcome State Fault Refusal :=
  match s.campOp camp op with
  | none => .next s
  | some o =>
    match o.kind, o.phase with
    | .attn desc bs t t0 parent query, .granted 0 =>
      runEvent o.agent (do
        let r ← attempt (attnBlock o desc bs t t0 parent query)
        match r with
        | .ok _ => do
          dropOp camp op
          modify fun s => s.dropAnswers (engineWho o.agent)
          if attnEnd bs ≤ t0 + 64 then do
            noteComplete o.agent parent
            modify fun s => s.finishOp o.agent parent
        | .error x => do
          modify fun s => s.dropAnswers (engineWho o.agent)
          modOp camp op fun o => { o with phase := .held }
          modify fun s => s.holdFault o.agent parent o.lane x) s
    | .attn _ bs t _ parent _, .arrived _ _ =>
      if attnBegin bs == attnEnd bs && !s.blocked camp o then
        runEvent o.agent (do
          attnEmpty o bs t
          dropOp camp op
          noteComplete o.agent parent
          modify fun s => s.finishOp o.agent parent) s
      else .next s
    | _, _ => .next s

end Sys2Proof.Machine
end

