-- ==== Sys2Proof/Machine/Append.lean ====
section
/-! DEFINITION. Durable streams (spec/12): APND and AFNC, the append engine, and the storage processor's events. -/

namespace Sys2Proof.Machine

/-! ### The durable-length word and records (12 R279, R280) -/

/-- The binding of a stream, by its place in the list of logs. -/
def State.logOf (s : State) (part : Nat) (desc : DWord) : Option (Nat × FlashLog) :=
  ((List.range s.logs.length).zip s.logs).find? fun e => e.2.part == part && e.2.desc == desc

/-- Change a log. -/
def modLog (n : Nat) (f : FlashLog → FlashLog) : M Unit := modify fun s => { s with logs := s.logs.modify n f }

/-- The durable-length word of a log. -/
def FlashLog.word (g : FlashLog) : DWord := BitVec.ofNat 64 ((if g.err then 2 ^ 34 else 0) + 2 ^ 32 + g.dslot % 2 ^ 32)

/-- Slots of a record (12 R280). -/
def recordSlots (d : Desc) (len : Nat) : Nat := ceilDiv (32 + len) d.slotBytes

/-- Header of a record, with a CRC. -/
def headerBytes (len tag seq ns : Nat) (crc : Word) : List Byte :=
  leBytes 4 len ++ leBytes 2 tag ++ leBytes 2 0 ++ leBytes 4 seq ++ leBytes 4 ns ++ bytesOf 4 (crc.setWidth 64) ++ List.replicate 12 0

/-- A whole record in its slots (12 R280). -/
def recordBytes (d : Desc) (tag seq ns : Nat) (payload : List Byte) : List Byte :=
  let crc := crc32c (headerBytes payload.length tag seq ns 0 ++ payload)
  headerBytes payload.length tag seq ns crc ++ payload ++ List.replicate (ns * d.slotBytes - 32 - payload.length) 0

/-- The lowest RT a durable reservation may reach: R264's limit, and the log's slots (12 R282). -/
def durableLimit (d : Desc) (g : FlashLog) : Nat := Nat.min d.limit (g.size / d.slotBytes)

/-- The descriptor and binding of a durable stream for APND (12 R282). -/
def openDurable (v : Via) (va : DWord) : M (Desc × FlashLog) := do
  let d ← openDesc v va .atomic
  let s ← get
  match s.logOf (s.viaSpace v).part va with
  | some (_, g) => do
    require (d.dur && !g.err) .queueState va
    pure (d, g)
  | none => raise .queueState va

/-- Reserve the slots of a record (12 R282): its first slot, or a status. -/
def reserveRecord (v : Via) (va : DWord) (len : Nat) : M (Desc × Except Nat Nat) := do
  let (d, g) ← openDurable v va
  let r ← reserveSlots v d (recordSlots d len) (durableLimit d g)
  pure (d, r)

/-- APND (12 R282). -/
def execApnd (b : Base) (s : State) : Host.Outcome State Fault Refusal :=
  let f := formOf (.apnd b)
  runGroup f b false (onceHeld b fun l => do
    let x ← readSrcs f b l
    let s ← get
    let k := s.who
    let v ← laneVia
    let len := (loWord x.c).toNat
    let spad := b.e2.getLsbD 16
    let _ ← openDurable v x.a
    require (decide (len ≤ 65536)) .illegalOperand s.issue.word
    checkAlign x.b 16
    if spad then do
      require (hiWord x.b == 0) .illegalOperand x.b
      let _ ← spadRead k (loWord x.b) len
      pure ()
    roomFor .apn
    let (d, r) ← reserveRecord v x.a len
    match r with
    | .error c => pure (dstWrites b l .n32 (reserveWord (.error c)), some .held)
    | .ok seq => do
      let u ← countOp k l .apn
      let tag := (b.e2.extractLsb' 0 16).toNat
      modCore (coreOf k) fun y => { y with appends := y.appends ++
        [⟨u, k, l, x.a, seq, recordSlots d len, len, tag, spad, x.b, [], false, false, s.mode⟩] }
      pure (dstWrites b l .n32 (BitVec.ofNat 64 seq), some .held)) s

/-- The bytes of a range of one line that stand before its first uncorrectable sector. -/
def goodBytes (e : Append) (va : DWord) (n : Nat) : M (List Byte) := do
  let ph ← translateUnit e.agent e.uid e.mode false va .load
  let s ← get
  pure (s.mem.readN ph.pa (((List.range n).find? fun i => s.eccBad (ph.pa + i) 1).getD 0))

/-- Read on, line by line, from the place that an append holds: what it has then, and the fault that stops it at a byte (12 R282). -/
def readSource (e : Append) : List (Nat × Nat) → List Byte → M (List Byte × Option Trap)
  | [], got => pure (got, none)
  | c :: cs, got => do
    let va := e.src + BitVec.ofNat 64 (e.got.length + c.1)
    match ← attempt (engineRead e.agent e.uid e.mode false va c.2 0xD5) with
    | .ok bs => readSource e cs (got ++ bs)
    | .error t => do
      let bs ← attempt (goodBytes e va c.2)
      pure (got ++ (match bs with | .ok bs => bs | .error _ => []), some t)

/-- The source bytes of an append (12 R282), from its place on. -/
def appendSource (e : Append) : M (List Byte × Option Trap) := do
  if e.spad then
    match ← attempt (spadRead e.agent (loWord e.src) e.len) with
    | .ok bs => pure (bs, none)
    | .error t => pure ([], some t)
  else readSource e (lineChunks (e.src.toNat + e.got.length) (e.len - e.got.length)) e.got

/-- Write bytes over consecutive slots. -/
def writeSlots (v : Via) (d : Desc) : List Nat → List Byte → M Unit
  | [], _ => pure ()
  | i :: is, bs => do
    let (_, va) ← locate v d i
    viaWrite v va (bs.take d.slotBytes)
    writeSlots v d is (bs.drop d.slotBytes)

/-- Write a record into its slots. -/
def writeRecord (v : Via) (desc : DWord) (tag seq ns : Nat) (payload : List Byte) : M Unit := do
  let d ← openDesc v desc .load
  writeSlots v d (upTo seq (seq + ns)) (recordBytes d tag seq ns payload)

/-- Commit a record (12 R282): whether the commit was performed. -/
def commitRecord (v : Via) (desc : DWord) (seq ns : Nat) : M Bool := do
  let d ← openDesc v desc .atomic
  let r ← commitSlots v d seq ns
  if r == 0 then do
    settleParked
    pure true
  else pure false

/-- Change an append of a core. -/
def modAppend (c uid : Nat) (f : Append → Append) : M Unit :=
  modCore c fun x => { x with appends := x.appends.map fun e => if e.uid == uid then f e else e }

/-- An append stops at a fault, and holds its place (12 R282). -/
def holdAppend (e : Append) (got : List Byte) (t : Trap) : M Unit := do
  modAppend (coreOf e.agent) e.uid fun e => { e with got := got, held := true }
  modify fun s => s.holdFault e.agent e.uid e.lane t

/-- Write the record of an append, once, and commit it: whether that was performed. -/
def finishAppend (e : Append) (payload : List Byte) : M Bool := do
  let s ← get
  let v : Via := .unit e.agent e.uid e.mode false
  if s.dry e.agent e.uid then pure true
  else do
    if !e.written then writeRecord v e.desc e.tag e.seq e.ns payload
    commitRecord v e.desc e.seq e.ns

/-- The append engine goes on with an append: it reads the source, writes the record once, and commits it as often as BUSY asks. -/
def runAppend (e : Append) : M Unit := do
  if e.held then pure ()
  else do
    let (got, stop) ← if e.written then pure (e.got, none) else appendSource e
    match stop with
    | some t => holdAppend e got t
    | none =>
      match ← attempt (finishAppend e got) with
      | .error t => holdAppend e got t
      | .ok false => modAppend (coreOf e.agent) e.uid fun e => { e with got := got, written := true }
      | .ok true => do
        modCore (coreOf e.agent) fun x => { x with appends := x.appends.filter fun y => y.uid != e.uid }
        landTransfer e.agent e.uid e.lane 31 0

/-- The append of a name, on any core. -/
def State.findAppend (s : State) (uid : Nat) : Option Append :=
  (s.cores.flatMap fun e => e.2.appends).find? fun a => a.uid == uid

/-- APPEND_TRANSFER (12 R282). -/
def execAppendTransfer (uid : Nat) (s : State) : Host.Outcome State Fault Refusal :=
  match s.findAppend uid with
  | none => .next s
  | some e => if (s.partyOf e.agent).halted then .next s else runEvent e.agent (runAppend e) s

/-! ### AFNC (12 R284) -/

/-- AFNC's capture (12 R284): the stream's binding, and RT as its descriptor's home slice has it. -/
def captureTail (b : Base) (l : Nat) : M (Nat × Nat) := do
  let x ← readSrcs (formOf (.afnc b)) b l
  let v ← laneVia
  let d ← openDesc v x.a .load
  let s ← get
  match s.logOf (s.partOf s.who) x.a with
  | some (n, _) => do
    require d.dur .queueState x.a
    pure (n, d.rt)
  | none => raise .queueState x.a

/-- AFNC for lanes that have captured one slot: they go on once it is durable; a failed log traps the lowest of them (12 R284). -/
def awaitTail (s : State) (lanes : List Nat) (n upto : Nat) : GroupOut :=
  let fail := fun (val : DWord) => { traps := (lanes.take 1).map fun l => (l, ⟨.queueState, 0, val, false⟩) }
  match s.logs[n]? with
  | none => fail 0
  | some g =>
    if upto ≤ g.dslot then { outs := lanes.map fun l => (l, {}) }
    else if g.err then fail g.word
    else { outs := lanes.map fun l => (l, { stay := some (.durable n upto) }) }

/-- What each lane of the issue has captured for an AFNC that it waits at. -/
def State.captured (s : State) (l : Nat) : Option (Nat × Nat) :=
  match (s.lane s.who l).step with
  | some (.durable n upto) => some (n, upto)
  | _ => none

/-- The outcomes of parts of a group, as one. -/
def GroupOut.and (g h : GroupOut) : GroupOut := { traps := g.traps ++ h.traps, outs := g.outs ++ h.outs, after := g.after ++ h.after }

/-- AFNC (12 R284): lanes that come to it capture RT once for all of them, and lanes that wait there already go on with what they
captured. -/
def execAfnc (b : Base) (s : State) : Host.Outcome State Fault Refusal :=
  runGroup (formOf (.afnc b)) b false (do
    let s ← get
    let new := (s.acting b).filter fun l => (s.captured l).isNone
    let held := ((s.acting b).filterMap s.captured).eraseDups
    let old := held.foldl (fun g c => g.and (awaitTail s ((s.acting b).filter fun l => s.captured l == some c) c.1 c.2)) {}
    match new with
    | [] => pure old
    | l :: _ =>
      match ← attempt (captureTail b l) with
      | .error t => pure (old.and { traps := [(l, t)] })
      | .ok c => pure (old.and (awaitTail s new c.1 c.2))) s

/-! ### The storage processor (12 R278, R283, R286) -/

/-- The storage processor and the distributor act in S mode through a partition's bank on core 0 (11 R261, 13 R296). -/
def State.serviceVia (s : State) (part : Nat) : Via := .direct 0 0 (s.space 0 part .s) .s

/-- Write the durable-length word of a log. -/
def writeLength (n : Nat) : M Unit := do
  let s ← get
  match s.logs[n]? with
  | none => pure ()
  | some g => viaWrite (s.serviceVia g.part) g.dlw (bytesOf 8 g.word)

/-- Every 64 KiB page of a log is mapped readable in the flash tier. -/
def flashMapped (v : Via) (base : DWord) : List Nat → M Unit
  | [] => pure ()
  | i :: is => do
    let ph ← v.translate (base + BitVec.ofNat 64 (65536 * i)) .load
    require (tierOf ph.pa == some 2) .queueState base
    flashMapped v base is

/-- Bind a stream (12 R278), or refuse. -/
def bindStream (part : Nat) (req : List Byte) : M Unit := do
  let s ← get
  let v := s.serviceVia part
  let desc := BitVec.ofNat 64 (recField req 0 8)
  let base := BitVec.ofNat 64 (recField req 8 8)
  let size := recField req 16 8
  let dlw := BitVec.ofNat 64 (recField req 24 8)
  let d ← openDesc v desc .load
  let _ ← openPool v desc d
  require (recField req 32 32 == 0 && d.dur && d.cl == 0 && d.rt == 0) .queueState desc
  require (base.toNat % d.blockBytes == 0 && base.toNat % 65536 == 0 && size % d.blockBytes == 0) .queueState desc
  flashMapped v base (List.range (ceilDiv size 65536))
  checkAlign dlw 8
  let ph ← v.translate dlw .store
  require ((tierOf ph.pa).any (· < 2)) .queueState dlw
  let g : FlashLog := ⟨part, desc, base, size, dlw, false, 0⟩
  viaWrite v dlw (bytesOf 8 g.word)
  modify fun s => match s.logOf part desc with
    | some (n, _) => { s with logs := s.logs.set n g }
    | none => { s with logs := s.logs ++ [g] }

/-- An effect of the storage processor: where it meets a fault, nothing is done. -/
def runService (m : M Unit) (s : State) : Host.Outcome State Fault Refusal :=
  match attempt m s with
  | .ok (_, s') => .next s'
  | .error (.fault f) => .fault f
  | .error (.remote who p chip va n) => .next (s.askRemote who p chip va n).1
  | .error (.wait (.flash line)) => .next (s.startFlash line)
  | .error _ => .next s

/-- A cairn's function is ready (17 R375). -/
def State.cairnReady (s : State) (cairn : Nat) : Bool := (Sparse.find? s.platform.cairns cairn).any CairnStat.ready

/-- The next 64-byte request of a request sequence, whose descriptor lies at a physical address, after those that have been served. Its
structures are translated for the partition whose request it is (12 R278, 17 R381, assumption log 99). -/
def nextRequest (part pa served : Nat) : M (Option (List Byte)) := do
  let s ← get
  let d := Desc.parse (BitVec.ofNat 64 pa) (s.mem.readN pa 64)
  if d.freed || d.malformed || d.slotBytes < 64 || d.cl ≤ served then pure none
  else do
    let v := s.serviceVia part
    let (chip, va) ← locate v d served
    let bs ← locatedRead v (2 ^ 30) chip va 64 (comparator d (served / d.blockSlots))
    modify fun s => s.dropAnswers (2 ^ 30)
    pure (some bs)

/-- The storage processor serves a request of its sequence by its number, where it is the next one (12 R278): a refused one leaves the
durable-length word unchanged. -/
def serveBind (part request : Nat) : M Unit := do
  let s ← get
  if !s.cairnReady 12 || request != s.platform.storageDone then pure ()
  else
    match ← nextRequest part s.platform.storageSeq request with
    | none => pure ()
    | some req => do
      let _ ← attempt (bindStream part req)
      modify fun s => { s with platform := { s.platform with storageDone := s.platform.storageDone + 1 } }

/-- STORAGE_BIND_REQUEST (12 R278). -/
def execStorageBindRequest (part request : Nat) (s : State) : Host.Outcome State Fault Refusal := runService (serveBind part request) s

/-- Program the flash images of slots (12 R278): the storage processor alone writes flash. -/
def programSlots (v : Via) (d : Desc) (g : FlashLog) : List Nat → M Unit
  | [] => pure ()
  | i :: is => do
    let (chip, va) ← locate v d i
    let bs ← locatedRead v (2 ^ 30) chip va d.slotBytes (comparator d (i / d.blockSlots))
    let ph ← v.translate (g.base + BitVec.ofNat 64 (i * d.slotBytes)) .load
    modify fun s => { s with mem := s.mem.writeN ph.pa bs, badFlash := s.badFlash.filter fun x => x != ph.pa / 128 }
    programSlots v d g is

/-- The last end of whole records from a slot, none past a bound (12 R283). -/
def recordEnd (v : Via) (d : Desc) (bound : Nat) : Nat → Nat → M Nat
  | 0, at_ => pure at_
  | n + 1, at_ =>
    if bound ≤ at_ then pure at_
    else do
      let (_, va) ← locate v d at_
      let h ← viaRead v va 16 .load
      let ns := recField h 12 4
      if ns == 0 || bound < at_ + ns then pure at_ else recordEnd v d bound n (at_ + ns)

/-- Program committed slots of a log, as far as whole records go, and advance DSLOT to their end (12 R279, R283): a thermal halt finds the
log at a record boundary (17 R384). -/
def advanceLog (n slots : Nat) : M Unit := do
  let s ← get
  match s.logs[n]? with
  | none => pure ()
  | some g =>
    if g.err || s.platform.programStopped then pure ()
    else do
      let v := s.serviceVia g.part
      let d ← openDesc v g.desc .load
      let e ← recordEnd v d (Nat.min d.cl (g.dslot + slots)) slots g.dslot
      programSlots v d g (upTo g.dslot e)
      modify fun s => s.dropAnswers (2 ^ 30)
      modLog n fun g => { g with dslot := e }
      writeLength n

/-- DSLOT_ADVANCE (12 R283). -/
def execDslotAdvance (log slots : Nat) (s : State) : Host.Outcome State Fault Refusal := runService (advanceLog log slots) s

/-- FLASH_PROGRAM_FAIL (12 R279): ERR is set for good, and AFNCs that wait fail when they look again. -/
def execFlashProgramFail (log : Nat) (s : State) : Host.Outcome State Fault Refusal :=
  runService (do
    modLog log fun g => { g with err := true }
    writeLength log) s

/-- Demote a durable block to its log (12 R286): every slot durable, and the block not pinned. -/
def demoteBlock (n b : Nat) : M Unit := do
  let s ← get
  match s.logs[n]? with
  | none => pure ()
  | some g => do
    let v := s.serviceVia g.part
    let d ← openDesc v g.desc .load
    let p ← openPool v g.desc d
    let e ← readEntry v d.bt1 b .atomic
    if e.isOrigin && !e.w1.getLsbD 2 && e.tier < 2 && (b + 1) * d.blockSlots ≤ g.dslot then do
      let page := g.base + BitVec.ofNat 64 (b * d.blockBytes)
      writeEntry v d.bt1 b ⟨(page.extractLsb' 7 48).setWidth 64 <<< 16 ||| BitVec.ofNat 64 e.refs, e.w1 &&& ~~~(24 : DWord) ||| 16⟩
      pushBlock v p e.block

/-- BLOCK_DEMOTION (12 R286). -/
def execBlockDemotion (log block : Nat) (s : State) : Host.Outcome State Fault Refusal := runService (demoteBlock log block) s

/-! ### Power loss and recovery (12 R285) -/

/-- A physical write that recovery makes. -/
abbrev PhysWrite := Nat × List Byte

/-- The records of a log that verify, from slot 0: the end of the last good one. `flash` reads the log's images. -/
def goodEnd (d : Desc) (bound : Nat) (flash : Nat → Nat → List Byte) : Nat → Nat → Nat
  | 0, at_ => at_
  | n + 1, at_ =>
    let h := flash (at_ * d.slotBytes) 32
    let len := recField h 0 4
    let ns := recField h 12 4
    let body := flash (at_ * d.slotBytes + 32) len
    let ok := ns != 0 && decide (at_ + ns ≤ bound) && ns == recordSlots d len && recField h 8 4 == at_ &&
      BitVec.ofNat 32 (recField h 16 4) == crc32c (headerBytes len (recField h 4 2) at_ ns 0 ++ body)
    if ok then goodEnd d bound flash n (at_ + ns) else at_

/-- Physical address of a byte of a log. -/
def State.logPa (s : State) (g : FlashLog) (off : Nat) : Nat :=
  match (s.serviceVia g.part).translate (g.base + BitVec.ofNat 64 off) .load s with
  | .ok (ph, _) => ph.pa
  | .error _ => 0

/-- Bytes of a log's images. -/
def State.flashBytes (s : State) (g : FlashLog) (off n : Nat) : List Byte :=
  (List.range n).map fun i => s.mem.read (s.logPa g (off + i))

/-- The physical address of a virtual one for recovery. -/
def State.recoverPa (s : State) (g : FlashLog) (va : DWord) : Option Nat :=
  match (s.serviceVia g.part).translate va .load s with
  | .ok (ph, _) => some ph.pa
  | .error _ => none

/-- What recovery writes for a stream (12 R285): its descriptor, its table and its durable-length word. -/
def State.recovery (s : State) (g : FlashLog) (d : Desc) (raw : List Byte) (e : Nat) : List PhysWrite :=
  let at_ := fun (va : DWord) (bs : List Byte) => (s.recoverPa g va).toList.map fun pa => (pa, bs)
  let entry := fun (b : Nat) =>
    let page := g.base + BitVec.ofNat 64 (b * d.blockBytes)
    bytesOf 8 ((page.extractLsb' 7 48).setWidth 64 <<< 16 ||| 1) ++ bytesOf 8 (BitVec.ofNat 64 (s.chip * 32 + 16))
  at_ g.desc (leBytes 4 e ++ leBytes 4 e ++ (raw.drop 8).take 40 ++ List.replicate 16 0) ++
    (List.range (ceilDiv e d.blockSlots)).flatMap (fun b => at_ (entryVa d.bt1 b) (entry b)) ++
    at_ g.dlw (bytesOf 8 ({ g with dslot := e, err := false } : FlashLog).word)

/-- One log through a power loss: slots past DSLOT programmed whole, one more torn, and recovery's writes and end. Where a thermal halt
has stopped programming, none is programmed or torn (17 R384). -/
def State.recoverLog (s : State) (torn : Nat) (g : FlashLog) : Memory × List PhysWrite × FlashLog :=
  match (openDesc (s.serviceVia g.part) g.desc .load) s, (viaRead (s.serviceVia g.part) g.desc 64 .load) s with
  | .ok (d, _), .ok (raw, _) =>
    let upto := if s.platform.programStopped then g.dslot else Nat.min d.cl (g.dslot + torn)
    let s1 := match programSlots (s.serviceVia g.part) d g (upTo g.dslot upto) s with
      | .ok (_, s1) => s1
      | .error _ => s
    let tear := if upto < d.rt && !s.platform.programStopped then (List.range d.slotBytes).map (fun i => s1.logPa g (upto * d.slotBytes + i)) else []
    let mem := tear.foldl (fun m a => m.write a (Config.tornByte a)) s1.mem
    let s2 : State := { s1 with mem := mem }
    let e := goodEnd d upto (fun off n => s2.flashBytes g off n) upto 0
    (mem, s2.recovery g d raw e, { g with dslot := e, err := false })
  | _, _ => (s.mem, [], g)

/-- POWER_LOSS (12 R285): everything is as at reset but flash, the configuration region (17 R377), the bindings, and what recovery writes
back (assumption log 20). The chip number is that of the boot that follows (17 R379). -/
def execPowerLoss (torn : Nat) (s : State) : Host.Outcome State Fault Refusal :=
  let step := fun (acc : State × List PhysWrite × List FlashLog) (g : FlashLog) =>
    let (mem, ws, g') := acc.1.recoverLog torn g
    ({ acc.1 with mem := mem }, acc.2.1 ++ ws, acc.2.2 ++ [g'])
  let (s1, ws, logs) := s.logs.foldl step (s, [], [])
  let flash := s1.mem.filter fun e => tierOf e.1 == some 2
  .next { State.reset with
    mem := ws.foldl (fun m w => m.writeN w.1 w.2) flash
    badFlash := s.badFlash, logs := logs, platform := { State.reset.platform with region := s.platform.region }
    agenda := s.agenda, fresh := s.fresh, now := s.now, turn := s.turn, uid := s.uid }

end Sys2Proof.Machine
end

