-- ==== Sys2Proof/Machine/Fetch.lean ====
section
/-! DEFINITION. From an issue to an instruction: alignment, fetch, clause framing and decode (spec/05 R114, R121 to R123), each
with the fault that ends it. -/

namespace Sys2Proof.Machine

/-- What an issue becomes: an instruction to execute, or a state in which the issue is over. -/
inductive Prepared where
  | run (i : Instr) (s : State)
  | done (s : State)
  | fault (f : Fault)
  deriving DecidableEq, Repr

/-- Every lane of the issue takes a trap. -/
def State.faultAll (s : State) (c : Cause) (val : DWord) : State :=
  s.takeTraps s.who (s.issued.map fun l => (l, ⟨c, 0, val, false⟩))

/-- Opcode of a base word. -/
def opcOf (w : BitVec 64) : BitVec 8 := w.extractLsb' 2 8

/-- Length in bytes that LEN names; 8 for the code that names none. -/
def lenOf (w : BitVec 64) : Nat :=
  match Len.ofCode (w.extractLsb' 0 2) with
  | some n => n.bytes
  | none => 8

/-- The words of a fetched instruction. -/
def wordsOf (bs : List Byte) : Words :=
  ⟨BitVec.ofNat 64 (leNat (bs.take 8)), BitVec.ofNat 32 (leNat ((bs.drop 8).take 4)), BitVec.ofNat 32 (leNat ((bs.drop 12).take 4))⟩

/-- Some row has the opcode, under some FN. -/
def opcodeAssigned (w : BitVec 64) : Bool :=
  (List.range 8).any fun n => (Instr.ofOpcode (opcOf w) { Base.unpack .w64 w 0 0 with fn := BitVec.ofNat 3 n }).isSome

/-- A decode fault that every lane of the issue takes whatever its guard (05 R121): no opcode or guard is given by the word. -/
def unguardedFault (w : BitVec 64) : Bool :=
  (Len.ofCode (w.extractLsb' 0 2)).isNone || opcOf w == 1 || !opcodeAssigned w || (Base.unpack .w64 w 0 0).grd == 7

/-- A decode fault: taken by the lanes whose guard holds, with a value (05 R121, 08 R188); the others go on. A bound rope takes
it as a unit when the guard holds in a lane (09 R217). -/
def State.decodeFault (s : State) (ws : Words) (c : Cause) (val : DWord) : State :=
  let w := s.issue.word
  let b := Base.unpack ((Len.ofCode (w.extractLsb' 0 2)).getD .w64) w ws.e1 ws.e2
  if unguardedFault w || ((s.agent s.who).bound.isSome && !(s.acting b).isEmpty) then s.faultAll c val
  else
    let f := ((Instr.ofOpcode (opcOf w) b).bind Instr.form).getD { opc := opcOf w }
    s.retire { f with flagged := false } b { traps := (s.acting b).map fun l => (l, ⟨c, 0, val, false⟩) }

/-- Clause framing (05 R123, R124; REPEAT by 07 R159): the word may not stand here. -/
def badFrame (cl : Clause) (w : BitVec 64) : Bool :=
  let clh := opcOf w == 1
  if cl.isDue then !clh
  else clh || decide (cl.count ≤ cl.pos) || (opcOf w == 4 && cl.pos + 1 != cl.count)

/-- Fetch and decode the instruction of the issue in hand. -/
def State.prepare (s : State) : Prepared :=
  let pc := s.issue.pc
  let off := pc.toNat % 32
  if pc.toNat % 4 != 0 || decide (24 < off) then .done (s.faultAll .fetchAlign pc) else
  match fetch s.who s.mode pc 8 s with
  | .error (.trap t) => .done (s.takeTraps s.who (s.issued.map fun l => (l, t)))
  | .error (.wait w) => .done (s.noteWait s.who s.issued w)
  | .error (.miss f g) => .done (s.noteMiss s.who s.issued f g)
  | .error .mismatch => .done (s.noteMismatch s.who 1)
  | .error (.remote ..) | .error (.unitMiss ..) => .done s
  | .error (.fault f) => .fault f
  | .ok (bs, s1) =>
    let w := (wordsOf bs).base
    let n := lenOf w
    let s2 : State := { s1 with issue := { s1.issue with len := n, word := w } }
    if 32 < off + n then .done (s2.faultAll .fetchAlign pc)
    else if badFrame s2.clause w then .done (s2.faultAll .clauseFrame pc)
    else
      match fetch s2.who s2.mode pc n s2 with
      | .error _ => .done s2
      | .ok (all, s3) =>
        if agentBars s3.who s3.mode (opcOf w) then .done (s3.decodeFault (wordsOf all) .illegalInstruction w)
        else
          match decode (wordsOf all) with
          | .ok i => .run i s3
          | .error c => .done (s3.decodeFault (wordsOf all) c (if c == .clauseFrame then pc else w))

end Sys2Proof.Machine
end

