-- ==== Sys2Proof/Machine/Integer.lean ====
section
/-! DEFINITION. Integer and predicate instructions (spec/07 R160 to R166). -/

namespace Sys2Proof.Machine

/-! ### Packed pairs (05 R118) -/

/-- The low and high halves of a packed pair. -/
def halves (x : DWord) : DWord × DWord := ((x.setWidth 16).setWidth 64, ((x >>> 16).setWidth 16).setWidth 64)

/-- A packed pair of two 16-bit results. -/
def packHalves (lo hi : DWord) : DWord := (lo &&& 0xFFFF) ||| ((hi &&& 0xFFFF) <<< 16)

/-- An operation on each half alone. -/
def onHalves (f : DWord → DWord → DWord) (x y : DWord) : DWord :=
  packHalves (f (halves x).1 (halves y).1) (f (halves x).2 (halves y).2)

/-! ### Results -/

/-- An exact integer result, wrapped, or saturated with FN = 001 (07 R160); a packed form wraps each half. -/
def intResult (b : Base) (f : Ty → DWord → DWord → Int) (x : Operands) : DWord :=
  if b.ty == .pair then onHalves (fun p q => (pairElem b.fn).wrap (f (pairElem b.fn) p q)) x.a x.b
  else if b.fn == 1 then b.ty.sat (f b.ty x.a x.b)
  else b.ty.wrap (f b.ty x.a x.b)

/-- The bits of an operand of a type, as an unsigned number. -/
def rawBits (t : Ty) (x : DWord) : Nat := x.toNat % 2 ^ t.bits

def addResult (b : Base) (x : Operands) : DWord := intResult b (fun t p q => t.intVal p + t.intVal q) x
def subResult (b : Base) (x : Operands) : DWord := intResult b (fun t p q => t.intVal p - t.intVal q) x
def mulResult (b : Base) (x : Operands) : DWord := b.ty.wrap (b.ty.intVal x.a * b.ty.intVal x.b)
def mulhResult (b : Base) (x : Operands) : DWord := b.ty.wrap (b.ty.intVal x.a * b.ty.intVal x.b / 2 ^ b.ty.bits)
def madResult (b : Base) (x : Operands) : DWord := b.ty.wrap (b.ty.intVal x.a * b.ty.intVal x.b + b.ty.intVal x.c)

/-- MADW (07 R160): 64-bit result and addend of TY's signedness. -/
def madwResult (b : Base) (x : Operands) : DWord :=
  let t := OpTy.madw.of b
  t.wrap (b.ty.intVal x.a * b.ty.intVal x.b + t.intVal x.c)

/-- DIV (07 R161). -/
def divResult (b : Base) (x : Operands) : DWord :=
  if b.ty.intVal x.b = 0 then b.ty.wrap (-1) else b.ty.wrap ((b.ty.intVal x.a).tdiv (b.ty.intVal x.b))

/-- REM (07 R161). -/
def remResult (b : Base) (x : Operands) : DWord :=
  if b.ty.intVal x.b = 0 then b.ty.wrap (b.ty.intVal x.a) else b.ty.wrap ((b.ty.intVal x.a).tmod (b.ty.intVal x.b))

/-- MIN and MAX never leave the type's range, so the saturated form is the wrapped one. -/
def minResult (b : Base) (x : Operands) : DWord := intResult b (fun t p q => min (t.intVal p) (t.intVal q)) x
def maxResult (b : Base) (x : Operands) : DWord := intResult b (fun t p q => max (t.intVal p) (t.intVal q)) x
def absResult (b : Base) (x : Operands) : DWord := intResult b (fun t p _ => (t.intVal p).natAbs) x
def negResult (b : Base) (x : Operands) : DWord := intResult b (fun t p _ => -t.intVal p) x

def andResult (b : Base) (x : Operands) : DWord := b.ty.wrap ((x.a &&& x.b).toNat : Int)
def orResult (b : Base) (x : Operands) : DWord := b.ty.wrap ((x.a ||| x.b).toNat : Int)
def xorResult (b : Base) (x : Operands) : DWord := b.ty.wrap ((x.a ^^^ x.b).toNat : Int)
def notResult (b : Base) (x : Operands) : DWord := b.ty.wrap ((~~~x.a).toNat : Int)

/-- SHL (07 R160): 0 for an amount at or beyond the width. -/
def shlResult (b : Base) (x : Operands) : DWord :=
  if b.ty.bits ≤ x.b.toNat then 0 else b.ty.wrap ((rawBits b.ty x.a * 2 ^ x.b.toNat : Nat) : Int)

/-- SHR (07 R160): logical for n types, arithmetic for i types. -/
def shrResult (b : Base) (x : Operands) : DWord :=
  if b.ty.isSigned then b.ty.wrap (b.ty.intVal x.a / 2 ^ Nat.min x.b.toNat (b.ty.bits - 1))
  else if b.ty.bits ≤ x.b.toNat then 0
  else b.ty.wrap ((rawBits b.ty x.a / 2 ^ x.b.toNat : Nat) : Int)

/-- ROT (07 R160). -/
def rotResult (b : Base) (x : Operands) : DWord :=
  let w := b.ty.bits
  let n := x.b.toNat % w
  let left := if b.fn == 0 then n else (w - n) % w
  let u := rawBits b.ty x.a
  b.ty.wrap ((u * 2 ^ left % 2 ^ w + u / 2 ^ (w - left) : Nat) : Int)

/-- FSHF (07 R160). -/
def fshfResult (b : Base) (x : Operands) : DWord :=
  let w := b.ty.bits
  let n := x.c.toNat % w
  let u := rawBits b.ty x.a * 2 ^ w + rawBits b.ty x.b
  b.ty.wrap ((if b.fn == 0 then u * 2 ^ n / 2 ^ w else u / 2 ^ n : Nat) : Int)

/-- POPC (07 R160). -/
def popcResult (b : Base) (x : Operands) : DWord :=
  BitVec.ofNat 64 ((List.range b.ty.bits).filter fun i => x.a.getLsbD i).length

/-- CLZ (07 R160). -/
def clzResult (b : Base) (x : Operands) : DWord :=
  let u := rawBits b.ty x.a
  BitVec.ofNat 64 (if u = 0 then b.ty.bits else b.ty.bits - 1 - Nat.log2 u)

/-- BREV (07 R160). -/
def brevResult (b : Base) (x : Operands) : DWord :=
  BitVec.ofNat 64 ((List.range b.ty.bits).foldl (fun r i => 2 * r + (if x.a.getLsbD i then 1 else 0)) 0)

/-- BFE (07 R162). -/
def bfeResult (b : Base) (x : Operands) : DWord :=
  let pos := bitsOf x.b.toNat 7 0
  let len := bitsOf x.b.toNat 15 8
  let v := b.ty.intVal x.a / 2 ^ pos % 2 ^ len
  b.ty.wrap (if b.ty.isSigned && len != 0 && 2 ^ (len - 1) ≤ v then v - 2 ^ len else v)

/-- BFI (07 R162). -/
def bfiResult (b : Base) (x : Operands) : DWord :=
  let pos := bitsOf x.c.toNat 7 0
  let len := bitsOf x.c.toNat 15 8
  let w := b.ty.bits
  let a := rawBits b.ty x.a
  if len = 0 || w ≤ pos then b.ty.wrap a
  else
    let top := Nat.min (pos + len) w
    let field := rawBits b.ty x.b % 2 ^ (top - pos)
    b.ty.wrap ((a / 2 ^ top * 2 ^ top + field * 2 ^ pos + a % 2 ^ pos : Nat) : Int)

/-- LOP3 (07 R163): `d` is the old destination. -/
def lop3Result (b : Base) (d : DWord) (x : Operands) : DWord :=
  let t := b.litWord .ext 2 b.c
  let term := fun i =>
    if t.getLsbD i then
      (if i % 2 == 1 then x.a else ~~~x.a) &&& (if i / 2 % 2 == 1 then x.b else ~~~x.b) &&& (if i / 4 == 1 then d else ~~~d)
    else 0
  b.ty.wrap (((List.range 8).foldl (fun r i => r ||| term i) (0 : DWord)).toNat : Int)

/-- A condition on integers (05 R119). -/
def intCond (fn : BitVec 3) (p q : Int) : Bool :=
  match fn.toNat with
  | 0 => p == q | 1 => p != q | 2 => p < q | 3 => p ≤ q | 4 => q < p | _ => q ≤ p

/-- The comparison of ISETP and ISET (07 R164). -/
def intCompare (b : Base) (x : Operands) : Bool := intCond b.fn (b.ty.intVal x.a) (b.ty.intVal x.b)

/-- LEA (07 R160). -/
def leaResult (b : Base) (x : Operands) : DWord :=
  x.a + BitVec.ofInt 64 (b.ty.intVal x.b * 2 ^ predNumber b)

/-- MOV (07 R160). -/
def movResult (b : Base) (x : Operands) : DWord := BitVec.ofNat 64 (rawBits b.ty x.a)

/-- MOVI (07 R160): A plus the lane number times B; in a lead thread, A. -/
def moviResult (b : Base) (lead : Bool) (l : Nat) (x : Operands) : DWord :=
  if lead then movResult b x else b.ty.wrap (b.ty.intVal x.a + l * b.ty.intVal x.b)

/-- Byte `j` of an operand, by the signedness of the type. -/
def byteOf (t : Ty) (x : DWord) (j : Nat) : Int :=
  let v := x.toNat / 2 ^ (8 * j) % 256
  if t.isSigned && 128 ≤ v then (v : Int) - 256 else v

/-- DP4A (07 R160). -/
def dp4aResult (b : Base) (x : Operands) : DWord :=
  b.ty.wrap (b.ty.intVal x.c + ((List.range 4).map fun j => byteOf b.ty x.a j * byteOf b.ty x.b j).sum)

/-- SAD (07 R160). -/
def sadResult (b : Base) (x : Operands) : DWord :=
  b.ty.wrap (b.ty.intVal x.c +
    ((List.range 4).map fun j => ((byteOf .n32 x.a j - byteOf .n32 x.b j).natAbs : Int)).sum)

/-! ### Meanings -/

def execAdd (b : Base) (s : State) : Host.Outcome State Fault Refusal := runResult (formOf (.add b)) b b.ty (addResult b) s
def execSub (b : Base) (s : State) : Host.Outcome State Fault Refusal := runResult (formOf (.sub b)) b b.ty (subResult b) s
def execMul (b : Base) (s : State) : Host.Outcome State Fault Refusal := runResult (formOf (.mul b)) b b.ty (mulResult b) s
def execMulh (b : Base) (s : State) : Host.Outcome State Fault Refusal := runResult (formOf (.mulh b)) b b.ty (mulhResult b) s
def execMad (b : Base) (s : State) : Host.Outcome State Fault Refusal := runResult (formOf (.mad b)) b b.ty (madResult b) s
def execMadw (b : Base) (s : State) : Host.Outcome State Fault Refusal :=
  runResult (formOf (.madw b)) b (OpTy.madw.of b) (madwResult b) s
def execDiv (b : Base) (s : State) : Host.Outcome State Fault Refusal := runResult (formOf (.div b)) b b.ty (divResult b) s
def execRem (b : Base) (s : State) : Host.Outcome State Fault Refusal := runResult (formOf (.rem b)) b b.ty (remResult b) s
def execMin (b : Base) (s : State) : Host.Outcome State Fault Refusal := runResult (formOf (.min b)) b b.ty (minResult b) s
def execMax (b : Base) (s : State) : Host.Outcome State Fault Refusal := runResult (formOf (.max b)) b b.ty (maxResult b) s
def execAbs (b : Base) (s : State) : Host.Outcome State Fault Refusal := runResult (formOf (.abs b)) b b.ty (absResult b) s
def execNeg (b : Base) (s : State) : Host.Outcome State Fault Refusal := runResult (formOf (.neg b)) b b.ty (negResult b) s
def execAnd (b : Base) (s : State) : Host.Outcome State Fault Refusal := runResult (formOf (.and b)) b b.ty (andResult b) s
def execOr (b : Base) (s : State) : Host.Outcome State Fault Refusal := runResult (formOf (.or b)) b b.ty (orResult b) s
def execXor (b : Base) (s : State) : Host.Outcome State Fault Refusal := runResult (formOf (.xor b)) b b.ty (xorResult b) s
def execNot (b : Base) (s : State) : Host.Outcome State Fault Refusal := runResult (formOf (.not b)) b b.ty (notResult b) s
def execShl (b : Base) (s : State) : Host.Outcome State Fault Refusal := runResult (formOf (.shl b)) b b.ty (shlResult b) s
def execShr (b : Base) (s : State) : Host.Outcome State Fault Refusal := runResult (formOf (.shr b)) b b.ty (shrResult b) s
def execRot (b : Base) (s : State) : Host.Outcome State Fault Refusal := runResult (formOf (.rot b)) b b.ty (rotResult b) s
def execFshf (b : Base) (s : State) : Host.Outcome State Fault Refusal := runResult (formOf (.fshf b)) b b.ty (fshfResult b) s
def execPopc (b : Base) (s : State) : Host.Outcome State Fault Refusal := runResult (formOf (.popc b)) b .n32 (popcResult b) s
def execClz (b : Base) (s : State) : Host.Outcome State Fault Refusal := runResult (formOf (.clz b)) b .n32 (clzResult b) s
def execBrev (b : Base) (s : State) : Host.Outcome State Fault Refusal := runResult (formOf (.brev b)) b b.ty (brevResult b) s
def execBfe (b : Base) (s : State) : Host.Outcome State Fault Refusal := runResult (formOf (.bfe b)) b b.ty (bfeResult b) s
def execBfi (b : Base) (s : State) : Host.Outcome State Fault Refusal := runResult (formOf (.bfi b)) b b.ty (bfiResult b) s
def execLea (b : Base) (s : State) : Host.Outcome State Fault Refusal := runResult (formOf (.lea b)) b .n64 (leaResult b) s
def execMov (b : Base) (s : State) : Host.Outcome State Fault Refusal := runResult (formOf (.mov b)) b b.ty (movResult b) s
def execDp4a (b : Base) (s : State) : Host.Outcome State Fault Refusal := runResult (formOf (.dp4a b)) b b.ty (dp4aResult b) s
def execSad (b : Base) (s : State) : Host.Outcome State Fault Refusal := runResult (formOf (.sad b)) b b.ty (sadResult b) s

/-- The old value of the destination of an instruction in a lane (07 R163). -/
def oldDest (s : State) (b : Base) (l : Nat) (wide : Bool) : DWord :=
  if b.dk == .scl then s.readScl s.who b.dst.toNat wide else s.readVec s.who l b.dst.toNat wide

/-- LOP3 (07 R163). -/
def execLop3 (b : Base) (s : State) : Host.Outcome State Fault Refusal :=
  runAlu (formOf (.lop3 b)) b false (fun s l x => dstWrites b l b.ty (lop3Result b (oldDest s b l b.ty.is64) x)) s

/-- SEL (07 R160): A where the predicate is 1, else B. -/
def execSel (b : Base) (s : State) : Host.Outcome State Fault Refusal :=
  runAlu (formOf (.sel b)) b true (fun s l x => dstWrites b l b.ty (if s.predOf l (predNumber b) then x.a else x.b)) s

/-- MOVI (07 R160). -/
def execMovi (b : Base) (s : State) : Host.Outcome State Fault Refusal :=
  runAlu (formOf (.movi b)) b true (fun s l x => dstWrites b l b.ty (moviResult b (isLead s.who) l x)) s

/-- ISET (07 R164). -/
def execIset (b : Base) (s : State) : Host.Outcome State Fault Refusal :=
  runResult (formOf (.iset b)) b .n32 (fun x => if intCompare b x then 0xFFFFFFFF else 0) s

/-- The lanes whose comparison holds, as a scalar mask written once for the group (07 R164, R169). -/
def maskOut (f : Form) (b : Base) (test : Operands → Bool) : M GroupOut := do
  let s ← get
  match s.acting b with
  | [] => pure {}
  | l :: _ => do
    let r ← attempt (collect (s.acting b) fun j => do
      let x ← readSrcs f b j
      pure (j, test x))
    match r with
    | .error t => trapActing b t
    | .ok hits =>
      let m := maskOf ((hits.filter fun h => h.2).map (·.1))
      pure { outs := [(l, { writes := dstWrites b l .n32 (m.setWidth 64) })] }

/-- A compare that writes a predicate, or with a scalar destination a mask (07 R164, R169). -/
def runCompare (f : Form) (b : Base) (test : Operands → Bool) : State → Host.Outcome State Fault Refusal :=
  runGroup f b false do
    let s ← get
    if b.dk == .scl then maskOut f b test
    else eachLane (s.acting b) fun l => do
      let x ← readSrcs f b l
      pure { writes := predWrite l b.dst.toNat (test x) }

/-- ISETP (07 R164). -/
def execIsetp (b : Base) (s : State) : Host.Outcome State Fault Refusal :=
  runCompare (formOf (.isetp b)) b (intCompare b) s

/-- The carry-in of ADDX and SUBX: FN names the predicate, 7 for none (07 R165). -/
def carryIn (s : State) (b : Base) (l : Nat) : Nat := if b.fn != 7 && s.predOf l b.fn.toNat then 1 else 0

/-- ADDX (07 R165). -/
def execAddx (b : Base) (s : State) : Host.Outcome State Fault Refusal :=
  runAlu (formOf (.addx b)) b true (fun s l x =>
    let t := rawBits b.ty x.a + rawBits b.ty x.b + carryIn s b l
    dstWrites b l b.ty (b.ty.wrap t) ++ predWrite l (predNumber b) (decide (2 ^ b.ty.bits ≤ t))) s

/-- SUBX (07 R165). -/
def execSubx (b : Base) (s : State) : Host.Outcome State Fault Refusal :=
  runAlu (formOf (.subx b)) b true (fun s l x =>
    let t : Int := rawBits b.ty x.a - rawBits b.ty x.b - carryIn s b l
    dstWrites b l b.ty (b.ty.wrap t) ++ predWrite l (predNumber b) (decide (t < 0))) s

/-- The operation of PLOP (07 R166). -/
def plopValue (fn : BitVec 3) (p q : Bool) : Bool :=
  match fn.toNat with
  | 0 => p && q | 1 => p || q | 2 => p != q | 3 => p && !q | 4 => p || !q | 5 => p == q | 6 => !p | _ => p

/-- PLOP (07 R166). -/
def execPlop (b : Base) (s : State) : Host.Outcome State Fault Refusal :=
  runLanes (formOf (.plop b)) b (fun l => do
    let s ← get
    let p := s.predOf l (b.litWord .ext 0 b.a).toNat
    let q := s.predOf l (b.litWord .ext 1 b.b).toNat
    pure { writes := predWrite l b.dst.toNat (plopValue b.fn p q) }) s

/-- P2V (07 R166). -/
def execP2v (b : Base) (s : State) : Host.Outcome State Fault Refusal :=
  runLanes (formOf (.p2v b)) b (fun l => do
    let s ← get
    let v := (List.range 8).foldl (fun r i => if s.predOf l i then r + 2 ^ i else r) 0
    pure { writes := dstWrites b l .n32 (BitVec.ofNat 64 v) }) s

/-- V2P (07 R166). -/
def execV2p (b : Base) (s : State) : Host.Outcome State Fault Refusal :=
  runLanes (formOf (.v2p b)) b (fun l => do
    let x ← readSrcs (formOf (.v2p b)) b l
    let mask := b.litWord .ext 1 b.b
    pure { writes := ((List.range 7).filter fun i => mask.getLsbD i).flatMap fun i => predWrite l i (x.a.getLsbD i) }) s

end Sys2Proof.Machine
end

