-- ==== Sys2Proof/Machine/Float.lean ====
section
/-! DEFINITION. Floating-point instructions and special functions (spec/07 R167 to R172). -/

namespace Sys2Proof.Machine

/-- An exact floating result of A and B, rounded once in the mode; packed forms round each half by RNE (07 R167). The
function is told whether the mode rounds down, which decides the sign of an exact zero sum (06 R143). -/
def floatResult (b : Base) (f : Bool → FVal → FVal → FVal) (x : Operands) : DWord :=
  if b.ty == .pair then
    let t := pairElem b.fn
    onHalves (fun p q => t.fround (f false (t.fval p) (t.fval q)) .rne) x.a x.b
  else
    let m := RMode.ofFn b.fn 0
    b.ty.fround (f (m == .rd) (b.ty.fval x.a) (b.ty.fval x.b)) m

def faddResult (b : Base) (x : Operands) : DWord := floatResult b FVal.add x
def fsubResult (b : Base) (x : Operands) : DWord := floatResult b (fun d p q => p.add d q.neg) x
def fmulResult (b : Base) (x : Operands) : DWord := floatResult b (fun _ => FVal.mul) x
def fminResult (b : Base) (x : Operands) : DWord := floatResult b (fun _ => FVal.min) x
def fmaxResult (b : Base) (x : Operands) : DWord := floatResult b (fun _ => FVal.max) x
def fabsResult (b : Base) (x : Operands) : DWord := floatResult b (fun _ p _ => p.abs) x
def fnegResult (b : Base) (x : Operands) : DWord := floatResult b (fun _ p _ => p.neg) x

/-- FFMA (07 R167): one rounding of a × b + c. -/
def ffmaResult (b : Base) (x : Operands) : DWord :=
  if b.ty == .pair then
    let t := pairElem b.fn
    let one := fun (p q r : DWord) => t.fround (((t.fval p).mul (t.fval q)).add false (t.fval r)) .rne
    packHalves (one (halves x.a).1 (halves x.b).1 (halves x.c).1) (one (halves x.a).2 (halves x.b).2 (halves x.c).2)
  else
    let m := RMode.ofFn b.fn 0
    b.ty.fround (((b.ty.fval x.a).mul (b.ty.fval x.b)).add (m == .rd) (b.ty.fval x.c)) m

/-- A condition on floating values (05 R119). -/
def floatCond (fn : BitVec 3) (p q : FVal) : Bool :=
  match fn.toNat with
  | 0 => p.eq q | 1 => !p.eq q | 2 => p.lt q | 3 => p.lt q || p.eq q | 4 => q.lt p | 5 => q.lt p || p.eq q
  | 6 => !p.isNan && !q.isNan | _ => p.isNan || q.isNan

/-- The comparison of FSETP and FSET (07 R169). -/
def floatCompare (b : Base) (x : Operands) : Bool := floatCond b.fn (b.ty.fval x.a) (b.ty.fval x.b)

/-- Number of the class of an encoding (07 R169). -/
def classOf (f : Fmt) (x : Nat) : Nat :=
  let neg := x / 2 ^ (f.ebits + f.mbits) % 2 == 1
  match f.decode x with
  | .nan => 8
  | .inf _ => if neg then 0 else 7
  | .zero _ => if neg then 3 else 4
  | .fin _ _ =>
    if x / 2 ^ f.mbits % 2 ^ f.ebits == 0 then (if neg then 2 else 5) else (if neg then 1 else 6)

/-- FCLASS (07 R169). -/
def fclassResult (b : Base) (x : Operands) : DWord :=
  BitVec.ofNat 64 (2 ^ classOf b.ty.fmt (x.a.toNat % 2 ^ b.ty.fmt.bits))

/-- A special function of f32, rounded once by RNE (06 R146). -/
def sfuResult (f : FVal → FVal) (x : Operands) : DWord := Ty.f32.fround (f (Ty.f32.fval x.a)) .rne

/-- FDIV (06 R147). -/
def fdivResult (x : Operands) : DWord := Ty.f32.fround ((Ty.f32.fval x.a).div (Ty.f32.fval x.b)) .rne

/-- FRND (07 R171): an integer value that keeps the operand's sign when it is zero. -/
def frndValue (m : RMode) : FVal → FVal
  | .fin n d => .ofQuot (decide (n < 0)) (roundInt m n d) 1
  | v => v

/-- The rounded value is always representable; infinities stay (07 R171). -/
def frndResult (b : Base) (x : Operands) : DWord :=
  b.ty.fround (frndValue (RMode.ofFn b.fn 0) (b.ty.fval x.a)) .rne

/-- A value times a power of two; exponents beyond ±1,000 round alike for every format. -/
def scaleValue (e : Int) : FVal → FVal
  | .fin n d =>
    let e := max (-1000) (min 1000 e)
    if 0 ≤ e then .fin (n * 2 ^ e.toNat) d else .fin n (d * 2 ^ (-e).toNat)
  | v => v

/-- FSCL (07 R171): NaN, infinities and zeros return themselves. -/
def fsclResult (b : Base) (x : Operands) : DWord :=
  match b.ty.fval x.a with
  | .inf n => b.ty.fround (.inf n) .rne
  | v => b.ty.fround (scaleValue (Ty.i32.intVal x.b) v) (RMode.ofFn b.fn 0)

/-- The exponent `e` of `f × 2^e` with 0.5 ≤ |f| < 1 (07 R171). -/
def ffrxExp : FVal → Int
  | .fin n d => log2Quot n.natAbs d + 1
  | _ => 0

/-- FFRX (07 R171): the significand in TY, or the exponent as i32. -/
def ffrxResult (b : Base) (x : Operands) : DWord :=
  let v := b.ty.fval x.a
  if b.fn == 0 then b.ty.fround (scaleValue (-ffrxExp v) v) .rne else Ty.i32.wrap (ffrxExp v)

/-- FDOT2 (07 R172): an exact sum of three terms, rounded once. -/
def fdot2Result (b : Base) (x : Operands) : DWord :=
  let t := pairElem b.fn
  let prod := fun (p q : DWord) => (t.fval p).mul (t.fval q)
  Ty.f32.fround (sumTerms [Ty.f32.fval x.c, prod (halves x.a).1 (halves x.b).1, prod (halves x.a).2 (halves x.b).2]) .rne

/-! ### Meanings -/

def execFadd (b : Base) (s : State) : Host.Outcome State Fault Refusal := runResult (formOf (.fadd b)) b b.ty (faddResult b) s
def execFsub (b : Base) (s : State) : Host.Outcome State Fault Refusal := runResult (formOf (.fsub b)) b b.ty (fsubResult b) s
def execFmul (b : Base) (s : State) : Host.Outcome State Fault Refusal := runResult (formOf (.fmul b)) b b.ty (fmulResult b) s
def execFfma (b : Base) (s : State) : Host.Outcome State Fault Refusal := runResult (formOf (.ffma b)) b b.ty (ffmaResult b) s
def execFmin (b : Base) (s : State) : Host.Outcome State Fault Refusal := runResult (formOf (.fmin b)) b b.ty (fminResult b) s
def execFmax (b : Base) (s : State) : Host.Outcome State Fault Refusal := runResult (formOf (.fmax b)) b b.ty (fmaxResult b) s
def execFabs (b : Base) (s : State) : Host.Outcome State Fault Refusal := runResult (formOf (.fabs b)) b b.ty (fabsResult b) s
def execFneg (b : Base) (s : State) : Host.Outcome State Fault Refusal := runResult (formOf (.fneg b)) b b.ty (fnegResult b) s
def execFclass (b : Base) (s : State) : Host.Outcome State Fault Refusal :=
  runResult (formOf (.fclass b)) b .n32 (fclassResult b) s
def execFrnd (b : Base) (s : State) : Host.Outcome State Fault Refusal := runResult (formOf (.frnd b)) b b.ty (frndResult b) s
def execFscl (b : Base) (s : State) : Host.Outcome State Fault Refusal := runResult (formOf (.fscl b)) b b.ty (fsclResult b) s
def execFdot2 (b : Base) (s : State) : Host.Outcome State Fault Refusal :=
  runResult (formOf (.fdot2 b)) b .f32 (fdot2Result b) s
def execFrcp (b : Base) (s : State) : Host.Outcome State Fault Refusal :=
  runResult (formOf (.frcp b)) b .f32 (sfuResult frcpVal) s
def execFrsq (b : Base) (s : State) : Host.Outcome State Fault Refusal :=
  runResult (formOf (.frsq b)) b .f32 (sfuResult frsqVal) s
def execFsqrt (b : Base) (s : State) : Host.Outcome State Fault Refusal :=
  runResult (formOf (.fsqrt b)) b .f32 (sfuResult fsqrtVal) s
def execFdiv (b : Base) (s : State) : Host.Outcome State Fault Refusal := runResult (formOf (.fdiv b)) b .f32 fdivResult s
def execFex2 (b : Base) (s : State) : Host.Outcome State Fault Refusal :=
  runResult (formOf (.fex2 b)) b .f32 (sfuResult fex2Val) s
def execFlg2 (b : Base) (s : State) : Host.Outcome State Fault Refusal :=
  runResult (formOf (.flg2 b)) b .f32 (sfuResult flg2Val) s
def execFsin (b : Base) (s : State) : Host.Outcome State Fault Refusal :=
  runResult (formOf (.fsin b)) b .f32 (sfuResult fsinVal) s
def execFcos (b : Base) (s : State) : Host.Outcome State Fault Refusal :=
  runResult (formOf (.fcos b)) b .f32 (sfuResult fcosVal) s
def execFtanh (b : Base) (s : State) : Host.Outcome State Fault Refusal :=
  runResult (formOf (.ftanh b)) b .f32 (sfuResult ftanhVal) s

/-- FFRX (07 R171): the exponent form writes an i32. -/
def execFfrx (b : Base) (s : State) : Host.Outcome State Fault Refusal :=
  runAlu (formOf (.ffrx b)) b false
    (fun _ l x => dstWrites b l (if b.fn == 0 then b.ty else .i32) (ffrxResult b x)) s

/-- FSETP (07 R169). -/
def execFsetp (b : Base) (s : State) : Host.Outcome State Fault Refusal :=
  runCompare (formOf (.fsetp b)) b (floatCompare b) s

/-- FSET (07 R169): 1.0 in f32 or +0. -/
def execFset (b : Base) (s : State) : Host.Outcome State Fault Refusal :=
  runResult (formOf (.fset b)) b .f32 (fun x => if floatCompare b x then 0x3F800000 else 0) s

end Sys2Proof.Machine
end

