-- ==== Sys2Proof/Machine/Convert.lean ====
section
/-! DEFINITION. Conversion, block quantisation and random numbers (spec/07 R173 to R177). -/

namespace Sys2Proof.Machine

/-! ### The RAND stream (07 R176) -/

/-- `lane_word` of a lane (07 R176). -/
def laneWord (k l : Nat) : Word :=
  if isLead k then 32 else if isProducer k then BitVec.ofNat 32 (64 + l) else BitVec.ofNat 32 l

/-- `rope_word` of an agent (07 R176). -/
def ropeWord (s : State) (k : Nat) : Word :=
  let rope := if isLead k || isProducer k then 0 else (s.agent k).rope
  BitVec.ofNat 32 (16 * (s.partyOf k).partyId + rope)

/-- `next_word` (07 R176): the lane's stream word, its position advanced. -/
def nextWord (k l : Nat) : M Word := do
  let s ← get
  let p := (s.lane k l).randPos
  modLane k l fun x => { x with randPos := p + 1 }
  pure (streamWord (s.agent k).key p (laneWord k l) (ropeWord s k))

/-- The word that a stochastic conversion draws; the other modes draw none (06 R142). -/
def drawFor (fn : BitVec 3) (l : Nat) : M Nat := do
  let s ← get
  if fn == 5 then do
    let w ← nextWord s.who l
    pure w.toNat
  else pure 0

/-! ### Conversion -/

/-- CVT (07 R173). -/
def cvtResult (b : Base) (u : Nat) (x : Operands) : DWord :=
  convert b.ty (Ty.ofCode (b.e1.extractLsb' 28 4)) x.a (RMode.ofFn b.fn u) (b.e1.getLsbD 27)

/-- A conversion that may draw words: operands, then the draws, then the result, in each acting lane or once. From whose stream a scalar
destination's one computation draws, 06 R142 and 07 R173 leave open: the lowest lane whose guard holds, as the model's choice (assumption
log 96). -/
def runConvert (f : Form) (b : Base) (t : Ty) (draws : Nat) (g : List Nat → Operands → DWord) :
    State → Host.Outcome State Fault Refusal :=
  let act := fun l => do
    let x ← readSrcs f b l
    let us ← collect (List.range draws) fun _ => drawFor b.fn l
    pure { writes := dstWrites b l t (g us x) }
  if b.dk == .scl then runOnce f b act else runLanes f b act

def execCvt (b : Base) (s : State) : Host.Outcome State Fault Refusal :=
  runConvert (formOf (.cvt b)) b b.ty 1 (fun us x => cvtResult b (us.headD 0) x) s

/-- PACK (07 R174). -/
def packResult (b : Base) (us : List Nat) (x : Operands) : DWord :=
  let one := fun i (v : DWord) => b.ty.fround (Ty.f32.fval v) (RMode.ofFn b.fn (us.getD i 0))
  let lo := one 0 x.a
  let hi := one 1 x.b
  if b.ty.bits == 16 then lo ||| (hi <<< 16) else lo ||| (hi <<< 8) ||| ((x.c &&& 0xFFFF) <<< 16)

def execPack (b : Base) (s : State) : Host.Outcome State Fault Refusal :=
  runConvert (formOf (.pack b)) b .n32 2 (packResult b) s

/-- UNPK (07 R174): element `k` of A, widened exactly. -/
def unpkResult (b : Base) (x : Operands) : DWord :=
  let k := (b.litWord .ext 1 b.b).toNat
  let e := (x.a >>> (k * b.ty.bits)) &&& BitVec.ofNat 64 (2 ^ b.ty.bits - 1)
  if b.ty.isInt then (if b.ty.isSigned then Ty.i32.wrap (b.ty.intVal e) else e)
  else Ty.f32.fround (b.ty.fval e) .rne

def execUnpk (b : Base) (s : State) : Host.Outcome State Fault Refusal :=
  runResult (formOf (.unpk b)) b .n32 (unpkResult b) s

/-! ### Block quantisation (07 R175) -/

/-- The scale and packed elements of a block, each element with its own drawn word (06 R145). -/
def quantBlock (fn : BitVec 3) (xs : List FVal) (us : List Nat) : Nat × Nat :=
  let scale := quantScale (blockMax xs)
  let elem := fun i => quantElem scale (xs.getD i (.zero false)) (RMode.ofFn fn (us.getD i 0))
  (scale, (List.range 8).foldl (fun r i => r + elem i * 16 ^ i) 0)

/-- QNT: sources and draws of every acting lane first, then the block of each group of 8 lanes. -/
def qntGroup (f : Form) (b : Base) : M GroupOut := do
  let s ← get
  let act := s.acting b
  let vals ← collect act fun l => do
    let x ← readSrcs f b l
    let u ← drawFor b.fn l
    pure (l, Ty.f32.fval x.a, u)
  let at_ := fun (l : Nat) => (vals.find? fun v => v.1 == l).map (·.2)
  let out := fun (l : Nat) =>
    let g := l / 8 * 8
    let xs := (List.range 8).map fun i => ((at_ (g + i)).map (·.1)).getD (.zero false)
    let us := (List.range 8).map fun i => ((at_ (g + i)).map (·.2)).getD 0
    let (scale, word) := quantBlock b.fn xs us
    regWrites b l b.dst.toNat true (joinWords (BitVec.ofNat 32 scale) (BitVec.ofNat 32 word))
  pure { outs := act.map fun l => (l, { writes := out l }) }

/-- QNT (07 R175). -/
def execQnt (b : Base) (s : State) : Host.Outcome State Fault Refusal :=
  let f := formOf (.qnt b)
  runGroup f b false (do
    let s ← get
    if b.dk == .scl && !isLead s.who then trapActing b ⟨.illegalOperand, 0, s.issue.word, false⟩
    else do
      let r ← attempt (qntGroup f b)
      match r with
      | .ok g => pure g
      | .error t => trapActing b t) s

/-- DQNT (07 R175): element of the lane's place in its group, times the scale. A negative element times the scale 0 is −0, the sign of an
IEEE product, where 06 R145 states none: the model's choice (assumption log 97). -/
def dqntResult (l : Nat) (x : Operands) : DWord :=
  let e := e2m1Fmt.decode ((loWord x.a).toNat / 16 ^ (l % 8) % 16)
  Ty.f32.fround (e.mul (e3m5Val ((hiWord x.a).toNat % 256))) .rne

def execDqnt (b : Base) (s : State) : Host.Outcome State Fault Refusal :=
  runAlu (formOf (.dqnt b)) b true (fun _ l x => dstWrites b l .f32 (dqntResult l x)) s

/-- SCLC (07 R175). -/
def execSclc (b : Base) (s : State) : Host.Outcome State Fault Refusal :=
  runResult (formOf (.sclc b)) b .n32 (fun x => BitVec.ofNat 64 (quantScale (Ty.f32.fval x.a).abs)) s

/-! ### RAND (07 R177) -/

/-- A RAND form that a scalar destination makes ILLEGAL_OPERAND outside a lead thread. -/
def runRand (f : Form) (b : Base) (act : Nat → M LaneOut) : State → Host.Outcome State Fault Refusal :=
  runGroup f b false do
    let s ← get
    if b.dk == .scl && !isLead s.who then trapActing b ⟨.illegalOperand, 0, s.issue.word, false⟩
    else eachLane (s.acting b) act

def execRandNext (b : Base) (s : State) : Host.Outcome State Fault Refusal :=
  runRand (formOf (.randNext b)) b (fun l => do
    let s ← get
    let w ← nextWord s.who l
    pure { writes := dstWrites b l .n32 (w.setWidth 64) }) s

/-- RAND.blk: the next whole block, and the position after it. -/
def execRandBlk (b : Base) (s : State) : Host.Outcome State Fault Refusal :=
  runRand (formOf (.randBlk b)) b (fun l => do
    let s ← get
    let k := s.who
    let n := ceilDiv (s.lane k l).randPos.toNat 4 % 2 ^ 62
    modLane k l fun x => { x with randPos := BitVec.ofNat 64 (4 * (n + 1)) }
    let ws := streamBlock (s.agent k).key (BitVec.ofNat 64 n) (laneWord k l) (ropeWord s k)
    pure { writes := (List.range 4).flatMap fun i => regWrites b l (b.dst.toNat + i) false ((ws.getD i 0).setWidth 64) }) s

def execRandRdpos (b : Base) (s : State) : Host.Outcome State Fault Refusal :=
  runRand (formOf (.randRdpos b)) b (fun l => do
    let s ← get
    pure { writes := dstWrites b l .n64 (s.lane s.who l).randPos }) s

def execRandWrpos (b : Base) (s : State) : Host.Outcome State Fault Refusal :=
  runLanes (formOf (.randWrpos b)) b (fun l => do
    let x ← readSrcs (formOf (.randWrpos b)) b l
    let s ← get
    modLane s.who l fun y => { y with randPos := x.a }
    pure {}) s

def execRandSkip (b : Base) (s : State) : Host.Outcome State Fault Refusal :=
  runLanes (formOf (.randSkip b)) b (fun l => do
    let x ← readSrcs (formOf (.randSkip b)) b l
    let s ← get
    modLane s.who l fun y => { y with randPos := y.randPos + x.a }
    pure {}) s

/-- RAND.wrkey: the key of the rope, lead or producer slot, once per issue group. -/
def execRandWrkey (b : Base) (s : State) : Host.Outcome State Fault Refusal :=
  runOnce (formOf (.randWrkey b)) b (fun l => do
    let x ← readSrcs (formOf (.randWrkey b)) b l
    let s ← get
    modAgent s.who fun a => { a with key := x.a }
    pure {}) s

end Sys2Proof.Machine
end

