-- ==== Sys2Proof/Machine/CrossLane.lean ====
section
/-! DEFINITION. Cross-lane instructions and RDSR (spec/07 R153, R178 to R183). The participants are the lanes of the issue whose
guard holds. -/

namespace Sys2Proof.Machine

/-- The operands of every participant, in lane order; a fault in reading them is every participant's. -/
def participants (f : Form) (b : Base) (k : List (Nat × Operands) → M GroupOut) : M GroupOut := do
  let s ← get
  let r ← attempt (collect (s.acting b) fun l => do
    let x ← readSrcs f b l
    pure (l, x))
  match r with
  | .ok xs => k xs
  | .error t => trapActing b t

/-- A cross-lane instruction: from every participant's operands to every participant's writes; nothing without participants. -/
def runCross (f : Form) (b : Base) (g : List (Nat × Operands) → Nat → List (Dest × Word)) :
    State → Host.Outcome State Fault Refusal :=
  runGroup f b false <| participants f b fun xs =>
    pure { outs := (if b.dk == .scl then xs.take 1 else xs).map fun x => (x.1, { writes := g xs x.1 }) }

/-- The operands of a participant. -/
def operandsOf (xs : List (Nat × Operands)) (l : Nat) : Option Operands := (xs.find? fun x => x.1 == l).map (·.2)

/-- The source lane of SHFL (07 R178); none when it lies outside 0 to 31. -/
def shflSource (fn : BitVec 3) (l b : Nat) : Option Nat :=
  let src : Int := match fn.toNat with
    | 0 => (b % 32 : Nat)
    | 1 => (l : Int) - b
    | 2 => l + b
    | _ => (l ^^^ (b % 32) : Nat)
  if 0 ≤ src && src < 32 then some src.toNat else none

/-- SHFL (07 R178). -/
def execShfl (b : Base) (s : State) : Host.Outcome State Fault Refusal :=
  runCross (formOf (.shfl b)) b (fun xs l =>
    let own := (operandsOf xs l).getD ⟨0, 0, 0⟩
    let v := match (shflSource b.fn l own.b.toNat).bind (operandsOf xs) with
      | some y => y.a
      | none => own.a
    dstWrites b l b.ty v) s

/-- The participants whose predicate, named in A, is 1. -/
def voters (s : State) (b : Base) (ls : List Nat) : List Nat := ls.filter fun l => s.predOf l (b.litWord .ext 0 b.a).toNat

/-- VOTE (07 R179). -/
def execVote (b : Base) (s : State) : Host.Outcome State Fault Refusal :=
  runGroup (formOf (.vote b)) b false (do
    let s ← get
    let act := s.acting b
    let on := voters s b act
    let verdict := match b.fn.toNat with
      | 0 => on.length == act.length
      | 1 => !on.isEmpty
      | _ => on.isEmpty || on.length == act.length
    if b.fn == 3 then
      pure { outs := (if b.dk == .scl then act.take 1 else act).map fun l =>
        (l, { writes := dstWrites b l .n32 ((maskOf on).setWidth 64) }) }
    else pure { outs := act.map fun l => (l, { writes := predWrite l b.dst.toNat verdict }) }) s

/-- MATCH (07 R179). -/
def execMatchx (b : Base) (s : State) : Host.Outcome State Fault Refusal :=
  runCross (formOf (.matchx b)) b (fun xs l =>
    let own := (operandsOf xs l).map (·.a)
    dstWrites b l .n32 ((maskOf ((xs.filter fun x => some x.2.a == own).map (·.1))).setWidth 64)) s

/-- ELECT (07 R179): with a scalar destination it writes even without participants. -/
def execElect (b : Base) (s : State) : Host.Outcome State Fault Refusal :=
  runGroup (formOf (.elect b)) b false (do
    let s ← get
    let act := s.acting b
    if b.dk == .scl then
      let v := match act with | [] => 0xFFFFFFFF | l :: _ => BitVec.ofNat 64 l
      pure { outs := [(s.issued.headD 0, { writes := dstWrites b 0 .n32 v })] }
    else pure { outs := act.map fun l => (l, { writes := predWrite l b.dst.toNat (act.headD 0 == l) }) }) s

/-- Combine two values of an integer type: add, min, max, and, or, xor (07 R180). -/
def reduxOp (fn : Nat) (t : Ty) (p q : DWord) : DWord :=
  match fn with
  | 0 => t.wrap (t.intVal p + t.intVal q)
  | 1 => if t.intVal q < t.intVal p then q else p
  | 2 => if t.intVal p < t.intVal q then q else p
  | 3 => p &&& q
  | 4 => p ||| q
  | _ => p ^^^ q

/-- Combine a list of values; an empty list gives 0. -/
def foldOp (f : DWord → DWord → DWord) : List DWord → DWord
  | [] => 0
  | x :: xs => xs.foldl f x

/-- REDUX (07 R180). -/
def execRedux (b : Base) (s : State) : Host.Outcome State Fault Refusal :=
  runCross (formOf (.redux b)) b (fun xs l => dstWrites b l b.ty (foldOp (reduxOp b.fn.toNat b.ty) (xs.map (·.2.a)))) s

/-- SCANX (07 R180): the participants at or below a lane, or below it for the exclusive add. -/
def execScanx (b : Base) (s : State) : Host.Outcome State Fault Refusal :=
  runCross (formOf (.scanx b)) b (fun xs l =>
    let below := xs.filter fun x => if b.fn == 1 then x.1 < l else x.1 ≤ l
    let op := match b.fn.toNat with | 2 => 1 | 3 => 2 | _ => 0
    dstWrites b l b.ty (foldOp (reduxOp op b.ty) (below.map (·.2.a)))) s

/-- Combine two f32 values of FREDX (07 R181). -/
def fredxOp (fn : BitVec 3) (p q : Word) : Word :=
  let x := f32Val p
  let y := f32Val q
  rneF32 (match fn.toNat with | 0 => x.add false y | 1 => x.min y | _ => x.max y)

/-- One level of the pairwise tree. -/
def pairUp (f : Word → Word → Word) : List Word → List Word
  | x :: y :: t => f x y :: pairUp f t
  | xs => xs

/-- FREDX's tree over 32 values (07 R181). -/
def fredxTree (fn : BitVec 3) (xs : List Word) : Word :=
  let up := pairUp (fredxOp fn)
  (up (up (up (up (up xs))))).headD 0

/-- What a lane that does not participate contributes: −0.0, +∞ or −∞ (07 R181). -/
def fredxUnit (fn : BitVec 3) : Word :=
  match fn.toNat with | 0 => 0x80000000 | 1 => 0x7F800000 | _ => 0xFF800000

/-- FREDX (07 R181). -/
def execFredx (b : Base) (s : State) : Host.Outcome State Fault Refusal :=
  runCross (formOf (.fredx b)) b (fun xs l =>
    let vals := (List.range 32).map fun i => ((operandsOf xs i).map fun x => loWord x.a).getD (fredxUnit b.fn)
    dstWrites b l .f32 ((fredxTree b.fn vals).setWidth 64)) s

/-- BCAST (07 R182). -/
def execBcast (b : Base) (s : State) : Host.Outcome State Fault Refusal :=
  runCross (formOf (.bcast b)) b (fun xs l =>
    let first := (xs.headD (0, ⟨0, 0, 0⟩)).2
    dstWrites b l b.ty ((operandsOf xs (first.b.toNat % 32)).getD first).a) s

/-- The special register of an index in a lane (05 R110). Of ROPEID the spec says nothing for a producer, which
can read it in a handler alone: 16 is the model's choice (assumption log 107). -/
def specialReg (s : State) (k l i : Nat) : DWord :=
  let p := s.partyOf k
  let c := coreOf k
  match i with
  | 0 => if isLead k then 0 else BitVec.ofNat 64 l
  | 1 => if isLead k then 0xFFFFFFFF else BitVec.ofNat 64 (s.agent k).rope
  | 2 => BitVec.ofNat 64 p.partyId
  | 3 => BitVec.ofNat 64 p.teamId
  | 4 => BitVec.ofNat 64 p.task.slot &&& 0xFFFFFFFF
  | 5 => BitVec.ofNat 64 c
  | 6 => BitVec.ofNat 64 (campOf c)
  | 7 => BitVec.ofNat 64 (dieOf c)
  | 8 => s.clock c
  | 9 => (s.lane k l).rwc
  | 10 => p.phaseId.setWidth 64
  | _ => (if isLead k then Config.leadLfsr s.fresh else (s.agent k).lfsr).setWidth 64

/-- RDSR (07 R183). A per-lane register needs a vector destination outside a lead thread (05 R110). -/
def execRdsr (b : Base) (s : State) : Host.Outcome State Fault Refusal :=
  let i := (b.litWord .ext 0 b.a).toNat
  runAlu (formOf (.rdsr b)) b (i == 0 || i == 9)
    (fun s l _ => dstWrites b l (if i == 8 || i == 9 then .n64 else .n32) (specialReg s s.who l i)) s

end Sys2Proof.Machine
end

