-- ==== Sys2Proof/Machine/Long.lean ====
section
/-! DEFINITION. Bound lanes and long integers (spec/09): LBND, LARI, LSHF, LMUL and the exact f32 accumulator. -/

namespace Sys2Proof.Machine

/-- The mask of the issue group, as BIND_STATE reports it (09 R215). -/
def bindTrap (s : State) : List (Nat × Trap) :=
  s.issued.map fun l => (l, ⟨.bindState, 0, s.issue.lanes.setWidth 64, false⟩)

/-- Sticky flags of a freshly bound rope: none in any group (09 R214). -/
def freshSticky (n : Nat) : List (BitVec 3) := List.replicate (32 / n) 0

/-- The loop registers of every lane are equal (09 R215). -/
def sameLoops (s : State) (k : Nat) : Bool :=
  (List.range 32).all fun l => (s.lane k l).lc0 == (s.lane k 0).lc0 && (s.lane k l).lc1 == (s.lane k 0).lc1

/-- An LBND in a lead thread takes ILLEGAL_INSTRUCTION (09 R214); otherwise a check and a change of the binding state. -/
def runLbnd (f : Form) (b : Base) (ok : State → Bool) (change : Agent → Agent) : State → Host.Outcome State Fault Refusal :=
  runGroup f b false do
    let s ← get
    if isLead s.who then trapActing b ⟨.illegalInstruction, 0, s.issue.word, false⟩
    else if !ok s then pure { traps := bindTrap s }
    else do
      modAgent s.who change
      pure {}

/-- LBND.on (09 R214, R215). -/
def execLbndOn (b : Base) (s : State) : Host.Outcome State Fault Refusal :=
  let n := (b.litWord .ext 0 b.a).toNat
  runLbnd (formOf (.lbndOn b)) b
    (fun s => s.issue.lanes == BitVec.allOnes 32 && sameLoops s s.who && (s.agent s.who).bound.isNone)
    (fun a => { a with bound := some n, sticky := freshSticky n }) s

/-- LBND.off (09 R214). -/
def execLbndOff (b : Base) (s : State) : Host.Outcome State Fault Refusal :=
  runLbnd (formOf (.lbndOff b)) b (fun s => (s.agent s.who).bound.isSome) (fun a => { a with bound := none, sticky := [] }) s

/-- LBND.clr (09 R214). -/
def execLbndClr (b : Base) (s : State) : Host.Outcome State Fault Refusal :=
  runLbnd (formOf (.lbndClr b)) b (fun s => (s.agent s.who).bound.isSome)
    (fun a => { a with sticky := freshSticky (a.bound.getD 32) }) s

/-! ### Long values (09 R213) -/

/-- U(x, g): the unsigned long value of a register in the group that starts at a lane. -/
def longU (s : State) (k reg base n : Nat) : Nat :=
  (List.range n).foldl (fun r j => r + (s.readV k reg (base + j)).toNat * 2 ^ (32 * j)) 0

/-- The signed value of long bits (09 R213). -/
def longS (n u : Nat) : Int := if 2 ^ (32 * n - 1) ≤ u then (u : Int) - 2 ^ (32 * n) else u

/-- Limb `j` of a long value. -/
def limb (u j : Nat) : Word := BitVec.ofNat 32 (u / 2 ^ (32 * j))

/-- Writes of a long value to the limbs of a group. -/
def longWrites (reg base n u : Nat) : List (Dest × Word) :=
  (List.range n).map fun j => (.vreg reg (base + j), limb u j)

/-- A predicate written in every lane of a group; 7 discards it (09 R220). -/
def groupPred (base n p : Nat) (v : Bool) : List (Dest × Word) :=
  if p == 7 then [] else (List.range n).flatMap fun j => predWrite (base + j) p v

/-- Source B of a group: a long value, or a 32-bit value extended by the type (09 R221). -/
def longB (f : Form) (b : Base) (k base n : Nat) : M Nat := do
  let s ← get
  if b.b.kind == .vec then pure (longU s k b.b.field.toNat base n)
  else do
    let x ← readSrc f b 1 base
    pure (b.ty.intVal x % 2 ^ (32 * n)).toNat

/-- Source B of a group as one 32-bit number (09 R222, R223). -/
def shortB (f : Form) (b : Base) (base : Nat) : M Nat := do
  let x ← readSrc f b 1 base
  pure (x.toNat % 2 ^ 32)

/-- The first lanes of the groups whose guard holds. -/
def liveGroups (s : State) (b : Base) (n : Nat) : List Nat :=
  ((List.range (32 / n)).map (· * n)).filter fun base => (s.acting b).contains base

/-- A long operation (09 R220): BIND_STATE in an unbound rope, then each group's effect, all or none. -/
def runLong (f : Form) (b : Base) (act : Nat → Nat → M LaneOut) : State → Host.Outcome State Fault Refusal :=
  runGroup f b false do
    let s ← get
    match (s.agent s.who).bound with
    | none => pure { traps := bindTrap s }
    | some n => eachLane (liveGroups s b n) fun base => act n base

/-- An integer form of LARI (09 R221): the result, the predicate, and whether the group overflows. -/
def runLari (f : Form) (b : Base) (g : Nat → Nat → Nat → Nat × Bool × Bool) : State → Host.Outcome State Fault Refusal :=
  runLong f b fun n base => do
    let s ← get
    let ua := longU s s.who b.a.field.toNat base n
    let ub ← if f.b.used then longB f b s.who base n else pure 0
    let (d, p, ovf) := g n ua ub
    require (!ovf) .limbOverflow (BitVec.ofNat 64 base)
    pure { writes := longWrites b.dst.toNat base n d ++ groupPred base n (predNumber b) p }

/-- LARI.add. -/
def execLariAdd (b : Base) (s : State) : Host.Outcome State Fault Refusal :=
  runLari (formOf (.lariAdd b)) b
    (fun n ua ub => ((ua + ub) % 2 ^ (32 * n), decide (2 ^ (32 * n) ≤ ua + ub), false)) s

/-- LARI.sub. -/
def execLariSub (b : Base) (s : State) : Host.Outcome State Fault Refusal :=
  runLari (formOf (.lariSub b)) b
    (fun n ua ub => ((ua + 2 ^ (32 * n) - ub) % 2 ^ (32 * n), decide (ua < ub), false)) s

/-- LARI.neg. -/
def execLariNeg (b : Base) (s : State) : Host.Outcome State Fault Refusal :=
  runLari (formOf (.lariNeg b)) b
    (fun n ua _ => ((2 ^ (32 * n) - ua) % 2 ^ (32 * n), decide (ua ≠ 0), false)) s

/-- LARI.addt: LIMB_OVERFLOW with the first lane of the lowest overflowing group. -/
def execLariAddt (b : Base) (s : State) : Host.Outcome State Fault Refusal :=
  runLari (formOf (.lariAddt b)) b (fun n ua ub =>
    let t := ua + ub
    let st := longS n ua + longS n ub
    let ovf := if b.ty.isSigned then decide (st < -2 ^ (32 * n - 1)) || decide ((2 : Int) ^ (32 * n - 1) ≤ st)
      else decide (2 ^ (32 * n) ≤ t)
    (t % 2 ^ (32 * n), decide (2 ^ (32 * n) ≤ t), ovf)) s

/-- LARI.cmp: an equal and a less predicate in every lane of the group. -/
def execLariCmp (b : Base) (s : State) : Host.Outcome State Fault Refusal :=
  let f := formOf (.lariCmp b)
  runLong f b (fun n base => do
    let s ← get
    let ua := longU s s.who b.a.field.toNat base n
    let ub ← longB f b s.who base n
    let less := if b.ty.isSigned then decide (longS n ua < longS n ub) else decide (ua < ub)
    pure { writes := groupPred base n b.dst.toNat (ua == ub) ++ groupPred base n (predNumber b) less }) s

/-- LSHF (09 R222). -/
def execLshf (b : Base) (s : State) : Host.Outcome State Fault Refusal :=
  let f := formOf (.lshf b)
  runLong f b (fun n base => do
    let s ← get
    let ua := longU s s.who b.a.field.toNat base n
    let sh ← shortB f b base
    require (decide (sh < 32 * n)) .illegalOperand s.issue.word
    let big := 2 ^ (32 * n)
    let v : Int := if b.ty.isSigned then longS n ua else ua
    let (d, p) :=
      if b.fn == 0 then (ua * 2 ^ sh % big, ua * 2 ^ sh / big != 0)
      else ((v / 2 ^ sh % big).toNat, v % 2 ^ sh != 0)
    pure { writes := longWrites b.dst.toNat base n d ++ groupPred base n (predNumber b) p }) s

/-- LMUL (09 R223): `n + 1` limbs, the last in D + 1 of every lane of the group. -/
def execLmul (b : Base) (s : State) : Host.Outcome State Fault Refusal :=
  let f := formOf (.lmul b)
  runLong f b (fun n base => do
    let s ← get
    let ua := longU s s.who b.a.field.toNat base n
    let m ← shortB f b base
    let c := if b.c.kind == .vec then longU s s.who b.c.field.toNat base n else 0
    let r := ua * m + c
    let top : List (Dest × Word) := (List.range n).map fun j => (.vreg (b.dst.toNat + 1) (base + j), limb r n)
    pure { writes := longWrites b.dst.toNat base n r ++ top }) s

/-! ### Exact f32 accumulation (09 R225 to R227) -/

/-- An f32 value as an integer in units of 2^-160. -/
def fixedUnits : FVal → Int
  | .fin n d => n * 2 ^ 160 / d
  | _ => 0

/-- The sticky flags of a group: NAN in bit 0, PINF in bit 1, NINF in bit 2. -/
def stickyOf (xs : List FVal) (ovf : Bool) : BitVec 3 :=
  BitVec.ofBool (xs.contains (.inf true)) ++ BitVec.ofBool (xs.contains (.inf false)) ++
    BitVec.ofBool (xs.any FVal.isNan || ovf)

/-- An accumulator operation needs groups of 16 (09 R225). -/
def runAccum (f : Form) (b : Base) (act : Nat → M LaneOut) : State → Host.Outcome State Fault Refusal :=
  runLong f b fun n base => do
    let s ← get
    require (n == 16) .illegalOperand s.issue.word
    act base

/-- LARI.lacc (09 R226). Its sticky flags are set at issue, while the destination lands when the
flag falls: when they become visible the spec leaves open, and this is the model's choice (assumption log 107). -/
def execLariLacc (b : Base) (s : State) : Host.Outcome State Fault Refusal :=
  runAccum (formOf (.lariLacc b)) b (fun base => do
    let s ← get
    let k := s.who
    let xs := (List.range 16).map fun j => f32Val (s.readV k b.a.field.toNat (base + j))
    let r := longS 16 (longU s k b.dst.toNat base 16) + (xs.map fixedUnits).sum
    let ovf := decide (r < -2 ^ 511) || decide ((2 : Int) ^ 511 ≤ r)
    modAgent k fun a => { a with sticky := a.sticky.modify (base / 16) fun x => x ||| stickyOf xs ovf }
    pure { writes := longWrites b.dst.toNat base 16 (r % 2 ^ 512).toNat }) s

/-- The value that LNRM rounds (09 R227). -/
def normValue (sticky : BitVec 3) (acc : Int) : FVal :=
  if sticky.getLsbD 0 || (sticky.getLsbD 1 && sticky.getLsbD 2) then .nan
  else if sticky.getLsbD 1 then .inf false
  else if sticky.getLsbD 2 then .inf true
  else .ofQuot false acc (2 ^ 160)

/-- LARI.lnrm (09 R227). -/
def execLariLnrm (b : Base) (s : State) : Host.Outcome State Fault Refusal :=
  runAccum (formOf (.lariLnrm b)) b (fun base => do
    let s ← get
    let k := s.who
    let acc := longS 16 (longU s k b.a.field.toNat base 16)
    let w := rneF32 (normValue ((s.agent k).sticky.getD (base / 16) 0) acc)
    pure { writes := (List.range 16).map fun j => (.vreg b.dst.toNat (base + j), w) }) s

end Sys2Proof.Machine
end

