-- ==== Sys2Proof/Machine/Distributor.lean ====
section
/-! DEFINITION. The work distributor (spec/13 R294 to R311): task sequences, records, completions, LAUNCH, quotas, placement and
the start of a party. -/

namespace Sys2Proof.Machine

/-! ### Task records (13 R298 to R300) -/

/-- NROPE of a record. -/
def recRopes (r : List Byte) : Nat := recField r 56 4 % 16 + 1
/-- NTEAM. -/
def recTeam (r : List Byte) : Nat := recField r 56 4 / 16 % 4 + 1
/-- SPADK. -/
def recSpad (r : List Byte) : Nat := recField r 56 4 / 128 % 512
/-- NPARTY. -/
def recParties (r : List Byte) : Nat := recField r 60 4
/-- DET. -/
def recDet (r : List Byte) : Nat := recField r 96 4 % 4
/-- KENTRY. -/
def recEntry (r : List Byte) : Nat := recField r 0 8
/-- LENTRY. -/
def recLead (r : List Byte) : Nat := recField r 8 8
/-- LSSZ. -/
def recStack (r : List Byte) : Nat := recField r 100 4

/-- A task reference (13 R299): QIDX, SLOT, and whether bits [62:36], which must be zero, are. -/
structure TaskRef where
  qidx : Nat
  slot : Nat
  clean : Bool
  deriving DecidableEq, Repr

/-- The valid predecessor references of a record; one with V = 0 is ignored (13 R299). -/
def recPreds (r : List Byte) : List TaskRef :=
  (List.range 4).filterMap fun i =>
    let x := recField r (64 + 8 * i) 8
    if 2 ^ 63 ≤ x then some ⟨x / 2 ^ 32 % 16, x % 2 ^ 32, x / 2 ^ 36 % 2 ^ 27 == 0⟩ else none

/-- A field that must be zero is not. -/
def recNonzero (r : List Byte) : Bool :=
  recField r 56 4 / 64 % 2 != 0 || decide (2 ^ 16 ≤ recField r 56 4) || decide (4 ≤ recField r 96 4) || recField r 112 16 != 0

/-- A table entry of a partition. -/
def Partition.seq (x : Partition) (q : Nat) : TaskSeq := x.seqs.getD q .off

/-- A reference that itself makes the record malformed (13 R300). -/
def badRef (x : Partition) (id : TaskId) (p : TaskRef) : Bool :=
  !p.clean || !(x.seq p.qidx).en || (p.qidx == id.qidx && decide (id.slot ≤ p.slot))

/-- A malformed record (13 R300). -/
def malformedTask (x : Partition) (id : TaskId) (r : List Byte) : Bool :=
  recNonzero r || recDet r == 3 || decide (448 < recSpad r) || recParties r == 0 || decide (2 ^ 24 < recParties r) ||
    recParties r % recTeam r != 0 || recEntry r % 4 != 0 || recLead r % 4 != 0 || recStack r % 8 != 0 ||
    (recPreds r).any (badRef x id)

/-- A task that no party has begun is malformed as the table stands (13 R300). The spec does not say at which moment an entry with EN = 0
makes a record malformed: the model judges it whenever the table or a completion changes, until the first party is placed (assumption
log 55). -/
def malformedNow (x : Partition) (t : Task) : Bool := t.placed == 0 && malformedTask x t.id t.record

/-- A slot of an entry's window, as the entry is in use. -/
def Partition.slotTask (x : Partition) (q slot : Nat) : Option Task :=
  x.tasks.find? fun t => t.id.qidx == q && t.id.slot == slot && t.id.use == (x.seq q).use

/-- A reference names a complete task (13 R297). -/
def refComplete (x : Partition) (p : TaskRef) : Bool :=
  decide (p.slot < (x.seq p.qidx).done) || (x.slotTask p.qidx p.slot).any Task.complete

/-- The task that software names by QIDX and SLOT: of the entry as it is in use, else one that began in an earlier use. -/
def State.namedTask (s : State) (part q slot : Nat) : TaskId :=
  let x := s.part part
  match (x.slotTask q slot).or (x.tasks.find? fun t => t.id.qidx == q && t.id.slot == slot) with
  | some t => t.id
  | none => ⟨part, q, slot, (x.seq q).use⟩

/-- A task is ready (13 R297, R300). -/
def taskReady (x : Partition) (t : Task) : Bool :=
  (recPreds t.record).all fun p => badRef x t.id p || refComplete x p

/-! ### The task-sequence table (13 R294 to R297) -/

/-- A sequence has the shape that a use of it demands (13 R295). -/
def shapedDesc (v : Via) (va : DWord) (slog : Nat) : M Desc := do
  let d ← openDesc v va .load
  require (d.slog == slog && !d.rot && !d.dur) .queueState va
  pure d

/-- Read one table entry as it stands; it is off where it breaks R295. An entry newly enabled, or with a new descriptor, takes
DONE as it stands. That an entry with a nonzero bit in CTL[31:4] is off too is the model's choice (assumption log 107). -/
def readTaskSeq (v : Via) (base : DWord) (old : TaskSeq) (q : Nat) : M TaskSeq := do
  let bs ← viaRead v (base + BitVec.ofNat 64 (16 * q)) 16 .load
  let desc := BitVec.ofNat 64 (recField bs 0 8)
  let ctl := recField bs 8 4
  if ctl / 8 % 2 == 0 || 16 ≤ ctl || desc == 0 then pure { old with en := false }
  else do
    let r ← attempt (shapedDesc v desc 3)
    match r with
    | .error _ => pure { old with en := false }
    | .ok _ =>
      let fresh := !old.en || old.desc != desc
      let done := if fresh then recField bs 12 4 else old.done
      pure ⟨desc, ctl % 8, true, done, if fresh then done else old.seen, if fresh then old.use + 1 else old.use⟩

/-- Read the whole table. -/
def readTable (v : Via) (base : DWord) (old : List TaskSeq) : M (List TaskSeq) :=
  collect (List.range 16) fun q => do
    let r ← attempt (readTaskSeq v base (old.getD q .off) q)
    match r with
    | .ok t => pure t
    | .error _ => pure { old.getD q .off with en := false }

/-- Tasks that stay after a table is read: those begun, those whose completion is still to be appended (13 R301), and those of entries that
are still enabled as they were. -/
def keepTask (old new : List TaskSeq) (t : Task) : Bool :=
  let a := old.getD t.id.qidx .off
  let b := new.getD t.id.qidx .off
  t.placed != 0 || (t.status.isSome && !t.complete) || (b.en && a.use == b.use && t.id.use == b.use && decide (b.done ≤ t.id.slot))

/-- The distributor's base of a partition's table (13 R294). -/
def tableBase (w : DWord) : DWord := ((w.extractLsb' 8 47 ++ (0 : BitVec 8)) : BitVec 55).signExtend 64

/-- Address of the completion sequence's descriptor; 0 for none. -/
def compBase (w : DWord) : DWord := ((w.extractLsb' 6 49 ++ (0 : BitVec 6)) : BitVec 55).signExtend 64

/-- The distributor accepts the records that have entered a window (13 R296, R297): it reads CL, reads each new record once,
and arms a wait entry on CL. Where a record cannot be read, nothing of the acceptance is done, by the model's choice (assumption
log 107). -/
def acceptTasks (part q : Nat) : M Unit := do
  let s ← get
  let x := s.part part
  let sq := x.seq q
  if !sq.en then pure ()
  else do
    let v := s.serviceVia part
    let d ← openDesc v sq.desc .load
    let known := fun (i : Nat) => (x.slotTask q i).isSome
    let fresh := (upTo sq.done (Nat.min (sq.done + 32) d.cl)).filter fun i => !known i
    let tasks ← collect fresh fun i => do
      let (chip, va) ← locate v d i
      let r ← locatedRead v (2 ^ 30 + 1) chip va 128 (comparator d (i / d.blockSlots))
      pure (⟨⟨part, q, i, sq.use⟩, sq.desc, r, 0, 0, [], false, none, false⟩ : Task)
    let ph ← v.translate sq.desc .load
    let sp := s.viaSpace v
    modify fun s =>
      let x := s.part part
      let s := s.setPart part { x with tasks := x.tasks ++ tasks, seqs := x.seqs.set q { x.seq q with seen := d.cl } }
      if s.waits.any fun e => e.who == .dist part q then s else s.arm part sp.asid sq.desc (sliceOf ph.pa) (.dist part q)

/-- A task ends, with a status: its completion is pending from now. -/
def State.endTask (s : State) (id : TaskId) (status : Nat) : State :=
  let x := s.part id.part
  let f := fun (t : Task) => if t.id == id && t.status.isNone then { t with status := some status } else t
  let new := x.tasks.any fun t => t.id == id && t.status.isNone
  s.setPart id.part { x with tasks := x.tasks.map f, pendings := if new then x.pendings ++ [id] else x.pendings }

/-- The malformed tasks of a partition that are ready complete at once, with STATUS 2 (13 R300). -/
def State.endMalformed (s : State) (part : Nat) : State :=
  let x := s.part part
  (x.tasks.filter fun t => t.status.isNone && taskReady x t && malformedNow x t).foldl (fun s t => s.endTask t.id 2) s

/-- TASK_ACCEPT (13 R297). -/
def execTaskAccept (part qidx : Nat) (s : State) : Host.Outcome State Fault Refusal :=
  runService (do
    acceptTasks part qidx
    modify fun s => s.endMalformed part) s

/-! ### Completion (13 R301, 03 R73) -/

/-- The record of a completion. -/
def completionBytes (s : State) (t : Task) : List Byte :=
  leBytes 8 (2 ^ 63 + t.id.qidx * 2 ^ 32 + t.id.slot) ++ (t.record.drop 104).take 8 ++ leBytes 4 (t.status.getD 0) ++
    leBytes 4 (recParties t.record) ++ bytesOf 8 (s.clock 0)

/-- Change a task of a partition. -/
def modTask (id : TaskId) (f : Task → Task) : M Unit :=
  modPart id.part fun x => { x with tasks := x.tasks.map fun t => if t.id == id then f t else t }

/-- A task of a partition. -/
def State.task (s : State) (id : TaskId) : Option Task := (s.part id.part).tasks.find? fun t => t.id == id

/-- DONE passes every completed task that follows it; the tasks below it leave the window (13 R297). -/
def advanceDone (x : Partition) (q : Nat) : Nat → Partition
  | 0 => x
  | n + 1 =>
    let d := (x.seq q).done
    match (x.slotTask q d).filter Task.complete with
    | some t => advanceDone { x with
        seqs := x.seqs.set q { x.seq q with done := d + 1 }, tasks := x.tasks.filter fun u => u.id != t.id } q n
    | none => x

/-- A PREQ in progress for a task ends, with a result: QIDX and SLOT stay as they were last written (14 R334). -/
def Partition.preqDone (x : Partition) (id : TaskId) (res : Nat) : Partition :=
  if x.preqFor == some id then { x with preq := (x.preq &&& 0xFFFFFFFFF) ||| (BitVec.ofNat 64 res <<< 39), preqFor := none } else x

/-- A completed task of an earlier use of its entry is needed no more. -/
def Partition.dropOld (x : Partition) (id : TaskId) : Partition :=
  if id.use == (x.seq id.qidx).use then x else { x with tasks := x.tasks.filter fun t => t.id != id }

/-- A task counts as complete: DONE advances in the table, its successors may be ready, and an ABORT's BUSY falls. -/
def markComplete (id : TaskId) : M Unit := do
  modTask id fun t => { t with complete := true }
  let s ← get
  let x := s.part id.part
  let before := (x.seq id.qidx).done
  let res := (x.preq.extractLsb' 39 3).toNat
  let x := ((advanceDone x id.qidx 64).dropOld id).preqDone id (if res == 2 then 2 else 0)
  modify fun s => (s.setPart id.part x).endMalformed id.part
  let sq := x.seq id.qidx
  if sq.done != before && sq.en then do
    let va := tableBase x.tasktab + BitVec.ofNat 64 (16 * id.qidx + 12)
    let _ ← attempt (viaWrite (s.serviceVia id.part) va (leBytes 4 sq.done))
    pure ()

/-- Append a completion record: reserve a slot, write it and commit it (13 R301). The answer says whether it is appended, and
whether its commit is parked under a number. -/
def appendCompletion (t : Task) : M (Bool × Option Nat) := do
  let s ← get
  let v := s.serviceVia t.id.part
  let va := compBase (s.part t.id.part).compdesc
  let _ ← shapedDesc v va 1
  let d ← openPlain v va .atomic
  let r ← reserveSlots v d 1 d.limit
  match r with
  | .error _ => pure (false, none)
  | .ok i => do
    let d ← openPlain v va .load
    writeSlots v d [i] (completionBytes s t)
    let u ← newUid
    let ok ← commitOrPark u v va i
    pure (true, if ok then none else some u)

/-- Who waits on the completion sequence's CL for a partition's distributor. -/
def compWaiter (part : Nat) : Waiter := .dist part 16

/-- The distributor waits on the completion sequence's CL, as a sequence waiter does (13 R301). -/
def armCompletion (part : Nat) : M Unit := do
  let s ← get
  let v := s.serviceVia part
  let va := compBase (s.part part).compdesc
  let ph ← v.translate va .load
  modify fun s => s.arm part (s.viaSpace v).asid va (sliceOf ph.pa) (compWaiter part)

/-- It waits no more. -/
def State.dropCompWait (s : State) (part : Nat) : State := { s with waits := s.waits.filter fun e => e.who != compWaiter part }

/-- Append the pending completions of a partition in order, as far as they can be (13 R301): without room the distributor waits, and a fault
stops it and the placement of parties. -/
def flushCompletions (part : Nat) : Nat → M Unit
  | 0 => pure ()
  | n + 1 => do
    let s ← get
    let x := s.part part
    match x.pendings with
    | [] => pure ()
    | id :: rest =>
      match s.task id with
      | none => do
        modPart part fun x => { x with pendings := rest }
        flushCompletions part n
      | some t =>
        if compBase x.compdesc == 0 then do
          modPart part fun x => { x with pendings := rest }
          markComplete id
          flushCompletions part n
        else do
          let r ← attempt (appendCompletion t)
          match r with
          | .error _ => modPart part fun x => { x with stopped := true, faulted := true }
          | .ok (false, _) => do
            modPart part fun x => { x with faulted := false }
            let _ ← attempt (armCompletion part)
          | .ok (true, none) => do
            modPart part fun x => { x with pendings := rest, faulted := false }
            markComplete id
            flushCompletions part n
          | .ok (true, some u) => do
            modPart part fun x => { x with pendings := rest, faulted := false, appended := x.appended ++ [(u, id)] }
            flushCompletions part n

/-- Completions whose parked commit has been performed count as complete. -/
def reapAppended (part : Nat) : M Unit := do
  let s ← get
  let x := s.part part
  let done := x.appended.filter fun e => !s.parked.any fun p => p.uid == e.1
  modPart part fun x => { x with appended := x.appended.filter fun e => !done.contains e }
  forEach done fun e => markComplete e.2

/-- Everything that may complete now; placement that a fault had stopped resumes once every pending append has succeeded (13 R301). -/
def runCompletions (part : Nat) : M Unit := do
  settleParked
  let s ← get
  if s.waits.any fun e => e.who == compWaiter part then pure ()
  else flushCompletions part ((s.part part).pendings.length + 1)
  reapAppended part
  modPart part fun x => if x.pendings.isEmpty && x.appended.isEmpty then { x with stopped := false, faulted := false } else x

/-- TASK_COMPLETE (03 R73): the completion of a task that has ended is appended, in order of completion. -/
def execTaskComplete (part qidx slot : Nat) (s : State) : Host.Outcome State Fault Refusal :=
  let x := s.part part
  if (x.pendings.any fun id => id.qidx == qidx && id.slot == slot) && !x.faulted then runService (runCompletions part) s else .next s

/-- COMPLETION_APPEND_RETRY (13 R301). -/
def execCompletionAppendRetry (part : Nat) (s : State) : Host.Outcome State Fault Refusal :=
  if (s.part part).faulted then .next s else runService (runCompletions part) s

/-- PRIO of an entry is the priority of every task of its sequence, the placed, the saved and the checkpointed ones too (13 R295). -/
def State.renewPrios (s : State) (part : Nat) : State :=
  let x := s.part part
  let now := fun (y : Party) =>
    let sq := x.seq y.task.qidx
    if y.task.part == part && sq.en && sq.use == y.task.use then { y with prio := sq.prio } else y
  let held := fun (v : Saved) => { v with party := now v.party }
  let det := fun (d : Det) => { d with
    checkpoint := d.checkpoint.map held, checkpoint2 := d.checkpoint2.map held, aside := d.aside.map held }
  { s with
    parties := s.parties.map fun e => (e.1, now e.2)
    saved := s.saved.map held
    dets := s.dets.map fun e => (e.1, det e.2) }

/-- TASKTAB is written (13 R294): the table is read anew, and pending completions are retried. -/
def writeTasktab (part : Nat) (value : DWord) : M Unit := do
  modPart part fun x => { x with tasktab := value &&& 0x7FFFFFFFFFFF00 }
  let s ← get
  let x := s.part part
  let seqs ← readTable (s.serviceVia part) (tableBase x.tasktab) x.seqs
  modPart part fun x => { x with seqs := seqs, tasks := x.tasks.filter (keepTask x.seqs seqs) }
  modify fun s => (s.renewPrios part).endMalformed part
  modify fun s => { s with waits := s.waits.filter fun e => match e.who with
    | .dist p _ => p != part
    | _ => true }
  runCompletions part

/-- TASKTAB_WRITE (13 R294). -/
def execTasktabWrite (part : Nat) (value : DWord) (s : State) : Host.Outcome State Fault Refusal :=
  runService (writeTasktab part value) s

/-- COMPDESC is written (13 R294): pending completions are retried. -/
def writeCompdesc (part : Nat) (value : DWord) : M Unit := do
  modPart part fun x => { x with compdesc := value &&& 0x7FFFFFFFFFFFC0 }
  modify fun s => s.dropCompWait part
  runCompletions part

/-- COMPDESC_WRITE (13 R294). -/
def execCompdescWrite (part : Nat) (value : DWord) (s : State) : Host.Outcome State Fault Refusal :=
  runService (writeCompdesc part value) s

/-! ### LAUNCH (13 R302, R303) -/

/-- Reserve, write and commit one task record: what the instruction writes, and the number of a parked commit. -/
def launchRecord (v : Via) (va : DWord) (rec_ : List Byte) : M (DWord × Option Nat) := do
  let _ ← shapedDesc v va 3
  let d ← openPlain v va .atomic
  let r ← reserveSlots v d 1 d.limit
  match r with
  | .error c => pure (reserveWord (.error c), none)
  | .ok i => do
    let d ← openPlain v va .load
    writeSlots v d [i] rec_
    let u ← newUid
    let ok ← commitOrPark u v va i
    pure (BitVec.ofNat 64 i, if ok then none else some u)

/-- LAUNCH (13 R303). -/
def execLaunch (b : Base) (s : State) : Host.Outcome State Fault Refusal :=
  let f := formOf (.launch b)
  runGroup f b false (onceHeld b fun l => do
    let x ← readSrcs f b l
    modify fun s => s.drainAll s.who
    let s ← get
    checkAlign x.b 16
    let bs ← if b.e2.getLsbD 0 then farRange x.b 128
      else do
        let _ ← spadTouch (loWord x.b) 128 true
        spadRead s.who (loWord x.b) 128
    let v ← laneVia
    let (r, parked) ← launchRecord v x.a bs
    pure (dstWrites b l .n32 r, some (match parked with | some u => .camp u | none => .held))) s

/-! ### Resources of a core (13 R305 to R309) -/

/-- Parties of a partition on a core. -/
def State.residents (s : State) (c q : Nat) : List Party :=
  (s.parties.filter fun e => e.2.core == c && e.2.task.part == q).map (·.2)

/-- The five resources that a core counts: 0 party slots, 1 rope slots, 2 vector entries, 3 scratchpad KiB, 4 lead contexts. -/
def State.coreUsed (s : State) (c x q : Nat) : Nat :=
  let ps := s.residents c q
  match x with
  | 0 => ps.length
  | 1 => (ps.map (·.nrope)).sum
  | 2 => s.vregsUsed c q
  | 3 => (ps.map (·.spadK)).sum
  | _ => (ps.filter (·.hasLead)).length

/-- Capacity of a resource. -/
def coreCap : Nat → Nat
  | 0 => 32 | 1 => 64 | 2 => 2048 | 3 => 448 | _ => 16

/-- Field of a quota word for a resource (13 R305). -/
def quotaField (w : DWord) : Nat → Nat
  | 0 => (w.extractLsb' 0 6).toNat
  | 1 => (w.extractLsb' 6 7).toNat
  | 2 => (w.extractLsb' 13 12).toNat
  | 3 => (w.extractLsb' 25 9).toNat
  | _ => (w.extractLsb' 34 5).toNat

/-- What one party takes at placement. -/
structure Need where
  ropes : Nat
  lead : Bool
  spad : Nat
  det : Bool
  deriving DecidableEq, Repr

/-- Units of a resource. -/
def Need.units (n : Need) : Nat → Nat
  | 0 => 1 | 1 => n.ropes | 3 => n.spad | 4 => if n.lead then 1 else 0 | _ => 0

/-- What a party of a record takes. -/
def recNeed (r : List Byte) : Need := ⟨recRopes r, recLead r != 0, recSpad r, recDet r != 0⟩

/-- Deterministic slots of a partition in use on a core, and the lowest free one (16 R358). -/
def State.freeDetSlot (s : State) (c p : Nat) : Option Nat :=
  let n := ((s.bank c p).detbase.extractLsb' 12 8).toNat
  (List.range n).find? fun j => !(s.residents c p).any fun y => y.detSlot == some j

/-- A core is eligible for one party (13 R309), its die being ready (17 R375). -/
def State.eligible (s : State) (c p : Nat) (n : Need) : Bool :=
  let x := s.core c
  let spad := ((List.range 16).map (s.coreUsed c 3)).sum
  [0, 1, 3, 4].all (fun r => n.units r == 0 ||
      quotaAllows (coreCap r) (n.units r) p (s.coreUsed c r) (fun q => quotaField (s.bank c q).qcore r) (fun q => quotaField (s.bank c q).qfloor r)) &&
    (s.die (dieOf c)).ready && !x.spadPend && decide (spad + n.spad ≤ 64 * x.spadCur) && (!n.det || (s.freeDetSlot c p).isSome)

/-- Load of a core for a partition (13 R309). -/
def State.load (s : State) (c p : Nat) : Nat :=
  ((List.range 5).map fun r =>
    let q := quotaField (s.bank c p).qcore r
    if q == 0 then 0 else 256 * s.coreUsed c r p / q).foldl Nat.max 0

/-- Cores of the module. -/
def coreCount : Nat := 320

/-- The first of a list with the least value. -/
def leastBy (f : Nat → Nat) : List Nat → Option Nat
  | [] => none
  | x :: xs =>
    match leastBy f xs with
    | none => some x
    | some y => if f x ≤ f y then some x else some y

/-- The `n` of least value, ties to the earlier, in order of choice. -/
def leastN (f : Nat → Nat) : Nat → List Nat → List Nat
  | 0, _ => []
  | n + 1, xs =>
    match leastBy f xs with
    | none => []
    | some x => x :: leastN f n (xs.erase x)

/-- Cores of a camp. -/
def campCores (c : Nat) : List Nat := (List.range 4).map (4 * c + ·)

/-- Put a number in its place of a rising list. -/
def insertNat (x : Nat) : List Nat → List Nat
  | [] => [x]
  | y :: ys => if x ≤ y then x :: y :: ys else y :: insertNat x ys

/-- The cores of a camp that a team of `n` takes, in core order (13 R310). -/
def State.teamCores (s : State) (p n : Nat) (need : Need) (camp : Nat) : Option (List Nat) :=
  let es := (campCores camp).filter fun c => s.eligible c p need
  if es.length < n then none else some ((leastN (fun c => s.load c p) n es).foldr insertNat [])

/-- Load of a camp (13 R310). -/
def State.campLoad (s : State) (p camp : Nat) : Nat := ((campCores camp).map fun c => s.load c p).foldl Nat.max 0

/-- Where one party, or a team as a whole, goes (13 R309, R310): cores in rank order; no core of the camps left out. -/
def State.choose (s : State) (p n : Nat) (need : Need) (without : List Nat) : Option (List Nat) :=
  if n ≤ 1 then
    (leastBy (fun c => s.load c p) ((List.range coreCount).filter fun c => s.eligible c p need && !without.contains (campOf c))).map fun c => [c]
  else
    let camps := (List.range (coreCount / 4)).filter fun c => (s.teamCores p n need c).isSome && !without.contains c
    (leastBy (s.campLoad p) camps).bind (s.teamCores p n need)

/-! ### Starting a party (13 R311) -/

/-- The scalar registers that ropes and the lead receive. -/
def startScalars (t : Task) (desc recVa : DWord) : List Word :=
  let param := BitVec.ofNat 64 (recField t.record 32 8)
  [loWord param, hiWord param, loWord desc, hiWord desc, loWord recVa, hiWord recVa, BitVec.ofNat 32 (recParties t.record),
    BitVec.ofNat 32 t.id.qidx] ++ List.replicate 56 0

/-- A rope at its start. -/
def startRope (t : Task) (scl : List Word) (key partyId r : Nat) : Agent :=
  let lfsr := BitVec.ofNat 32 (recField t.record 48 4) ^^^ BitVec.ofNat 32 (16 * partyId + r)
  { Agent.absent with
    party := key, rope := r, lanes := List.replicate 32 (Lane.start (BitVec.ofNat 64 (recEntry t.record)))
    sregs := scl, flags := List.replicate 12 0, lfsr := if lfsr == 0 then 1 else lfsr
    key := BitVec.ofNat 64 (recField t.record 48 8) }

/-- A lead thread at its start. -/
def startLead (t : Task) (scl : List Word) (key : Nat) : Agent :=
  { Agent.absent with
    party := key, rope := 17, lanes := [Lane.start (BitVec.ofNat 64 (recLead t.record))]
    sregs := scl, flags := List.replicate 12 0, key := BitVec.ofNat 64 (recField t.record 48 8) }

/-- A party at its start. -/
def startParty (s : State) (t : Task) (core partyId rank : Nat) (agents : List Nat) (team : Option Nat) (role : DetRole)
    (det : Option Nat) : Party :=
  let lsbase := recField t.record 40 8
  { Party.absent with
    core := core, pslot := freePartySlot s core, task := t.id, partyId := partyId, teamId := partyId / recTeam t.record, rank := rank
    nrope := recRopes t.record, hasLead := recLead t.record != 0, agents := agents, team := team, spadK := recSpad t.record
    prio := ((s.part t.id.part).seq t.id.qidx).prio, seed := BitVec.ofNat 64 (recField t.record 48 8)
    param := BitVec.ofNat 64 (recField t.record 32 8)
    lsva := BitVec.ofNat 64 (lsbase + 512 * recStack t.record * partyId), nparty := recParties t.record
    barriers := List.replicate 20 .reset, bound := s.now, role := role, det := det
    detSlot := if recDet t.record == 0 then none else s.freeDetSlot core t.id.part }

/-- v126 of a rope at its start: the top of each lane's stack (13 R311). -/
def stackTops (t : Task) (r : Nat) : List (Nat × Word) :=
  (List.range 32).map fun l => (l, BitVec.ofNat 32 ((32 * r + l + 1) * recStack t.record))

/-- Place one party on a core under a key: its ropes enter the pending set in ROPEID order, each with v126, which waits for an entry where
the file or the quota has none (05 R113, 13 R307). -/
def State.placeParty (s : State) (t : Task) (scl : List Word) (key core partyId rank : Nat) (team : Option Nat) (role : DetRole)
    (det : Option Nat) : State :=
  let ropes := ((freeSlots s core 0 64).take (recRopes t.record)).map fun i => 128 * core + i
  let lead := if recLead t.record == 0 then [] else ((freeSlots s core 65 16).take 1).map fun i => 128 * core + i
  let y := startParty s t core partyId rank (ropes ++ lead) team role det
  let s := s.setParty key y
  let s := ((List.range ropes.length).zip ropes).foldl (fun s e => s.setAgent e.2 (startRope t scl key partyId e.1)) s
  let s := lead.foldl (fun s k => s.setAgent k (startLead t scl key)) s
  let s := ((List.range ropes.length).zip ropes).foldl (fun s e => s.startReg e.2 126 (stackTops t e.1)) s
  let x := s.core core
  (s.setCore core { x with pending := x.pending ++ ropes.map fun k => Pending.mk k 0 }).heatHalts (ropes ++ lead)

/-- Place a team, or one party, on cores in rank order; their keys. -/
def placeTeam (t : Task) (scl : List Word) (cores : List Nat) (role : DetRole) (dets : List Nat) : M (List Nat) := do
  let s ← get
  let n := cores.length
  let keys := (List.range n).map fun i => s.uid + 1 + i
  let team := if n ≤ 1 then none else some (s.uid + 1 + n)
  modify fun s => { s with
    uid := s.uid + 2 + n
    teams := match team with
      | some x => Sparse.put s.teams x ⟨List.replicate 4 .reset, keys⟩
      | none => s.teams }
  forEach (List.range n) fun i => modify fun s =>
    s.placeParty t scl (keys.getD i 0) (cores.getD i 0) (t.placed + i) i team role dets[i]?
  pure keys

/-- The deterministic states of the parties about to be placed. -/
def newDets (n : Nat) : M (List Nat) := do
  let s ← get
  modify fun s => { s with uid := s.uid + 1 + n }
  pure ((List.range n).map fun i => s.uid + 1 + i)

/-- A deterministic state before its first interval (16 R359). -/
def startDet (leader : Nat) (trailer : Option Nat) : Det :=
  { leader := leader, trailer := trailer, checkpoint := none, checkpoint2 := none, log := [], cursor := [], cursor2 := [], posted := []
    lines := [], own := [], wrote := [], seen := [], taken := [], reached := [], mismatches := 0, halted := none, replay := none, aside := none }

/-- Where a task's record lies, for s4:s5. -/
def recordVa (t : Task) : M DWord := do
  let s ← get
  let v := s.serviceVia t.id.part
  let d ← openDesc v t.desc .load
  let (_, va) ← locate v d t.id.slot
  pure va

/-- Place the next party or team of a task where it fits (13 R308 to R310, 16 R357): whether it was placed. -/
def placeNext (t : Task) : M Bool := do
  let s ← get
  let p := t.id.part
  let n := recTeam t.record
  let need := recNeed t.record
  match s.choose p n need [] with
  | none => pure false
  | some cores =>
    let pair := if recDet t.record == 2 then s.choose p n need (cores.map campOf) else some []
    match pair with
    | none => pure false
    | some second => do
      let va ← recordVa t
      let scl := startScalars t t.desc va
      let dets ← if recDet t.record == 0 then pure [] else newDets n
      let role := match recDet t.record with | 1 => .replay | 2 => .leader | _ => DetRole.none
      let keys ← placeTeam t scl cores role dets
      let keys2 ← if second.isEmpty then pure [] else placeTeam t scl second .trailer dets
      forEach (List.range dets.length) fun i => do
        modify fun s => s.setDet (dets.getD i 0) (startDet (keys.getD i 0) keys2[i]?)
        startInterval (dets.getD i 0)
      modTask t.id fun t => { t with placed := t.placed + n, live := t.live ++ keys ++ keys2 }
      pure true

/-- Place the parties of a task for as long as they fit. -/
def placeTask (id : TaskId) : Nat → M Unit
  | 0 => pure ()
  | n + 1 => do
    let s ← get
    match s.task id with
    | none => pure ()
    | some t =>
      if recParties t.record ≤ t.placed then pure ()
      else do
        let r ← attempt (placeNext t)
        match r with
        | .ok true => placeTask id n
        | _ => pure ()

/-- The completion sequence is fit for placement, or there is none (13 R295). -/
def compFit (part : Nat) : M Bool := do
  let s ← get
  let va := compBase (s.part part).compdesc
  if va == 0 then pure true
  else do
    let r ← attempt (shapedDesc (s.serviceVia part) va 1)
    pure (match r with | .ok _ => true | .error _ => false)

/-- The partitions whose tasks may be placed. -/
def placeable (part : Nat) : M Bool := do
  let s ← get
  let x := s.part part
  if !x.partcfg.getLsbD 0 || x.stopped then pure false else compFit part

/-- Put a task in its place by slot. -/
def insertTask (x : TaskId) : List TaskId → List TaskId
  | [] => [x]
  | y :: ys => if x.slot ≤ y.slot then x :: y :: ys else y :: insertTask x ys

/-- The tasks of the module's partitions in the order of R308. -/
def State.taskOrder (s : State) (parts : List Nat) : List TaskId :=
  (List.range 8).flatMap fun i => parts.flatMap fun p => (List.range 16).flatMap fun q =>
    let x := s.part p
    if (x.seq q).en && (x.seq q).prio == 7 - i then
      ((x.tasks.filter fun t => t.id.qidx == q).map fun t => t.id).foldr insertTask []
    else []

/-! ### SRAMCFG (04 R75, R76) -/

/-- SRAMCFG is written. -/
def State.writeSram (s : State) (c : Nat) (value : DWord) : State :=
  let x := s.core c
  s.setCore c { x with spadReq := (value.extractLsb' 0 3).toNat, spadPend := true }

/-- SRAMCFG_WRITE (04 R76). -/
def execSramcfgWrite (core : Nat) (value : DWord) (s : State) : Host.Outcome State Fault Refusal := .next (s.writeSram core value)

/-- SRAM_SPLIT_APPLY (04 R76): when no party is resident, L1 publishes and drops its lines and the size takes effect. -/
def execSramSplitApply (core : Nat) (s : State) : Host.Outcome State Fault Refusal :=
  if !(s.core core).spadPend || !(s.coreParties core).isEmpty then .next s
  else
    let s := s.publishAll core
    let x := s.core core
    .next (s.setCore core { x with clean := [], spadCur := x.spadReq, spadPend := false })

end Sys2Proof.Machine
end

