-- ==== Sys2Proof/Machine/Exit.lean ====
section
/-! DEFINITION. EXIT (spec/07 R158): the end of lanes, ropes, parties and tasks (spec/03 R46, 13 R301, 16 R366). -/

namespace Sys2Proof.Machine

/-- A lane exits: its live bits clear, its results in flight are discarded and its loop registers are cleared (07 R158, R159). -/
def Agent.exitLane (a : Agent) (l : Nat) : Agent :=
  let mine := fun (d : Dest) => match d with
    | .vreg _ j | .pred j _ => j == l
    | .sreg _ => false
  let spilled := a.spilled.map fun (e : Nat × Word) => (e.1, e.2 &&& ~~~((1 : Word) <<< l))
  { a with
    lanes := a.lanes.modify l fun x => { x with exited := true, wait := none, lc0 := .none, lc1 := .none }
    vregs := a.vregs.filter fun e => e.1 % 32 != l
    owed := a.owed.filter fun e => e.1 % 32 != l
    spilled := spilled.filter fun e => e.2 != 0
    flights := a.flights.map fun f => { f with writes := f.writes.filter fun w => !mine w.1 } }

/-- Nothing of a rope is outstanding: its counters and flags are zero and no fault of its engines is undelivered. -/
def Agent.quiet (a : Agent) : Bool := a.ops.isEmpty && a.faults.isEmpty && a.flags.all (· == 0)

/-- The agent's end would end its party. -/
def State.lastAgent (s : State) (k : Nat) : Bool :=
  (s.partyOf k).agents.contains k && (s.partyOf k).agents.all fun j => j == k || (s.agent j).ended

/-- A party ends (07 R158, 03 R46): its writes are published, its resources freed, and with the last party its task ends. -/
def State.endParty (s : State) (p : Nat) : State :=
  let y := s.party p
  let s := s.publishAll y.core
  let s := s.removeParty p
  let mine := fun (t : Task) => t.id == y.task
  let x := s.part y.task.part
  let f := fun (t : Task) => if mine t then
    { t with live := t.live.filter (· != p), ended := t.ended + (if y.role == .trailer then 0 else 1) } else t
  let s := s.setPart y.task.part { x with tasks := x.tasks.map f }
  match s.task y.task with
  | some t => if t.ended == recParties t.record && t.live.isEmpty then s.endTask y.task 0 else s
  | none => s

/-- The live lanes of a party all stand at the EXIT that ends it. -/
def State.atEnd (s : State) (p : Nat) : Bool :=
  let ks := (s.party p).agents.filter fun k => !(s.agent k).ended
  !ks.isEmpty && ks.all fun k => (s.agent k).live.all fun l => (s.lane k l).wait == some .ended

/-- Every lane of a party exits. -/
def State.exitAll (s : State) (p : Nat) : State :=
  (s.party p).agents.foldl (fun s k => s.setAgent k ((s.agent k).live.foldl Agent.exitLane (s.agent k))) s

/-- A pair ends when both parties stand at their end and their signatures agree (16 R366). -/
def State.endPair (s : State) (n : Nat) : State :=
  match Sparse.find? s.dets n with
  | none => s
  | some d =>
    match d.trailer with
    | none => s
    | some t =>
      if !(s.atEnd d.leader && s.atEnd t) then s
      else if !d.agrees then s.pairMismatch n 3
      else
        let s := ((s.publishHeld d.leader).exitAll d.leader).exitAll t
        let s := (s.endParty t).endParty d.leader
        { s with dets := Sparse.drop s.dets n }

/-- Arrivals at barriers that became due because lanes exited (04 R93); a misuse is taken by the rope's other lanes. -/
def State.exitArrivals (s : State) (k : Nat) : State :=
  ((s.agent k).bara.map (·.1)).foldl (fun s b =>
    match s.baraArrive k b with
    | (s', true) => s'
    | (_, false) => s.trapAgent k (barrierTrap b)) s

/-- What the exit of lanes brings about: arrivals, queues that close, entries freed, collectives that complete, and the end of the
party. -/
def afterExit (k : Nat) : M Unit := do
  modify fun s => (s.exitArrivals k).releaseSamples k
  let s ← get
  let p := (s.agent k).party
  let y := s.party p
  if (s.agent k).ended then modCore (coreOf k) fun x =>
    let x := x.vacate fun j => j == k
    { x with pending := x.pending.filter fun e => e.agent != k }
  if isProducer k then
    if (s.agent k).ended then modify fun s => s.closeQueues (coreOf k)
    else pure ()
  else do
    modify fun s => s.freeDecisions p
    if !y.agents.isEmpty && y.agents.all fun j => (s.agent j).ended then do
      let mates := (s.collectiveParties p true).filter (· != p)
      modify fun s =>
        let s := s.endParty p
        match y.det with
        | some n => { s with dets := Sparse.drop s.dets n }
        | none => s
      match mates with
      | q :: _ => collective q true
      | [] => pure ()
    else do
      collective p false
      collective p true
      match y.det with
      | some n => modify fun s => s.endPair n
      | none => pure ()

/-- EXIT (07 R158): the last lanes of a rope wait until nothing of it is outstanding; those of a pair or of a replayed party, until
the party's end is decided (16 R362, R366). A bound rope takes DIVERGE_BOUND (09 R216). -/
def execExit (b : Base) (s : State) : Host.Outcome State Fault Refusal :=
  match runGroup (formOf (.exit b)) b false (do
      let s ← get
      let k := s.who
      let act := s.acting b
      let a := s.agent k
      let last := a.live.all act.contains
      if a.bound.isSome then
        pure { traps := [(s.issued.headD 0, ⟨.divergeBound, 0, (maskOf act).setWidth 64, false⟩)] }
      else if act.isEmpty then pure {}
      else if last && !a.quiet then waitFor .exit
      else if last && s.lastAgent k && s.inReplay a.party then
        pure { outs := act.map fun l => (l, { stay := some .pair }) }
      else if last && s.lastAgent k && (s.roleOf k == .leader || s.roleOf k == .trailer) then
        pure { outs := act.map fun l => (l, { stay := some .ended }) }
      else do
        modAgent k fun a => act.foldl Agent.exitLane a
        pure { outs := act.map fun l => (l, { moved := true }) }) s with
  | .next t =>
    if s.acting b == [] || (t.lane s.who (s.issued.headD 0)).wait == some .exit then .next t else runM (afterExit s.who) t
  | o => o

end Sys2Proof.Machine
end

