-- ==== Sys2Proof/Machine/Control.lean ====
section
/-! DEFINITION. Control instructions (spec/07 R154 to R159): NOP, CLH, BKPT, YIELD, the branches, calls, returns and hardware
loops. EXIT stands in Machine/Exit.lean. -/

namespace Sys2Proof.Machine

/-- NOP (07 R154). -/
def execNop (b : Base) (s : State) : Host.Outcome State Fault Refusal :=
  runGroup (formOf (.nop b)) b false (pure {}) s

/-- A clause opens in a lane (05 R122, R123). -/
def Lane.open (x : Lane) (w : ClhWord) : Lane := x.goOn 8 ⟨w.setb, w.seta, w.count, 0⟩

/-- The lanes have waited at a clause WAIT for more than 64 cycles (16 R360). -/
def State.waitedLong (s : State) : Bool :=
  let x := s.lane s.who (s.issued.headD 0)
  (match x.wait with | some (.flags _) => true | _ => false) && decide (64 < (s.clock (coreOf s.who) - x.since).toNat)

/-- CLH (05 R122): the group waits while a flag named in WAIT is raised, then its clause starts. -/
def execClh (w : ClhWord) (s : State) : Host.Outcome State Fault Refusal :=
  match w.check with
  | some c => .next (s.decodeFault ⟨s.issue.word, 0, 0⟩ c s.issue.word)
  | none =>
    if (s.agent s.who).raised w.wait then .next (s.noteWait s.who s.issued (.flags w.wait))
    else
      runM (do
        if s.waitedLong then noteEvent s.who s.issue.lanes 1 w.wait.toNat
        modify fun s => s.issued.foldl (fun s l => s.mapLane s.who l fun x => x.open w) s) s

/-- BKPT (07 R154): every lane of the issue group takes BREAKPOINT with the base word in TVAL. -/
def execBkpt (w : BkptWord) (s : State) : Host.Outcome State Fault Refusal :=
  if !w.lenWords then .next (s.decodeFault ⟨s.issue.word, 0, 0⟩ .reservedField s.issue.word)
  else if agentBars s.who s.mode 0x02 then .next (s.faultAll .illegalInstruction s.issue.word)
  else .next (s.faultAll .breakpoint s.issue.word)

/-- An agent leaves the active set for the tail of the pending set (13 R312). -/
def Core.toPending (x : Core) (k : Nat) : Core :=
  if x.active.any (fun p => p.agent == k) then
    let x := x.vacate fun j => j == k
    { x with pending := x.pending ++ [⟨k, 0⟩] }
  else x

/-- YIELD (07 R154): a rope joins the tail of the pending set; a lead gives up its next issue opportunity. -/
def execYield (b : Base) (s : State) : Host.Outcome State Fault Refusal :=
  runGroup (formOf (.yield b)) b false (do
    let s ← get
    let k := s.who
    if (s.acting b).isEmpty then pure {}
    else if isLead k then do
      modAgent k fun a => { a with yielded := true }
      pure {}
    else do
      modCore (coreOf k) fun x => x.toPending k
      pure {}) s

/-- The target of a PC-relative transfer (07 R155). -/
def relTarget (s : State) (b : Base) : DWord := s.issue.pc + BitVec.ofInt 64 (4 * b.offset)

/-- The trap of lanes that would part in a bound rope (09 R216): the mask of lanes whose value equals lane 0's. -/
def divergeTrap (vals : List (Nat × DWord)) : Trap :=
  let first := (vals.headD (0, 0)).2
  ⟨.divergeBound, 0, (maskOf ((vals.filter fun v => v.2 == first).map (·.1))).setWidth 64, false⟩

/-- The values of a bound rope's lanes differ. -/
def diverges (s : State) (vals : List (Nat × DWord)) : Bool :=
  (s.agent s.who).bound.isSome && vals.any fun v => v.2 != (vals.headD (0, 0)).2

/-- Transfer lanes to their targets; in a bound rope the targets must agree (09 R216). -/
def transfer (b : Base) (targets : List (Nat × DWord)) (go : Lane → DWord → Lane) : M GroupOut := do
  let s ← get
  if diverges s targets then trapActing b (divergeTrap targets)
  else do
    forEach targets fun t => modLane s.who t.1 fun x => go x t.2
    pure { outs := targets.map fun t => (t.1, { moved := true }) }

/-- BRA (07 R155). -/
def execBra (b : Base) (s : State) : Host.Outcome State Fault Refusal :=
  runGroup (formOf (.bra b)) b false (do
    let s ← get
    transfer b ((s.acting b).map fun l => (l, relTarget s b)) Lane.branch) s

/-- BRAU (07 R155): the whole issue group, or NONUNIFORM in every lane of it. -/
def execBrau (b : Base) (s : State) : Host.Outcome State Fault Refusal :=
  runGroup (formOf (.brau b)) b false (do
    let s ← get
    let act := s.acting b
    if act.isEmpty then pure {}
    else if act == s.issued then transfer b (act.map fun l => (l, relTarget s b)) Lane.branch
    else pure { traps := s.issued.map fun l => (l, ⟨.nonuniform, 0, s.issue.word, false⟩) }) s

/-- The target in source A of each lane whose guard holds. -/
def registerTargets (f : Form) (b : Base) : M (List (Nat × DWord)) := do
  let s ← get
  collect (s.acting b) fun l => do
    let x ← readSrc f b 0 l
    pure (l, x)

/-- BRX (07 R155). -/
def execBrx (b : Base) (s : State) : Host.Outcome State Fault Refusal :=
  runGroup (formOf (.brx b)) b false (do
    let ts ← registerTargets (formOf (.brx b)) b
    transfer b ts Lane.branch) s

/-- BRC (07 R155): the counter falls by one once per group, and the group branches while it is nonzero. -/
def execBrc (b : Base) (s : State) : Host.Outcome State Fault Refusal :=
  runGroup (formOf (.brc b)) b false (do
    let s ← get
    let n := s.readS s.who b.a.field.toNat - 1
    let put : List (Dest × Word) := [(.sreg b.a.field.toNat, n)]
    if n == 0 then pure { outs := [(s.issued.headD 0, { writes := put })] }
    else do
      let g ← transfer b (s.issued.map fun l => (l, relTarget s b)) Lane.branch
      pure { g with outs := (s.issued.headD 0, { writes := put, moved := true }) :: g.outs }) s

/-! ### Calls and the return stack (07 R156, R157) -/

/-- Slot number of an agent in `frame_addr`: its slot on the core. -/
def frameSlot (k : Nat) : Nat := slotOf k

/-- `frame_addr` (07 R156). -/
def frameAddr (s : State) (k l f : Nat) : Nat :=
  let r := (s.bank (coreOf k) (s.partOf k)).lstkbase
  let depth := (r.extractLsb' 0 12).toNat
  (r.extractLsb' 16 36).toNat * 65536 + 32 * (depth * (32 * frameSlot k + l) + f)

/-- Frames per lane, LSTKBASE.DEPTH (07 R157). -/
def frameDepth (s : State) (k : Nat) : Nat := ((s.bank (coreOf k) (s.partOf k)).lstkbase.extractLsb' 0 12).toNat

/-- `push` (07 R156). -/
def pushReturn (k l : Nat) (ra : DWord) : M Unit := do
  let s ← get
  let x := s.lane k l
  if x.rstack.length == 4 then do
    if x.rsd == frameDepth s k then raise .laneStackLimit (BitVec.ofNat 64 (frameAddr s k l x.rsd))
    physWrite (frameAddr s k l x.rsd) (x.rstack.flatMap (bytesOf 8))
    modLane k l fun y => { y with rsd := y.rsd + 1, rstack := [ra] }
  else modLane k l fun y => { y with rstack := y.rstack ++ [ra] }

/-- `pop` (07 R156). -/
def popReturn (k l : Nat) : M DWord := do
  let s ← get
  let x := s.lane k l
  if x.rstack.isEmpty then do
    if x.rsd == 0 then raise .returnUnderflow 0
    if s.eccBad (frameAddr s k l (x.rsd - 1)) 32 then
      raise .eccUncorrectable (BitVec.ofNat 64 (frameAddr s k l (x.rsd - 1)))
    let bs ← physRead (frameAddr s k l (x.rsd - 1)) 32
    let ws := (List.range 4).map fun i => dwordOf ((bs.drop (8 * i)).take 8)
    modLane k l fun y => { y with rsd := y.rsd - 1, rstack := ws.take 3 }
    pure (ws.getD 3 0)
  else do
    modLane k l fun y => { y with rstack := y.rstack.dropLast }
    pure (x.rstack.getLastD 0)

/-- A call in each lane of a list, each to its own target; a lane that faults does not transfer. -/
def callLanes (b : Base) (targets : List (Nat × DWord)) : M GroupOut := do
  let s ← get
  if diverges s targets then trapActing b (divergeTrap targets)
  else eachLane (targets.map (·.1)) fun l => do
    let dest := ((targets.find? fun t => t.1 == l).getD (l, 0)).2
    pushReturn s.who l (s.issue.pc + BitVec.ofNat 64 s.issue.len)
    modLane s.who l fun x => x.jump dest
    pure { moved := true }

/-- CALL (07 R156). -/
def execCall (b : Base) (s : State) : Host.Outcome State Fault Refusal :=
  runGroup (formOf (.call b)) b false (do
    let s ← get
    callLanes b ((s.acting b).map fun l => (l, relTarget s b))) s

/-- CALLX (07 R156). -/
def execCallx (b : Base) (s : State) : Host.Outcome State Fault Refusal :=
  runGroup (formOf (.callx b)) b false (do
    let ts ← registerTargets (formOf (.callx b)) b
    callLanes b ts) s

/-- The address that RET would pop in each acting lane, without popping it. -/
def peekReturns (b : Base) : M (List (Nat × DWord)) := fun s =>
  let one := fun l => match popReturn s.who l s with
    | .ok (a, _) => some (l, a)
    | .error _ => none
  .ok ((s.acting b).filterMap one, s)

/-- RET (07 R156). -/
def execRet (b : Base) (s : State) : Host.Outcome State Fault Refusal :=
  runGroup (formOf (.ret b)) b false (do
    let s ← get
    let ts ← peekReturns b
    if ts.length == (s.acting b).length && diverges s ts then trapActing b (divergeTrap ts)
    else eachLane (s.acting b) fun l => do
      let a ← popReturn s.who l
      modLane s.who l fun x => x.jump a
      pure { moved := true }) s

/-! ### Hardware loops (07 R159) -/

/-- A lane opens a loop, or skips its body. -/
def repeatLane (k l : Nat) (start fin : DWord) (n : Word) (word : DWord) : M LaneOut := do
  let s ← get
  let x := s.lane k l
  if n == 0 then do
    modLane k l fun x => x.jump fin
    pure { moved := true }
  else do
    require (!x.lc1.valid) .illegalOperand word
    modLane k l fun x => { x.jump start with lc1 := x.lc0, lc0 := ⟨true, x.mode, start, fin, n⟩ }
    pure { moved := true }

/-- REPEAT (07 R159). -/
def execRepeatx (b : Base) (s : State) : Host.Outcome State Fault Refusal :=
  let f := formOf (.repeatx b)
  runGroup f b false (do
    let s ← get
    let start := s.issue.pc + BitVec.ofNat 64 s.issue.len
    let fin := relTarget s b
    if s.clause.pos + 1 != s.clause.count then trapActing b ⟨.clauseFrame, 0, s.issue.pc, false⟩
    else if fin ≤ start then trapActing b ⟨.illegalOperand, 0, s.issue.word, false⟩
    else do
      let counts ← collect (s.acting b) fun l => do
        let n ← readSrc f b 0 l
        pure (l, n)
      if diverges s counts then trapActing b (divergeTrap counts)
      else eachLane (counts.map (·.1)) fun l =>
        repeatLane s.who l start fin (loWord ((counts.find? fun c => c.1 == l).getD (l, 0)).2) s.issue.word) s

end Sys2Proof.Machine
end

