-- ==== Sys2Proof/Machine/Schedule.lean ====
section
/-! DEFINITION. Issue (spec/13 R312 to R316): which lanes are ready, issue groups, the issue cycle with its two ports and the
lead slot, the active set; refills, landing results and held groups (spec/05 R113, R125, 11 R265). -/

namespace Sys2Proof.Machine

/-! ### Readiness (13 R313) -/

/-- What a sleeping lane waits for has come; a wait that another event ends is never over by itself, and one for another lane is over as
that lane's is. -/
def State.waitEnds (s : State) (k l : Nat) (w : Wait) : Bool :=
  let a := s.agent k
  let c := coreOf k
  match w with
  | .flags m => !a.raised m
  | .result u => !a.flights.any fun f => f.uid == u
  | .held | .cache _ _ | .phase _ _ | .wwait | .qlock | .ended | .mate _ => false
  | .woken | .granted | .room | .tile _ | .range _ _ => true
  | .pair => s.pairMark k != (s.lane k l).seen
  | .missFull => decide ((s.core c).misses.length < 64)
  | .copyFull => decide ((s.core c).copies.length < copyPlaces)
  | .entry n named => s.fileAllows c (s.partOf k) n || !(s.candidates k named false).isEmpty
  | .release tile n =>
    let y := s.party a.party
    if tile then (Sparse.find? y.tiles n).isNone else (Sparse.find? y.slots n).isNone
  | .version pa j => s.versionOpen pa k j
  | .slice pa lock => if lock then s.lockRoom pa else s.armRoom (sliceOf pa)
  | .table =>
    let d := campOf c
    decide ((s.camp d).tabled < tableSize) && !s.placeAhead d (s.lane k l).since
  | .miss _ => !(s.core c).misses.any fun e => e.waiters.any fun x => x.1 == k && x.2.getLsbD l
  | .flash line => s.landedFlash.contains line
  | .counter cls => decide (a.counter cls < counterLimit)
  | .flagFull f => a.flag f != 63
  | .cwait cls n => decide (a.counter cls ≤ n)
  | .barrier b ph =>
    let x := s.barrier a.party b
    x.memb == 0 || x.passed ph || x.past ph == 32768
  | .stream q =>
    let x := s.core c
    if isProducer k then decide ((x.queue q).entries.length < queueDepth)
    else x.queuesClosed || !(x.queue q).entries.isEmpty || x.producer != some a.party
  | .decision =>
    let y := s.party a.party
    if isLead k then decide (y.dq.entries.length < decisionDepth)
    else decide (a.dqPos < y.dq.base + y.dq.entries.length) || !s.leadLives a.party
  | .exit => a.ops.isEmpty && a.faults.isEmpty && a.flags.all (· == 0)
  | .tlbi n => !s.tlbis.any fun t => t.id == n
  | .vreg r => (Sparse.find? a.spilled r).isNone && !a.owes r
  | .durable n upto => match s.logs[n]? with
    | some g => g.err || decide (upto ≤ g.dslot)
    | none => true
  | .camp u =>
    !((s.camp (campOf c)).ops.any fun o => o.uid == u) && !((s.core c).appends.any fun e => e.uid == u) &&
      !(s.parked.any fun p => p.uid == u)
  | .remote u => !s.remotes.any fun r => r.uid == u && r.answer.isNone

/-- A lane's wait is over; that of a lane which sleeps with another is once the other wakes, or has left the instruction. -/
def State.waitOver (s : State) (k l : Nat) (w : Wait) : Bool :=
  match w with
  | .mate j =>
    let x := s.lane k j
    x.exited || x.pc != (s.lane k l).pc || x.mode != (s.lane k l).mode || match x.wait with
      | none => true
      | some v => s.waitEnds k j v
  | w => s.waitEnds k l w

/-- The lane that a replay's stop record names has reached its count (16 R362). -/
def State.atStop (s : State) (k l : Nat) : Bool :=
  match (s.partyOf k).role, s.detOf k with
  | .replay, some (_, d) => (s.part (s.partOf k)).dreq.getLsbD 61 && d.replay == some (logRope s k, l, (s.lane k l).rwc)
  | _, _ => false

/-- A lane may issue: it has not exited, is not halted and is not asleep; the lane that stops a replay issues no more, and one
that has reached an engine's completion in a replay waits for it (16 R362). -/
def State.laneReady (s : State) (k l : Nat) : Bool :=
  let x := s.lane k l
  !x.exited && !x.halted && !(s.partyOf k).halted && !s.atStop k l && !s.awaitsCompletion k l && match x.wait with
    | none => true
    | some w => s.waitOver k l w

/-- The wait is a long-latency dependence at once; the others are one after 64 cycles (13 R312). -/
def Wait.longAtOnce : Wait → Bool
  | .flags _ | .result _ | .flagFull _ | .exit | .held | .camp _ | .version _ _ | .release _ _ => false
  | _ => true

/-- An engine operation of an agent waits for a place in a full miss table, which its rope takes for a long-latency dependence (02 R36
rule 2). -/
def State.engineWaits (s : State) (k : Nat) : Bool :=
  let c := coreOf k
  let x := s.core c
  (s.agent k).stuck.any fun u => (s.agent k).ops.any (fun o => o.uid == u && !o.done) &&
    if x.copies.any fun e => e.uid == u then decide (64 ≤ x.misses.length) else decide (256 ≤ (s.die (dieOf c)).engMisses.length)

/-- A lane waits on a long-latency dependence. -/
def State.waitsLong (s : State) (k l : Nat) : Bool :=
  let x := s.lane k l
  !x.exited && match x.wait with
    | none => false
    | some w => !s.waitOver k l w &&
      (w.longAtOnce || s.engineWaits k || decide (64 < (s.clock (coreOf k) - x.since).toNat))

/-! ### Issue groups (13 R313) -/

/-- Two lanes issue together: equal pc, mode and clause state. -/
def Lane.sameGroup (x y : Lane) : Bool := x.pc == y.pc && x.mode == y.mode && x.clause == y.clause

/-- Lanes parted into groups. -/
def partLanes (same : Nat → Nat → Bool) : Nat → List Nat → List (List Nat)
  | 0, _ => []
  | _, [] => []
  | n + 1, l :: ls => (l :: ls.filter (same l)) :: partLanes same n (ls.filter fun j => !same l j)

/-- The order of groups: by pc, then mode, then lowest lane. -/
def groupBefore (x y : Lane) (i j : Nat) : Bool :=
  if x.pc != y.pc then decide (x.pc < y.pc) else if x.mode != y.mode then decide (x.mode.code < y.mode.code) else decide (i < j)

/-- Put a group in its place. -/
def State.insertGroup (s : State) (k : Nat) (g : List Nat) : List (List Nat) → List (List Nat)
  | [] => [g]
  | h :: t =>
    if groupBefore (s.lane k (g.headD 0)) (s.lane k (h.headD 0)) (g.headD 0) (h.headD 0) then g :: h :: t
    else h :: s.insertGroup k g t

/-- The base word at which a group stands, where it can be fetched. -/
def State.peek (s : State) (k : Nat) (g : List Nat) : Option (BitVec 64) :=
  let x := s.lane k (g.headD 0)
  match fetch k x.mode x.pc 8 s with
  | .ok (bs, _) => some (wordsOf bs).base
  | .error _ => none

/-- Unit classes (13 R314). -/
inductive UnitClass where
  | alu | sfu | xl | mem | sync | eng | long | sys
  deriving DecidableEq, Repr

/-- DK of a base word. -/
def dkOf (w : BitVec 64) : Bool := (Base.unpack .w64 w 0 0).dk == .scl

/-- A cross-lane instruction (07 R153). -/
def crossLane (w : BitVec 64) : Bool :=
  let n := (opcOf w).toNat
  (decide (0x90 ≤ n) && decide (n ≤ 0x95)) || n == 0x97 || n == 0x99 || ((n == 0x3B || n == 0x58) && dkOf w)

/-- Unit class of an instruction. -/
def unitClass (w : BitVec 64) : UnitClass :=
  let n := (opcOf w).toNat
  if crossLane w then .xl
  else if 0x5B ≤ n ∧ n ≤ 0x63 then .sfu
  else if memClass (opcOf w) then .mem
  else if 0xC4 ≤ n ∧ n ≤ 0xCE then .sync
  else if (0xD0 ≤ n ∧ n ≤ 0xEF) ∨ n = 0xFA then .eng
  else if 0xF0 ≤ n ∧ n ≤ 0xF3 then .long
  else if (0xF4 ≤ n ∧ n ≤ 0xF9) ∨ n = 0xFB then .sys
  else .alu

/-- Lanes, from an agent's, that hold a cross-lane group back: those of the group that are not in it, and those of its mode that stand
lower and are awake to WWAIT (07 R153). -/
def State.holders (s : State) (k : Nat) (g : List Nat) : List Nat :=
  let x := s.lane k (g.headD 0)
  (s.agent k).live.filter fun l =>
    let y := s.lane k l
    (y.sameGroup x && !g.contains l) || (y.mode == x.mode && decide (y.pc < x.pc) && y.wait != some .wwait)

/-- QNT, which obeys 07 R153 within each group of 8 lanes (07 R175). -/
def isQnt (w : BitVec 64) : Bool := opcOf w == 0x83

/-- The lanes of a group that may execute a word together: all or none of a bound rope (09 R216) and of a cross-lane group, and of a QNT all
or none of each 8. -/
def State.together (s : State) (k : Nat) (w : BitVec 64) (g : List Nat) : List Nat :=
  if (s.agent k).bound.isSome && g.length != (s.agent k).live.length then []
  else if crossLane w then (if (s.holders k g).isEmpty then g else [])
  else if isQnt w then g.filter fun l => !(s.holders k g).any fun j => j / 8 == l / 8
  else g

/-- A group of lanes as the issue in hand. -/
def State.withIssue (s : State) (k : Nat) (g : List Nat) (n : Nat) (w : BitVec 64) : State :=
  { s with issue := ⟨k, maskOf g, (s.lane k (g.headD 0)).pc, n, w⟩ }

/-- The counter of an instruction that an engine performs (03 R62). -/
def countedClass : Instr → Option EngClass
  | .cpy _ => some .cpy
  | .gth _ | .sct _ => some .gth
  | .mma _ | .attn _ | .attnf _ | .old _ | .acrd _ | .acwr _ => some .mat
  | .coll _ | .rblkSeq _ | .rblkGet _ | .rblkPut _ => some .col
  | .apnd _ => some .apn
  | .stf _ | .red _ => some .far
  | _ => none

/-- The unit of an instruction does not accept it yet (13 R313): its counter is full, or a copy or an MMA finds no place. -/
def State.refusedBy (s : State) (k l : Nat) (i : Instr) : Option Wait :=
  match countedClass i with
  | none => none
  | some cls =>
    let d := campOf (coreOf k)
    let x := s.lane k l
    let t := if x.wait == some .table then x.since else s.clock (coreOf k)
    if counterLimit ≤ (s.agent k).counter cls then some (.counter cls)
    else match i with
      | .cpy _ => if copyPlaces ≤ (s.core (coreOf k)).copies.length then some .copyFull else none
      | .mma _ => if tableSize ≤ (s.camp d).tabled || s.placeAhead d t then some .table else none
      | _ => none

/-- What a group waits for before it may issue (13 R313): an interlock of its instruction, the WAIT flags at a clause start, its unit. A
group whose instruction cannot be fetched or decoded issues, and misses or traps; one that needs a spilled register issues, and
waits for the refill (05 R113). -/
def State.lockOf (s : State) (k : Nat) (g : List Nat) (w : BitVec 64) : Option Wait :=
  let x := s.lane k (g.headD 0)
  match fetch k x.mode x.pc (lenOf w) s with
  | .error _ => none
  | .ok (bs, _) =>
    match decode (wordsOf bs) with
    | .error _ => none
    | .ok (.clh b) => if (s.agent k).raised b.wait then some (.flags b.wait) else none
    | .ok i =>
      match Instr.baseOf i with
      | none => none
      | some b =>
        let t := s.withIssue k g (lenOf w) w
        match t.busy (formOf i) b with
        | some (.vreg _) => none
        | some v => some v
        | none => if (t.acting b).isEmpty then none else s.refusedBy k (g.headD 0) i

/-- The lanes of a group that may issue. -/
def State.groupReady (s : State) (k : Nat) (g : List Nat) : List Nat :=
  match s.peek k g with
  | some w => if (s.lockOf k g w).isNone then s.together k w g else []
  | none => g

/-- The groups of an agent's lanes that are awake, in order; a bound rope has one group of all its lanes (09 R216). -/
def State.awakeGroups (s : State) (k : Nat) : List (List Nat) :=
  let awake := (s.agent k).live.filter (s.laneReady k)
  if (s.agent k).bound.isSome && awake != (s.agent k).live then []
  else (partLanes (fun i j => (s.lane k i).sameGroup (s.lane k j)) 32 awake).foldr (s.insertGroup k) []

/-- The ready issue groups of an agent, in order. -/
def State.readyGroups (s : State) (k : Nat) : List (List Nat) :=
  ((s.awakeGroups k).map (s.groupReady k)).filter fun g => !g.isEmpty

/-- The lanes of an agent that an interlock or a unit holds back wait for it from now on (13 R312, R313). -/
def State.noteLocks (s : State) (k : Nat) : State :=
  (s.awakeGroups k).foldl (fun s g => match (s.peek k g).bind (s.lockOf k g) with
    | some w => s.sleep k g w
    | none => s) s

/-! ### The active set (13 R312) -/

/-- A swap or fill: no pending rope has been ready since. -/
def Core.resetReady (x : Core) : Core := { x with pending := x.pending.map fun e => { e with ready := 0 } }

/-- The ready pending rope nearest the head. -/
def State.nextPending (s : State) (c : Nat) : Option Nat :=
  ((s.core c).pending.find? fun e => !(s.readyGroups e.agent).isEmpty).map (·.agent)

/-- Places of the active set. -/
def activePlaces : Nat := 8

/-- A rope takes the first place that an ended rope has left, or one that has had none. -/
def putPlace (k : Nat) : List Place → List Place
  | [] => [⟨k, 0⟩]
  | e :: t => if e.agent == noAgent then ⟨k, 0⟩ :: t else e :: putPlace k t

/-- Free places go to ready pending ropes. -/
def State.fillPlaces (s : State) (c : Nat) : Nat → State
  | 0 => s
  | n + 1 =>
    let x := s.core c
    if activePlaces ≤ (x.active.filter fun e => e.agent != noAgent).length then s
    else
      match s.nextPending c with
      | none => s
      | some k =>
        let x : Core := { x with active := putPlace k x.active, pending := x.pending.filter fun e => e.agent != k }
        (s.setCore c x.resetReady).fillPlaces c n

/-- An active rope changes places with a pending one. -/
def Core.swap (x : Core) (out in_ : Nat) : Core :=
  let put := fun (e : Place) => if e.agent == out then Place.mk in_ 0 else e
  let x : Core := { x with active := x.active.map put, pending := (x.pending.filter fun e => e.agent != in_) ++ [⟨out, 0⟩] }
  x.resetReady

/-- ROPE_SWAP (13 R312 rule 1). -/
def execRopeSwap (core slot : Nat) (s : State) : Host.Outcome State Fault Refusal :=
  match (s.core core).active[slot]? with
  | none => .next s
  | some e =>
    match s.nextPending core with
    | some k =>
      if (s.readyGroups e.agent).isEmpty && (s.agent e.agent).live.any (s.waitsLong e.agent) then
        .next (s.setCore core ((s.core core).swap e.agent k))
      else .next s
    | none => .next s

/-- Cycles after which a ready pending rope displaces an active one. -/
def timeSliceCycles : Nat := 2048

/-- The place that has been held longest. -/
def longestHeld : List Place → Option Place
  | [] => none
  | e :: t =>
    match longestHeld t with
    | some f => if e.held < f.held then some f else some e
    | none => some e

/-- TIME_SLICE (13 R312 rule 3). -/
def execTimeSlice (core : Nat) (s : State) : Host.Outcome State Fault Refusal :=
  let x := s.core core
  match x.pending.find? (fun e => decide (timeSliceCycles ≤ e.ready) && !(s.readyGroups e.agent).isEmpty),
    longestHeld (x.active.filter fun e => e.agent != noAgent) with
  | some p, some e => .next (s.setCore core (x.swap e.agent p.agent))
  | _, _ => .next s

/-! ### The issue cycle (13 R313 to R316) -/

/-- Unissued opportunities after which a lane is aged. -/
def agedAt : Nat := 64

/-- Largest count of a group's lanes. -/
def State.groupAge (s : State) (k : Nat) (g : List Nat) : Nat := (g.map fun l => (s.lane k l).age).foldl Nat.max 0

/-- The aged group with the largest count, ties to the lowest pc. -/
def State.agedGroup (s : State) (k : Nat) : List (List Nat) → Option (List Nat)
  | [] => none
  | g :: t =>
    match s.agedGroup k t with
    | some h => if agedAt ≤ s.groupAge k g && s.groupAge k h ≤ s.groupAge k g then some g else some h
    | none => if agedAt ≤ s.groupAge k g then some g else none

/-- One step of the issue LFSR (13 R315). -/
def lfsrStep (x : Word) : Word := (x >>> 1) ^^^ (if x.getLsbD 0 then 0x80200003 else 0)

/-- Unit class of a group; one that cannot be fetched occupies no shared unit. -/
def State.groupClass (s : State) (k : Nat) (g : List Nat) : UnitClass := ((s.peek k g).map unitClass).getD .alu

/-- Two groups conflict: they are of one shared class (13 R314). -/
def State.groupsConflict (s : State) (k : Nat) (g : List Nat) (j : Nat) (h : List Nat) : Bool :=
  s.groupClass k g == s.groupClass j h && s.groupClass k g != .alu

/-- The issue of a group. -/
def State.issueOf (s : State) (k : Nat) (g : List Nat) : Issue := ⟨k, maskOf g, (s.lane k (g.headD 0)).pc, 0, 0⟩

/-- The LFSR's choice between two groups of one rope (13 R313): the group, and whether it stepped. -/
def State.contest (s : State) (k : Nat) (a b : List Nat) : List Nat × Bool :=
  let oldA := decide (agedAt ≤ s.groupAge k a)
  let oldB := decide (agedAt ≤ s.groupAge k b)
  if oldA != oldB then (if oldA then a else b, false) else (if (s.agent k).lfsr.getLsbD 0 then b else a, true)

/-- What the ports issue for a rope and its groups, with the groups of the ropes after it; and whether the LFSR steps. -/
def State.portChoice (s : State) (r : Nat) (a : List Nat) (others : List (List Nat)) (next : Option (Nat × List Nat)) :
    List (Nat × List Nat) × Bool :=
  match (s.agedGroup r others).or others.head? with
  | some b =>
    if s.groupsConflict r a r b then
      let (g, stepped) := s.contest r a b
      ([(r, g)], stepped)
    else ([(r, a), (r, b)], false)
  | none =>
    match next with
    | some (j, b) => if s.groupsConflict r a j b then ([(r, a)], false) else ([(r, a), (j, b)], false)
    | none => ([(r, a)], false)

/-- The counts of a rope's ready lanes after one of its opportunities (13 R315). A lane that it is the 64th to pass is aged by the
LANE_AGED that follows. -/
def State.countOpportunity (s : State) (r : Nat) (groups : List (List Nat)) (issued : List Nat) : State :=
  let passed := groups.flatten.filter fun l => !issued.contains l
  let due := passed.filter fun l => (s.lane r l).age + 1 == agedAt
  let s := issued.foldl (fun s l => s.mapLane r l fun x => { x with age := 0 }) s
  let s := (passed.filter fun l => !due.contains l).foldl (fun s l => s.mapLane r l fun x => { x with age := x.age + 1 }) s
  let x := s.core (coreOf r)
  s.setCore (coreOf r) { x with aging := x.aging ++ due.map fun l => (r, l) }

/-- A lane that the 64th opportunity of its rope has passed is aged (13 R315). -/
def State.ageLane (s : State) (k l : Nat) : State :=
  let x := s.core (coreOf k)
  if x.aging.contains (k, l) then
    (s.setCore (coreOf k) { x with aging := x.aging.filter fun e => e != (k, l) }).mapLane k l fun y => { y with age := agedAt }
  else s

/-- Ports A and B of a cycle. -/
def State.issueRopes (s : State) (c : Nat) : State :=
  let x := s.core c
  let order := (x.active.drop x.ropePtr ++ x.active.take x.ropePtr).map (·.agent)
  let ready : List (Nat × List Nat × List (List Nat)) := order.filterMap fun k => match s.readyGroups k with
    | [] => none
    | g :: t => some (k, g, t)
  match ready with
  | [] => s
  | (r, a, others) :: rest =>
    let choice := s.portChoice r a others (rest.head?.map fun e => (e.1, e.2.1))
    let won := choice.1
    let issues := won.map fun (e : Nat × List Nat) => s.issueOf e.1 e.2
    let s := { s with ports := s.ports ++ issues }
    let mine := (won.filter fun e => e.1 == r).flatMap (·.2)
    let s := s.countOpportunity r (a :: others) mine
    let y := s.agent r
    let s := s.setAgent r { y with lfsr := if choice.2 then lfsrStep y.lfsr else y.lfsr }
    let place := (x.active.findIdx? fun e => e.agent == r).getD 0
    s.setCore c { s.core c with ropePtr := (place + 1) % activePlaces }

/-- Lead contexts of a core, from the one after the last served. -/
def leadOrder (c ptr : Nat) : List Nat := (List.range 16).map fun i => 128 * c + 65 + (ptr + i) % 16

/-- The lead issue slot of a cycle (13 R316); a lead that has yielded is passed over once (07 R154). -/
def State.issueLead (s : State) (c : Nat) : State :=
  let ready := (leadOrder c (s.core c).leadPtr).filter fun k => !(s.readyGroups k).isEmpty
  let given := ready.takeWhile fun k => (s.agent k).yielded
  let s := given.foldl (fun s k => s.setAgent k { s.agent k with yielded := false }) s
  match ready.drop given.length with
  | [] => s
  | k :: _ =>
    let s := { s with ports := s.ports ++ [s.issueOf k [0]] }
    s.setCore c { s.core c with leadPtr := (slotOf k - 65 + 1) % 16 }

/-- What a cycle counts (assumption log 6): the die's CLOCK, whether a miss of the core waits for a walk slot (02 R24), since when lanes
wait for interlocks and units, and how long ropes have held places or been ready. -/
def State.tickCore (s : State) (c : Nat) : State :=
  let waiting := (s.die (dieOf c)).queue.any fun r => r.core == c
  let s := (s.coreAgents c).foldl State.releaseSamples s
  let s := (s.core c).aging.foldl (fun s e => s.ageLane e.1 e.2) (s.tickDie (dieOf c) c)
  let s := (s.coreAgents c).foldl State.noteLocks s
  let x := s.core c
  let pending := x.pending.map fun (e : Pending) => { e with ready := if (s.readyGroups e.agent).isEmpty then 0 else e.ready + 1 }
  let active := x.active.map fun (e : Place) => { e with held := e.held + 1 }
  s.setCore c { x with
    active := active, pending := pending
    counters := { x.counters with wq := if waiting then x.counters.wq + 1 else x.counters.wq } }

/-- ISSUE_CYCLE (13 R313, R316): the groups chosen go to the ports, and the next steps execute them. -/
def execIssueCycle (core : Nat) (s : State) : Host.Outcome State Fault Refusal :=
  .next ((((s.tickCore core).fillPlaces core activePlaces).issueRopes core).issueLead core)

/-- LANE_AGED (13 R315): the 64th opportunity of its rope has passed a ready lane. -/
def execLaneAged (agent lane : Nat) (s : State) : Host.Outcome State Fault Refusal := .next (s.ageLane agent lane)

/-! ### Refills, landing results and held groups -/

/-- Make a register's entry and bring its lanes back (05 R113). -/
def refillReg (k reg : Nat) : M Unit := do
  let s ← get
  if (Sparse.find? (s.agent k).spilled reg).isSome || (s.agent k).owes reg then do
    makeRoom k [reg] 1 (fileSize + 1)
    modify fun s => (s.refill k reg).giveOwed k reg
    let v := 128 * slotOf k + reg
    modCore (coreOf k) fun x => { x with vfile := (x.vfile.filter fun y => y != v) ++ [v] }

/-- VREG_REFILL (05 R113). -/
def execVregRefill (agent reg : Nat) (s : State) : Host.Outcome State Fault Refusal := runEvent agent (refillReg agent reg) s

/-- FLAG_FALL (05 R125): a result whose value is known lands; one of an ACRD is a counted operation, which is then complete. -/
def execFlagFall (agent uid : Nat) (s : State) : Host.Outcome State Fault Refusal :=
  let a := s.agent agent
  if !a.flights.any fun f => f.uid == uid && f.known then .next s
  else if a.ops.any fun o => o.uid == uid then runEvent agent (landRead agent uid) s
  else .next (s.setAgent agent (a.land uid))

/-- OPERATION_PERFORMED (11 R265): the held lanes of an interlocked operation may issue again. -/
def execOperationPerformed (agent : Nat) (lanes : Word) (s : State) : Host.Outcome State Fault Refusal :=
  .next ((s.performed agent (lanesOf lanes)).releaseSamples agent)

end Sys2Proof.Machine
end

