-- ==== Sys2Proof/Machine/Preempt.lean ====
section
/-! DEFINITION. Pre-emption (spec/14 R334 to R339): halting, saving, resuming and aborting tasks; and the placement attempts of
spec/13 R308. -/

namespace Sys2Proof.Machine

/-! ### Halting (14 R335) -/

/-- No pass or key block of a party is under way (14 R335 step 2). -/
def State.settled (s : State) (p : Nat) : Bool :=
  !(s.campOps p).any fun o => o.party == p && match o.phase with
    | .granted _ | .writing _ _ => true
    | _ => false

/-! ### Saved parties -/

/-- Key of a saved party. -/
def Saved.key (v : Saved) : Nat := (v.agents.head?.map fun e => e.2.party).getD 0

/-- A saved party by its key. -/
def State.savedParty (s : State) (p : Nat) : Option Saved := s.saved.find? fun v => v.key == p && v.frame.isSome

/-- The parties of a team, saved or resident, of a party. -/
def State.teamMates (s : State) (p : Nat) : List Nat :=
  match (s.party p).team with
  | some t => ((Sparse.find? s.teams t).map Team.members).getD [p]
  | none => [p]

/-- Every live party of a task is in a frame. -/
def State.allSaved (s : State) (t : Task) : Bool := t.live.all fun p => (s.savedParty p).isSome

/-- A SAVE is over once every party of its task is saved (14 R334). -/
def State.settleSave (s : State) (id : TaskId) : State :=
  match s.task id with
  | some t =>
    if t.held && s.allSaved t && t.status.isNone then s.setPart id.part ((s.part id.part).preqDone id 0) else s
  | none => s

/-! ### ABORT (14 R334) -/

/-- A party of an aborted task leaves its core: the far operations that it has issued are performed, it publishes as at exit, and the rest of
its state is gone. -/
def State.dropParty (s : State) (p : Nat) : State :=
  let y := s.party p
  let s := ((s.haltParty p).drainParty p).publishAll y.core
  let s := s.removeParty p
  match y.det with
  | some n => { s with dets := Sparse.drop s.dets n }
  | none => s

/-- Free the frame of a saved party. -/
def State.freeFrame (s : State) (v : Saved) : State :=
  let s := { s with saved := s.saved.filter fun w => w.key != v.key || w.frame != v.frame }
  match v.frame with
  | some (c, j) =>
    let x := s.core c
    s.setCore c { x with frames := x.frames.erase (64 * v.party.task.part + j) }
  | none => s

/-- Abort a task: its parties go, the unplaced ones are dropped, and its completion is due with STATUS 1. -/
def State.abortTask (s : State) (id : TaskId) : State :=
  match s.task id with
  | none => s
  | some t =>
    let s := (t.live.filter fun p => (Sparse.find? s.parties p).isSome).foldl State.dropParty s
    let s := (s.saved.filter fun v => t.live.contains v.key).foldl (fun s v =>
      let s := match v.party.det with
        | some n => { s with dets := Sparse.drop s.dets n }
        | none => s
      s.freeFrame v) s
    let x := s.part id.part
    let gone := fun (u : Task) => if u.id == id then { u with live := [], placed := recParties u.record, held := false } else u
    (s.setPart id.part { x with tasks := x.tasks.map gone }).endTask id 1

/-! ### PREQ (14 R334) -/

/-- PREQ after a request: its task, BUSY and RES. -/
def preqWord (id : TaskId) (busy : Bool) (res : Nat) : DWord :=
  BitVec.ofNat 64 (res * 2 ^ 39 + (if busy then 2 ^ 38 else 0) + id.qidx * 2 ^ 32 + id.slot)

/-- Record a request of a partition. -/
def State.setPreq (s : State) (id : TaskId) (busy : Bool) (res : Nat) : State :=
  s.setPart id.part { s.part id.part with preq := preqWord id busy res, preqFor := if busy then some id else none }

/-- SAVE. -/
def State.preqSave (s : State) (id : TaskId) : State :=
  match s.task id with
  | none => s.setPreq id false 1
  | some t =>
    let s := s.setPreq id true 0
    let x := s.part id.part
    let s := s.setPart id.part { x with tasks := x.tasks.map fun u => if u.id == id then { u with held := true } else u }
    let s := (t.live.filter fun p => (Sparse.find? s.parties p).isSome).foldl State.haltParty s
    if t.status.isSome then s.setPreq id false 0 else s.settleSave id

/-- RESUME. -/
def State.preqResume (s : State) (id : TaskId) : State :=
  match s.task id with
  | none => s.setPreq id false 1
  | some _ =>
    let s := s.setPreq id false 0
    let x := s.part id.part
    s.setPart id.part { x with tasks := x.tasks.map fun u => if u.id == id then { u with held := false } else u }

/-- ABORT. -/
def State.preqAbort (s : State) (id : TaskId) : State :=
  match s.task id with
  | none => s.setPreq id false 1
  | some t => if t.complete then s.setPreq id false 0 else (s.setPreq id true 0).abortTask id

/-- A request is in progress. -/
def State.preqBusy (s : State) (part : Nat) : Bool := (s.part part).preq.getLsbD 38

/-- A request that PREQ's state refuses is none (14 R334). -/
def runPreq (part qidx slot : Nat) (act : State → TaskId → State) (s : State) : Host.Outcome State Fault Refusal :=
  if s.preqBusy part then .next s else .next (act s (s.namedTask part qidx slot))

/-- PREQ_SAVE (14 R334). -/
def execPreqSave (part qidx slot : Nat) (s : State) : Host.Outcome State Fault Refusal := runPreq part qidx slot State.preqSave s

/-- PREQ_RESUME (14 R334). -/
def execPreqResume (part qidx slot : Nat) (s : State) : Host.Outcome State Fault Refusal := runPreq part qidx slot State.preqResume s

/-- PREQ_ABORT (14 R334). -/
def execPreqAbort (part qidx slot : Nat) (s : State) : Host.Outcome State Fault Refusal := runPreq part qidx slot State.preqAbort s

/-! ### CONTEXT_SAVE (14 R335 to R338) -/

/-- The lowest free frame of a partition on a core. -/
def State.freeFrameOf (s : State) (c p : Nat) : Option Nat :=
  let n := ((s.bank c p).ctxbase.extractLsb' 14 6).toNat
  (List.range n).find? fun j => !(s.core c).frames.contains (64 * p + j)

/-- What a frame shall hold of a party: as it stands, or, of a pair, as it stood at the interval's checkpoint (16 R367). -/
def State.saveOf (s : State) (p : Nat) : Saved :=
  let y := s.party p
  match y.role, y.det.bind (Sparse.find? s.dets) with
  | .leader, some d => d.checkpoint.getD (s.snapshot p)
  | .trailer, some d => d.checkpoint2.getD (s.snapshot p)
  | _, _ => s.snapshot p

/-- A pair starts its interval anew with the log it has (16 R367). -/
def State.restartInterval (s : State) (p : Nat) : State :=
  let y := s.party p
  match y.det.bind (Sparse.find? s.dets), y.det, y.role == .leader || y.role == .trailer with
  | some d, some n, true =>
    (s.dropDirty d.leader).setDet n (d.again (s.reachedBy d.leader d.reached))
  | _, _, _ => s

/-- Save one party into a frame, its engines held and its results landed, and free its resources. -/
def saveParty (p j : Nat) : M Unit := do
  modify fun s => s.landAll p
  let s ← get
  let y := s.party p
  let c := y.core
  if y.role != .leader && y.role != .trailer then modify fun s => s.publishAll c
  let s ← get
  let sv := { s.saveOf p with frame := some (c, j) }
  writeFrame (frameBase (s.bank c y.task.part) j) sv
  modify fun s =>
    let s := s.restartInterval p
    let ks := s.ownKeys p
    let direct := fun (e : Parked) => match e.via with
      | .lane k m | .unit k _ m _ => if ks.contains k then { e with via := s.engineVia k m } else e
      | .direct .. | .hart .. => e
    let s : State := { s with
      saved := s.saved ++ [sv], parked := s.parked.map direct
      remotes := s.remotes.filter fun r => !ks.contains r.agent && !ks.contains (r.agent - 2 ^ 32) }
    let x := s.core c
    (s.setCore c { x with frames := x.frames ++ [64 * y.task.part + j] }).removeParty p

/-- The parties that are saved together with one: its team, and its pair's (14 R336, 16 R367). -/
def State.saveGroup (s : State) (p : Nat) : List Nat :=
  let mates := fun (q : Nat) => (s.teamMates q).filter fun r => (Sparse.find? s.parties r).isSome
  let own := mates p
  match (s.party p).det.bind (Sparse.find? s.dets), (s.party p).role with
  | some d, .leader => own ++ (d.trailer.toList.flatMap mates)
  | some d, .trailer => own ++ mates d.leader
  | _, _ => own

/-- A party needs more than a frame holds (14 R338). -/
def State.frameTooSmall (s : State) (p : Nat) : Bool :=
  let sv := s.saveOf p
  decide (ctxFrameSize (s.bank sv.party.core sv.party.task.part) * 2 ^ 20 < frameNeed s sv)

/-- Save a list of parties, each in the lowest free frame of its core; all of them or none. -/
def saveParties : List Nat → M Unit
  | [] => pure ()
  | p :: ps => do
    let s ← get
    match s.freeFrameOf (s.party p).core (s.party p).task.part with
    | none => waitFor .room
    | some j => do
      saveParty p j
      saveParties ps

/-- CONTEXT_SAVE (14 R335, R336): a halted party whose passes have retired is saved, with its team; without a free frame it stays
halted; a frame that is too small aborts its task. -/
def execContextSave (party : Nat) (s : State) : Host.Outcome State Fault Refusal :=
  let y := s.party party
  let group := s.saveGroup party
  if !(y.halted && group.all (fun p => (s.party p).halted && s.settled p)) || (s.task y.task).all (fun t => !t.held) then .next s
  else if group.any s.frameTooSmall then
    let x := s.part y.task.part
    let s := if x.preqFor == some y.task then s.setPart y.task.part { x with preq := (x.preq &&& 0x7FFFFFFFFF) ||| (2 <<< 39) } else s
    .next (s.abortTask y.task)
  else runEvent (y.agents.headD 0) (do
    saveParties group
    modify fun s => s.settleSave y.task) s

/-! ### Returning to a core (14 R339, 10 R248) -/

/-- What a saved party takes at placement. -/
def Saved.need (v : Saved) : Need := ⟨v.party.nrope, v.party.hasLead, v.party.spadK, v.party.role != .none⟩

/-- A camp has room for a number of slots or tiles of a partition. -/
def State.campFits (s : State) (c p n : Nat) (tile : Bool) : Bool :=
  let fld := fun (q lo w : Nat) => ((s.qcamp c q).extractLsb' lo w).toNat
  n == 0 || (if tile then quotaAllows 32 n p (s.campUsed c true) (fun q => fld q 8 6) (fun q => fld q 22 6)
    else quotaAllows 128 n p (s.campUsed c false) (fun q => fld q 0 8) (fun q => fld q 14 8))

/-- Free entries of a partition's snapshot area on a core. -/
def State.snapRoom (s : State) (c p : Nat) : Nat :=
  s.snapCapacity c p - ((s.core c).snaps.filter fun u => u.part == p).length

/-- The producer slot of a core is free, or the party owns none. -/
def State.producerFits (s : State) (c : Nat) (v : Saved) : Bool := v.producer.isNone || (s.core c).producer.isNone

/-- Saved parties fit on cores, in order. -/
def State.savedFit (s : State) (vs : List Saved) (cores : List Nat) : Bool :=
  let p := (vs.head?.map fun v => v.party.task.part).getD 0
  let camp := campOf (cores.headD 0)
  s.campFits camp p (vs.map fun v => v.party.slots.length).sum false && s.campFits camp p (vs.map fun v => v.party.tiles.length).sum true &&
    (vs.zip cores).all fun e => decide (e.1.party.marks.length ≤ s.snapRoom e.2 p) && s.producerFits e.2 e.1

/-- A saved party with its places of another core. -/
def Saved.moved (v : Saved) (c : Nat) (keys : List (Nat × Nat)) : Saved :=
  let key := fun (k : Nat) => if k % 128 == 64 then 128 * c + 64 else ((keys.find? fun e => e.1 == k).map (·.2)).getD k
  let copies := v.copies.map fun (e : Copy) => { e with agent := key e.agent }
  let gathers := v.gathers.map fun (e : Gather) => { e with agent := key e.agent }
  let appends := v.appends.map fun (e : Append) => { e with agent := key e.agent }
  let cols := v.cols.map fun (e : ColOp) => { e with agent := key e.agent }
  let ops := v.ops.map fun (o : CampOp) => { o with agent := key o.agent }
  { v with
    party := { v.party with core := c, agents := v.party.agents.map key }
    agents := v.agents.map fun e => (key e.1, e.2)
    copies := copies, gathers := gathers, appends := appends, cols := cols, ops := ops }

/-- The bytes of a mark on a core that its party comes to: a byte that is dirty there reads as stored, now and after its publication
(03 R49, R50, assumption log 95). -/
def State.overlaid (s : State) (c line : Nat) (m : Mark) : List Byte :=
  (List.range 128).map fun i => ((Sparse.find? (s.core c).dirty (128 * line + i)).map (·.val)).getD (m.bytes.getD i 0)

/-- Marked lines enter the core's snapshot area (14 R339 step 3). -/
def placeMarks (p c : Nat) : M Unit := do
  let s ← get
  let y := s.party p
  forEach y.marks fun e => do
    let bytes := s.overlaid c e.1 e.2
    let pa ← spillLine 0 c y.task.part e.1 bytes [p]
    modParty p fun x => { x with marks := Sparse.adjust x.marks e.1 fun m => { m with bytes := bytes, entry := some pa, spilled := m.mask } }

/-- The file of a core holds more entries than it may for a partition. -/
def State.fileOver (s : State) (c p : Nat) : Bool :=
  decide (((s.bank c p).qcore.extractLsb' 13 12).toNat < s.vregsUsed c p) || decide (fileSize < ((List.range 16).map (s.vregsUsed c)).sum)

/-- Registers of a resumed party take entries while the file has room; the others lie spilled (05 R113). -/
def placeVectors (c p : Nat) : List (Nat × Nat) → M Unit
  | [] => pure ()
  | e :: es => do
    let s ← get
    if s.fileOver c p then spillReg e.1 e.2
    else modCore c fun x => { x with vfile := x.vfile ++ [128 * slotOf e.1 + e.2] }
    placeVectors c p es

/-- Restored operations wait for their places anew (10 R248). -/
def State.arriveAgain (s : State) (p : Nat) : State :=
  let y := s.party p
  let c := campOf y.core
  let now := s.clock y.core
  let up := fun (o : CampOp) => match o.phase with
    | .arrived _ n => if o.party == p then { o with phase := .arrived now n } else o
    | _ => o
  s.setCamp c { s.camp c with ops := (s.camp c).ops.map up }

/-- A deterministic party's checkpoint and log move with it, into the slot it takes on its core. -/
def moveDet (p c : Nat) (keys : List (Nat × Nat)) : M Unit := do
  let s ← get
  let y := s.party p
  match y.det.bind (Sparse.find? s.dets), y.det with
  | some d, some n => do
    let slot := s.freeDetSlot c y.task.part
    modParty p fun x => { x with detSlot := slot }
    let cp := (if y.role == .trailer then d.checkpoint2 else d.checkpoint).map fun v => { v.moved c keys with
      party := { (v.moved c keys).party with detSlot := slot } }
    let s ← get
    match cp with
    | some v => writeFrame (detSlotBase s (s.party p)) v
    | none => pure ()
    physWrite (detSlotBase s (s.party p) + ctxFrameSize (s.bank c y.task.part) * 2 ^ 20) (d.log.flatMap LogEntry.bytes)
    modify fun s => s.setDet n (if y.role == .trailer then { d with checkpoint2 := cp } else { d with checkpoint := cp })
  | _, _ => pure ()

/-- Resume one saved party on a core (14 R339). -/
def resumeParty (v : Saved) (c : Nat) : M Unit := do
  let s ← get
  let p := v.key
  let keys := newKeys s c v.agents
  let base := match v.frame with
    | some (fc, j) => frameBase (s.bank fc v.party.task.part) j
    | none => 0
  let bars ← (barriersOf 20) <$> physRead base 320
  let v : Saved := { v with party := { v.party with barriers := if v.party.team.isNone then bars else bars.take 16 ++ v.party.barriers.drop 16 } }
  modify fun s => (s.install p v c keys).arriveAgain p
  match v.party.team with
  | some t => if v.party.rank == 0 then modify fun s => { s with teams := Sparse.adjust s.teams t fun x => { x with barriers := bars.drop 16 } }
  | none => pure ()
  let s ← get
  let depth := ((s.bank c v.party.task.part).lstkbase.extractLsb' 0 12).toNat
  forEach (s.ownKeys p) fun k =>
    forEach (List.range (s.agent k).lanes.length) fun l =>
      copyFrames (base + 0x600000 + 32 * depth * frameLane (s.agent k) l) (laneFrames (s.bank c v.party.task.part) k l) (s.lane k l).rsd
  placeVectors c v.party.task.part ((s.ownKeys p).flatMap fun k => (liveRegs (s.agent k)).map fun r => (k, r))
  placeMarks p c
  moveDet p c keys
  modify fun s => s.freeFrame v

/-- The team that a saved party belongs to stands again, with the barriers of its rank-0 frame (14 R336). -/
def State.restoreTeam (s : State) (vs : List Saved) : State :=
  match vs with
  | [] => s
  | v :: _ =>
    match v.party.team with
    | none => s
    | some t =>
      let first := v.key - v.party.rank
      let bs := (v.team).getD (List.replicate 4 .reset)
      { s with teams := Sparse.put s.teams t ⟨bs, (List.range (t - first)).map (first + ·)⟩ }

/-- Saved parties that resume together with one: its team in rank order, and the pair's other team. -/
def State.resumeGroup (s : State) (v : Saved) : List Saved :=
  match v.party.team with
  | none => [v]
  | some t =>
    let vs := s.saved.filter fun w => w.party.team == some t && w.frame.isSome
    (List.range 4).flatMap fun r => vs.filter fun w => w.party.rank == r

/-- Resume a group on cores. -/
def resumeGroup (vs : List Saved) (cores : List Nat) : M Unit := do
  modify fun s => s.restoreTeam vs
  forEach (vs.zip cores) fun e => resumeParty e.1 e.2

/-- The saved party may be placed: its task is not held, and its partition places parties. -/
def State.mayResume (s : State) (v : Saved) : Bool :=
  (s.task v.party.task).any (fun t => !t.held) && (s.part v.party.task.part).partcfg.getLsbD 0 && !(s.part v.party.task.part).stopped

/-- The saved mates of a group in a pair's other camp (16 R367). -/
def State.pairGroup (s : State) (v : Saved) : List Saved :=
  match v.party.det.bind (Sparse.find? s.dets), v.party.role with
  | some d, .leader => (d.trailer.bind s.savedParty).toList.flatMap s.resumeGroup
  | _, _ => []

/-! ### PLACEMENT_ATTEMPT (13 R308 to R310, R300) -/

/-- Resume one group where it fits, and a pair's in another camp with it; whether it was placed. -/
def resumeNext (v : Saved) : M Bool := do
  let s ← get
  let vs := s.resumeGroup v
  let p := v.party.task.part
  match s.choose p vs.length v.need [] with
  | none => pure false
  | some cores =>
    let ws := s.pairGroup v
    match if ws.isEmpty then some [] else s.choose p ws.length v.need (cores.map campOf) with
    | none => pure false
    | some second =>
      if !s.savedFit vs cores || !(ws.isEmpty || s.savedFit ws second) then pure false
      else do
        resumeGroup vs cores
        if !ws.isEmpty then resumeGroup ws second
        pure true

/-- PARTY_RESUME (14 R339): onto the core that 13 R309 fixes, with its team on the cores that R310 fixes; an event that names another core
does nothing. -/
def execPartyResume (party core : Nat) (s : State) : Host.Outcome State Fault Refusal :=
  match s.savedParty party with
  | none => .next s
  | some v =>
    let vs := s.resumeGroup v
    if s.mayResume v && (s.choose v.party.task.part vs.length v.need []).any fun cs => cs.contains core then
      runEvent 0 (do
        let _ ← resumeNext v
        pure ()) s
    else .next s

/-- The saved parties of a task that may lead a resumption, in PARTYID order. -/
def State.savedOf (s : State) (id : TaskId) : List Saved :=
  let vs := s.saved.filter fun v => v.party.task == id && v.frame.isSome && v.party.role != .trailer
  ((vs.map fun v => v.party.partyId).foldr insertNat []).filterMap fun i => vs.find? fun v => v.party.partyId == i

/-- Resume the saved parties of a task for as long as they fit; whether none is left. -/
def resumeTask (id : TaskId) : Nat → M Bool
  | 0 => pure false
  | n + 1 => do
    let s ← get
    match s.savedOf id with
    | [] => pure true
    | v :: _ => do
      let r ← attempt (resumeNext v)
      match r with
      | .ok true => resumeTask id n
      | _ => pure false

/-- One task at an attempt: a ready one resumes and places its parties; a malformed one runs none (13 R300). -/
def attemptTask (id : TaskId) : M Unit := do
  let s ← get
  match s.task id with
  | none => pure ()
  | some t =>
    let x := s.part id.part
    if t.held || t.status.isSome || t.complete || !taskReady x t || malformedNow x t then pure ()
    else do
      let done ← resumeTask id (s.saved.length + 1)
      if done then placeTask id (recParties t.record + 1)
      else pure ()

/-- The partitions that may place parties now. -/
def placeableParts : List Nat → M (List Nat)
  | [] => pure []
  | p :: ps => do
    let ok ← placeable p
    let rest ← placeableParts ps
    pure (if ok then p :: rest else rest)

/-- PLACEMENT_ATTEMPT (13 R308). -/
def execPlacementAttempt (s : State) : Host.Outcome State Fault Refusal :=
  runService (do
    let ps ← placeableParts (List.range 16)
    let s ← get
    forEach (s.taskOrder ps) attemptTask) s

end Sys2Proof.Machine
end

