-- ==== Sys2Proof/Machine/Determinism.lean ====
section
/-! DEFINITION. Replay, redundant execution and trace (spec/16 R357 to R371): requests, ends of intervals, and the trace records. -/

namespace Sys2Proof.Machine

/-! ### Replay (16 R361, R362) -/

/-- The stop record: task sequence, slot, party, rope, lane and count; none where a byte that must be zero is not. -/
def parseStop (bs : List Byte) : Option ((Nat × Nat) × Nat × Nat × Nat × DWord) :=
  let tref := recField bs 0 8
  if recField bs 14 2 != 0 || recField bs 24 8 != 0 then none
  else some ((tref / 2 ^ 32 % 16, tref % 2 ^ 32), recField bs 8 4, recField bs 12 1, recField bs 13 1, BitVec.ofNat 64 (recField bs 16 8))

/-- DREQ with a record, BUSY and RES. -/
def dreqWord (recBits : DWord) (busy : Bool) (res : Nat) : DWord :=
  (recBits &&& 0x7FFFFFFFFFFFE0) ||| BitVec.ofNat 64 ((if busy then 2 ^ 61 else 0) + res * 2 ^ 58)

/-- BUSY of DREQ. -/
def State.dreqBusy (s : State) (part : Nat) : Bool := (s.part part).dreq.getLsbD 61

/-- Set BUSY and RES of DREQ. -/
def State.setDreq (s : State) (part : Nat) (busy : Bool) (res : Nat) : State :=
  let x := s.part part
  s.setPart part { x with dreq := dreqWord x.dreq busy res }

/-- A resident party of a task. -/
def State.residentParty (s : State) (id : TaskId) (n : Nat) : Option (Nat × Party) :=
  List.find? (fun (e : Nat × Party) => e.2.task == id && e.2.partyId == n && e.2.role != .trailer) s.parties

/-- The checkpointed RWC of a lane of a party. -/
def Saved.laneCount (v : Saved) (rope lane : Nat) : DWord :=
  let prod := match v.producer with | some (a, _, _) => [a] | none => []
  match ((v.agents.map (·.2)) ++ prod).find? fun a => a.rope == rope with
  | some a => (a.lanes.getD lane Lane.absent).rwc
  | none => 0

/-- Halt every lane of a party, at system level (14 R331). -/
def State.haltLanes (s : State) (p : Nat) : State :=
  (s.ownKeys p).foldl (fun s k => (s.agent k).live.foldl (fun s l => s.mapLane k l fun x =>
    if x.halted then x else x.halt Cause.debugHalt.code true) s) s

/-- The restored party of a replay starts on its log; one whose COUNT lies before the interval stops at once, with RES = 2, until END. -/
def State.startReplay (s : State) (p n : Nat) (d : Det) : State :=
  let s := (s.rollBack p d.checkpoint).setDet n { d with cursor := [], lines := [], own := [], seen := [] }
  match d.replay, d.checkpoint with
  | some (rope, lane, count), some v => if count < v.laneCount rope lane then (s.haltLanes p).setDreq (s.party p).task.part false 2 else s
  | _, _ => s

/-- Begin a replay once the halted party's passes have retired and a frame is free: it is saved there, and its checkpoint restored on
its core. -/
def beginReplay (p n : Nat) : M Unit := do
  let s ← get
  let y := s.party p
  match Sparse.find? s.dets n, s.freeFrameOf y.core y.task.part with
  | some d, some j =>
    if s.settled p then do
      modify fun s => (s.landAll p).withdrawOps p |>.publishAll y.core
      let s ← get
      let sv := { s.snapshot p with frame := some (y.core, j) }
      writeFrame (frameBase (s.bank y.core y.task.part) j) sv
      modify fun s =>
        let x := s.core y.core
        let s := s.setCore y.core { x with frames := x.frames ++ [64 * y.task.part + j] }
        s.startReplay p n { d with aside := some sv, cursor2 := d.cursor }
  | _, _ => pure ()

/-- A REPLAY request (16 R362). -/
def requestReplay (part : Nat) (value : DWord) : M Unit := do
  modPart part fun x => { x with dreq := dreqWord value false 0 }
  let s ← get
  let va : DWord := ((value.extractLsb' 5 50 ++ (0 : BitVec 5)) : BitVec 55).signExtend 64
  let r ← attempt (viaRead (s.serviceVia part) va 32 .load)
  match (match r with | .ok bs => parseStop bs | .error _ => none) with
  | none => modify fun s => s.setDreq part false 3
  | some ((qidx, slot), n, rope, lane, count) =>
    match s.residentParty (s.namedTask part qidx slot) n with
    | none => modify fun s => s.setDreq part false 3
    | some (p, y) =>
      match y.role, y.det, y.det.bind (Sparse.find? s.dets) with
      | .replay, some m, some d => do
        let d := { d with replay := some (rope, lane, count) }
        modify fun s => ((s.setDreq part true 0).haltParty p).setDet m d
        let s ← get
        if d.aside.isSome then modify fun s => s.startReplay p m d
        else if s.settled p then beginReplay p m
        else pure ()
      | _, _, _ => modify fun s => s.setDreq part false 4

/-- DREQ_REPLAY (16 R362). -/
def execDreqReplay (part : Nat) (value : DWord) (s : State) : Host.Outcome State Fault Refusal :=
  if s.dreqBusy part then .next s else runService (requestReplay part value) s

/-- The log of a replayed party holds nothing more that a rope or an engine of it takes. -/
def Det.exhausted (d : Det) : Bool :=
  (List.range 18).all fun r => (d.entriesFrom false r false).isEmpty && (d.entriesFrom false r true).isEmpty

/-- The log has ended (16 R362): it is taken to its end, and a lane needs an entry that is not there, or the party stands at the collective
that ended the interval. -/
def State.logEnded (s : State) (p : Nat) (d : Det) : Bool :=
  d.exhausted && (s.partyArrived false p || s.partyArrived true p || (s.ownKeys p).any fun k => (s.agent k).live.any fun l =>
    !(s.lane k l).halted && (s.lane k l).wait == some .pair)

/-- REPLAY_STOP (16 R362): a replay that could not begin begins; one whose named lane has reached its count, or whose log has ended,
halts the party. -/
def execReplayStop (party : Nat) (s : State) : Host.Outcome State Fault Refusal :=
  let y := s.party party
  match y.det, y.det.bind (Sparse.find? s.dets) with
  | some n, some d =>
    if y.role != .replay || d.replay.isNone then .next s
    else if d.aside.isNone then runEvent (y.agents.headD 0) (beginReplay party n) s
    else if (s.ownKeys party).any fun k => (s.agent k).live.any (s.atStop k) then
      .next ((s.haltLanes party).setDreq y.task.part false 0)
    else if s.logEnded party d then
      let s' := s.haltLanes party
      .next (if s.dreqBusy y.task.part then s'.setDreq y.task.part false 1 else s')
    else .next s
  | _, _ => .next s

/-- An END request (16 R362): the party returns from its frame. -/
def State.endReplay (s : State) (part : Nat) : State :=
  match List.find? (fun (e : Nat × Det) => e.2.replay.isSome && (s.party e.2.leader).task.part == part) s.dets with
  | none => s
  | some (n, d) =>
    match d.aside with
    | none => (s.unhaltParty d.leader).setDet n { d with replay := none } |>.setDreq part false 0
    | some v =>
      let s := s.rollBack d.leader (some v)
      let s := s.freeFrame v
      let s := s.setDet n { d with replay := none, aside := none, cursor := d.cursor2, cursor2 := [], lines := [], own := [], seen := [] }
      s.setDreq part false ((s.part part).dreq.extractLsb' 58 3).toNat

/-- DREQ_END (16 R362). -/
def execDreqEnd (part : Nat) (s : State) : Host.Outcome State Fault Refusal := .next (s.endReplay part)

/-! ### A full log (16 R360, R366) -/

/-- LOG_FULL (16 R360): a party in REPLAY mode halts, starts a new interval, which publishes nothing, and continues. -/
def execLogFull (party : Nat) (s : State) : Host.Outcome State Fault Refusal :=
  let y := s.party party
  match y.det, y.det.bind (Sparse.find? s.dets) with
  | some n, some d =>
    if y.role != .replay || d.replay.isSome || !d.isFull then .next s
    else
      let s := s.haltParty party
      if s.settled party then runEvent (y.agents.headD 0) (do
        startInterval n
        modify fun s => s.unhaltParty party) s
      else .next s
  | _, _ => .next s

/-- The trailer has consumed every entry of the log. -/
def Det.consumed (d : Det) : Bool :=
  (List.range 18).all fun r => (d.entriesFrom true r false).isEmpty && (d.entriesFrom true r true).isEmpty

/-- Both parties of a pair stand at the same point: equal counts of retired instructions lane by lane. -/
def State.pairAligned (s : State) (d : Det) (t : Nat) : Bool :=
  ((s.party d.leader).agents.zip (s.party t).agents).all fun e =>
    ((s.agent e.1).lanes.zip (s.agent e.2).lanes).all fun x => x.1.count == x.2.count && x.1.exited == x.2.exited

/-- LOG_FULL_COMPARE (16 R366): the pair compares its signatures, and the leader publishes and a new interval starts, or the pair rolls
back. A pair that its third mismatch has halted compares again only after ERET (16 R367). -/
def execLogFullCompare (pair : Nat) (s : State) : Host.Outcome State Fault Refusal :=
  match Sparse.find? s.dets pair with
  | none => .next s
  | some d =>
    match d.trailer with
    | none => .next s
    | some t =>
      if d.halted.isSome || !(d.isFull && d.consumed && s.pairAligned d t) then .next s
      else if !d.agrees then .next (s.pairMismatch pair 3)
      else runEvent ((s.party t).agents.headD 0) (do
        modify fun s => s.publishHeld d.leader
        startInterval pair) s

/-- REDUNDANT_EFFECT (16 R364): the leader's group that waits for the trailer, which has issued the effect, issues. -/
def execRedundantEffect (pair : Nat) (s : State) : Host.Outcome State Fault Refusal :=
  match Sparse.find? s.dets pair with
  | none => .next s
  | some d =>
    let waiting := fun (k : Nat) => (s.agent k).live.filter fun l => (s.lane k l).wait == some .pair && s.laneReady k l
    let posted := fun (k : Nat) => d.posted.any fun p => p.rope == logRope s k && (waiting k).contains p.lane
    match (s.party d.leader).agents.find? posted with
    | none => .next s
    | some k =>
      let first := s.lane k ((waiting k).headD 0)
      .next { s with ports := s.ports ++ [s.issueOf k ((waiting k).filter fun l => (s.lane k l).sameGroup first)] }

/-! ### Trace (16 R369 to R371) -/

/-- The record of a TRACE (16 R371). -/
def traceRecord (s : State) (b : Base) (l : Nat) (tag : Word) : List Byte :=
  let k := s.who
  leBytes 2 0 ++ leBytes 2 tag.toNat ++ leBytes 4 (maskOf (s.acting b)).toNat ++ leBytes 8 s.issue.pc.toNat ++
    leBytes 8 (s.lane k l).rwc.toNat ++ (List.range 8).flatMap (fun i => leBytes 4 (s.readS k (b.b.field.toNat + i)).toNat) ++
    leBytes 8 (s.clock (coreOf k)).toNat

/-- TRACE (16 R371). -/
def execTrace (b : Base) (s : State) : Host.Outcome State Fault Refusal :=
  let f := formOf (.trace b)
  runOnce f b (fun l => do
    let x ← readSrc f b 0 l
    let s ← get
    if (s.part (s.partOf s.who)).trctl.getLsbD 0 && !s.traceMuted s.who l then
      modify fun s => s.queueTrace s.who ⟨none, 0, traceRecord s b l (loWord x)⟩
    pure {}) s

/-- The sink's descriptor. -/
def sinkBase (trctl : DWord) : DWord := ((trctl.extractLsb' 6 49 ++ (0 : BitVec 6)) : BitVec 55).signExtend 64

/-- Reserve, write and commit one record at the sink, as one operation (16 R369). -/
def appendTrace (v : Via) (va : DWord) (bytes : List Byte) : M Unit := do
  let _ ← shapedDesc v va 2
  let d ← openPlain v va .atomic
  let r ← reserveSlots v d 1 d.limit
  match r with
  | .error _ => raise .queueState va
  | .ok i => do
    let d ← openPlain v va .load
    writeSlots v d [i] bytes
    let d ← openDesc v va .atomic
    let n ← commitSlots v d i 1
    require (n == 0) .queueState va
    settleParked

/-- The oldest record of a core's buffer goes to its partition's sink, or is dropped and counted. -/
def flushTrace (c : Nat) : M Unit := do
  let s ← get
  match (s.core c).trace with
  | [] => pure ()
  | (p, bytes) :: rest => do
    modCore c fun x => { x with trace := rest }
    let v : Via := .direct (dieOf c) c (s.space c p .s) .s
    let r ← attempt (appendTrace v (sinkBase (s.part p).trctl) bytes)
    match r with
    | .ok _ => pure ()
    | .error _ => modCore c fun x => { x with counters := { x.counters with trdrop := x.counters.trdrop + 1 } }

/-- TRACE_SAMPLE (16 R369, R370): a buffered record is written. -/
def execTraceSample (core : Nat) (s : State) : Host.Outcome State Fault Refusal := runService (flushTrace core) s

end Sys2Proof.Machine
end

