-- ==== Sys2Proof/Machine/Registers.lean ====
section
/-! DEFINITION. Privileged registers (spec/14 R318 to R320, R324, R331 to R334, R337 and the maps that R318 names): where each is
held, who may reach it, its value, and what a write does. -/

namespace Sys2Proof.Machine

/-- What a register is held by (14 R318). -/
inductive RegHold where
  | lane | core | banked | part | module_ | camp
  deriving DecidableEq, Repr

/-- A register that R318 assigns: how it is held, and the lowest mode that may read or write it. -/
def regInfo (reg : Nat) : Option (RegHold × Mode) :=
  if 0x001 ≤ reg ∧ reg ≤ 0x007 then some (.lane, .s)
  else if 0x011 ≤ reg ∧ reg ≤ 0x01A then some (.lane, .h)
  else if reg = 0x046 then some (.core, .s)
  else if 0x040 ≤ reg ∧ reg ≤ 0x047 then some (.banked, .s)
  else if 0x060 ≤ reg ∧ reg ≤ 0x067 then some (.core, .s)
  else if 0x080 ≤ reg ∧ reg ≤ 0x084 then some (.part, .s)
  else if reg = 0x0C0 ∨ reg = 0x0C3 ∨ reg = 0x0C4 ∨ reg = 0x0C5 then some (.core, .h)
  else if reg = 0x0C1 ∨ reg = 0x0C2 ∨ reg = 0x0D1 ∨ reg = 0x0D2 then some (.banked, .h)
  else if reg = 0x0D0 ∨ reg = 0x0D4 then some (.module_, .h)
  else if reg = 0x0D3 then some (.camp, .h)
  else none

/-- Bits that must be written as zero (RSV). -/
def regReserved (reg : Nat) : DWord :=
  match reg with
  | 0x002 | 0x012 | 0x019 => 0xFFFFFFFFFFF00000
  | 0x003 | 0x013 => 0xFFFFFFFFFFFFE000
  | 0x005 | 0x015 => 0xFFFFFFFFFFFFF000
  | 0x01A => 0xFFFFFFFFFFFE00E0
  | 0x040 | 0x0C0 => 0xFFF
  | 0x041 => 0xFFFF
  | 0x042 | 0x0C1 => 0xFFF000000000FFFF
  | 0x043 => 0xFFFFFF0000000000
  | 0x044 => 0xFFF000000000F000
  | 0x045 => 0xFFF00000000000FF
  | 0x046 => 0xFFFFFFFFFFFFFF08
  | 0x047 => 0xFFF0000000000FFF
  | 0x080 => 0xFF800000000000FF
  | 0x081 => 0xFF8000000000003F
  | 0x082 => 0xFFFFFC0000000000
  | 0x083 => 0x038000000000001F
  | 0x084 => 0xFF80000000000000
  | 0x0C3 => 0x7
  | 0x0C4 => 0xFFFFFFFF00000000
  | 0x0C5 => 0xFFFFFE0000000000
  | 0x0D0 => 0xFFFFFFFFFFFFFFFC
  | 0x0D1 | 0x0D2 => 0xFFFFFF8000000000
  | 0x0D3 => 0xFFFFFFFFF0000000
  | 0x0D4 => 0xFF0000003E000000
  | _ => 0

/-! ### Registers of a lane -/

/-- Value of a register of a trap slot, by its place. -/
def TrapSlot.read (x : TrapSlot) : Nat → DWord
  | 1 => x.pc | 2 => x.cls | 3 => x.cause | 4 => x.val | 5 => x.stat | 6 => x.scra | 7 => x.scrb | _ => 0

/-- Write a register of a trap slot; BOUND of its status is read-only. -/
def TrapSlot.write (x : TrapSlot) (n : Nat) (v : DWord) : TrapSlot :=
  match n with
  | 1 => { x with pc := v }
  | 2 => { x with cls := v }
  | 3 => { x with cause := v }
  | 4 => { x with val := v }
  | 5 => { x with stat := (v &&& ~~~(0x800 : DWord)) ||| (x.stat &&& 0x800) }
  | 6 => { x with scra := v }
  | 7 => { x with scrb := v }
  | _ => x

/-- Value of a per-lane register. -/
def Lane.readReg (x : Lane) (reg : Nat) : DWord :=
  if reg < 0x010 then x.t.read reg
  else if reg < 0x018 then x.h.read (reg - 0x010)
  else if reg = 0x018 then x.dbg.pc
  else if reg = 0x019 then x.dbg.cls
  else x.dbg.stat

/-- Write a per-lane register; the debug registers are read-only. -/
def Lane.writeReg (x : Lane) (reg : Nat) (v : DWord) : Lane :=
  if reg < 0x010 then { x with t := x.t.write reg v }
  else if reg < 0x018 then { x with h := x.h.write (reg - 0x010) v }
  else x

/-! ### The other registers -/

/-- SRAMCFG (04 R75). -/
def sramWord (x : Core) : DWord := BitVec.ofNat 64 ((if x.spadPend then 128 else 0) + 16 * x.spadCur + x.spadReq)

/-- SNAPSIZE with the entries in use (03 R51). -/
def State.snapWord (s : State) (c p : Nat) : DWord :=
  BitVec.ofNat 64 (((s.core c).snaps.filter fun u => u.part == p).length % 2 ^ 24 * 2 ^ 16 + (s.bank c p).snapsize % 2 ^ 16)

/-- Value of a register that is no lane's, of a core and a partition. -/
def State.readReg (s : State) (c p reg : Nat) : DWord :=
  let b := s.bank c p
  let x := s.core c
  let y := s.part p
  match reg with
  | 0x040 => b.stvec | 0x041 => b.ptbase | 0x042 => b.snapbase | 0x043 => s.snapWord c p | 0x044 => b.lstkbase
  | 0x045 => b.ctxbase | 0x046 => sramWord x | 0x047 => b.detbase
  | 0x060 => x.counters.llf | 0x061 => x.counters.wmrg | 0x062 => x.counters.wq | 0x063 => x.counters.bcr
  | 0x064 => x.counters.iiack | 0x065 => x.counters.rm | 0x066 => x.counters.trdly | 0x067 => x.counters.trdrop
  | 0x080 => y.tasktab | 0x081 => y.compdesc | 0x082 => y.preq | 0x083 => y.dreq | 0x084 => y.trctl
  | 0x0C0 => x.htvec | 0x0C1 => b.g2base | 0x0C2 => b.hdeleg | 0x0C3 => x.hstopa | 0x0C4 => x.wdog
  | 0x0D0 => y.partcfg | 0x0D1 => b.qcore | 0x0D2 => b.qfloor | 0x0D3 => s.qcamp (campOf c) p
  | 0x0D4 => y.fabcfg ||| BitVec.ofNat 64 (s.chip % 1024 * 2 ^ 46)
  | _ => 0

/-- A quota word within its ranges (13 R305). -/
def quotaInRange (w : DWord) : Bool := [0, 1, 2, 3, 4].all fun r => decide (quotaField w r ≤ coreCap r)

/-- A camp quota word within its ranges. -/
def campQuotaInRange (w : DWord) : Bool :=
  decide ((w.extractLsb' 0 8).toNat ≤ 128) && decide ((w.extractLsb' 8 6).toNat ≤ 32) && decide ((w.extractLsb' 14 8).toNat ≤ 128) &&
    decide ((w.extractLsb' 22 6).toNat ≤ 32)

/-- Two enabled partitions would have one JOB (15 R347). -/
def State.jobTaken (s : State) (p : Nat) (w : DWord) : Bool :=
  w.getLsbD 24 && (List.range 16).any fun q => q != p && s.fabOn q && s.job q == (w.extractLsb' 0 24).toNat

/-- SLOT of DBGREQ. -/
def dbgSlot (w : DWord) : Nat := (w.extractLsb' 32 7).toNat

/-- A WRPR would take ILLEGAL_OPERAND (14 R328): a value outside a field's range, or a register whose state refuses the write. -/
def State.refusesWrite (s : State) (p reg : Nat) (w : DWord) : Bool :=
  match reg with
  | 0x040 | 0x0C0 => !canonical w
  | 0x082 => w.extractLsb' 36 2 != 0 && s.preqBusy p
  | 0x083 => w.extractLsb' 62 2 == 3
  | 0x0C5 => decide (80 < dbgSlot w)
  | 0x0D1 | 0x0D2 => !quotaInRange w
  | 0x0D3 => !campQuotaInRange w
  | 0x0D4 => s.jobTaken p w
  | _ => false

/-- Change a bank. -/
def modBank (c p : Nat) (f : Bank → Bank) : M Unit := modify fun s => s.setBank c p (f (s.bank c p))

/-! ### Debug requests (14 R331) -/

/-- The lanes of an agent that a request names: a bound rope as a whole. -/
def State.dbgLanes (s : State) (k : Nat) (w : DWord) : List Nat :=
  let a := s.agent k
  let named := (lanesOf (w.setWidth 32)).filter fun l => decide (l < a.lanes.length)
  if named.isEmpty then [] else if a.bound.isSome then a.live else named.filter fun l => !(s.lane k l).exited

/-- Resume a lane: HALTED and PEND clear, and it goes on at DPC. -/
def Lane.resume (x : Lane) : Lane :=
  let d := { x.dbg with stat := x.dbg.stat &&& ~~~(0x10001 : DWord) }
  if x.halted then { x with pc := x.dbg.pc, dbg := d } else { x with dbg := d }

/-- A DBGREQ of a core halts, or resumes, the lanes it names. -/
def State.debugRequest (s : State) (c : Nat) (w : DWord) (resume : Bool) : State :=
  let k := 128 * c + dbgSlot w
  if 80 < dbgSlot w then s
  else
    let s := s.setCore c { s.core c with dbgreq := w }
    let f := fun (x : Lane) => if resume then x.resume else x.request (w.getLsbD 39)
    (s.dbgLanes k w).foldl (fun s l => s.mapLane k l f) s

/-- DBGREQ_HALT (14 R331). -/
def execDbgreqHalt (core : Nat) (value : DWord) (s : State) : Host.Outcome State Fault Refusal := .next (s.debugRequest core value false)

/-- DBGREQ_RESUME (14 R331). -/
def execDbgreqResume (core : Nat) (value : DWord) (s : State) : Host.Outcome State Fault Refusal := .next (s.debugRequest core value true)

/-! ### Writes -/

/-- A PREQ write (14 R334): it names its task, and starts the action. -/
def writePreq (p : Nat) (w : DWord) : M Unit := modify fun s =>
  let id := s.namedTask p (w.extractLsb' 32 4).toNat (w.extractLsb' 0 32).toNat
  match (w.extractLsb' 36 2).toNat with
  | 1 => s.preqSave id
  | 2 => s.preqResume id
  | 3 => s.preqAbort id
  | _ => s.setPart p { s.part p with preq := ((s.part p).preq &&& 0x3C000000000) ||| (w &&& 0xFFFFFFFFF) }

/-- A DREQ write (16 R361): REC takes the value written, whatever ACT asks. -/
def writeDreq (p : Nat) (w : DWord) : M Unit := do
  modPart p fun x => { x with dreq := (x.dreq &&& 0x3C00000000000000) ||| (w &&& 0x7FFFFFFFFFFFE0) }
  let s ← get
  match (w.extractLsb' 62 2).toNat with
  | 1 => if s.dreqBusy p then pure () else requestReplay p w
  | 2 => modify fun s => s.endReplay p
  | _ => pure ()

/-- Write a register that is no lane's; `w` has its reserved bits zero and is not refused. -/
def writeReg (c p reg : Nat) (w : DWord) : M Unit :=
  match reg with
  | 0x040 => modBank c p fun b => { b with stvec := w }
  | 0x041 => modBank c p fun b => { b with ptbase := w }
  | 0x042 => modBank c p fun b => { b with snapbase := w }
  | 0x043 => modBank c p fun b => { b with snapsize := (w.extractLsb' 0 16).toNat }
  | 0x044 => modBank c p fun b => { b with lstkbase := w }
  | 0x045 => modBank c p fun b => { b with ctxbase := w }
  | 0x046 => modify fun s => s.writeSram c w
  | 0x047 => modBank c p fun b => { b with detbase := w }
  | 0x080 => writeTasktab p w
  | 0x081 => writeCompdesc p w
  | 0x082 => writePreq p w
  | 0x083 => writeDreq p w
  | 0x084 => modPart p fun x => { x with trctl := w }
  | 0x0C0 => modCore c fun x => { x with htvec := w }
  | 0x0C1 => modBank c p fun b => { b with g2base := w }
  | 0x0C2 => modBank c p fun b => { b with hdeleg := w }
  | 0x0C3 => modCore c fun x => { x with hstopa := w }
  | 0x0C4 => modCore c fun x => { x with wdog := w }
  | 0x0C5 => modify fun s => s.debugRequest c w (w.getLsbD 40)
  | 0x0D0 => modPart p fun x => { x with partcfg := w }
  | 0x0D1 => modBank c p fun b => { b with qcore := w }
  | 0x0D2 => modBank c p fun b => { b with qfloor := w }
  | 0x0D3 => modCamp (campOf c) fun x => { x with qcamp := Sparse.put x.qcamp p w }
  | 0x0D4 => modPart p fun x => { x with fabcfg := w &&& ~~~(0x00FFC00000000000 : DWord) }
  | _ => pure ()

/-! ### RDPR and WRPR (14 R328) -/

/-- A register that a lane names by number: its REG, how it is held, and the partition of its bank (14 R318); one whose way of being held the
instruction may not name is refused before its mode is looked at (05 R121). -/
def nameReg (k : Nat) (m : Mode) (n word : DWord) (may : RegHold → Bool) : M (Nat × RegHold × Nat) := do
  let s ← get
  let reg := (n.extractLsb' 0 12).toNat
  let bank := (n.extractLsb' 12 4).toNat
  require (n.extractLsb' 16 16 == 0) .illegalOperand word
  match regInfo reg with
  | none => raise .illegalOperand word
  | some (h, lowest) => do
    require ((bank == 0 || (m == .h && h != .lane && h != .core)) && may h) .illegalOperand word
    require (decide (lowest.code ≤ m.code)) .privilege word
    pure (reg, h, if m == .h && h != .lane && h != .core then bank else s.partOf k)

/-- RDPR in one lane. -/
def readLane (f : Form) (b : Base) (l : Nat) : M LaneOut := do
  let n ← readSrc f b 0 l
  let s ← get
  let k := s.who
  let (reg, h, p) ← nameReg k s.mode n s.issue.word fun h => !(h == .lane && b.dk == .scl && !isLead k)
  let v := if h == .lane then (s.lane k l).readReg reg else s.readReg (coreOf k) p reg
  pure { writes := dstWrites b l .n64 v }

/-- The register that an RDPR or WRPR names, for its checks alone. -/
def checkReg (f : Form) (b : Base) (may : State → RegHold → Bool) (l : Nat) : M Unit := do
  let n ← readSrc f b 0 l
  let s ← get
  let _ ← nameReg s.who s.mode n s.issue.word (may s)
  pure ()

/-- RDPR (14 R328). -/
def execRdpr (b : Base) (s : State) : Host.Outcome State Fault Refusal :=
  let f := formOf (.rdpr b)
  let may := fun (s : State) (h : RegHold) => !(h == .lane && b.dk == .scl && !isLead s.who)
  runGroup f b false (splitAfter f b (checkReg f b may) (do
    let s ← get
    if b.dk == .scl then onceOut b (readLane f b) else eachLane (s.acting b) (readLane f b))) s

/-- WRPR in one lane: the register and its mode before the value is read (05 R121), then RSV fields, then ranges and state. -/
def writeLane (f : Form) (b : Base) (l : Nat) : M LaneOut := do
  let n ← readSrc f b 0 l
  let s ← get
  let k := s.who
  let (reg, h, p) ← nameReg k s.mode n s.issue.word fun _ => true
  let w ← readSrc f b 1 l
  require (w &&& regReserved reg == 0) .reservedField s.issue.word
  require (!s.refusesWrite p reg w) .illegalOperand s.issue.word
  if h == .lane then modLane k l fun y => y.writeReg reg w
  else writeReg (coreOf k) p reg w
  pure {}

/-- The number names a register of each lane, or none. -/
def perLane (n : DWord) : Bool :=
  match regInfo (n.extractLsb' 0 12).toNat with
  | some (h, _) => h == .lane || n.extractLsb' 16 16 != 0
  | none => true

/-- WRPR (14 R328). -/
def execWrpr (b : Base) (s : State) : Host.Outcome State Fault Refusal :=
  let f := formOf (.wrpr b)
  runGroup f b false (splitAfter f b (checkReg f b fun _ _ => true) (do
    let s ← get
    match s.acting b with
    | [] => pure {}
    | l :: _ => do
      let r ← attempt (readSrc f b 0 l)
      match r with
      | .error t => trapActing b t
      | .ok n => if perLane n then eachLane (s.acting b) (writeLane f b) else onceOut b (writeLane f b))) s

/-! ### The register space (17 R372) -/

/-- Base of the core registers, of the lane registers, and of the hart windows. -/
def coreSpace : Nat := 0xF000010000000
def laneSpace : Nat := 0xF000080000000
def windowSpace : Nat := 0xF000001000000
/-- Base of the register space, where the capability list begins (02 R14, 17 R373). -/
def registerSpace : Nat := 0xF000000000000

/-- A register named by an address in the core space: its core, bank and number; none where the address names no register. -/
def coreSpaceReg (pa : Nat) : Option (Nat × Nat × Nat) :=
  let off := pa - coreSpace
  let c := off / 2 ^ 20
  let p := off / 2 ^ 16 % 16
  let reg := off % 2 ^ 16 / 8
  if pa < coreSpace || coreCount ≤ c || off % 8 != 0 then none
  else
    match regInfo reg with
    | some (.core, _) => if p == 0 then some (c, 0, reg) else none
    | some (.banked, _) => some (c, p, reg)
    | some (.part, _) | some (.module_, _) => if c == 0 then some (c, p, reg) else none
    | some (.camp, _) => if c % 4 == 0 then some (c, p, reg) else none
    | _ => none

/-- A register named by an address in the lane space: its agent, lane and number. -/
def laneSpaceReg (pa : Nat) : Option (Nat × Nat × Nat) :=
  let off := pa - laneSpace
  let c := off / 2 ^ 20
  let slot := off / 2 ^ 13 % 128
  let l := off / 2 ^ 8 % 32
  let reg := off % 2 ^ 8 / 8
  if pa < laneSpace || coreCount ≤ c || 80 < slot || (64 < slot && l != 0) || off % 8 != 0 then none
  else
    match regInfo reg with
    | some (.lane, _) => some (128 * c + slot, l, reg)
    | _ => none

/-- A hart's store into an operation window, from its level (15 R341): CTX, which ignores U, and the arguments. -/
def Hart.writeWindow (h : Hart) (writer : Mode) (off : Nat) (w : DWord) : Hart :=
  if off = 0 then (if writer == .u then h else { h with ctx := w &&& 0xFFFF })
  else if 8 ≤ off ∧ off < 0x30 then { h with args := h.args.set (off / 8 - 1) w }
  else h

/-- A word of an operation window (15 R341): OP and the rest of the frame read as zero. -/
def Hart.readWindow (h : Hart) (off : Nat) : DWord :=
  if off = 0 then h.ctx
  else if 8 ≤ off ∧ off < 0x30 then h.args.getD (off / 8 - 1) 0
  else if off = 0x38 then h.sts
  else if off = 0x40 then h.res
  else 0

/-- A register of a core or camp serves once its die is ready; one of a partition or of the module is no die's (14 R318, 17 R375). -/
def State.regServes (s : State) (c reg : Nat) : Bool :=
  match regInfo reg with
  | some (.part, _) | some (.module_, _) => true
  | _ => (s.die (dieOf c)).ready

/-- The slot of a rope, producer or lead holds the lane, on a die that is ready (17 R372, R375). -/
def State.laneHeld (s : State) (k l : Nat) : Bool :=
  (s.die (dieOf (coreOf k))).ready && (Sparse.find? s.agents k).isSome && decide (l < (s.agent k).lanes.length)

/-- A write of a register through the register space, by a hart at its level (14 R328, 17 R372): reserved bits count as zero, and a write
that a WRPR would refuse, or one of a register whose die is not ready (17 R375), changes nothing. OP of a window is written apart. -/
def writeSpace (writer : Mode) (pa : Nat) (value : DWord) : M Unit := do
  let s ← get
  match coreSpaceReg pa, laneSpaceReg pa with
  | some (c, p, reg), _ => do
    let w := value &&& ~~~(regReserved reg)
    if !s.regServes c reg || s.refusesWrite p reg w then pure () else writeReg c p reg w
  | none, some (k, l, reg) =>
    if s.laneHeld k l then modLane k l fun x => x.writeReg reg (value &&& ~~~(regReserved reg)) else pure ()
  | none, none =>
    let off := pa - windowSpace
    if inWindow pa then modify fun s => s.setHart (off / 65536) ((s.hart (off / 65536)).writeWindow writer (off % 65536) value)
    else pure ()

/-- A configuration record's write of a register (17 R378): one that a WRPR would refuse changes nothing (13 R305, 14 R328). -/
def writeDefault (w : Nat × DWord) : M Unit := do
  let s ← get
  match coreSpaceReg w.1 with
  | none => pure ()
  | some (c, p, reg) =>
    let x := w.2 &&& ~~~(regReserved reg)
    if s.refusesWrite p reg x then pure () else writeReg c p reg x

/-! ### The cairn list (17 R373 to R376) -/

/-- Cairns of the list, in the model's order: module, two dies, eight HBM stacks, LP-DRAM, storage processor, sixteen fabric engines,
security block, thermal. -/
def cairnCount : Nat := 31

/-- ID of a cairn. -/
def cairnId (i : Nat) : Nat :=
  if i = 0 then 1 else if i < 3 then 2 else if i < 11 then 3 else if i = 11 then 4 else if i = 12 then 5 else if i < 29 then 6
  else if i = 29 then 7 else 8

/-- The body of a cairn whose function serves, in words of 8 bytes: the fields that R376 names, whose widths it leaves open (assumption
log 101). -/
def State.cairnBody (s : State) (i : Nat) : List DWord :=
  let x := s.platform
  match cairnId i with
  | 1 => [BitVec.ofNat 64 s.chip, Config.cairnValue i 1, Config.cairnValue i 2]
  | 2 => [BitVec.ofNat 64 (i - 1), BitVec.ofNat 64 (s.die (i - 1)).step]
  | 3 => [BitVec.ofNat 64 (i - 3), Config.cairnValue i 1]
  | 4 => [Config.cairnValue i 0]
  | 5 => [BitVec.ofNat 64 x.storageSeq]
  | 6 => [(Config.portsReady (i - 13)).setWidth 64]
  | 7 => [BitVec.ofNat 64 x.securitySeq, BitVec.ofNat 64 x.rejected]
  | _ => [x.reftime + Config.elapsed s.now, Config.inletTemperature s.now]

/-- A fabric engine is ready: before that no message is taken in, and what is sent waits for one (17 R375). -/
def State.fabricReady (s : State) : Bool := (List.range 16).any fun i => s.cairnReady (13 + i)

/-- An Ethernet port is ready, as the cairn of its fabric engine shows (01 R7, 17 R376). -/
def State.portReady (s : State) (port : Nat) : Bool :=
  s.cairnReady (13 + portEngine port) && (Config.portsReady (portEngine port)).getLsbD (port % 8)

/-- The body as it reads (17 R375): zeros until READY, and the error code of a function that failed. -/
def State.cairnReads (s : State) (i : Nat) : List DWord :=
  let body := s.cairnBody i
  let c := Sparse.getD s.platform.cairns i ⟨false, none⟩
  if c.ready then body else c.fail.getD 0 :: List.replicate (body.length - 1) 0

/-- Bytes of a cairn. -/
def State.cairnLen (s : State) (i : Nat) : Nat := 16 + 8 * (s.cairnBody i).length

/-- Offset of a cairn from the list base. -/
def State.cairnStart (s : State) (i : Nat) : Nat := ((List.range i).map s.cairnLen).sum

/-- The words of a cairn (17 R373): its header and body. -/
def State.cairnWords (s : State) (i : Nat) : List DWord :=
  let c := Sparse.getD s.platform.cairns i ⟨false, none⟩
  let stat := (if c.ready then 1 else 0) + if c.fail.isSome then 2 else 0
  BitVec.ofNat 64 (cairnId i + 2 ^ 16 * (Config.cairnVersion i % 256) + 2 ^ 24 * stat + 2 ^ 32 * s.cairnLen i) ::
    BitVec.ofNat 64 (if i + 1 < cairnCount then s.cairnStart (i + 1) else 0) :: s.cairnReads i

/-- A word of the capability list; beyond it the space names nothing and reads as zero. -/
def State.cairnWord (s : State) (off : Nat) : DWord := ((List.range cairnCount).flatMap s.cairnWords).getD (off / 8) 0

/-- What a hart's load of 8 bytes of the register space returns (15 R341, 17 R372): a register, by lane or by partition, of a die that is
ready; a window; the capability list; zero for what names no register. -/
def State.readSpace (s : State) (pa : Nat) : DWord :=
  match coreSpaceReg pa, laneSpaceReg pa with
  | some (c, p, reg), _ => if s.regServes c reg then s.readReg c p reg else 0
  | none, some (k, l, reg) => if s.laneHeld k l then (s.lane k l).readReg reg else 0
  | none, none =>
    let off := pa - windowSpace
    if inWindow pa then (s.hart (off / 65536)).readWindow (off % 65536)
    else if pa < coreSpace then s.cairnWord (pa - registerSpace)
    else 0

end Sys2Proof.Machine
end

