-- ==== Sys2Proof/Machine/System.lean ====
section
/-! DEFINITION. System instructions and events (spec/14 R321 to R333, R402; spec/02 R36 to R39): calls, returns, TLB invalidation, traps
delivered to a lane, walks and flash lines. -/

namespace Sys2Proof.Machine

/-! ### SYSC, HVC (14 R326) -/

/-- A call raises its cause in each acting lane once it has retired, with the call number in TVAL. -/
def callOut (f : Form) (b : Base) (c : Cause) : M GroupOut := do
  let s ← get
  let ns ← collect (s.acting b) fun l => do
    let n ← readSrc f b 0 l
    pure (l, n)
  pure { outs := ns.map fun e => (e.1, {}), after := ns.map fun e => (e.1, ⟨c, 0, e.2, false⟩) }

/-- SYSC (14 R326). -/
def execSysc (b : Base) (s : State) : Host.Outcome State Fault Refusal :=
  let f := formOf (.sysc b)
  runGroup f b false (callOut f b .syscall) s

/-- HVC (14 R326). -/
def execHvc (b : Base) (s : State) : Host.Outcome State Fault Refusal :=
  let f := formOf (.hvc b)
  runGroup f b false (do
    let s ← get
    if s.mode == .u then trapActing b ⟨.privilege, 0, s.issue.word, false⟩ else callOut f b .hvcall) s

/-! ### ERET (14 R327) -/

/-- The mode that a lane's ERET restores; none where it takes PRIVILEGE. -/
def Lane.eretMode (x : Lane) : Option Mode :=
  match x.mode, Mode.ofCode (x.eretSlot.stat.extractLsb' 0 2).toNat with
  | .u, _ | _, none | .s, some .h => none
  | _, some m => some m

/-- An operation of an agent that was held at a fault goes on. -/
def State.release (s : State) (k : Nat) (f : HeldFault) : State :=
  let c := coreOf k
  let x := s.core c
  let copies := x.copies.map fun (e : Copy) => if e.uid == f.uid then { e with held := false } else e
  let appends := x.appends.map fun (e : Append) => if e.uid == f.uid then { e with held := false } else e
  let cols := x.cols.map fun (e : ColOp) => if e.uid == f.uid then { e with held := false } else e
  let elem := fun (e : Nat × DWord × Word × Bool) => if e.1 == f.lane then (e.1, e.2.1, e.2.2.1, false) else e
  let gathers := x.gathers.map fun (e : Gather) => if e.uid == f.uid then { e with elems := e.elems.map elem } else e
  let s := s.setCore c { x with copies := copies, appends := appends, cols := cols, gathers := gathers }
  let now := s.clock c
  let up := fun (o : CampOp) => match o.kind, o.phase with
    | .attn _ _ _ _ parent _, .held => if parent == f.uid then { o with phase := .arrived now o.uid } else o
    | _, .held => if o.uid == f.uid then { o with phase := .arrived now o.uid } else o
    | _, _ => o
  s.setCamp (campOf c) { s.camp (campOf c) with ops := (s.camp (campOf c)).ops.map up }

/-- A lane returns from a trap: a handler of an engine fault that returns to where the fault struck lets the operation go on
(04 R89, 14 R402). -/
def State.returned (s : State) (k l : Nat) : State :=
  let a := s.agent k
  let mine := fun (f : HeldFault) => match f.taken with
    | some (j, _) => j == l
    | none => false
  let last := fun (f : HeldFault) => match f.taken with
    | some (_, n) => decide (n ≤ 1)
    | none => false
  let done := a.faults.filter fun f => mine f && last f
  let up := fun (f : HeldFault) => match f.taken with
    | some (j, n) => if j == l then { f with taken := some (j, n - 1) } else f
    | none => f
  let s := if a.faults.isEmpty then s
    else s.setAgent k { a with faults := (a.faults.filter fun f => !(mine f && last f)).map up }
  done.foldl (fun s f => s.release k f) s

/-- The trailer of a halted pair returns from REDUNDANT_MISMATCH (16 R367): the count is cleared, and the leader goes on. -/
def State.clearMismatch (s : State) (k : Nat) : State :=
  match s.roleOf k, s.detOf k with
  | .trailer, some (n, d) =>
    if d.halted.isSome then (s.unhaltParty d.leader).setDet n { d with halted := none, mismatches := 0 } else s
  | _, _ => s

/-- ERET in one lane; a halt that waits for U takes effect (14 R331). -/
def eretLane (k l : Nat) (word : DWord) : M LaneOut := do
  let s ← get
  match (s.lane k l).eretMode with
  | none => raise .privilege word
  | some m => do
    modLane k l fun x => ({ (x.eret m).boundary with rwc := x.rwc + 1, age := 0 } : Lane).rejoin
    modify fun s => (s.returned k l).clearMismatch k
    pure { moved := true }

/-- What an ERET of a lane would restore, as one value (09 R216). -/
def Lane.restores (x : Lane) : DWord × DWord × DWord := (x.eretSlot.pc, x.eretSlot.cls, x.eretSlot.stat &&& 3)

/-- The trap of a bound rope whose lanes would return to different places. -/
def eretSplit (s : State) (lanes : List Nat) : Option Trap :=
  let k := s.who
  let first := (s.lane k (lanes.headD 0)).restores
  if (s.agent k).bound.isSome && lanes.any (fun l => (s.lane k l).restores != first) then
    some ⟨.divergeBound, 0, (maskOf (lanes.filter fun l => (s.lane k l).restores == first)).setWidth 64, false⟩
  else none

/-- ERET (14 R327). -/
def execEret (b : Base) (s : State) : Host.Outcome State Fault Refusal :=
  runGroup (formOf (.eret b)) b false (do
    let s ← get
    match if (s.acting b).any (fun l => (s.lane s.who l).eretMode.isNone) then none else eretSplit s (s.acting b) with
    | some t => trapActing b t
    | none => eachLane (s.acting b) fun l => eretLane s.who l s.issue.word) s

/-! ### Traps that reach a lane from outside -/

/-- The lanes that take a trap with a lane: those of a bound rope as a unit (09 R217). -/
def State.withUnit (s : State) (k l : Nat) : List Nat := if (s.agent k).bound.isSome then (s.agent k).live else [l]

/-- A lane takes a trap at the instruction where it stands, its wait withdrawn (14 R402); an operation that holds it has been performed by
then. -/
def State.interrupt (s : State) (k l : Nat) (t : Trap) : State :=
  (s.withUnit k l).foldl (fun s j =>
    let x := s.lane k j
    (((s.performed k [j]).withdraw k j).useAnswers k [j]).trapLane k j t x.pc x.clause) s

/-- TAKE_TRAP (14 R321). -/
def execTakeTrap (agent lane : Nat) (t : Trap) (s : State) : Host.Outcome State Fault Refusal :=
  let x := s.lane agent lane
  if x.exited || x.halted then .next s else .next (s.interrupt agent lane t)

/-- The agent and fault of an operation held for a lane. -/
def State.heldFor (s : State) (uid lane : Nat) : Option (Nat × HeldFault) :=
  s.agents.findSome? fun e => (e.2.faults.find? fun f => f.uid == uid && f.lane == lane && f.taken.isNone).map fun f => (e.1, f)

/-- A lane asleep in a wait that an engine fault ends takes it at the waiting instruction; one that is past its instruction and held until
an operation is complete, or whose instruction has come so far that it returns, is at no boundary before that (14 R402). -/
def Wait.interrupted : Wait → Bool
  | .phase _ _ | .ended | .result _ | .camp _ | .held | .cache _ _ => false
  | w => !w.isStep

/-- A lane may take an engine fault now: not halted, and at an instruction boundary or in a wait that the fault ends (14 R402). -/
def State.takesNow (s : State) (k l : Nat) : Bool :=
  let x := s.lane k l
  !x.exited && !x.halted && !(s.partyOf k).halted && x.step.isNone && x.wait.all fun w => w.interrupted || s.waitOver k l w

/-- Of several faults that an operation holds, a bound rope takes that of the lowest lane (09 R217, R218). -/
def State.lowestFault (s : State) (k : Nat) (f : HeldFault) : HeldFault :=
  if (s.agent k).bound.isNone then f
  else (s.agent k).faults.foldl (fun g e => if e.uid == f.uid && e.taken.isNone && e.lane < g.lane then e else g) f

/-- ENGINE_FAULT_DELIVERY (14 R402); a party that takes its faults from a log takes them there (16 R364). -/
def execEngineFaultDelivery (uid lane : Nat) (s : State) : Host.Outcome State Fault Refusal :=
  match (s.heldFor uid lane).map fun e => (e.1, s.lowestFault e.1 e.2) with
  | none => .next s
  | some (k, f) =>
    let lane := f.lane
    let d := s.deliveryLane k lane
    if !s.takesNow k d then .next s
    else runEvent k (do
      if s.recordsLog k false then
        logEntry k 4 (maskOf (s.withUnit k d)) (faultPayload ((s.withUnit k d).map fun l => (l, f.trap))) 0
          ((s.withUnit k d).map fun l => ⟨l, [], some f.trap, none⟩)
      modAgent k fun a => a.takeFault uid lane d
      modify fun s => s.interrupt k d f.trap) s

/-- The waits that the watchdog ends (14 R333). -/
def Wait.watched (w : Wait) (k : Nat) : Bool :=
  match w with
  | .wwait | .qlock | .slice _ _ | .barrier _ _ | .cwait _ _ => true
  | .stream _ => !isProducer k
  | .decision => !isLead k
  | _ => false

/-- A lane has slept beyond the limit of its core in a wait that the watchdog ends (14 R333). -/
def State.overslept (s : State) (k l : Nat) : Bool :=
  let x := s.lane k l
  let limit := ((s.core (coreOf k)).wdog.extractLsb' 0 32).toNat
  let slept := (s.clock (coreOf k) - x.since).toNat
  limit != 0 && !x.exited && !x.halted && !(s.partyOf k).halted && (x.wait.any fun w => w.watched k) && decide (limit * 65536 < slept)

/-- The base word of the instruction at which a lane waits, as it executed. -/
def State.waitingWord (s : State) (k l : Nat) : BitVec 64 := (s.lane k l).word

/-- WATCHDOG (14 R333): TVAL is the waiting instruction's word. -/
def execWatchdog (agent lane : Nat) (s : State) : Host.Outcome State Fault Refusal :=
  if s.overslept agent lane then .next (s.interrupt agent lane ⟨.watchdog, 0, s.waitingWord agent lane, false⟩) else .next s

/-! ### Flash lines and walks (02 R20, R36) -/

/-- FLASH_LINE_LANDS (02 R20). -/
def execFlashLineLands (line : Nat) (s : State) : Host.Outcome State Fault Refusal :=
  .next { s with
    slowFlash := s.slowFlash.filter (· != line)
    landedFlash := if s.landedFlash.contains line then s.landedFlash else line :: s.landedFlash }

/-- The table that holds a request's entry, of its core or of the engines of its die, without the entry; and who waits on it. -/
def State.answerMiss (s : State) (r : DieReq) : State × List (Nat × Word) :=
  let f := missFor r.space r.fetch (r.granule * 65536) []
  if r.core < 320 then
    let x := s.core r.core
    (s.setCore r.core { x with misses := x.misses.filter fun e => !e.same f }, (x.misses.filter f.same).flatMap (·.waiters))
  else
    let d := s.die r.die
    (s.setDie r.die { d with engMisses := d.engMisses.filter fun e => !e.same f }, (d.engMisses.filter f.same).flatMap (·.waiters))

/-- A translation answers a request: it fills the TLBs of a requesting core for those that wait, and they look again. -/
def State.fillTlb (s : State) (r : DieReq) (e : TlbEntry) : State :=
  let f := missFor r.space r.fetch (r.granule * 65536) []
  let waits := fun (p : Miss → Bool) => decide (r.core < 320) && (s.core r.core).misses.any fun m => m.same f && p m
  let s := if waits Miss.fetch then s.fillCore r.core true e else s
  let s := if waits Miss.data then s.fillCore r.core false e else s
  (s.answerMiss r).1

/-- WALK_START (02 R36 rules 3 and 4): the oldest request of the miss queue looks up the last-level TLB, joins a walk or takes a free
slot. -/
def execWalkStart (die : Nat) (s : State) : Host.Outcome State Fault Refusal :=
  let d := s.die die
  match d.queue with
  | [] => .next s
  | r :: rest =>
    let out := s.setDie die { d with queue := rest }
    match s.lookup d.ltlb r.space (r.granule * 65536) with
    | some e => .next (out.fillTlb r e)
    | none => .next ((out.takeSlot r).getD s)

/-- A walk's fault is answered to lanes of an agent. -/
def State.answerLanes (s : State) (k : Nat) (lanes : Word) (g : Nat) (f : WalkFault) : State :=
  let a := s.agent k
  let before := ((Sparse.find? a.answers g).map (·.1)).getD 0
  s.setAgent k { a with answers := Sparse.put a.answers g (before ||| lanes, f) }

/-- A walk's fault is answered to every lane and every engine operation that waits (02 R36 rule 6). -/
def State.answerFault (s : State) (f : WalkFault) (r : DieReq) : State :=
  let g := granuleKey r.space (r.granule * 65536)
  let (s, who) := s.answerMiss r
  who.foldl (fun s w =>
    if 2 ^ 40 ≤ w.1 then { s with answered := s.answered ++ [(w.1 - 2 ^ 40, g, f)] }
    else s.answerLanes w.1 w.2 g f) s

/-- Pointers that a walk passed enter the walk cache of 256 (02 R35); the oldest leave. -/
def Die.cachePointers (d : Die) (r : DieReq) (ptrs : List (Nat × Nat)) : Die :=
  let new := ptrs.map fun p => (⟨r.part, r.asid, r.g2.isSome, p.1, r.granule * 65536 / 2 ^ levelShift (p.1 + 1), p.2⟩ : WalkPtr)
  let all := (d.wcache.filter fun w => !new.contains w) ++ new
  { d with wcache := all.drop (all.length - 256) }

/-- Where a walk of a request starts: at the lowest node that the walk cache names for its address, else at the root (02 R35). -/
def Die.walkFrom (d : Die) (r : DieReq) : Option (Nat × Nat) :=
  let at_ := fun (n : Nat) => (d.wcache.find? fun w => w.part == r.part && w.asid == r.asid && w.guest == r.g2.isSome && w.level == n &&
    w.vpn == r.granule * 65536 / 2 ^ levelShift (n + 1)).map fun w => (n, w.node)
  (at_ 0).or (at_ 1)

/-- WALK_COMPLETE (02 R36 rules 5 and 6): a walk through the requester's tables, as they stand, ends. -/
def execWalkComplete (die index : Nat) (s : State) : Host.Outcome State Fault Refusal :=
  let d := s.die die
  match d.walks[index]?, (d.walks[index]?).bind fun w => w.reqs.head? with
  | some w, some r =>
    let s := s.setDie die { d with walks := d.walks.eraseIdx index }
    match walk s false d.ltlb.runs r.space (d.walkFrom r) (r.granule * 65536) with
    | .error f => .next (w.reqs.foldl (fun s q => s.answerFault f q) s)
    | .ok (e, ptrs, s') =>
      let d := (s'.die die).cachePointers r ptrs
      .next (w.reqs.foldl (fun s q => s.fillTlb q e) (s'.setDie die { d with ltlb := d.ltlb.putLast e }))
  | _, _ => .next s

/-! ### TLBI (14 R329, 02 R38, R39) -/

/-- Members of a scope: cores, then the dies as 320 and 321, and the CPU cores as 322. -/
def scopeMembers (scope c : Nat) : List Nat :=
  let dieCores := fun (d : Nat) => (List.range 160).map (160 * d + ·)
  match scope with
  | 0 => [c]
  | 1 => campCores (campOf c)
  | 2 => dieCores (dieOf c) ++ [320 + dieOf c]
  | _ => dieCores 0 ++ dieCores 1 ++ [320, 321, 322]

/-- A translation that an invalidation removes (02 R38): by the stage-2 leaf that it uses for STAGE2. -/
def TlbInv.hits (t : TlbInv) (e : TlbEntry) : Bool :=
  e.part == t.part && match t.target with
    | 0 => (e.asid == t.asid || e.bits.getLsbD 5) && decide (e.va ≤ t.va % 2 ^ 55) && decide (t.va % 2 ^ 55 < e.va + e.size)
    | 1 => e.asid == t.asid && !e.bits.getLsbD 5
    | 2 => true
    | _ => match e.range2 with
      | some (i, n) => decide (i ≤ t.va) && decide (t.va < i + n)
      | none => false

/-- A run whose choice an invalidation ends, since it covers the run (02 R30). -/
def TlbInv.covers (t : TlbInv) (r : Run) : Bool :=
  r.part == t.part && match t.target with
    | 0 => !r.second && (r.asid == t.asid || r.entry.getLsbD 5) && decide (r.base ≤ t.va % 2 ^ 55) && decide (t.va % 2 ^ 55 < r.base + r.size)
    | 1 => !r.second && r.asid == t.asid && !r.entry.getLsbD 5
    | 2 => true
    | _ => r.second && decide (r.base ≤ t.va) && decide (t.va < r.base + r.size)

/-- What an invalidation leaves of a TLB. -/
def TlbInv.prune (t : TlbInv) (x : Tlb) : Tlb := x.keep (fun e => !t.hits e) fun r => !t.covers r

/-- A member drops what matches (02 R39): a core performs first the accesses that it has translated; the CPU cores drop it from the TLB of
each hart. -/
def State.dropTranslations (s : State) (t : TlbInv) (m : Nat) : State :=
  if m < 320 then
    let s := (s.coreAgents m).foldl State.drainAll s
    let x := s.core m
    s.setCore m { x with itlb := t.prune x.itlb, dtlb := t.prune x.dtlb }
  else if m < 322 then
    let d := s.die (m - 320)
    s.setDie (m - 320) { d with ltlb := t.prune d.ltlb, wcache := d.wcache.filter fun w => w.part != t.part }
  else { s with harts := s.harts.map fun e => (e.1, { e.2 with tlb := t.prune e.2.tlb }) }

/-- A member may acknowledge: a core, once its die's last-level TLB has, where that is in the scope too, so that it takes in no removed
translation again (02 R39). -/
def TlbInv.mayAck (t : TlbInv) (m : Nat) : Bool := t.left.contains m && (320 ≤ m || !t.left.contains (320 + dieOf m))

/-- TLBI_ACK (02 R39): a member of the scope acknowledges; with the last, the TLBI completes. -/
def execTlbiAck (tlbi core : Nat) (s : State) : Host.Outcome State Fault Refusal :=
  match s.tlbis.find? fun t => t.id == tlbi && t.mayAck core with
  | none => .next s
  | some t =>
    let s := s.dropTranslations t core
    let left := t.left.erase core
    let up := fun (u : TlbInv) => if u.id == tlbi then { u with left := left } else u
    .next { s with tlbis := if left.isEmpty then s.tlbis.filter fun u => u.id != tlbi else s.tlbis.map up }

/-- The mode of the group does not allow a TLBI of a target (14 R329). -/
def State.tlbiBarred (s : State) (target : Nat) : Bool := s.mode == .u || (s.mode == .s && target == 3)

/-- The operands of a TLBI, with the checks that 05 R121 orders: what the selector holds, then the mode; an access that reads an operand
faults after them. -/
def tlbiOperands (f : Form) (b : Base) (target l : Nat) : M Operands := do
  let s ← get
  let r ← attempt (readSrcs f b l)
  match r with
  | .error t => do
    require (!s.tlbiBarred target) .privilege s.issue.word
    abort (.trap t)
  | .ok x => do
    require ((loWord x.c).extractLsb' 17 15 == 0) .illegalOperand s.issue.word
    require (!(s.tlbiBarred target || (s.mode == .s && (loWord x.c).getLsbD 16))) .privilege s.issue.word
    pure x

/-- One TLBI (14 R329): the checks of its operands and mode, then the request to every member of its scope. -/
def issueTlbi (f : Form) (b : Base) (target l : Nat) : M Nat := do
  let x ← tlbiOperands f b target l
  let s ← get
  let k := s.who
  let sel := loWord x.c
  let part := if sel.getLsbD 16 then (sel.extractLsb' 12 4).toNat else s.partOf k
  let scope := (b.litWord .ext 0 b.a).toNat
  let u ← newUid
  modify fun s => { s with tlbis := s.tlbis ++
    [⟨u, k, s.issue.lanes, part, (sel.extractLsb' 0 12).toNat, target, x.b.toNat, scope, scopeMembers scope (coreOf k)⟩] }
  pure u

/-- A TLBI acts once: its group sleeps at the instruction, and retires it when it completes (02 R39). -/
def runTlbi (f : Form) (b : Base) (target : Nat) : State → Host.Outcome State Fault Refusal :=
  runGroup f b false (splitAfter f b (fun l => do
    let _ ← tlbiOperands f b target l
    pure ()) (do
    let s ← get
    match s.acting b with
    | [] => pure {}
    | l :: _ =>
      match (s.lane s.who l).step with
      | some (.tlbi n) =>
        if s.tlbis.any fun t => t.id == n then pure { outs := s.issued.map fun j => (j, { stay := some (.tlbi n) }) }
        else pure {}
      | _ =>
        match ← attempt (issueTlbi f b target l) with
        | .ok n => pure { outs := s.issued.map fun j => (j, { stay := some (.tlbi n) }) }
        | .error t => if t.cause == .privilege || t.cause == .illegalOperand then trapActing b t else pure { traps := [(l, t)] }))

/-- TLBI.PAGE (14 R329). -/
def execTlbiPage (b : Base) (s : State) : Host.Outcome State Fault Refusal := runTlbi (formOf (.tlbiPage b)) b 0 s
/-- TLBI.SPACE (14 R329). -/
def execTlbiSpace (b : Base) (s : State) : Host.Outcome State Fault Refusal := runTlbi (formOf (.tlbiSpace b)) b 1 s
/-- TLBI.PARTITION (14 R329). -/
def execTlbiPartition (b : Base) (s : State) : Host.Outcome State Fault Refusal := runTlbi (formOf (.tlbiPartition b)) b 2 s
/-- TLBI.STAGE2 (14 R329). -/
def execTlbiStage2 (b : Base) (s : State) : Host.Outcome State Fault Refusal := runTlbi (formOf (.tlbiStage2 b)) b 3 s

end Sys2Proof.Machine
end

