-- ==== Sys2Proof/Machine/Fabric.lean ====
section
/-! DEFINITION. The fabric (spec/15 R346 to R355): block copies, collectives, and the Roilo messages that carry them. -/

namespace Sys2Proof.Machine

/-! ### Operations of the class COL -/

/-- Begin an operation of the class COL for the issue. -/
def startCol (l kind chip : Nat) (src dst : DWord) (bytes bar : Nat) (record group : List Byte) : M Unit := do
  let s ← get
  let k := s.who
  let u ← countOp k l .col
  let op : ColOp :=
    { uid := u, agent := k, lane := l, kind := kind, remote := kind != 3 && chip != s.chip, chip := chip, src := src, dst := dst
      bytes := bytes, bar := bar, record := record, group := group, got := [], landed := 0, met := [], acked := [], held := false, mode := s.mode }
  modCore (coreOf k) fun x => { x with cols := x.cols ++ [op] }

/-- RBLK.seq (15 R351). -/
def execRblkSeq (b : Base) (s : State) : Host.Outcome State Fault Refusal :=
  let f := formOf (.rblkSeq b)
  runOnce f b (fun l => do
    let x ← readSrcs f b l
    let v ← laneVia
    let d ← openDesc v x.a .load
    let i := (loWord x.b).toNat
    require (decide (i < ceilDiv d.cl d.blockSlots)) .seqBounds (BitVec.ofNat 64 i)
    let (chip, src) ← locate v d (i * d.blockSlots)
    roomFor .col
    startCol l 0 chip src x.c d.blockBytes (barOf b) (bytesOf 8 (comparator d i)) []
    pure {}) s

/-- RBLK.get and .put (15 R350, R351): A is the remote address and B the local one. -/
def runRblk (f : Form) (b : Base) (put : Bool) : State → Host.Outcome State Fault Refusal :=
  runOnce f b fun l => do
    let x ← readSrcs f b l
    let s ← get
    let n := (loWord x.c).toNat
    require (n % 16 == 0 && decide (n ≤ 2 ^ 24) && x.a.toNat % 16 == 0 && x.b.toNat % 16 == 0) .illegalOperand s.issue.word
    roomFor .col
    let chip := (b.e2.extractLsb' 5 10).toNat
    if put then startCol l 2 chip x.b x.a n (barOf b) [] [] else startCol l 1 chip x.a x.b n (barOf b) [] []
    pure {}

/-- RBLK.get (15 R351). -/
def execRblkGet (b : Base) (s : State) : Host.Outcome State Fault Refusal := runRblk (formOf (.rblkGet b)) b false s

/-- RBLK.put (15 R351). -/
def execRblkPut (b : Base) (s : State) : Host.Outcome State Fault Refusal := runRblk (formOf (.rblkPut b)) b true s

/-! ### The collective record and its group (15 R353, R355) -/

/-- A collective record. -/
structure Coll where
  src : DWord
  dst : DWord
  cnt : Nat
  op : Nat
  ty : Nat
  red : Nat
  mode : Nat
  group : DWord
  tag : Nat
  deriving DecidableEq, Repr

/-- A record from its 64 bytes. -/
def Coll.parse (bs : List Byte) : Coll :=
  let f := recField bs
  ⟨BitVec.ofNat 64 (f 0 8), BitVec.ofNat 64 (f 8 8), f 16 4, f 20 1, f 21 1, f 22 1, f 23 1, BitVec.ofNat 64 (f 24 8), f 32 4⟩

/-- Element type of a collective; none for a code that R353 does not list. -/
def collTy : Nat → Option Ty
  | 2 => some .i32 | 6 => some .n32 | 8 => some .f32 | 9 => some .f16 | 10 => some .bf16 | _ => none

/-- Element type of a checked record. -/
def Coll.elem (c : Coll) : Ty := (collTy c.ty).getD .i32

/-- A reserved field or code of a record is nonzero. -/
def collReserved (bs : List Byte) : Bool :=
  let c := Coll.parse bs
  decide (3 < c.op) || (collTy c.ty).isNone || decide (2 < c.red) || decide (2 < c.mode) ||
    ((c.op == 1 || c.op == 3) && c.red != 0) || recField bs 36 28 != 0

/-- Ranks of a group descriptor. -/
def groupRanks (g : List Byte) : Nat := recField g 0 4
/-- Own rank of a group descriptor. -/
def groupRank (g : List Byte) : Nat := recField g 4 4
/-- Chip of a rank. -/
def groupChip (g : List Byte) (r : Nat) : Nat := recField g (16 + 2 * r) 2
/-- What the ranks of one group have in common. -/
def groupKey (g : List Byte) : List Byte := g.take 4 ++ g.drop 16

/-- Bytes of a chunk. -/
def Coll.chunk (c : Coll) : Nat := c.cnt * (c.elem.bits / 8)
/-- Bytes at SRC (15 R353). -/
def Coll.srcBytes (c : Coll) (n : Nat) : Nat := if c.op == 0 || c.op == 3 then n * c.chunk else c.chunk
/-- Bytes at DST. -/
def Coll.dstBytes (c : Coll) (n : Nat) : Nat := if c.op == 1 || c.op == 3 then n * c.chunk else c.chunk

/-- The ranges overlap, other than as an all-reduce in place. -/
def Coll.overlaps (c : Coll) (n : Nat) : Bool :=
  decide (c.src.toNat < c.dst.toNat + c.dstBytes n) && decide (c.dst.toNat < c.src.toNat + c.srcBytes n) &&
    !(c.op == 2 && c.src == c.dst)

/-- The record that a COLL names, after the checks of its address (15 R352, R353). -/
def collRecord (b : Base) (l : Nat) (ra : Word) : M (List Byte) := do
  let s ← get
  checkAlign (ra.setWidth 64) 16
  if b.e2.getLsbD 5 then do
    require (decide (ra.toNat + 64 ≤ 65536)) .illegalOperand s.issue.word
    constRecord s.who l s.mode ra.toNat
  else do
    let _ ← spadTouch ra 64 true
    spadRead s.who ra 64

/-- COLL (15 R352, R355): the checks at issue. -/
def execColl (b : Base) (s : State) : Host.Outcome State Fault Refusal :=
  let f := formOf (.coll b)
  runOnce f b (fun l => do
    let x ← readSrcs f b l
    let s ← get
    let word := s.issue.word
    let bs ← collRecord b l (loWord x.a)
    let c := Coll.parse bs
    require (!collReserved bs) .reservedField word
    require (decide (1 ≤ c.cnt) && decide (c.cnt ≤ 2 ^ 24)) .illegalOperand word
    checkAlign c.group 16
    let head ← farRange c.group 16
    let n := groupRanks head
    require (decide (1 ≤ n) && decide (n ≤ 1024) && decide (groupRank head < n)) .illegalOperand word
    let chips ← farRange (c.group + 16) (2 * n)
    let g := head ++ chips
    require (groupChip g (groupRank g) == s.chip) .illegalOperand word
    require (!(c.mode == 2 && (c.red != 0 || c.elem.isInt))) .illegalOperand word
    require (!c.overlaps n) .illegalOperand word
    roomFor .col
    startCol l 3 s.chip c.src c.dst (c.dstBytes n) (barOf b) bs g
    pure {}) s

/-! ### The ends of an operation -/

/-- Change an operation of a core. -/
def modCol (c uid : Nat) (f : ColOp → ColOp) : M Unit :=
  modCore c fun x => { x with cols := x.cols.map fun e => if e.uid == uid then f e else e }

/-- Take an operation off its core. -/
def dropCol (e : ColOp) : M Unit :=
  modCore (coreOf e.agent) fun x => { x with cols := x.cols.filter fun y => y.uid != e.uid }

/-- An operation is complete: it arrives at its barrier with its bytes (15 R351, R355). -/
def landCol (e : ColOp) : M Unit := do
  dropCol e
  landTransfer e.agent e.uid e.lane e.bar e.bytes

/-- An operation ends with a remote failure (15 R349): it is counted complete once its fault is taken (14 R402). -/
def failCol (e : ColOp) (t : Trap) : M Unit := do
  dropCol e
  modify fun s => s.holdFault e.agent e.uid e.lane t true

/-- The operation is held at a fault of its lane. -/
def holdCol (e : ColOp) (t : Trap) : M Unit := do
  modCol (coreOf e.agent) e.uid fun x => { x with held := true }
  modify fun s => s.holdFault e.agent e.uid e.lane t

/-- Rank of a collective operation. -/
def ColOp.rank (e : ColOp) : Nat := groupRank e.group
/-- Ranks of a collective operation. -/
def ColOp.ranks (e : ColOp) : Nat := groupRanks e.group
/-- The other ranks. -/
def ColOp.others (e : ColOp) : List Nat := (List.range e.ranks).filter fun r => r != e.rank
/-- Record of a collective operation. -/
def ColOp.coll (e : ColOp) : Coll := Coll.parse e.record

/-- The lowest rank that has not met, whose contribution is missing or that has not taken this rank's; rank 0 when none is. -/
def ColOp.missing (e : ColOp) : Nat :=
  (e.others.find? fun r => !e.met.contains r || !(e.got.any fun x => x.1 / 2 ^ 40 == r) || !(e.acked.any fun x => x / 2 ^ 40 == r)).getD 0

/-- The trap of an operation that finds no delivery (15 R349). -/
def ColOp.lost (e : ColOp) : Trap :=
  match e.kind with
  | 0 => ⟨.droppedBlock, 0, dwordOf e.record, true⟩
  | 3 => ⟨.queueState, 0, BitVec.ofNat 64 (groupChip e.group e.missing), true⟩
  | _ => ⟨.queueState, 0, BitVec.ofNat 64 e.chip, true⟩

/-- The trap of an operation that the target refuses. -/
def ColOp.refused (e : ColOp) (m : Msg) : Trap :=
  match m.cause with
  | some (c, sub) =>
    if (remoteCause c).isSome then ⟨(remoteCause c).getD c, sub, m.addr, true⟩
    else if e.kind == 3 then ⟨.queueState, 0, BitVec.ofNat 64 m.chip, true⟩ else e.lost
  | none => if e.kind == 3 then ⟨.queueState, 0, BitVec.ofNat 64 e.coll.tag, true⟩ else e.lost

/-! ### Reading and writing for an operation -/

/-- Read a range at the home slices for an engine (03 R66). -/
def engineRange (k uid : Nat) (m : Mode) (va : DWord) (n : Nat) (opc : BitVec 8) : M (List Byte) := do
  let parts ← collect (lineChunks va.toNat n) fun c => engineRead k uid m false (va + BitVec.ofNat 64 c.1) c.2 opc
  pure parts.flatten

/-- Write a range at the home slices for an engine. -/
def engineStore (k uid : Nat) (m : Mode) (va : DWord) (bs : List Byte) : M Unit :=
  forEach (lineChunks va.toNat bs.length) fun c => engineWrite k uid m false (va + BitVec.ofNat 64 c.1) ((bs.drop c.1).take c.2)

/-- Source of an operation here. -/
def ColOp.read (e : ColOp) : M (List Byte) :=
  if e.kind == 3 then engineRange e.agent e.uid e.mode e.src (e.coll.srcBytes e.ranks) 0xD7
  else engineRange e.agent e.uid e.mode e.src e.bytes 0xD8

/-! ### The reduction (15 R354) -/

/-- Two elements reduced. -/
def reduceTwo (t : Ty) (red : Nat) (x y : DWord) : DWord :=
  match red with
  | 0 => if t.isInt then t.wrap (t.intVal x + t.intVal y) else t.fround ((t.fval x).add false (t.fval y)) .rne
  | 1 => if t.isInt then (if t.intVal y < t.intVal x then y else x) else t.fround ((t.fval x).min (t.fval y)) .rne
  | _ => if t.isInt then (if t.intVal x < t.intVal y then y else x) else t.fround ((t.fval x).max (t.fval y)) .rne

/-- MODE ORDERED: the ranks in ascending order. -/
def reduceOrdered (t : Ty) (red : Nat) : List DWord → DWord
  | [] => 0
  | x :: xs => xs.foldl (reduceTwo t red) x

/-- MODE FREE: at each step two of the values left are combined, by a free choice (assumption log 15). -/
def reduceFree (t : Ty) (red seed : Nat) : Nat → List DWord → DWord
  | 0, xs => xs.headD 0
  | n + 1, xs =>
    let i := Config.freeOrder (2 * (seed + n)) xs.length % xs.length
    let rest := xs.eraseIdx i
    match rest with
    | [] => xs.headD 0
    | y :: _ =>
      let j := Config.freeOrder (2 * (seed + n) + 1) rest.length % rest.length
      reduceFree t red seed n (reduceTwo t red (xs.getD i 0) (rest.getD j y) :: rest.eraseIdx j)

/-- Bytes of the accumulator of one element in MODE EXACT: 512 bits and the sticky flags (09 R225). -/
def exactBytes (x : FVal) : List Byte := leBytes 64 (fixedUnits x % 2 ^ 512).toNat ++ leBytes 1 (stickyOf [x] false).toNat

/-- MODE EXACT: accumulators added and rounded once (09 R227). -/
def reduceExact (t : Ty) (xs : List (List Byte)) : DWord :=
  let acc := (xs.map fun b => longS 16 (leNat (b.take 64))).sum
  let sticky := xs.foldl (fun (m : BitVec 3) b => m ||| BitVec.ofNat 3 (leNat (b.drop 64))) 0
  t.fround (normValue sticky acc) .rne

/-- Bytes of an element on the wire. -/
def Coll.wire (c : Coll) : Nat := if c.mode == 2 && (c.op == 0 || c.op == 2) then 65 else c.elem.bits / 8

/-- Elements of a CDATA unit (15 R348). -/
def Coll.unit (c : Coll) : Nat := 128 / c.wire

/-- Element offsets of the units of a chunk. -/
def Coll.units (c : Coll) : List Nat := (List.range (ceilDiv c.cnt c.unit)).map (c.unit * ·)

/-- What rank `own` sends to rank `to`: the bytes of the chunk, on the wire. -/
def Coll.contribution (c : Coll) (to_ : Nat) (src : List Byte) : List Byte :=
  let bs := if c.op == 0 || c.op == 3 then (src.drop (to_ * c.chunk)).take c.chunk else src
  if c.wire == 65 then
    (List.range c.cnt).flatMap fun i => exactBytes (c.elem.fval (dwordOf ((bs.drop (i * (c.elem.bits / 8))).take (c.elem.bits / 8))))
  else bs

/-- Units of a contribution, as element offset and bytes. -/
def Coll.split (c : Coll) (bs : List Byte) : List (Nat × List Byte) :=
  c.units.map fun o => (o, (bs.drop (o * c.wire)).take (c.unit * c.wire))

/-- Every contribution has arrived. -/
def ColOp.full (e : ColOp) : Bool :=
  (List.range e.ranks).all fun r => e.coll.units.all fun o => (Sparse.find? e.got (r * 2 ^ 40 + o)).isSome

/-- Every contribution of this rank has been delivered (15 R355). -/
def ColOp.delivered (e : ColOp) : Bool := e.others.all fun r => e.coll.units.all fun o => e.acked.contains (r * 2 ^ 40 + o)

/-- The contribution of a rank. -/
def ColOp.from (e : ColOp) (r : Nat) : List Byte :=
  e.coll.units.flatMap fun o => Sparse.getD e.got (r * 2 ^ 40 + o) []

/-- The bytes at DST. -/
def ColOp.result (e : ColOp) (seed : Nat) : List Byte :=
  let c := e.coll
  let parts := (List.range e.ranks).map e.from
  if c.op == 1 || c.op == 3 then parts.flatten
  else (List.range c.cnt).flatMap fun i =>
    let xs := parts.map fun p => (p.drop (i * c.wire)).take c.wire
    let ys := xs.map dwordOf
    bytesOf (c.elem.bits / 8) (match c.mode with
      | 0 => reduceFree c.elem c.red (seed + 1024 * i) ys.length ys
      | 1 => reduceOrdered c.elem c.red ys
      | _ => reduceExact c.elem xs)

/-! ### Progress of an operation -/

/-- The digest that the ranks compare: CNT, OP, TY, RED and MODE (15 R355). -/
def ColOp.digest (e : ColOp) : List Byte := (e.record.drop 16).take 8

/-- A message of a collective to a rank; the header names the group by its contents. -/
def ColOp.message (e : ColOp) (s : State) (kind to_ off : Nat) (body : List Byte) : Msg :=
  { s.message (s.partOf e.agent) kind e.coll.tag with
    addr := BitVec.ofNat 64 to_, offset := off, rank := e.rank, payload := groupKey e.group ++ body }

/-- Send to every other rank. -/
def ColOp.sendAll (e : ColOp) (s : State) (msgs : Nat → List Msg) : State :=
  e.others.foldl (fun s r => (msgs r).foldl (fun s m => s.send (groupChip e.group r) m) s) s

/-- A collective whose DST is written ends once its contributions have been delivered (15 R355). -/
def endColl (e : ColOp) : M Unit := if e.delivered then landCol e else modCol (coreOf e.agent) e.uid fun x => { x with landed := 2 }

/-- A collective goes on: it asks the other ranks to meet, sends its contributions once they have, writes DST when all have arrived, and
ends when its own have (15 R355). -/
def moveColl (e : ColOp) : M Unit := do
  let s ← get
  let c := coreOf e.agent
  if !e.others.isEmpty && !s.fabOn (s.partOf e.agent) then failCol e e.lost
  else if !e.remote then do
    modCol c e.uid fun x => { x with remote := true }
    modify fun s => e.sendAll s fun r => [e.message s 4 r 0 e.digest]
  else if !e.others.all e.met.contains then pure ()
  else if e.landed == 0 then do
    let r ← attempt e.read
    match r with
    | .error t => holdCol e t
    | .ok src => do
      let own := (e.coll.split (e.coll.contribution e.rank src)).foldl
        (fun m u => Sparse.put m (e.rank * 2 ^ 40 + u.1) u.2) e.got
      modCol c e.uid fun x => { x with landed := 1, got := own }
      modify fun s => e.sendAll s fun r => (e.coll.split (e.coll.contribution r src)).map fun u => e.message s 5 r u.1 u.2
  else if !e.full then pure ()
  else if e.landed == 2 then endColl e
  else do
    modify fun s => { s with fresh := s.fresh + 1 }
    let r ← attempt (engineStore e.agent e.uid e.mode e.dst (e.result (s.fresh * 2 ^ 35)))
    match r with
    | .error t => holdCol e t
    | .ok _ => endColl e

/-- An operation that writes nothing outside reads its source through the log, and is done. -/
def moveDry (e : ColOp) : M Unit := do
  if e.kind == 3 || e.kind == 2 || !e.remote then do
    let _ ← e.read
    pure ()
  landCol e

/-- An RBLK within this module: every byte is copied (15 R351). -/
def moveLocal (e : ColOp) : M Unit := do
  let r ← attempt (do
    let bs ← e.read
    engineStore e.agent e.uid e.mode e.dst bs)
  match r with
  | .error t => holdCol e t
  | .ok _ => landCol e

/-- An RBLK to or from another chip sends its request once. -/
def moveRemote (e : ColOp) : M Unit := do
  let s ← get
  let p := s.partOf e.agent
  if e.bytes == 0 then landCol e
  else if !s.fabOn p then failCol e e.lost
  else if !e.met.isEmpty then pure ()
  else do
    let r ← attempt (if e.kind == 2 then e.read else pure [])
    match r with
    | .error t => holdCol e t
    | .ok bs => do
      modCol (coreOf e.agent) e.uid fun x => { x with met := [1] }
      modify fun s =>
        if e.kind == 2 then s.send e.chip { s.message p 2 e.uid with addr := e.dst, len := e.bytes, payload := bs }
        else s.send e.chip { s.message p 0 e.uid with addr := e.src, len := e.bytes }

/-- An operation of the class COL goes on, as far as it can. -/
def moveCol (e : ColOp) : M Unit := do
  let s ← get
  if e.held || (s.partyOf e.agent).halted then pure ()
  else if s.dry e.agent e.uid then moveDry e
  else if e.kind == 3 then moveColl e
  else if e.remote then moveRemote e
  else moveLocal e

/-! ### Messages that arrive (15 R348) -/

/-- A message of a kind, which a fabric engine that is ready takes in (17 R375). -/
def State.arrived (s : State) (msg kind : Nat) : Option Msg :=
  if s.fabricReady then (Sparse.find? s.msgs msg).filter fun m => m.kind == kind else none

/-- Take a message away. -/
def dropMsg (msg : Nat) : M Unit := modify fun s => { s with msgs := Sparse.drop s.msgs msg }

/-- The partition that a message is for: the one whose enabled JOB it names (15 R348). -/
def State.jobPart (s : State) (m : Msg) : Option Nat := (List.range 16).find? fun p => s.fabOn p && s.job p == m.job

/-- The address space in which a partition's remote requests are translated (15 R347): FABCFG.ASID, through the root that core 0
holds for the partition. -/
def State.fabricVia (s : State) (p : Nat) : Via :=
  let sp := s.space 0 p .s
  .direct 0 0 { sp with asid := ((s.part p).fabcfg.extractLsb' 30 12).toNat } .s

/-- An answer to a message goes back to its sender. -/
def Msg.answer (m : Msg) (s : State) (kind : Nat) : Msg :=
  { m with kind := kind, chip := s.chip, payload := [], cause := none }

/-- A request is refused with a NAK (15 R348, R349): a fault of its translation names the address that has it. -/
def Msg.nak (m : Msg) (s : State) (t : Trap) : Msg :=
  let own := t.cause == .pageAbsent || t.cause == .pageProtection
  { m.answer s 6 with cause := some ((remoteCause t.cause).getD t.cause, t.sub), addr := if own then t.val else m.addr }

/-- A message of a collective is refused: the NAK names the group, with the reason or, for a mismatch, without. -/
def Msg.collNak (m : Msg) (s : State) (cause : Option (Cause × BitVec 4)) : Msg :=
  { m.answer s 6 with payload := m.payload, cause := cause }

/-- A request of another chip is served, or refused with a NAK (15 R348). -/
def serve (msg : Nat) (m : Msg) (act : Via → M (Nat × List Byte)) : M Unit := do
  let s ← get
  dropMsg msg
  match s.jobPart m with
  | none => modify fun s => s.send m.chip (m.nak s ⟨.queueState, 0, 0, false⟩)
  | some p => do
    let r ← attempt (act (s.fabricVia p))
    match r with
    | .ok (kind, bs) => modify fun s => s.send m.chip { m.answer s kind with payload := bs }
    | .error t => modify fun s => s.send m.chip (m.nak s t)

/-- ROILO_READ (15 R348). -/
def execRoiloRead (msg : Nat) (s : State) : Host.Outcome State Fault Refusal :=
  match s.arrived msg 0 with
  | none => .next s
  | some m => runEvent 0 (serve msg m fun v => do
      let bs ← viaRead v m.addr m.len .load
      pure (1, bs)) s

/-- ROILO_WRITE (15 R348): the acknowledgement follows when every byte is performed. -/
def execRoiloWrite (msg : Nat) (s : State) : Host.Outcome State Fault Refusal :=
  match s.arrived msg 2 with
  | none => .next s
  | some m => runEvent 0 (serve msg m fun v => do
      viaWrite v m.addr m.payload
      pure (3, [])) s

/-- The operation of the class COL that a tag names. -/
def State.findCol (s : State) (uid : Nat) : Option ColOp := (s.cores.flatMap fun e => e.2.cols).find? fun e => e.uid == uid

/-- An operation waits for what other chips send it. -/
def ColOp.waits (e : ColOp) : Bool := e.remote && !e.met.isEmpty && e.kind != 3

/-- An operation of a name is saved in a frame, so that its messages wait. -/
def State.colSaved (s : State) (uid : Nat) : Bool := s.saved.any fun v => v.cols.any fun e => e.uid == uid

/-- A read of a lane or an engine has its answer; who waited for it looks again. -/
def State.answerRemote (s : State) (uid : Nat) (a : Except (Cause × BitVec 4) (List Byte)) : State :=
  let fill := fun (r : Remote) => if r.uid == uid then { r with answer := some a } else r
  ({ s with remotes := s.remotes.map fill } : State).wakeAll fun w => w == .remote uid

/-- Bytes of a remote block or range land at their place. -/
def landData (msg : Nat) (m : Msg) (e : ColOp) : M Unit := do
  if e.held || !e.waits then pure ()
  else do
    let r ← attempt (engineStore e.agent e.uid e.mode (e.dst + BitVec.ofNat 64 m.offset) m.payload)
    match r with
    | .error t => holdCol e t
    | .ok _ => do
      dropMsg msg
      let e : ColOp := { e with landed := e.landed + m.payload.length }
      if e.bytes ≤ e.landed then landCol e else modCol (coreOf e.agent) e.uid fun _ => e

/-- ROILO_READ_DATA (15 R348). -/
def execRoiloReadData (msg : Nat) (s : State) : Host.Outcome State Fault Refusal :=
  match s.arrived msg 1 with
  | none => .next s
  | some m =>
    match s.findCol m.tag with
    | some e => runEvent e.agent (landData msg m e) s
    | none =>
      if s.colSaved m.tag then .next s
      else runEvent 0 (do
        dropMsg msg
        modify fun s => s.answerRemote m.tag (.ok m.payload)) s

/-- A collective of a partition is what a message names: by the enabled job, group, tag and rank (15 R348, R355). -/
def State.collNamed (s : State) (m : Msg) (rank p : Nat) (e : ColOp) : Bool :=
  e.kind == 3 && e.coll.tag == m.tag && s.jobPart m == some p && e.rank == rank &&
    m.payload.take (groupKey e.group).length == groupKey e.group

/-- The collective of this module that a message of its kind is for. -/
def State.collFor (s : State) (m : Msg) : Option ColOp :=
  (s.cores.flatMap fun e => e.2.cols).find? fun e => s.collNamed m m.addr.toNat (s.partOf e.agent) e && !s.dry e.agent e.uid

/-- The collective of this module that an answer to one of its messages is for: such an answer names the group (assumption log 77). -/
def State.collOf (s : State) (m : Msg) : Option ColOp :=
  (s.cores.flatMap fun e => e.2.cols).find? fun e => s.collNamed m m.rank (s.partOf e.agent) e

/-- That collective is saved in a frame, so that the answer waits for it (14 R335, 15 R349, R355). -/
def State.collSaved (s : State) (m : Msg) : Bool :=
  s.saved.any fun v => v.cols.any fun e => s.collNamed m m.rank v.party.task.part e

/-- ROILO_WRITE_ACK (15 R348): of an RBLK.put, or of a unit of a collective's contribution, which it shows to be delivered. -/
def execRoiloWriteAck (msg : Nat) (s : State) : Host.Outcome State Fault Refusal :=
  match s.arrived msg 3 with
  | none => .next s
  | some m =>
    if !m.payload.isEmpty then
      match s.collOf m with
      | some e => runEvent e.agent (do
          dropMsg msg
          modCol (coreOf e.agent) e.uid fun x => { x with acked := (m.addr.toNat * 2 ^ 40 + m.offset) :: x.acked }) s
      | none => if s.collSaved m then .next s else runEvent 0 (dropMsg msg) s
    else
      match s.findCol m.tag with
      | some e => runEvent e.agent (do
          dropMsg msg
          if e.waits then landCol e) s
      | none => if s.colSaved m.tag then .next s else runEvent 0 (dropMsg msg) s

/-- What follows the group in a collective's message. -/
def Msg.body (m : Msg) (e : ColOp) : List Byte := m.payload.drop (groupKey e.group).length

/-- A rank meets: its record agrees, or it is refused and the collective fails (15 R348, R355). -/
def meetRank (m : Msg) (e : ColOp) : M Unit :=
  if m.body e == e.digest then modCol (coreOf e.agent) e.uid fun x => { x with met := x.met ++ [m.rank] }
  else do
    modify fun s => s.send m.chip (m.collNak s none)
    failCol e ⟨.queueState, 0, BitVec.ofNat 64 e.coll.tag, true⟩

/-- A message of a collective for which no partition is enabled is refused (15 R348); any other waits for its collective. -/
def refuseColl (msg : Nat) (m : Msg) (s : State) : Host.Outcome State Fault Refusal :=
  if (s.jobPart m).isSome then .next s
  else runEvent 0 (do
    dropMsg msg
    modify fun s => s.send m.chip (m.collNak s (some (.queueState, 0)))) s

/-- ROILO_RDV (15 R355): a message for a collective not yet issued here waits. -/
def execRoiloRdv (msg : Nat) (s : State) : Host.Outcome State Fault Refusal :=
  match s.arrived msg 4 with
  | none => .next s
  | some m =>
    match s.collFor m with
    | some e =>
      if e.met.contains m.rank then .next s
      else runEvent e.agent (do
        dropMsg msg
        meetRank m e) s
    | none => refuseColl msg m s

/-- ROILO_CDATA (15 R354): a unit of a contribution arrives, and is acknowledged. -/
def execRoiloCdata (msg : Nat) (s : State) : Host.Outcome State Fault Refusal :=
  match s.arrived msg 5 with
  | none => .next s
  | some m =>
    match s.collFor m with
    | none => refuseColl msg m s
    | some e =>
      if !e.met.contains m.rank then .next s
      else runEvent e.agent (do
        dropMsg msg
        modCol (coreOf e.agent) e.uid fun x => { x with got := Sparse.put x.got (m.rank * 2 ^ 40 + m.offset) (m.body e) }
        modify fun s => s.send m.chip { m.answer s 3 with payload := groupKey e.group }) s

/-- ROILO_NAK (15 R349). -/
def execRoiloNak (msg : Nat) (s : State) : Host.Outcome State Fault Refusal :=
  match s.arrived msg 6 with
  | none => .next s
  | some m =>
    if !m.payload.isEmpty then
      match s.collOf m with
      | some e => runEvent e.agent (do
          dropMsg msg
          failCol e (e.refused m)) s
      | none => if s.collSaved m then .next s else runEvent 0 (dropMsg msg) s
    else
      match s.findCol m.tag with
      | some e => runEvent e.agent (do
          dropMsg msg
          if e.waits then failCol e (e.refused m)) s
      | none =>
        if s.colSaved m.tag then .next s
        else runEvent 0 (do
          dropMsg msg
          modify fun s => s.answerRemote m.tag (.error (m.cause.getD (.queueState, 0)))) s

/-- TRANSPORT_TIMEOUT (15 R349): no delivery in the time of FABCFG.TMO. -/
def execTransportTimeout (uid : Nat) (s : State) : Host.Outcome State Fault Refusal :=
  match s.findCol uid with
  | some e =>
    if (e.waits || (e.kind == 3 && e.remote && !(e.full && e.delivered))) && !s.dry e.agent uid then runEvent e.agent (failCol e e.lost) s else .next s
  | none =>
    if s.remotes.any fun r => r.uid == uid && r.answer.isNone then .next (s.answerRemote uid (.error (.queueState, 0))) else .next s

end Sys2Proof.Machine
end

