-- ==== Sys2Proof/Machine/Complete.lean ====
section
/-! DEFINITION. The completion of engine operations (spec/03 R62 to R65, spec/04 R93): the last act of a counted operation, by its
name or as the oldest of its class. -/

namespace Sys2Proof.Machine

/-- A copy whose every byte is written lands (03 R62). -/
def landCopy (e : Copy) : M Unit := if e.trav.total ≤ e.next then moveElements (coreOf e.agent) e.uid 1 else pure ()

/-- A camp operation of a name is performed, or an ATTN without keys is done (10 R236, 11 R276). -/
def completeCamp (c uid : Nat) (s : State) : Host.Outcome State Fault Refusal :=
  match s.campOp c uid with
  | none => .next s
  | some o => if o.moves then runEvent o.agent (performCamp c o) s else execAttnBlockDone c uid s

/-- An operation of an agent goes to its end, if it stands before it. -/
def completeOp (k uid : Nat) (s : State) : Host.Outcome State Fault Refusal :=
  let x := s.core (coreOf k)
  let a := s.agent k
  if (s.partyOf k).halted then .next s
  else if a.far.any fun o => o.uid == uid then .next (s.drainFar k fun o => o.uid == uid)
  else if a.flights.any fun f => f.uid == uid && f.known then runEvent k (landRead k uid) s
  else
    match x.copies.find? fun (e : Copy) => e.uid == uid, x.gathers.find? fun (e : Gather) => e.uid == uid,
      x.appends.find? fun (e : Append) => e.uid == uid, x.cols.find? fun (e : ColOp) => e.uid == uid with
    | some e, _, _, _ => runEvent k (landCopy e) s
    | none, some e, _, _ => runEvent k (moveGather e) s
    | none, none, some e, _ => runEvent k (runAppend e) s
    | none, none, none, some e => runEvent k (moveCol e) s
    | none, none, none, none => completeCamp (campOf (coreOf k)) uid s

/-- OUTSTANDING_COMPLETE (03 R63): the oldest operation of a class that is not yet complete. -/
def execOutstandingComplete (agent : Nat) (cls : EngClass) (s : State) : Host.Outcome State Fault Refusal :=
  match (s.agent agent).ops.find? fun o => o.cls == cls && !o.done with
  | none => .next s
  | some o => completeOp agent o.uid s

/-- The agent that counts an operation of a name. -/
def State.ownerOf (s : State) (uid : Nat) : Option Nat :=
  (List.find? (fun (e : Nat × Agent) => e.2.ops.any fun o => o.uid == uid && !o.done) s.agents).map (·.1)

/-- TRANSFER_LANDS (04 R93, 03 R65). -/
def execTransferLands (uid : Nat) (s : State) : Host.Outcome State Fault Refusal :=
  match s.ownerOf uid with
  | none => .next s
  | some k => completeOp k uid s

end Sys2Proof.Machine
end

