-- ==== Sys2Proof/Machine/Hart.lean ====
section
/-! DEFINITION. The operation windows of the base-die harts (spec/15 R341 to R343): the operations, their waits, CANCEL and
completion. -/

namespace Sys2Proof.Machine

/-! ### The caller and the operands -/

/-- Partition of a window. -/
def Hart.part (h : Hart) : Nat := (h.ctx.extractLsb' 0 4).toNat
/-- ASID of a window. -/
def Hart.asid (h : Hart) : Nat := (h.ctx.extractLsb' 4 12).toNat
/-- An operand. -/
def Hart.arg (h : Hart) (i : Nat) : DWord := h.args.getD i 0

/-- The address space of a hart (15 R340, R342): its root, and the root of the second stage for a guest, under the tags of CTX. -/
def State.hartSpace (s : State) (h : Hart) : Space :=
  let guest := (s.part h.part).partcfg.getLsbD 1 && h.mode != .h
  ⟨h.part, h.asid, (h.root.extractLsb' 16 36).toNat * 65536, if guest then some ((h.root2.extractLsb' 16 36).toNat * 65536) else none⟩

/-- The accesses of a hart's operation, by the base-die walker (15 R342). -/
def hartVia (n : Nat) (h : Hart) : M Via := do
  let s ← get
  pure (.hart n (s.hartSpace h) h.mode)

/-- Name under which a hart reads from other chips. -/
def hartWho (n : Nat) : Nat := 2 ^ 33 + n

/-- Identity of a hart as a lock's owner (08 R204): KIND 3, PART and the hart number. -/
def hartOwner (n : Nat) (h : Hart) : DWord × DWord :=
  (BitVec.ofNat 64 (2 ^ 31 + 3 * 2 ^ 29 + h.part * 2 ^ 21), BitVec.ofNat 64 (n * 2 ^ 30))

/-- Bytes of the width that ARG3[0] gives. -/
def Hart.width (h : Hart) : Nat := if (h.arg 3).getLsbD 0 then 8 else 4

/-- The operands ARG0 to ARG3 that the row of a code leaves blank (15 R342); an unlisted code has no row. -/
def blankArgs (code : Nat) : List Nat :=
  match code with
  | 0x00 => [0, 1, 2, 3]
  | 0xE8 | 0xE9 | 0xEB | 0xEC | 0xED | 0xEE | 0xEF | 0xAD => [3]
  | 0xFA => [2, 3]
  | 0xCA | 0xCB => [1, 2, 3]
  | 0xCC | 0xCD | 0xA6 => [2]
  | 0xA5 => [1, 2]
  | _ => []

/-- An operand that must be zero is not: ARG4, or one that the row leaves blank. -/
def Hart.argsReserved (h : Hart) (code : Nat) : Bool := (4 :: blankArgs code).any fun i => h.arg i != 0

/-- The function codes of an operation (15 R342); an unlisted code has none. -/
def fnAllowed (code fn : Nat) : Bool :=
  match code with
  | 0xEA => decide (fn ≤ 1)
  | 0xEE => decide (fn ≤ 2)
  | 0xAD => fn == 3
  | 0xE8 | 0xE9 | 0xEB | 0xEC | 0xED | 0xEF | 0xD5 | 0xD6 | 0xFA | 0xCA | 0xCB | 0xCC | 0xCD | 0xA5 | 0xA6 | 0x00 => fn == 0
  | _ => false

/-! ### What an operation comes to -/

/-- Done with a result, or waiting with what it has to deliver. -/
inductive HartEnd where
  | done (r : DWord)
  | waits (w : Wait) (pend : DWord)
  deriving DecidableEq, Repr

/-- A status or an index as a result. -/
def doneNat (n : Nat) : M HartEnd := pure (.done (BitVec.ofNat 64 n))

/-- SQNEW: the image is read from a global address. -/
def hartNew (v : Via) (h : Hart) : M HartEnd := do
  checkAlign (h.arg 1) 64
  let bs ← viaRead v (h.arg 1) 64 .load
  newSequence v (h.arg 0) bs (h.arg 1)
  doneNat 0

/-- SQRSV. -/
def hartReserve (v : Via) (h : Hart) : M HartEnd := do
  let d ← openPlain v (h.arg 0) .atomic
  let r ← reserveSlots v d (loWord (h.arg 1)).toNat d.limit
  pure (.done (reserveWord r))

/-- SQST: the data are read from a global address. -/
def hartStore (v : Via) (h : Hart) (fn : Nat) : M HartEnd := do
  let n := 16 * ((h.arg 3).extractLsb' 0 13).toNat
  let off := ((h.arg 3).extractLsb' 24 24).toInt
  let bs ← viaRead v (h.arg 2) n .load
  storeSlot v (h.arg 0) (loWord (h.arg 1)).toNat off bs (fn == 1) 0
  doneNat 0

/-- SQCMT. -/
def hartCommit (v : Via) (h : Hart) : M HartEnd := do
  let d ← openPlain v (h.arg 0) .atomic
  let r ← commitSlots v d (loWord (h.arg 1)).toNat (loWord (h.arg 2)).toNat
  settleParked
  doneNat r

/-- SQABN. -/
def hartAbandon (v : Via) (h : Hart) : M HartEnd := do
  let d ← openPlain v (h.arg 0) .atomic
  let r ← abandonSlots v d (loWord (h.arg 1)).toNat (loWord (h.arg 2)).toNat
  doneNat r

/-- SQFRK. -/
def hartFork (v : Via) (n : Nat) (h : Hart) : M HartEnd := do
  let r ← forkSequence v (hartWho n) (h.arg 0) (h.arg 1) (loWord (h.arg 2)).toNat
  doneNat r

/-- SQLEN. -/
def hartLength (v : Via) (h : Hart) (fn : Nat) : M HartEnd := do
  let w ← lengthField v (h.arg 0) (BitVec.ofNat 3 fn)
  pure (.done w)

/-- SQFRE. -/
def hartFree (v : Via) (h : Hart) : M HartEnd := do
  let r ← freeSequence v (h.arg 0)
  doneNat r

/-- The record of an APND is committed, or its commit waits. -/
def hartSettle (v : Via) (h : Hart) (seq : Nat) : M HartEnd := do
  let d ← openDesc v (h.arg 0) .load
  let ok ← commitRecord v (h.arg 0) seq (recordSlots d (loWord (h.arg 2)).toNat)
  if ok then doneNat seq else pure (.waits .room (BitVec.ofNat 64 seq))

/-- APND: the record is written and committed before the operation is done. -/
def hartAppend (v : Via) (h : Hart) : M HartEnd := do
  let len := (loWord (h.arg 2)).toNat
  let _ ← openDurable v (h.arg 0)
  require (decide (len ≤ 65536)) .illegalOperand 0
  checkAlign (h.arg 1) 16
  let (d, r) ← reserveRecord v (h.arg 0) len
  match r with
  | .error c => pure (.done (reserveWord (.error c)))
  | .ok seq => do
    let bs ← viaRead v (h.arg 1) len .load
    writeRecord v (h.arg 0) ((h.arg 3).extractLsb' 0 16).toNat seq (recordSlots d len) bs
    hartSettle v h seq

/-- A durable length is waited for. -/
def hartDurable (i upto_ : Nat) : M HartEnd := do
  let s ← get
  match s.logs[i]? with
  | none => raise .queueState 0
  | some g =>
    if upto_ ≤ g.dslot then doneNat 0
    else do
      require (!g.err) .queueState g.word
      pure (.waits (.durable i upto_) 0)

/-- AFNC. -/
def hartFence (v : Via) (h : Hart) : M HartEnd := do
  let d ← openDesc v (h.arg 0) .load
  let s ← get
  match s.logOf h.part (h.arg 0) with
  | none => raise .queueState (h.arg 0)
  | some (i, _) => do
    require d.dur .queueState (h.arg 0)
    hartDurable i d.rt

/-- LAUNCH: the record is read from a global address. -/
def hartRecord (v : Via) (h : Hart) : M HartEnd := do
  checkAlign (h.arg 1) 16
  let bs ← viaRead v (h.arg 1) 128 .load
  let (r, parked) ← launchRecord v (h.arg 0) bs
  match parked with
  | some u => pure (.waits (.camp u) r)
  | none => pure (.done r)

/-- Place of a lock or word, its address a multiple of a size. -/
def hartPlace (v : Via) (h : Hart) (n : Nat) (acc : Access) : M Nat := do
  checkAlign (h.arg 0) n
  let ph ← v.translate (h.arg 0) acc
  let _ ← homeRead (h.arg 0) ph.pa n
  pure ph.pa

/-- QLOCK: RES reports the grant with 1. -/
def hartLock (v : Via) (n : Nat) (h : Hart) : M HartEnd := do
  let pa ← hartPlace v h 16 .atomic
  let r ← lockAcquire pa (.hart n) (hartOwner n h)
  match r with
  | .acquired => doneNat 1
  | .owned => raise .lockState (h.arg 0)
  | .queued => pure (.waits .qlock 0)
  | .full => waitFor (.slice pa true)

/-- QUNLK. -/
def hartUnlock (v : Via) (n : Nat) (h : Hart) : M HartEnd := do
  let pa ← hartPlace v h 16 .atomic
  let ok ← lockRelease pa (hartOwner n h)
  require ok .lockState (h.arg 0)
  doneNat 0

/-- The word of LDF and WWAIT at its home slice. -/
def hartWord (v : Via) (h : Hart) : M DWord := do
  checkAlign (h.arg 0) h.width
  let bs ← viaRead v (h.arg 0) h.width .load
  pure (dwordOf bs)

/-- WWAIT: it returns at once where the word differs, and else sleeps armed; where the slice can record no more, the window sends it again,
and it compares anew (15 R344). -/
def hartWait (v : Via) (n : Nat) (h : Hart) : M HartEnd := do
  let w ← hartWord v h
  if w != (h.arg 1 &&& BitVec.ofNat 64 (2 ^ (8 * h.width) - 1)) then pure (.done w)
  else do
    let ph ← v.translate (h.arg 0) .load
    let s ← get
    if s.armRoom (sliceOf ph.pa) then do
      modify fun s => s.arm h.part h.asid (h.arg 0) (sliceOf ph.pa) (.hart n)
      pure (.waits .wwait 0)
    else waitFor (.slice ph.pa false)

/-- WWAKE. -/
def hartWake (v : Via) (h : Hart) : M HartEnd := do
  checkAlign (h.arg 0) h.width
  let ph ← v.translate (h.arg 0) .load
  modify fun s => s.wake (sliceOf ph.pa) h.part h.asid (h.arg 0) (loWord (h.arg 1)).toNat
  doneNat 0

/-- LDF. -/
def hartLoad (v : Via) (h : Hart) : M HartEnd := do
  let w ← hartWord v h
  pure (.done w)

/-- STF. -/
def hartPut (v : Via) (h : Hart) : M HartEnd := do
  checkAlign (h.arg 0) h.width
  viaWrite v (h.arg 0) (bytesOf h.width (h.arg 1))
  doneNat 0

/-- The physical ranges of a virtual range of a hart; pages without a translation are left out. -/
def hartRanges (s : State) (k : Nat) (h : Hart) (va : DWord) (n : Nat) : List (Nat × Nat) :=
  (List.range (ceilDiv (va.toNat % 65536 + n) 65536)).filterMap fun i =>
    let from_ := Nat.max va.toNat ((va.toNat / 65536 + i) * 65536)
    let upto_ := Nat.min (va.toNat + n) ((va.toNat / 65536 + i + 1) * 65536)
    let at_ := BitVec.ofNat 64 from_
    if !canonical at_ then none
    else
      let t := (s.hart k).tlb
      match s.lookup t (s.hartSpace h) (va55 at_), walk s false t.runs (s.hartSpace h) none (va55 at_) with
      | some e, _ | none, .ok (e, _, _) => some (e.pa + (va55 at_ - e.va), upto_ - from_)
      | none, .error _ => none

/-- CCTL.IINV over a scope of a core that ARG2 names; every core acknowledges in the same step. -/
def hartInvalidate (n : Nat) (h : Hart) : M HartEnd := do
  require (h.mode != .u) .privilege 0
  let core := ((h.arg 2).extractLsb' 16 9).toNat
  require (decide (core < coreCount)) .illegalOperand 0
  modify fun s => s.dropFetched core ((h.arg 2).extractLsb' 0 2).toNat (hartRanges s n h (h.arg 0) (loWord (h.arg 1)).toNat)
  doneNat 0

/-- The effect of an operation by its code (15 R342). -/
def hartEffect (n : Nat) (h : Hart) (code fn : Nat) : M HartEnd := do
  let v ← hartVia n h
  match code with
  | 0xE8 => hartNew v h
  | 0xE9 => hartReserve v h
  | 0xEA => hartStore v h fn
  | 0xEB => hartCommit v h
  | 0xEC => hartAbandon v h
  | 0xED => hartFork v n h
  | 0xEE => hartLength v h fn
  | 0xEF => hartFree v h
  | 0xD5 => hartAppend v h
  | 0xD6 => hartFence v h
  | 0xFA => hartRecord v h
  | 0xCA => hartLock v n h
  | 0xCB => hartUnlock v n h
  | 0xCC => hartWait v n h
  | 0xCD => hartWake v h
  | 0xA5 => hartLoad v h
  | 0xA6 => hartPut v h
  | _ => hartInvalidate n h

/-! ### Starting, going on and completing -/

/-- STS of an operation in progress, done, and ended by a fault (15 R341). -/
def stsBusy : DWord := 0x2000000000000000
def stsDone : DWord := 0x8000000000000000
def stsFault (c : Cause) (sub : BitVec 4) : DWord :=
  0xC000000000000000 ||| (c.code.setWidth 64 <<< 8) ||| (sub.setWidth 64 <<< 4)

/-- An operation completes: the window writes RES and then STS. -/
def State.hartEnds (s : State) (n : Nat) (res sts : DWord) : State :=
  let h := s.hart n
  (s.setHart n { h with op := none, res := res, sts := sts, wait := none, woken := false, pend := 0 }).dropAnswers (hartWho n)

/-- A hart as an operation in progress found it. -/
def Hart.during (h : Hart) (op : HartCall) : Hart :=
  { h with args := op.args, ctx := op.ctx, root := op.root, root2 := op.root2, mode := op.mode }

/-- What comes of an effect of an operation: done, waiting, faulted, or to be tried again. -/
def runHart (n : Nat) (m : M HartEnd) (s : State) : Host.Outcome State Fault Refusal :=
  match m s with
  | .ok (.done r, s') => .next (s'.hartEnds n r stsDone)
  | .ok (.waits w r, s') => .next (s'.setHart n { s'.hart n with wait := some w, pend := r })
  | .error (.trap t) => .next (s.hartEnds n 0 (stsFault t.cause t.sub))
  | .error (.fault f) => .fault f
  | .error (.remote who p chip va len) => .next (s.askRemote who p chip va len).1
  | .error (.wait (.flash line)) => .next (s.startFlash line)
  | .error _ => .next s

/-- A write of OP by a hart starts an operation of a window, through the root by which that hart translates; one in progress ignores it
(15 R342). -/
def startHart (by_ n code fn : Nat) (s : State) : Host.Outcome State Fault Refusal :=
  let h := s.hart n
  let w := s.hart by_
  if h.op.isSome then .next s
  else if 8 ≤ fn || h.argsReserved code then .next (s.hartEnds n 0 (stsFault .reservedField 0))
  else if !fnAllowed code fn then .next (s.hartEnds n 0 (stsFault .illegalInstruction 0))
  else
    let op : HartCall := ⟨code, fn, h.args, h.ctx, w.root, w.root2, w.mode⟩
    let h : Hart := { h with op := some op, sts := stsBusy, wait := none, woken := false, pend := 0 }
    runHart n (hartEffect n (h.during op) code fn) (s.setHart n h)

/-- HART_SQNEW (15 R342). -/
def execHartSqnew (hart fn : Nat) (s : State) : Host.Outcome State Fault Refusal := startHart hart hart 0xE8 fn s
/-- HART_SQRSV. -/
def execHartSqrsv (hart fn : Nat) (s : State) : Host.Outcome State Fault Refusal := startHart hart hart 0xE9 fn s
/-- HART_SQST. -/
def execHartSqst (hart fn : Nat) (s : State) : Host.Outcome State Fault Refusal := startHart hart hart 0xEA fn s
/-- HART_SQCMT. -/
def execHartSqcmt (hart fn : Nat) (s : State) : Host.Outcome State Fault Refusal := startHart hart hart 0xEB fn s
/-- HART_SQABN. -/
def execHartSqabn (hart fn : Nat) (s : State) : Host.Outcome State Fault Refusal := startHart hart hart 0xEC fn s
/-- HART_SQFRK. -/
def execHartSqfrk (hart fn : Nat) (s : State) : Host.Outcome State Fault Refusal := startHart hart hart 0xED fn s
/-- HART_SQLEN. -/
def execHartSqlen (hart fn : Nat) (s : State) : Host.Outcome State Fault Refusal := startHart hart hart 0xEE fn s
/-- HART_SQFRE. -/
def execHartSqfre (hart fn : Nat) (s : State) : Host.Outcome State Fault Refusal := startHart hart hart 0xEF fn s
/-- HART_APND. -/
def execHartApnd (hart fn : Nat) (s : State) : Host.Outcome State Fault Refusal := startHart hart hart 0xD5 fn s
/-- HART_AFNC. -/
def execHartAfnc (hart fn : Nat) (s : State) : Host.Outcome State Fault Refusal := startHart hart hart 0xD6 fn s
/-- HART_LAUNCH. -/
def execHartLaunch (hart fn : Nat) (s : State) : Host.Outcome State Fault Refusal := startHart hart hart 0xFA fn s
/-- HART_QLOCK. -/
def execHartQlock (hart fn : Nat) (s : State) : Host.Outcome State Fault Refusal := startHart hart hart 0xCA fn s
/-- HART_QUNLK. -/
def execHartQunlk (hart fn : Nat) (s : State) : Host.Outcome State Fault Refusal := startHart hart hart 0xCB fn s
/-- HART_WWAIT. -/
def execHartWwait (hart fn : Nat) (s : State) : Host.Outcome State Fault Refusal := startHart hart hart 0xCC fn s
/-- HART_WWAKE. -/
def execHartWwake (hart fn : Nat) (s : State) : Host.Outcome State Fault Refusal := startHart hart hart 0xCD fn s
/-- HART_LDF. -/
def execHartLdf (hart fn : Nat) (s : State) : Host.Outcome State Fault Refusal := startHart hart hart 0xA5 fn s
/-- HART_STF. -/
def execHartStf (hart fn : Nat) (s : State) : Host.Outcome State Fault Refusal := startHart hart hart 0xA6 fn s
/-- HART_CCTL_IINV. -/
def execHartCctlIinv (hart fn : Nat) (s : State) : Host.Outcome State Fault Refusal := startHart hart hart 0xAD fn s

/-- An operation in progress goes on: from what it waits for, or by its effect again. -/
def hartGoesOn (n : Nat) (h : Hart) (op : HartCall) : M HartEnd := do
  let s ← get
  let h := h.during op
  let v ← hartVia n h
  match h.wait with
  | some .qlock => if h.woken then doneNat 1 else waitFor .qlock
  | some .wwait => if h.woken then hartLoad v h else waitFor .wwait
  | some (.camp u) => if s.parked.any fun p => p.uid == u then waitFor (.camp u) else pure (.done h.pend)
  | some (.durable i t) => hartDurable i t
  | some .room => hartSettle v h h.pend.toNat
  | _ => hartEffect n h op.code op.fn

/-- HART_OP_COMPLETE (15 R342). -/
def execHartOpComplete (hart : Nat) (s : State) : Host.Outcome State Fault Refusal :=
  let h := s.hart hart
  match h.op with
  | none => .next s
  | some op => runHart hart (hartGoesOn hart h op) s

/-- A window operation that CANCEL withdraws: a WWAIT or QLOCK that has neither been woken nor granted (15 R342). -/
def Hart.cancellable (h : Hart) : Bool := h.op.any (fun op => op.code == 0xCA || op.code == 0xCC) && !h.woken

/-- CANCEL with its FN (15 R342): a pending WWAIT or QLOCK is withdrawn; one already woken or granted completes as it would, and any other
operation in progress goes on. A CANCEL that is not performed shows its fault, and an operation in progress goes on all the same
(assumption log 102). -/
def cancelHart (n fn : Nat) (s : State) : Host.Outcome State Fault Refusal :=
  let h := s.hart n
  let refuse := fun (c : Cause) => Host.Outcome.next (s.setHart n { h with res := 0, sts := stsFault c 0 })
  if 8 ≤ fn || h.argsReserved 0 then refuse .reservedField
  else if fn != 0 then refuse .illegalInstruction
  else if h.cancellable then
    let s : State := { s with
      waits := s.waits.filter fun e => e.who != .hart n
      locks := s.locks.filter fun e => e.who != .hart n }
    .next (s.hartEnds n 0 stsDone)
  else if h.op.isSome then .next s
  else .next (s.hartEnds n 0 stsDone)

/-- CANCEL (15 R342). -/
def execCancel (hart : Nat) (s : State) : Host.Outcome State Fault Refusal := cancelHart hart 0 s

/-! ### A hart's own accesses (03 R74, 15 R340, R341, 17 R372) -/

/-- Mode of a level. -/
def HartLevel.mode : Sys2Proof.HartLevel → Mode
  | .user => .u | .supervisor => .s | .machine => .h

/-- A hart makes an access at a level and through roots of its own. -/
def State.runsAs (s : State) (n : Nat) (r : HartRun) : State :=
  s.setHart n { s.hart n with mode := HartLevel.mode r.level, root := r.root, root2 := r.root2, trap := none }

/-- Physical address of a hart's access: its own in machine mode, else through its tables; a page fault, or for an entry that cannot be read
an access fault. -/
def State.hartPlace (s : State) (n : Nat) (va : DWord) (acc : Access) : Except HartFault (Nat × State) :=
  let h := s.hart n
  let store := acc.writes
  if h.mode == .h then .ok (va.toNat, s)
  else
    match translateHart n true (s.hartSpace h) h.mode va acc s with
    | .ok (ph, s') => .ok (ph.pa, s')
    | .error (.trap t) =>
      if t.cause == .eccUncorrectable then .error (if store then .storeAccess else .loadAccess)
      else .error (if store then .storePage else .loadPage)
    | .error _ => .error (if store then .storeAccess else .loadAccess)

/-- The register space answers a hart's access: 8 bytes, naturally aligned, in machine mode, or in a window (17 R372). -/
def State.spaceAllows (s : State) (n pa len : Nat) : Bool := len == 8 && pa % 8 == 0 && ((s.hart n).mode == .h || inWindow pa)

/-- Memory takes a store of a hart at an address: flash does not (15 R340). -/
def storeFault (pa len : Nat) : Option HartFault :=
  match tierOf pa, tierOf (pa + len - 1) with
  | some 2, _ => some .storePage
  | some a, some b => if a < 2 && b < 2 then none else some .storeAccess
  | _, _ => some .storeAccess

/-- A store of a hart to memory, line by line, each at its home slice (03 R74). -/
def State.hartPuts (s : State) (n : Nat) (va : DWord) (bs : List Byte) : Except HartFault State :=
  (lineChunks va.toNat bs.length).foldlM (fun s c => do
    let (pa, s) ← s.hartPlace n (va + BitVec.ofNat 64 c.1) .store
    match storeFault pa c.2 with
    | some f => .error f
    | none => pure (s.writeHome pa ((bs.drop c.1).take c.2))) s

/-- A hart's access takes a RISC-V trap. -/
def State.hartTraps (s : State) (n : Nat) (f : HartFault) (va : DWord) : State := s.setHart n { s.hart n with trap := some (f, va) }

/-- Memory gives a load of a hart its bytes, but not from an address outside the tiers, or from a sector or flash line that cannot be
corrected (02 R14, R21, R22; the access fault is the hart's own, assumption log 80). -/
def State.loadFaults (s : State) (pa len : Nat) : Bool :=
  (tierOf pa).isNone || (tierOf (pa + len - 1)).isNone || s.eccBad pa len || (tierOf pa == some 2 && s.badFlash.contains (pa / 128))

/-- Bytes that a hart loads from memory, line by line, each as its home slice has it (15 R340). -/
def State.hartGets (s : State) (n : Nat) (va : DWord) (len : Nat) : Except HartFault (List Byte × State) :=
  (lineChunks va.toNat len).foldlM (fun (x : List Byte × State) c => do
    let (pa, s) ← x.2.hartPlace n (va + BitVec.ofNat 64 c.1) .load
    if s.loadFaults pa c.2 then .error .loadAccess else pure (x.1 ++ s.mem.readN pa c.2, s)) ([], s)

/-- What a hart's load of bytes brings: from the register space, or from memory (15 R340, 17 R372). -/
def State.hartLoads (s : State) (n : Nat) (va : DWord) (len : Nat) : Except HartFault (List Byte × State) := do
  let (pa, t) ← s.hartPlace n va .load
  if registerSpace ≤ pa then
    if t.spaceAllows n pa len then pure (leBytes 8 (t.readSpace pa).toNat, t) else .error .loadAccess
  else s.hartGets n va len

/-- A hart's load: the bytes that it brings, or the RISC-V trap that it takes. -/
def hartReads (n : Nat) (va : DWord) (len : Nat) (s : State) : Host.Outcome State Fault Refusal :=
  match s.hartLoads n va len with
  | .error f => .next (s.hartTraps n f va)
  | .ok (bs, s') => .next (s'.setHart n { s'.hart n with loaded := bs })

/-! ### Writes through the register space -/

/-- What a hart's write of OP with a value starts (15 R341, R342). -/
def writeOp (by_ n : Nat) (w : DWord) (s : State) : Host.Outcome State Fault Refusal :=
  let code := (w.extractLsb' 0 8).toNat
  let fn := w.toNat / 256
  if code == 0 then cancelHart n fn s else startHart by_ n code fn s

/-- The window whose OP stands at an address. -/
def windowOp (pa : Nat) : Option Nat :=
  let off := pa - windowSpace
  if inWindow pa && off % 65536 == 0x30 then some (off / 65536) else none

/-- A hart's store of 8 bytes to the register space. -/
def spaceStore (n pa : Nat) (value : DWord) (s : State) : Host.Outcome State Fault Refusal :=
  match windowOp pa with
  | some m => writeOp n m value s
  | none => runService (writeSpace (s.hart n).mode pa value) s

/-- A hart's store: to the register space, or to memory. -/
def hartStores (n : Nat) (va : DWord) (bs : List Byte) (s : State) : Host.Outcome State Fault Refusal :=
  match s.hartPlace n va .store with
  | .error f => .next (s.hartTraps n f va)
  | .ok (pa, s') =>
    if registerSpace ≤ pa then
      if s'.spaceAllows n pa bs.length then spaceStore n pa (dwordOf bs) s' else .next (s'.hartTraps n .storeAccess va)
    else
      match s'.hartPuts n va bs with
      | .error f => .next (s'.hartTraps n f va)
      | .ok s' => .next s'

/-- CPU_STORE (03 R74, 15 R340): by a hart as it runs then, performed at the home slice; one to flash takes the RISC-V store page fault, and
one outside memory an access fault, and neither changes memory. A site that reads is a load (15 R340, 17 R372). -/
def execCpuStore (site : HartSite) (bytes : List Byte) (s : State) : Host.Outcome State Fault Refusal :=
  match site.reads with
  | none => hartStores site.hart site.addr bytes (s.runsAs site.hart site.run)
  | some len => hartReads site.hart site.addr len (s.runsAs site.hart site.run)

/-- WRITE_REGISTER (14 R328, 15 R341, 17 R372): an 8-byte store of a hart, or a configuration record's write. -/
def execWriteRegister (site : RegisterSite) (value : DWord) (s : State) : Host.Outcome State Fault Refusal :=
  match site.by_ with
  | some (n, run) => hartStores n site.addr (bytesOf 8 value) (s.runsAs n run)
  | none => runService (writeDefault (site.addr.toNat, value)) s

end Sys2Proof.Machine
end

