-- ==== Sys2Proof/Machine/Platform.lean ====
section
/-! DEFINITION. The platform (spec/17): boot and configuration records, the cairn list, the security block, throttling and heat;
soft errors (spec/02 R22), CPU stores (spec/03 R74) and background requantisation (spec/03 R71). -/

namespace Sys2Proof.Machine

/-! ### SM3 (17 R378, R381; the function is the published standard's, assumption log 10) -/

/-- Round constant. -/
def sm3T (j : Nat) : Word := if j < 16 then 0x79CC4519 else 0x7A879D8A
/-- Boolean function of A, B, C. -/
def sm3Ff (j : Nat) (x y z : Word) : Word := if j < 16 then x ^^^ y ^^^ z else (x &&& y) ||| (x &&& z) ||| (y &&& z)
/-- Boolean function of E, F, G. -/
def sm3Gg (j : Nat) (x y z : Word) : Word := if j < 16 then x ^^^ y ^^^ z else (x &&& y) ||| (~~~x &&& z)
/-- Permutation of the compression. -/
def sm3P0 (x : Word) : Word := x ^^^ x.rotateLeft 9 ^^^ x.rotateLeft 17
/-- Permutation of the expansion. -/
def sm3P1 (x : Word) : Word := x ^^^ x.rotateLeft 15 ^^^ x.rotateLeft 23

/-- The 68 words of a block, from its 16: the list holds them newest first. -/
def sm3Expand : Nat → List Word → List Word
  | 0, ws => ws
  | n + 1, ws =>
    let w := fun (i : Nat) => ws.getD (i - 1) 0
    sm3Expand n ((sm3P1 (w 16 ^^^ w 9 ^^^ (w 3).rotateLeft 15) ^^^ (w 13).rotateLeft 7 ^^^ w 6) :: ws)

/-- The chaining value: eight words. -/
structure Sm3 where
  a : Word
  b : Word
  c : Word
  d : Word
  e : Word
  f : Word
  g : Word
  h : Word
  deriving DecidableEq, Repr

/-- The first chaining value. -/
def Sm3.first : Sm3 :=
  ⟨0x7380166F, 0x4914B2B9, 0x172442D7, 0xDA8A0600, 0xA96F30BC, 0x163138AA, 0xE38DEE4D, 0xB0FB0E4E⟩

/-- One round. -/
def Sm3.round (v : Sm3) (j : Nat) (w w4 : Word) : Sm3 :=
  let ss1 := (v.a.rotateLeft 12 + v.e + (sm3T j).rotateLeft (j % 32)).rotateLeft 7
  let ss2 := ss1 ^^^ v.a.rotateLeft 12
  let tt1 := sm3Ff j v.a v.b v.c + v.d + ss2 + (w ^^^ w4)
  let tt2 := sm3Gg j v.e v.f v.g + v.h + ss1 + w
  ⟨tt1, v.a, v.b.rotateLeft 9, v.c, sm3P0 tt2, v.e, v.f.rotateLeft 19, v.g⟩

/-- The chaining values combined word by word. -/
def Sm3.mix (x y : Sm3) : Sm3 :=
  ⟨x.a ^^^ y.a, x.b ^^^ y.b, x.c ^^^ y.c, x.d ^^^ y.d, x.e ^^^ y.e, x.f ^^^ y.f, x.g ^^^ y.g, x.h ^^^ y.h⟩

/-- One block of 64 bytes. -/
def Sm3.block (v : Sm3) (bs : List Byte) : Sm3 :=
  let word := fun (i : Nat) => BitVec.ofNat 32 (leNat ((bs.drop (4 * i)).take 4).reverse)
  let ws := (sm3Expand 52 ((List.range 16).map word).reverse).reverse
  ((List.range 64).foldl (fun x j => x.round j (ws.getD j 0) (ws.getD (j + 4) 0)) v).mix v

/-- The bytes of a value, the highest first. -/
def bigBytes (n x : Nat) : List Byte := (leBytes n x).reverse

/-- SM3 of a message. -/
def sm3 (m : List Byte) : List Byte :=
  let pad := m ++ [0x80] ++ List.replicate ((119 - m.length % 64) % 64) 0 ++ bigBytes 8 (8 * m.length)
  let v := (List.range (pad.length / 64)).foldl (fun x i => x.block ((pad.drop (64 * i)).take 64)) Sm3.first
  [v.a, v.b, v.c, v.d, v.e, v.f, v.g, v.h].flatMap fun w => bigBytes 4 w.toNat

/-! ### SM2 (17 R378 to R380; the scheme is the published standard's, assumption log 10) -/

/-- The prime of the field. -/
def sm2P : Nat := 0xFFFFFFFEFFFFFFFFFFFFFFFFFFFFFFFFFFFFFFFF00000000FFFFFFFFFFFFFFFF
/-- The constant term of the curve; its linear term is -3. -/
def sm2B : Nat := 0x28E9FA9E9D9F5E344D5A9E4BCF6509A7F39789F515AB8F92DDBCBD414D940E93
/-- The order of the base point. -/
def sm2N : Nat := 0xFFFFFFFEFFFFFFFFFFFFFFFFFFFFFFFF7203DF6B21C6052B53BBF40939D54123
/-- The base point. -/
def sm2G : Nat × Nat :=
  (0x32C4AE2C1F1981195F9904466A39C9948FE30BBFF2660BE1715A4589334C74C7,
    0xBC3736A2F4F6779C59BDCEE36B692153D0A9877CC62A474002DF32E52139F0A0)

/-- A power in the field, by the low `n` bits of an exponent. -/
def sm2Pow (x : Nat) : Nat → Nat → Nat
  | 0, _ => 1
  | n + 1, e =>
    let y := sm2Pow (x * x % sm2P) n (e / 2)
    if e % 2 = 1 then x * y % sm2P else y

/-- A quotient in the field. -/
def sm2Div (x y : Nat) : Nat := x * sm2Pow y 256 (sm2P - 2) % sm2P

/-- The sum of two points; none is the point at infinity. -/
def sm2Add : Option (Nat × Nat) → Option (Nat × Nat) → Option (Nat × Nat)
  | none, q => q
  | p, none => p
  | some (x1, y1), some (x2, y2) =>
    if x1 = x2 ∧ (y1 + y2) % sm2P = 0 then none
    else
      let m := if x1 = x2 then sm2Div (3 * x1 * x1 + sm2P - 3) (2 * y1) else sm2Div (y2 + sm2P - y1) (x2 + sm2P - x1)
      let x := (m * m + 2 * sm2P - x1 - x2) % sm2P
      some (x, (m * (x1 + sm2P - x) + sm2P - y1) % sm2P)

/-- A multiple of a point, by the low `n` bits of the factor. -/
def sm2Mul (p : Option (Nat × Nat)) : Nat → Nat → Option (Nat × Nat)
  | 0, _ => none
  | n + 1, k =>
    let q := sm2Mul (sm2Add p p) n (k / 2)
    if k % 2 = 1 then sm2Add p q else q

/-- A number from bytes, the highest first. -/
def bigNat (bs : List Byte) : Nat := leNat bs.reverse

/-- The hash that a signature by a key covers: that of the default signer identity, the curve and the key, then the message. -/
def sm2Hash (key msg : List Byte) : Nat :=
  let identity : List Byte := (List.range 16).map fun i => BitVec.ofNat 8 (49 + i % 8)
  let z := sm3 ([0x00, 0x80] ++ identity ++ bigBytes 32 (sm2P - 3) ++ bigBytes 32 sm2B ++ bigBytes 32 sm2G.1 ++ bigBytes 32 sm2G.2 ++ key)
  bigNat (sm3 (z ++ msg))

/-- The bytes are a point of the curve. -/
def sm2Point (key : List Byte) : Bool :=
  let x := bigNat (key.take 32)
  let y := bigNat (key.drop 32)
  key.length == 64 && decide (x < sm2P) && decide (y < sm2P) && y * y % sm2P == (x * x * x + (sm2P - 3) * x + sm2B) % sm2P

/-- A signature (*r*, *s*) of a message verifies under a public key. -/
def sm2Verify (key msg sig : List Byte) : Bool :=
  let r := bigNat (sig.take 32)
  let s := bigNat (sig.drop 32)
  let t := (r + s) % sm2N
  let p := (bigNat (key.take 32), bigNat (key.drop 32))
  sm2Point key && decide (1 ≤ r) && decide (r < sm2N) && decide (1 ≤ s) && decide (s < sm2N) && t != 0 &&
    (sm2Add (sm2Mul (some sm2G) 256 s) (sm2Mul (some p) 256 t)).any fun q => (sm2Hash key msg + q.1) % sm2N == r

/-! ### Boot and configuration records (17 R377 to R380) -/

end Sys2Proof.Machine

namespace Sys2Proof
open Machine

/-- A field of a record (17 R378). -/
def ConfigRecord.field (r : ConfigRecord) (at_ n : Nat) : Nat := leNat ((r.bytes.drop at_).take n)
/-- TYPE. -/
def ConfigRecord.type (r : ConfigRecord) : Nat := r.field 0 2
/-- SEQ. -/
def ConfigRecord.seq (r : ConfigRecord) : Nat := r.field 4 4
/-- LEN: bytes of the body. -/
def ConfigRecord.len (r : ConfigRecord) : Nat := r.field 8 4
/-- KEY: index of the signing key in the key list. -/
def ConfigRecord.key (r : ConfigRecord) : Nat := r.field 12 4
/-- SIG. -/
def ConfigRecord.sig (r : ConfigRecord) : List Byte := (r.bytes.drop 16).take 64
/-- The body. -/
def ConfigRecord.body (r : ConfigRecord) : List Byte := (r.bytes.drop 80).take r.len

/-- The record has the layout of 17 R378: all of its body is there, and bytes 2 and 3 are zero. -/
def ConfigRecord.shaped (r : ConfigRecord) : Bool := decide (80 + r.len ≤ r.bytes.length) && r.field 2 2 == 0

/-- The bytes of a record that its signature covers: bytes 0 to 15, and the body. -/
def ConfigRecord.signedBytes (r : ConfigRecord) : List Byte := r.bytes.take 16 ++ r.body

/-- SIG signs the SM3 digest of these bytes under a public key (17 R378). -/
def ConfigRecord.signedBy (r : ConfigRecord) (key : List Byte) : Bool := r.shaped && sm2Verify key (sm3 r.signedBytes) r.sig

/-- SEQ is no less than the minimum that a key list states for the record's TYPE (17 R379). -/
def ConfigRecord.recent (r k : ConfigRecord) : Bool := decide (Config.keyMinimum k.body r.type ≤ r.seq)

end Sys2Proof

namespace Sys2Proof.Machine

/-- The record with the highest SEQ; of equal ones, the first. -/
def highest (rs : List ConfigRecord) : Option ConfigRecord :=
  rs.foldl (fun b r => match b with
    | some x => if x.seq < r.seq then some r else some x
    | none => some r) none

/-- The key list in force (17 R379): the record of TYPE 5 with the highest SEQ, signed by the root key and not below its own minimum. -/
def keyList (rs : List ConfigRecord) : Option ConfigRecord :=
  highest (rs.filter fun r => r.type == 5 && r.signedBy Config.rootKey && r.recent r)

/-- A record is accepted (17 R379): signed by the root key where it is a key list, else by the key of its index in the key list in force,
and not below the minimum that this list states. -/
def acceptRecord (keys : Option ConfigRecord) (r : ConfigRecord) : Bool :=
  keys.any fun k => r.recent k &&
    if r.type == 5 then r.signedBy Config.rootKey else (Config.listedKey k.body r.key).any r.signedBy

/-- The records that take effect, in the order of their TYPE, and how many are rejected. A record of a TYPE that R378 does not list is
checked as any other and has no effect. -/
def chooseRecords (rs : List ConfigRecord) : List ConfigRecord × Nat :=
  let good := rs.filter (acceptRecord (keyList rs))
  ([5, 1, 2, 3, 4].filterMap fun t => highest (good.filter fun r => r.type == t), rs.length - good.length)

/-- A record takes effect (17 R378): TYPE 1 gives the chip number, TYPE 3 writes registers. The bodies of TYPE 2 and TYPE 4 have no stated
layout and set no register of the spec; they are in force as `applied` holds them (assumption log 21). -/
def applyRecord (r : ConfigRecord) : M Unit := do
  modify fun s =>
    let x := s.platform
    let s : State := { s with platform := { x with
      applied := Sparse.put x.applied r.type r, measured := x.measured ++ [sm3 r.signedBytes] } }
    if r.type == 1 then { s with chip := Config.recordChip r.body % 1024 } else s
  if r.type == 3 then forEach (Config.recordWrites r.body) writeDefault

/-- The certificate of the public identity key, which the configuration region holds from manufacture on (17 R380); nothing writes it
(assumption log 21). -/
def identityCertificate : List Byte := Config.certificate Config.identityKey

/-- Records placed in the configuration region, as far as its 1 GiB goes (17 R377). -/
def Region.place (g : Region) (records : List ConfigRecord) : Region :=
  let size := fun (rs : List ConfigRecord) => (rs.map fun r => r.bytes.length).sum
  { g with records := records.foldl (fun rs r => if size rs + r.bytes.length ≤ 2 ^ 30 then rs ++ [r] else rs) g.records }

/-- BOOT (17 R377 to R380): once after reset, over the records of the region. A firmware image whose check fails leaves the module cairn
with FAIL set, and nothing after it is loaded: no record is applied (assumption log 21). -/
def execBoot (records : List ConfigRecord) (s : State) : Host.Outcome State Fault Refusal :=
  if s.platform.booted then .next s
  else
    let g := s.platform.region.place records
    let s : State := { s with platform := { s.platform with booted := true, region := g } }
    let x := s.platform
    match (List.range Config.firmwareDigests.length).find? Config.imageRefused with
    | some i => .next { s with platform := { x with
        cairns := Sparse.put x.cairns 0 ⟨false, some (Config.imageError i)⟩, measured := Config.firmwareDigests.take i } }
    | none =>
      let (rs, bad) := chooseRecords g.records
      runService (forEach rs applyRecord)
        { s with platform := { x with rejected := x.rejected + bad, measured := Config.firmwareDigests } }

/-! ### The cairn list (17 R373 to R376) -/

/-- CAIRN_READY (17 R375): READY or FAIL is set once. -/
def execCairnReady (cairn : Nat) (fail : Option DWord) (s : State) : Host.Outcome State Fault Refusal :=
  let x := s.platform
  let c := Sparse.getD x.cairns cairn ⟨false, none⟩
  if cairnCount ≤ cairn || c.ready || c.fail.isSome then .next s
  else
    let s : State := { s with platform := { x with
      cairns := Sparse.put x.cairns cairn ⟨fail.isNone, fail⟩
      storageSeq := if cairn == 12 && fail.isNone then Config.requestSequence 5 else x.storageSeq
      securitySeq := if cairn == 29 && fail.isNone then Config.requestSequence 7 else x.securitySeq } }
    if (cairn == 1 || cairn == 2) && fail.isNone then .next (s.setDie (cairn - 1) { s.die (cairn - 1) with ready := true }) else .next s

/-! ### The security block (17 R381) -/

/-- Result and status of a request: its bytes, then a status word. -/
def answerRequest (v : Via) (va : DWord) (n : Nat) (act : M (List Byte)) : M Unit := do
  let r ← attempt (do
    let bs ← act
    viaWrite v va bs)
  viaWrite v (va + BitVec.ofNat 64 n) (leBytes 4 (match r with | .ok _ => 0 | .error _ => 1))

/-- A field of a request. -/
def requestField (req : List Byte) (i : Nat) : DWord := BitVec.ofNat 64 (recField req i 8)

/-- OP of a request that asks for a report. -/
def opAttest : Nat := 2

/-- The security block serves a request of its sequence by its number, where it is the next one and a test of its OP picks it (17 R381). -/
def serveSecurity (part request : Nat) (pick : Nat → Bool) (act : List Byte → M Unit) : M Unit := do
  let s ← get
  if !s.cairnReady 29 || request != s.platform.securityDone then pure ()
  else
    match ← nextRequest part s.platform.securitySeq request with
    | none => pure ()
    | some req =>
      if pick (recField req 0 4) then do
        let _ ← attempt (act req)
        modify fun s => { s with platform := { s.platform with securityDone := s.platform.securityDone + 1 } }

/-- SECURITY_DIGEST (17 R381): the digest of the source bytes; a request with an OP of neither kind ends with status 1 (assumption
log 99). -/
def execSecurityDigest (part request : Nat) (s : State) : Host.Outcome State Fault Refusal :=
  let v := s.serviceVia part
  runService (serveSecurity part request (· != opAttest) fun req =>
    answerRequest v (requestField req 24) 32 do
      require (recField req 0 4 == 1) .illegalOperand 0
      let bs ← viaRead v (requestField req 8) (recField req 16 8) .load
      pure (sm3 bs)) s

/-- What a report says before its signature: the nonce, the digests and the chip number. -/
def reportBody (s : State) (nonce : List Byte) : List Byte := nonce ++ s.platform.measured.flatten ++ leBytes 4 s.chip

/-- SECURITY_ATTEST (17 R381). -/
def execSecurityAttest (part request : Nat) (s : State) : Host.Outcome State Fault Refusal :=
  runService (serveSecurity part request (· == opAttest) fun req =>
    let body := reportBody s ((req.drop 32).take 32)
    let report := body ++ (List.range 64).map (Config.sm2Sign body)
    answerRequest (s.serviceVia part) (requestField req 24) report.length (pure report)) s

/-! ### Throttling and heat (17 R383, R384) -/

/-- THROTTLE_DOWN (17 R383). -/
def execThrottleDown (die : Nat) (s : State) : Host.Outcome State Fault Refusal :=
  let d := s.die die
  if d.step < 4 then .next (s.setDie die { d with step := d.step + 1 }) else .next s

/-- THROTTLE_UP (17 R383). -/
def execThrottleUp (die : Nat) (s : State) : Host.Outcome State Fault Refusal :=
  let d := s.die die
  .next (s.setDie die { d with step := d.step - 1 })

/-- THERMAL_HALT (17 R384): every lane halts at system level, those placed later too, and flash programming stops. -/
def execThermalHalt (s : State) : Host.Outcome State Fault Refusal :=
  .next (({ s with platform := { s.platform with programStopped := true } } : State).heatHalts (s.agents.map (·.1)))

/-! ### Soft errors, CPU stores, background requantisation -/

/-- One bit of a word turned over. -/
def flipBit (w : Word) (bit : Nat) : Word := w ^^^ ((1 : Word) <<< (bit % 32))

/-- SOFT_ERROR (02 R21, R22): ECC corrects it unseen, or a sector, a flash line or a register keeps it. -/
def execSoftError (target : SoftTarget) (s : State) : Host.Outcome State Fault Refusal :=
  match target with
  | .corrected => .next s
  | .sector pa =>
    if (tierOf pa).any (· < 2) && !s.badSectors.contains (pa / 32) then .next { s with badSectors := s.badSectors ++ [pa / 32] }
    else .next s
  | .flashLine pa =>
    if tierOf pa == some 2 && !s.badFlash.contains (pa / 128) then .next { s with badFlash := s.badFlash ++ [pa / 128] } else .next s
  | .vreg k l reg bit =>
    let a := s.agent k
    .next (s.setAgent k { a with vregs := Sparse.adjust a.vregs (32 * reg + l) fun w => flipBit w bit })
  | .sreg k reg bit =>
    let a := s.agent k
    .next (s.setAgent k (a.setS reg (flipBit (a.sreg reg) bit)))
  | .pred k l p => .next (s.mapLane k l fun x => x.setPred p (!x.pred p))

/-- The name of the storage processor among the writers of a version word; it never stands in their order of arrival. -/
def storageWriter : Nat := 2 ^ 30

/-- The writer steps of a tile (03 R69), in one action: while the version word is odd, or writers that came before wait for it, the storage
processor has not yet come to it. A fault of the data leaves the word even. -/
def requantise (v : Via) (t : DWord) (enc : Word) (data : List Byte) : M Unit := do
  checkAlign t 64
  let ph ← v.translate t .atomic
  let ver ← viaRead v t 8 .atomic
  let s ← get
  if !s.versionOpen ph.pa storageWriter 0 then pure ()
  else do
    let _ ← attempt (do
      viaWrite v (t + 8) (bytesOf 4 (enc.setWidth 64))
      viaWrite v (t + 64) data)
    viaWrite v t (bytesOf 8 (dwordOf ver + 2))

/-- BACKGROUND_REQUANTISATION (03 R71). -/
def execBackgroundRequantisation (part : Nat) (tile : DWord) (enc : Word) (data : List Byte) (s : State) : Host.Outcome State Fault Refusal :=
  runService (requantise (s.serviceVia part) tile enc data) s

end Sys2Proof.Machine
end

