-- ==== Sys2Proof/Machine/Dispatch.lean ====
section
/-! DEFINITION. Which meaning each instruction and event has: one arm for each constructor. -/

namespace Sys2Proof.Machine

/-- What an instruction or event does. -/
def exec (i : Instr) (s : State) : Host.Outcome State Fault Refusal :=
  match i with
  | .nop b => Sys2Proof.Machine.execNop b s
  | .clh w => Sys2Proof.Machine.execClh w s
  | .bkpt w => Sys2Proof.Machine.execBkpt w s
  | .yield b => Sys2Proof.Machine.execYield b s
  | .repeatx b => Sys2Proof.Machine.execRepeatx b s
  | .bra b => Sys2Proof.Machine.execBra b s
  | .brau b => Sys2Proof.Machine.execBrau b s
  | .brx b => Sys2Proof.Machine.execBrx b s
  | .brc b => Sys2Proof.Machine.execBrc b s
  | .call b => Sys2Proof.Machine.execCall b s
  | .callx b => Sys2Proof.Machine.execCallx b s
  | .ret b => Sys2Proof.Machine.execRet b s
  | .exit b => Sys2Proof.Machine.execExit b s
  | .add b => Sys2Proof.Machine.execAdd b s
  | .sub b => Sys2Proof.Machine.execSub b s
  | .mul b => Sys2Proof.Machine.execMul b s
  | .mulh b => Sys2Proof.Machine.execMulh b s
  | .mad b => Sys2Proof.Machine.execMad b s
  | .madw b => Sys2Proof.Machine.execMadw b s
  | .div b => Sys2Proof.Machine.execDiv b s
  | .rem b => Sys2Proof.Machine.execRem b s
  | .min b => Sys2Proof.Machine.execMin b s
  | .max b => Sys2Proof.Machine.execMax b s
  | .abs b => Sys2Proof.Machine.execAbs b s
  | .neg b => Sys2Proof.Machine.execNeg b s
  | .and b => Sys2Proof.Machine.execAnd b s
  | .or b => Sys2Proof.Machine.execOr b s
  | .xor b => Sys2Proof.Machine.execXor b s
  | .not b => Sys2Proof.Machine.execNot b s
  | .shl b => Sys2Proof.Machine.execShl b s
  | .shr b => Sys2Proof.Machine.execShr b s
  | .rot b => Sys2Proof.Machine.execRot b s
  | .fshf b => Sys2Proof.Machine.execFshf b s
  | .popc b => Sys2Proof.Machine.execPopc b s
  | .clz b => Sys2Proof.Machine.execClz b s
  | .brev b => Sys2Proof.Machine.execBrev b s
  | .bfe b => Sys2Proof.Machine.execBfe b s
  | .bfi b => Sys2Proof.Machine.execBfi b s
  | .lop3 b => Sys2Proof.Machine.execLop3 b s
  | .sel b => Sys2Proof.Machine.execSel b s
  | .isetp b => Sys2Proof.Machine.execIsetp b s
  | .iset b => Sys2Proof.Machine.execIset b s
  | .addx b => Sys2Proof.Machine.execAddx b s
  | .subx b => Sys2Proof.Machine.execSubx b s
  | .lea b => Sys2Proof.Machine.execLea b s
  | .mov b => Sys2Proof.Machine.execMov b s
  | .movi b => Sys2Proof.Machine.execMovi b s
  | .plop b => Sys2Proof.Machine.execPlop b s
  | .p2v b => Sys2Proof.Machine.execP2v b s
  | .v2p b => Sys2Proof.Machine.execV2p b s
  | .dp4a b => Sys2Proof.Machine.execDp4a b s
  | .sad b => Sys2Proof.Machine.execSad b s
  | .fadd b => Sys2Proof.Machine.execFadd b s
  | .fsub b => Sys2Proof.Machine.execFsub b s
  | .fmul b => Sys2Proof.Machine.execFmul b s
  | .ffma b => Sys2Proof.Machine.execFfma b s
  | .fmin b => Sys2Proof.Machine.execFmin b s
  | .fmax b => Sys2Proof.Machine.execFmax b s
  | .fabs b => Sys2Proof.Machine.execFabs b s
  | .fneg b => Sys2Proof.Machine.execFneg b s
  | .fsetp b => Sys2Proof.Machine.execFsetp b s
  | .fset b => Sys2Proof.Machine.execFset b s
  | .fclass b => Sys2Proof.Machine.execFclass b s
  | .frcp b => Sys2Proof.Machine.execFrcp b s
  | .frsq b => Sys2Proof.Machine.execFrsq b s
  | .fsqrt b => Sys2Proof.Machine.execFsqrt b s
  | .fdiv b => Sys2Proof.Machine.execFdiv b s
  | .fex2 b => Sys2Proof.Machine.execFex2 b s
  | .flg2 b => Sys2Proof.Machine.execFlg2 b s
  | .fsin b => Sys2Proof.Machine.execFsin b s
  | .fcos b => Sys2Proof.Machine.execFcos b s
  | .ftanh b => Sys2Proof.Machine.execFtanh b s
  | .frnd b => Sys2Proof.Machine.execFrnd b s
  | .fscl b => Sys2Proof.Machine.execFscl b s
  | .ffrx b => Sys2Proof.Machine.execFfrx b s
  | .fdot2 b => Sys2Proof.Machine.execFdot2 b s
  | .cvt b => Sys2Proof.Machine.execCvt b s
  | .pack b => Sys2Proof.Machine.execPack b s
  | .unpk b => Sys2Proof.Machine.execUnpk b s
  | .qnt b => Sys2Proof.Machine.execQnt b s
  | .dqnt b => Sys2Proof.Machine.execDqnt b s
  | .sclc b => Sys2Proof.Machine.execSclc b s
  | .randNext b => Sys2Proof.Machine.execRandNext b s
  | .randBlk b => Sys2Proof.Machine.execRandBlk b s
  | .randRdpos b => Sys2Proof.Machine.execRandRdpos b s
  | .randWrpos b => Sys2Proof.Machine.execRandWrpos b s
  | .randSkip b => Sys2Proof.Machine.execRandSkip b s
  | .randWrkey b => Sys2Proof.Machine.execRandWrkey b s
  | .shfl b => Sys2Proof.Machine.execShfl b s
  | .vote b => Sys2Proof.Machine.execVote b s
  | .redux b => Sys2Proof.Machine.execRedux b s
  | .fredx b => Sys2Proof.Machine.execFredx b s
  | .scanx b => Sys2Proof.Machine.execScanx b s
  | .matchx b => Sys2Proof.Machine.execMatchx b s
  | .rdsr b => Sys2Proof.Machine.execRdsr b s
  | .elect b => Sys2Proof.Machine.execElect b s
  | .bcast b => Sys2Proof.Machine.execBcast b s
  | .ld b => Sys2Proof.Machine.execLd b s
  | .st b => Sys2Proof.Machine.execSt b s
  | .lds b => Sys2Proof.Machine.execLds b s
  | .sts b => Sys2Proof.Machine.execSts b s
  | .ldc b => Sys2Proof.Machine.execLdc b s
  | .ldf b => Sys2Proof.Machine.execLdf b s
  | .stf b => Sys2Proof.Machine.execStf b s
  | .ldv b => Sys2Proof.Machine.execLdv b s
  | .stta b => Sys2Proof.Machine.execStta b s
  | .gth b => Sys2Proof.Machine.execGth b s
  | .sct b => Sys2Proof.Machine.execSct b s
  | .pft b => Sys2Proof.Machine.execPft b s
  | .ldl b => Sys2Proof.Machine.execLdl b s
  | .stl b => Sys2Proof.Machine.execStl b s
  | .cctlPub b => Sys2Proof.Machine.execCctlPub b s
  | .cctlWb b => Sys2Proof.Machine.execCctlWb b s
  | .cctlInv b => Sys2Proof.Machine.execCctlInv b s
  | .cctlIinv b => Sys2Proof.Machine.execCctlIinv b s
  | .sqld b => Sys2Proof.Machine.execSqld b s
  | .atom b => Sys2Proof.Machine.execAtom b s
  | .atomc b => Sys2Proof.Machine.execAtomc b s
  | .red b => Sys2Proof.Machine.execRed b s
  | .atoms b => Sys2Proof.Machine.execAtoms b s
  | .fence b => Sys2Proof.Machine.execFence b s
  | .phase b => Sys2Proof.Machine.execPhase b s
  | .phaseTeam b => Sys2Proof.Machine.execPhaseTeam b s
  | .bara b => Sys2Proof.Machine.execBara b s
  | .bwait b => Sys2Proof.Machine.execBwait b s
  | .binit b => Sys2Proof.Machine.execBinit b s
  | .bexp b => Sys2Proof.Machine.execBexp b s
  | .cwait b => Sys2Proof.Machine.execCwait b s
  | .qlock b => Sys2Proof.Machine.execQlock b s
  | .qunlk b => Sys2Proof.Machine.execQunlk b s
  | .wwait b => Sys2Proof.Machine.execWwait b s
  | .wwake b => Sys2Proof.Machine.execWwake b s
  | .cpy b => Sys2Proof.Machine.execCpy b s
  | .spop b => Sys2Proof.Machine.execSpop b s
  | .spsh b => Sys2Proof.Machine.execSpsh b s
  | .sqry b => Sys2Proof.Machine.execSqry b s
  | .apnd b => Sys2Proof.Machine.execApnd b s
  | .afnc b => Sys2Proof.Machine.execAfnc b s
  | .coll b => Sys2Proof.Machine.execColl b s
  | .rblkSeq b => Sys2Proof.Machine.execRblkSeq b s
  | .rblkGet b => Sys2Proof.Machine.execRblkGet b s
  | .rblkPut b => Sys2Proof.Machine.execRblkPut b s
  | .prdl b => Sys2Proof.Machine.execPrdl b s
  | .dqpsh b => Sys2Proof.Machine.execDqpsh b s
  | .dqpop b => Sys2Proof.Machine.execDqpop b s
  | .oclm b => Sys2Proof.Machine.execOclm b s
  | .orel b => Sys2Proof.Machine.execOrel b s
  | .old b => Sys2Proof.Machine.execOld b s
  | .mma b => Sys2Proof.Machine.execMma b s
  | .aclm b => Sys2Proof.Machine.execAclm b s
  | .arel b => Sys2Proof.Machine.execArel b s
  | .releaseComplete camp op => Sys2Proof.Machine.execReleaseComplete camp op s
  | .acrd b => Sys2Proof.Machine.execAcrd b s
  | .acwr b => Sys2Proof.Machine.execAcwr b s
  | .attn b => Sys2Proof.Machine.execAttn b s
  | .attnf b => Sys2Proof.Machine.execAttnf b s
  | .sqnew b => Sys2Proof.Machine.execSqnew b s
  | .sqrsv b => Sys2Proof.Machine.execSqrsv b s
  | .sqstPlain b => Sys2Proof.Machine.execSqstPlain b s
  | .sqstRotary b => Sys2Proof.Machine.execSqstRotary b s
  | .sqcmt b => Sys2Proof.Machine.execSqcmt b s
  | .sqabn b => Sys2Proof.Machine.execSqabn b s
  | .sqfrk b => Sys2Proof.Machine.execSqfrk b s
  | .sqlen b => Sys2Proof.Machine.execSqlen b s
  | .sqfre b => Sys2Proof.Machine.execSqfre b s
  | .lbndOn b => Sys2Proof.Machine.execLbndOn b s
  | .lbndOff b => Sys2Proof.Machine.execLbndOff b s
  | .lbndClr b => Sys2Proof.Machine.execLbndClr b s
  | .lariAdd b => Sys2Proof.Machine.execLariAdd b s
  | .lariSub b => Sys2Proof.Machine.execLariSub b s
  | .lariNeg b => Sys2Proof.Machine.execLariNeg b s
  | .lariCmp b => Sys2Proof.Machine.execLariCmp b s
  | .lariAddt b => Sys2Proof.Machine.execLariAddt b s
  | .lariLacc b => Sys2Proof.Machine.execLariLacc b s
  | .lariLnrm b => Sys2Proof.Machine.execLariLnrm b s
  | .lshf b => Sys2Proof.Machine.execLshf b s
  | .lmul b => Sys2Proof.Machine.execLmul b s
  | .sysc b => Sys2Proof.Machine.execSysc b s
  | .eret b => Sys2Proof.Machine.execEret b s
  | .rdpr b => Sys2Proof.Machine.execRdpr b s
  | .wrpr b => Sys2Proof.Machine.execWrpr b s
  | .hvc b => Sys2Proof.Machine.execHvc b s
  | .tlbiPage b => Sys2Proof.Machine.execTlbiPage b s
  | .tlbiSpace b => Sys2Proof.Machine.execTlbiSpace b s
  | .tlbiPartition b => Sys2Proof.Machine.execTlbiPartition b s
  | .tlbiStage2 b => Sys2Proof.Machine.execTlbiStage2 b s
  | .tlbiAck tlbi core => Sys2Proof.Machine.execTlbiAck tlbi core s
  | .launch b => Sys2Proof.Machine.execLaunch b s
  | .trace b => Sys2Proof.Machine.execTrace b s
  | .traceSample core => Sys2Proof.Machine.execTraceSample core s
  | .issueCycle core => Sys2Proof.Machine.execIssueCycle core s
  | .laneAged agent lane => Sys2Proof.Machine.execLaneAged agent lane s
  | .vregRefill agent reg => Sys2Proof.Machine.execVregRefill agent reg s
  | .ropeSwap core slot => Sys2Proof.Machine.execRopeSwap core slot s
  | .timeSlice core => Sys2Proof.Machine.execTimeSlice core s
  | .flagFall agent uid => Sys2Proof.Machine.execFlagFall agent uid s
  | .outstandingComplete agent cls => Sys2Proof.Machine.execOutstandingComplete agent cls s
  | .transferLands uid => Sys2Proof.Machine.execTransferLands uid s
  | .copyProgress core uid => Sys2Proof.Machine.execCopyProgress core uid s
  | .engineFaultDelivery uid lane => Sys2Proof.Machine.execEngineFaultDelivery uid lane s
  | .flashLineLands line => Sys2Proof.Machine.execFlashLineLands line s
  | .walkStart die => Sys2Proof.Machine.execWalkStart die s
  | .walkComplete die index => Sys2Proof.Machine.execWalkComplete die index s
  | .sramSplitApply core => Sys2Proof.Machine.execSramSplitApply core s
  | .tasktabWrite part value => Sys2Proof.Machine.execTasktabWrite part value s
  | .compdescWrite part value => Sys2Proof.Machine.execCompdescWrite part value s
  | .taskAccept part qidx => Sys2Proof.Machine.execTaskAccept part qidx s
  | .placementAttempt => Sys2Proof.Machine.execPlacementAttempt s
  | .taskComplete part qidx slot => Sys2Proof.Machine.execTaskComplete part qidx slot s
  | .completionAppendRetry part => Sys2Proof.Machine.execCompletionAppendRetry part s
  | .arbiterCycle camp => Sys2Proof.Machine.execArbiterCycle camp s
  | .reservationAge camp op => Sys2Proof.Machine.execReservationAge camp op s
  | .passRetire camp op => Sys2Proof.Machine.execPassRetire camp op s
  | .attnBlockDone camp op => Sys2Proof.Machine.execAttnBlockDone camp op s
  | .appendTransfer uid => Sys2Proof.Machine.execAppendTransfer uid s
  | .dslotAdvance log slots => Sys2Proof.Machine.execDslotAdvance log slots s
  | .preqSave part qidx slot => Sys2Proof.Machine.execPreqSave part qidx slot s
  | .preqResume part qidx slot => Sys2Proof.Machine.execPreqResume part qidx slot s
  | .preqAbort part qidx slot => Sys2Proof.Machine.execPreqAbort part qidx slot s
  | .contextSave party => Sys2Proof.Machine.execContextSave party s
  | .partyResume party core => Sys2Proof.Machine.execPartyResume party core s
  | .dbgreqHalt core value => Sys2Proof.Machine.execDbgreqHalt core value s
  | .dbgreqResume core value => Sys2Proof.Machine.execDbgreqResume core value s
  | .dreqReplay part value => Sys2Proof.Machine.execDreqReplay part value s
  | .replayStop party => Sys2Proof.Machine.execReplayStop party s
  | .dreqEnd part => Sys2Proof.Machine.execDreqEnd part s
  | .logFull party => Sys2Proof.Machine.execLogFull party s
  | .logFullCompare pair => Sys2Proof.Machine.execLogFullCompare pair s
  | .redundantEffect pair => Sys2Proof.Machine.execRedundantEffect pair s
  | .hartOpComplete hart => Sys2Proof.Machine.execHartOpComplete hart s
  | .roiloRead msg => Sys2Proof.Machine.execRoiloRead msg s
  | .roiloReadData msg => Sys2Proof.Machine.execRoiloReadData msg s
  | .roiloWrite msg => Sys2Proof.Machine.execRoiloWrite msg s
  | .roiloWriteAck msg => Sys2Proof.Machine.execRoiloWriteAck msg s
  | .roiloRdv msg => Sys2Proof.Machine.execRoiloRdv msg s
  | .roiloCdata msg => Sys2Proof.Machine.execRoiloCdata msg s
  | .roiloNak msg => Sys2Proof.Machine.execRoiloNak msg s
  | .boot records => Sys2Proof.Machine.execBoot records s
  | .cairnReady cairn fail => Sys2Proof.Machine.execCairnReady cairn fail s
  | .operationPerformed agent lanes => Sys2Proof.Machine.execOperationPerformed agent lanes s
  | .hartSqnew hart fn => Sys2Proof.Machine.execHartSqnew hart fn s
  | .hartSqrsv hart fn => Sys2Proof.Machine.execHartSqrsv hart fn s
  | .hartSqst hart fn => Sys2Proof.Machine.execHartSqst hart fn s
  | .hartSqcmt hart fn => Sys2Proof.Machine.execHartSqcmt hart fn s
  | .hartSqabn hart fn => Sys2Proof.Machine.execHartSqabn hart fn s
  | .hartSqfrk hart fn => Sys2Proof.Machine.execHartSqfrk hart fn s
  | .hartSqlen hart fn => Sys2Proof.Machine.execHartSqlen hart fn s
  | .hartSqfre hart fn => Sys2Proof.Machine.execHartSqfre hart fn s
  | .hartApnd hart fn => Sys2Proof.Machine.execHartApnd hart fn s
  | .hartAfnc hart fn => Sys2Proof.Machine.execHartAfnc hart fn s
  | .hartLaunch hart fn => Sys2Proof.Machine.execHartLaunch hart fn s
  | .hartQlock hart fn => Sys2Proof.Machine.execHartQlock hart fn s
  | .hartQunlk hart fn => Sys2Proof.Machine.execHartQunlk hart fn s
  | .hartWwait hart fn => Sys2Proof.Machine.execHartWwait hart fn s
  | .hartWwake hart fn => Sys2Proof.Machine.execHartWwake hart fn s
  | .hartLdf hart fn => Sys2Proof.Machine.execHartLdf hart fn s
  | .hartStf hart fn => Sys2Proof.Machine.execHartStf hart fn s
  | .hartCctlIinv hart fn => Sys2Proof.Machine.execHartCctlIinv hart fn s
  | .cancel hart => Sys2Proof.Machine.execCancel hart s
  | .storageBindRequest part request => Sys2Proof.Machine.execStorageBindRequest part request s
  | .flashProgramFail log => Sys2Proof.Machine.execFlashProgramFail log s
  | .blockDemotion log block => Sys2Proof.Machine.execBlockDemotion log block s
  | .powerLoss torn => Sys2Proof.Machine.execPowerLoss torn s
  | .securityDigest part request => Sys2Proof.Machine.execSecurityDigest part request s
  | .securityAttest part request => Sys2Proof.Machine.execSecurityAttest part request s
  | .throttleDown die => Sys2Proof.Machine.execThrottleDown die s
  | .throttleUp die => Sys2Proof.Machine.execThrottleUp die s
  | .thermalHalt => Sys2Proof.Machine.execThermalHalt s
  | .softError target => Sys2Proof.Machine.execSoftError target s
  | .cpuStore site bytes => Sys2Proof.Machine.execCpuStore site bytes s
  | .backgroundRequantisation part tile enc data => Sys2Proof.Machine.execBackgroundRequantisation part tile enc data s
  | .takeTrap agent lane t => Sys2Proof.Machine.execTakeTrap agent lane t s
  | .watchdog agent lane => Sys2Proof.Machine.execWatchdog agent lane s
  | .transportTimeout uid => Sys2Proof.Machine.execTransportTimeout uid s
  | .sramcfgWrite core value => Sys2Proof.Machine.execSramcfgWrite core value s
  | .writeRegister site value => Sys2Proof.Machine.execWriteRegister site value s

end Sys2Proof.Machine
end

