-- ==== Sys2Proof/Machine/Run.lean ====
section
/-! DEFINITION. What a step runs: the issue at the head of the ports, the next outside event, or the default schedule
(assumption log 3); and the placing of one instruction for a step to fetch. -/

namespace Sys2Proof.Machine

/-- A lane of an issue still stands where the issue found it. -/
def State.stands (s : State) (i : Issue) (l : Nat) : Bool :=
  let x := s.lane i.agent l
  !x.exited && x.pc == i.pc && !x.halted

/-- The issue without lanes that an event has moved meanwhile. -/
def State.trim (s : State) (i : Issue) : Issue := { i with lanes := maskOf ((lanesOf i.lanes).filter (s.stands i)) }

/-- The fetched issue without the lanes that may not execute its instruction yet (07 R153, R175, 09 R216): other issues of the cycle may have
moved lanes since it was chosen. -/
def State.regroup (s : State) : State :=
  let g := s.together s.who s.issue.word s.issued
  if g == s.issued then s else { s with issue := { s.issue with lanes := maskOf g } }

/-! ### The default schedule (assumption log 3) -/

/-- Events of bring-up: boot, then the functions that are not yet ready. -/
def State.bootEvents (s : State) : List Instr :=
  if !s.platform.booted then [.boot []]
  else ((List.range cairnCount).filter fun i => (Sparse.find? s.platform.cairns i).isNone).map fun i => .cairnReady i none

/-- Events of one agent: results that land, operations performed, completed or moved on, registers to refill, faults to deliver. -/
def agentEvents (e : Nat × Agent) : List Instr :=
  let k := e.1
  let a := e.2
  let held := (List.range a.lanes.length).filter fun l => (a.lanes.getD l Lane.absent).wait.any Wait.isHeld
  let refill := a.lanes.filterMap fun x => match x.wait with | some (.vreg r) => some (.vregRefill k r) | _ => none
  (a.flights.filter (·.known)).map (fun f => .flagFall k f.uid) ++ (if held.isEmpty then [] else [.operationPerformed k (maskOf held)]) ++
    (a.ops.filter fun o => !o.done).map (fun o => .transferLands o.uid) ++ refill.eraseDups ++
    (a.faults.filter fun f => f.taken.isNone).map fun f => .engineFaultDelivery f.uid f.lane

/-- Events of one core: a cycle, copies, the active set, its TLBs and its scratchpad split. -/
def coreEvents (s : State) (e : Nat × Core) : List Instr :=
  let c := e.1
  let x := e.2
  (if (s.coreAgents c).isEmpty then [] else [.issueCycle c]) ++ (x.copies.take 8).map (fun y => .copyProgress c y.uid) ++
    (if x.pending.isEmpty then [] else (List.range x.active.length).map (fun i => .ropeSwap c i) ++ [.timeSlice c]) ++
    (if x.spadPend then [.sramSplitApply c] else []) ++ (if x.trace.isEmpty then [] else [.traceSample c])

/-- Events of one camp. -/
def campEvents (e : Nat × Camp) : List Instr :=
  (if e.2.ops.isEmpty then [] else [.arbiterCycle e.1]) ++ e.2.ops.flatMap fun o =>
    match o.kind, o.phase with
    | .attn .., _ => [.attnBlockDone e.1 o.uid]
    | .orel _, _ | .arel _, _ => [.releaseComplete e.1 o.uid]
    | _, .writing 0 _ => [.passRetire e.1 o.uid]
    | _, _ => []

/-- Events of one die. -/
def dieEvents (e : Nat × Die) : List Instr :=
  (if e.2.queue.isEmpty then [] else [.walkStart e.1]) ++ (List.range e.2.walks.length).map fun i => .walkComplete e.1 i

/-- Events of one partition: tasks to accept, completions to append. -/
def partEvents (e : Nat × Partition) : List Instr :=
  ((List.range 16).filter fun q => (e.2.seqs.getD q .off).en).map (fun q => .taskAccept e.1 q) ++
    (if (e.2.pendings.isEmpty && e.2.appended.isEmpty) || e.2.faulted then [] else [.completionAppendRetry e.1])

/-- Events of the parties that are being saved, resumed or compared. -/
def State.partyEvents (s : State) : List Instr :=
  (s.parties.filter fun e => e.2.halted).map (fun e => .contextSave e.1) ++
    s.dets.flatMap fun e => [.redundantEffect e.1, .logFullCompare e.1, .logFull e.2.leader, .replayStop e.2.leader]

/-- The event by which a message is taken in. -/
def msgEvent (e : Nat × Msg) : Instr :=
  match e.2.kind with
  | 0 => .roiloRead e.1
  | 1 => .roiloReadData e.1
  | 2 => .roiloWrite e.1
  | 3 => .roiloWriteAck e.1
  | 4 => .roiloRdv e.1
  | 5 => .roiloCdata e.1
  | _ => .roiloNak e.1

/-- Lanes that the aging counter or the watchdog concerns (13 R315, 14 R333). -/
def State.laneEvents (s : State) : List Instr :=
  s.cores.flatMap (fun (e : Nat × Core) => e.2.aging.map fun x => .laneAged x.1 x.2) ++
    s.agents.flatMap fun (e : Nat × Agent) => ((List.range e.2.lanes.length).filter (s.overslept e.1)).map fun l => .watchdog e.1 l

/-- The storage processor and the security block serve their next requests, for partition 0 (assumption log 99). -/
def State.requestEvents (s : State) : List Instr :=
  let x := s.platform
  (if s.cairnReady 12 then [.storageBindRequest 0 x.storageDone] else []) ++
    if s.cairnReady 29 then [.securityDigest 0 x.securityDone, .securityAttest 0 x.securityDone] else []

/-- Events of the harts, the fabric, flash and the TLBIs. -/
def State.outerEvents (s : State) : List Instr :=
  (s.harts.filter fun (e : Nat × Hart) => e.2.op.isSome).map (fun e => .hartOpComplete e.1) ++ s.msgs.map msgEvent ++
    s.slowFlash.map (fun l => .flashLineLands l) ++ (List.range s.logs.length).map (fun i => .dslotAdvance i 4100) ++
    s.tlbis.flatMap fun t => t.left.map fun c => .tlbiAck t.id c

/-- The events that may happen next; placement always may. -/
def State.events (s : State) : List Instr :=
  s.bootEvents ++ s.agents.flatMap agentEvents ++ s.cores.flatMap (coreEvents s) ++ s.camps.flatMap campEvents ++
    s.dies.flatMap dieEvents ++ s.parts.flatMap partEvents ++ s.partyEvents ++ s.laneEvents ++ s.requestEvents ++ s.outerEvents ++ [.placementAttempt]

/-- A core on which no party is resident and whose written scratchpad size waits: it takes effect at that moment (04 R76). -/
def State.splitDue (s : State) : Option Nat :=
  (List.find? (fun (e : Nat × Core) => e.2.spadPend && (s.coreParties e.1).isEmpty) s.cores).map (·.1)

/-- The default schedule: a scratchpad size that is due, else the events that may happen in turn. -/
def State.nextEvent (s : State) : Instr :=
  match s.splitDue with
  | some c => .sramSplitApply c
  | none =>
    let es := s.events
    es.getD (s.turn % es.length) .placementAttempt

/-! ### One instruction placed for the next step -/

/-- Address at which a placed instruction stands, virtual and physical. -/
def placedAt : Nat := 0x10000

/-- The translation of the placed instruction: user-readable and executable. -/
def placedEntry : TlbEntry := ⟨0, 0, placedAt, 65536, placedAt, 0x5B, 0xFFF, 0, none, none, 0x1005B, 0, none, 65536⟩

/-- The clause that the placed instruction stands in: due for a CLH, the last place for a REPEAT, else the first of 63. -/
def placedClause (w : BitVec 64) : Clause :=
  if opcOf w == 1 then .due else if opcOf w == 4 then ⟨15, 15, 1, 0⟩ else ⟨15, 15, 63, 0⟩

/-- The rope that runs the placed instruction. -/
def placedRope (w : BitVec 64) : Agent :=
  let lane := { Lane.start (BitVec.ofNat 64 placedAt) with clause := placedClause w }
  { Agent.absent with
    lanes := List.replicate 32 lane, sregs := List.replicate 64 0, flags := List.replicate 12 0, lfsr := 1 }

/-- Its party. -/
def placedParty : Party :=
  { Party.absent with nrope := 1, agents := [0], nparty := 1, barriers := List.replicate 20 .reset }

/-- The bytes of an instruction word, 16 of them. -/
def placedBytes (nbits w : Nat) : List Byte := leBytes 16 (w % 2 ^ nbits)

/-- The state with an instruction where the next step fetches it, and a rope that stands at it. -/
def State.place (s : State) (nbits w : Nat) : State :=
  let word : BitVec 64 := BitVec.ofNat 64 (w % 2 ^ nbits)
  let s := (s.setAgent 0 (placedRope word)).setParty 0 placedParty
  let x := s.core 0
  let s := s.setCore 0 { x with itlb := { x.itlb with entries := placedEntry :: x.itlb.entries }, icache := Sparse.drop x.icache (placedAt / 128) }
  let d := s.camp 0
  let s := s.setCamp 0 { d with icache := Sparse.drop d.icache (placedAt / 128) }
  let issue : Issue := ⟨0, BitVec.allOnes 32, BitVec.ofNat 64 placedAt, 0, 0⟩
  { s with mem := s.mem.writeN placedAt (placedBytes nbits w), ports := issue :: s.ports }

end Sys2Proof.Machine
end

