-- ==== Sys2Proof/Machine/Step.lean ====
section
/-! DEFINITION. One step of the module: an issued instruction, an outside event, or what the default schedule chooses. -/

namespace Sys2Proof.Machine

/-- Run an issue: fetch and decode its instruction, and execute it. -/
def stepIssue (s : State) : Host.Outcome State Fault Refusal :=
  if s.issue.lanes == 0 then .next s
  else
    match s.prepare with
    | .run i s' => if s'.regroup.issue.lanes == 0 then .next s'.regroup else exec i s'.regroup
    | .done s' => .next s'
    | .fault f => .fault f

/-- Run an event; an encoded instruction in its place is passed over. -/
def stepEvent (i : Instr) (s : State) : Host.Outcome State Fault Refusal := if i.encoded then .next s else exec i s

/-- One step. -/
def step (s : State) : Host.Outcome State Fault Refusal :=
  match s.ports with
  | i :: rest => stepIssue { s with now := s.now + 1, ports := rest, issue := s.trim i }
  | [] =>
    match s.agenda with
    | e :: rest => stepEvent e { s with now := s.now + 1, agenda := rest }
    | [] => stepEvent s.nextEvent { s with now := s.now + 1, turn := s.turn + 1 }

/-- The state with an instruction of the opcode table stored where the next step fetches it. -/
def State.withFetchWord (s : State) (nbits w : Nat) : State := s.place nbits w

end Sys2Proof.Machine
end

