-- ==== Sys2Proof/Safety.lean ====
section
/-! DEFINITION. What claims call a safe step, the invariant that every step keeps, and the words in which claims say when an issued
instruction acts and what it leaves. -/

namespace Sys2Proof.Machine

/-- A step goes on: it neither faults nor refuses. -/
def Goes (s : State) : Prop := ∃ s', step s = .next s'

/-- Memory is in its canonical form: what every step keeps. -/
def State.Canonical (s : State) : Prop := Memory.wf s.mem = true

/-! ### When an issued instruction acts -/

/-- The issued instruction acts at once: no register, flag or result that it needs is busy (05 R113, R125), the registers it writes
have entries or there is room for them (05 R112), its guard does not part a bound rope (09 R216), its agent may execute it
(04 R99, 05 R106), and its party runs outside the deterministic modes (16 R360). -/
structure State.Clear (s : State) (f : Form) (b : Base) : Prop where
  ready : s.busy f b = none
  room : s.newRegs f b = [] ∨ s.fileAllows (coreOf s.who) (s.partOf s.who) (s.newRegs f b).length = true
  whole : s.guardSplit f b = none
  allowed : agentFault s.who s.mode f b = none
  free : s.detOf s.who = none

/-- The state once a group's outcome has retired and the registers it names count as used: in a bound rope the lanes of a QLOCK or a
WWAIT retire together (09 R219). -/
def State.retired (s : State) (f : Form) (b : Base) (g : GroupOut) : State := (s.retire f b (g.joined s f)).useRegs f b

/-- The lanes in which a computing instruction acts: all whose guard holds, or for a scalar destination the first of them. -/
def State.doers (s : State) (b : Base) : List Nat := if b.dk == .scl then (s.acting b).take 1 else s.acting b

/-- The operands of lanes, read in order: they are readable when this answers. -/
def readAll (f : Form) (b : Base) (ls : List Nat) : M (List (Nat × Operands)) :=
  collect ls fun l => do
    let x ← readSrcs f b l
    pure (l, x)

/-- The effects of lanes, made in order: they succeed when this answers. -/
def doAll (ls : List Nat) (act : Nat → M LaneOut) : M (List (Nat × LaneOut)) :=
  collect ls fun l => do
    let o ← act l
    pure (l, o)

/-- A well-formed instruction, issued where it acts at once and with readable operands, in a state that `ok` admits, completes:
each lane that acts writes what `ws` gives for its operands, in the state after they were read. -/
def ComputesWhen (i : Instr) (b : Base) (ok : State → Prop) (ws : State → Nat → Operands → List (Dest × Word)) : Prop :=
  ∀ (s s1 : State) (outs : List (Nat × LaneOut)), i.WellFormed → s.Clear (formOf i) b → ok s →
    doAll (s.doers b) (fun l => do
      let x ← readSrcs (formOf i) b l
      let t ← get
      pure { writes := ws t l x }) s = .ok (outs, s1) →
    exec i s = .next (s1.retired (formOf i) b { outs := outs })

/-- The same for one result of a type in the destination, which `v` gives. -/
def ComputesIn (i : Instr) (b : Base) (t : Ty) (v : State → Nat → Operands → DWord) : Prop :=
  ComputesWhen i b (fun _ => True) fun s l x => regWrites b l b.dst.toNat t.is64 (v s l x)

/-- The same, where the result depends on the operands alone. -/
def Computes (i : Instr) (b : Base) (t : Ty) (v : Operands → DWord) : Prop := ComputesIn i b t fun _ _ => v

/-- A result that goes to a vector register everywhere, and to a scalar register only in a lead thread. -/
def LeadOrVector (b : Base) (s : State) : Prop := b.dk = .scl → isLead s.who = true

/-- A well-formed instruction whose group acts on the operands of all its participants at once (07 R153) completes: the lanes in
`outs` write what `ws` gives. -/
def CompletesCross (i : Instr) (b : Base) (ok : State → Prop) (ls : List (Nat × Operands) → List Nat)
    (ws : List (Nat × Operands) → Nat → List (Dest × Word)) : Prop :=
  ∀ (s s1 : State) (xs : List (Nat × Operands)), i.WellFormed → s.Clear (formOf i) b → ok s →
    readAll (formOf i) b (s.acting b) s = .ok (xs, s1) →
    exec i s = .next (s1.retired (formOf i) b { outs := (ls xs).map fun l => (l, { writes := ws xs l }) })

/-- A well-formed instruction, issued where it acts at once in a state that `ok` admits, completes when the effect succeeds in each of
the lanes in which it acts. -/
def CompletesIn (i : Instr) (b : Base) (ok : State → Prop) (ls : State → List Nat) (act : Nat → M LaneOut) : Prop :=
  ∀ (s s1 : State) (outs : List (Nat × LaneOut)), i.WellFormed → s.Clear (formOf i) b → ok s →
    doAll (ls s) act s = .ok (outs, s1) → exec i s = .next (s1.retired (formOf i) b { outs := outs })

/-- The same, in every acting lane. -/
def CompletesLanes (i : Instr) (b : Base) (act : Nat → M LaneOut) : Prop :=
  CompletesIn i b (fun _ => True) (fun s => s.acting b) act

/-- The same for an effect made once, by the issuing lane: the lowest whose guard holds (08 R188). -/
def CompletesOnce (i : Instr) (b : Base) (act : Nat → M LaneOut) : Prop :=
  ∀ (s s1 : State) (l : Nat) (o : LaneOut), i.WellFormed → s.Clear (formOf i) b → (s.acting b).head? = some l →
    act l s = .ok (o, s1) → exec i s = .next (s1.retired (formOf i) b { outs := [(l, o)] })

/-- A well-formed instruction, issued where it acts at once in a state that `bad` admits, makes every acting lane take a trap, or in a
bound rope every lane of the issue (09 R217), and nothing else happens. -/
def TrapsWhen (i : Instr) (b : Base) (bad : State → Prop) (t : State → Trap) : Prop :=
  ∀ s : State, i.WellFormed → s.Clear (formOf i) b → bad s →
    let ls := if (s.agent s.who).bound.isSome && !(s.acting b).isEmpty then s.issued else s.acting b
    exec i s = .next (s.retired (formOf i) b { traps := ls.map fun l => (l, t s) })

end Sys2Proof.Machine
end

