-- ==== Sys2Proof/Certificates/Slice0/Obligations.lean ====
section
/-! DEFINITION. The statements for the provers. -/

namespace Sys2Proof.Claims

open Sys2Proof.Machine

/-! ### Words for integer results -/

/-- The low bits of an operand, at a type's width. -/
def low (t : Ty) (x : DWord) : BitVec t.bits := x.setWidth t.bits

/-- A result of a type's width as it goes to a register or pair: extended by the type's signedness (07 R152 rule 5). -/
def wide (t : Ty) (v : BitVec t.bits) : DWord := if t.isSigned then v.signExtend 64 else v.setWidth 64

/-- The rational that a finite value is, and 0 for a zero and what is not finite. -/
def rational : FVal → ℚ
  | .fin n d => n / d
  | _ => 0

/-- The integer that bits denote, signed or not. -/
def valueOf (signed : Bool) {w : Nat} (v : BitVec w) : Int := if signed then v.toInt else v.toNat

/-- An integer brought to the nearest one of a width's range. -/
def clamp (signed : Bool) (w : Nat) (e : Int) : BitVec w :=
  let lo : Int := if signed then -2 ^ (w - 1) else 0
  let hi : Int := if signed then 2 ^ (w - 1) - 1 else 2 ^ w - 1
  BitVec.ofInt w (if e < lo then lo else if hi < e then hi else e)

/-- Integer arithmetic of two operands (07 R160): modulo 2^w; with FN = 001 the exact result `exact`, saturated; with TY = 15 on each
half, of the element type that FN names. -/
def arith (b : Base) (op : (w : Nat) → Bool → BitVec w → BitVec w → BitVec w) (exact : Int → Int → Int) (x : Operands) : DWord :=
  if b.ty = .pair then
    let one := fun (p q : BitVec 16) => op 16 (b.fn == 2) p q
    (one (x.a.extractLsb' 16 16) (x.b.extractLsb' 16 16) ++ one (x.a.extractLsb' 0 16) (x.b.extractLsb' 0 16)).setWidth 64
  else if b.fn = 1 then
    wide b.ty (clamp b.ty.isSigned b.ty.bits (exact (valueOf b.ty.isSigned (low b.ty x.a)) (valueOf b.ty.isSigned (low b.ty x.b))))
  else wide b.ty (op b.ty.bits b.ty.isSigned (low b.ty x.a) (low b.ty x.b))

/-- `a` is less than `b`, signed or not. -/
def less (signed : Bool) {w : Nat} (p q : BitVec w) : Bool := if signed then p.slt q else p.ult q

/-- Magnitude. -/
def magnitude (signed : Bool) {w : Nat} (p : BitVec w) : BitVec w := if signed && p.msb then -p else p

/-- Widen bits by a signedness. -/
def grow (signed : Bool) {w : Nat} (n : Nat) (p : BitVec w) : BitVec n := if signed then p.signExtend n else p.setWidth n

/-- The field `pos`, `len` of BFE and BFI. -/
def fieldMask (w pos len : Nat) : BitVec w := ((BitVec.allOnes w) <<< pos) &&& ~~~((BitVec.allOnes w) <<< (pos + len))

/-- A condition on integers (05 R119): EQ, NE, LT, LE, GT, GE. -/
def intTest (fn : BitVec 3) (p q : Operands → Int) (x : Operands) : Bool :=
  [decide (p x = q x), decide (p x ≠ q x), decide (p x < q x), decide (p x ≤ q x), decide (p x > q x),
    decide (p x ≥ q x)].getD fn.toNat false

/-- A condition on floating values (05 R119): EQ, NE, LT, LE, GT, GE, ORD, UNORD; every one but NE and UNORD fails on a NaN. -/
def floatTest (fn : BitVec 3) (p q : FVal) : Bool :=
  let ord := !p.isNan && !q.isNan
  [ord && p.eq q, !(ord && p.eq q), ord && p.lt q, ord && !q.lt p, ord && q.lt p, ord && !p.lt q, ord, !ord].getD fn.toNat false

/-- Floating arithmetic of three operands (07 R167): rounded once in the mode FN names, which `op` is told rounds down or not; with
TY = 15 on each half by RNE, in f16 for FN 000 and bf16 for FN 001. -/
def floating (b : Base) (op : Bool → FVal → FVal → FVal → FVal) (x : Operands) : DWord :=
  if b.ty = .pair then
    let t := if b.fn = 0 then Ty.f16 else Ty.bf16
    let one := fun i => (t.fround (op false (t.fval (x.a >>> (16 * i))) (t.fval (x.b >>> (16 * i))) (t.fval (x.c >>> (16 * i)))) .rne).setWidth 16
    ((one 1 : BitVec 16) ++ (one 0 : BitVec 16)).setWidth 64
  else
    let m := RMode.ofFn b.fn 0
    b.ty.fround (op (m == .rd) (b.ty.fval x.a) (b.ty.fval x.b) (b.ty.fval x.c)) m

/-- A pairwise tree of a number of levels (07 R181): value `i` of a level combines values 2i and 2i + 1 of the level below. -/
def treeOf (op : Word → Word → Word) (leaf : Nat → Word) : Nat → Nat → Word
  | 0, i => leaf i
  | n + 1, i => op (treeOf op leaf n (2 * i)) (treeOf op leaf n (2 * i + 1))

/-- Change the lanes of a list, of the agent of the issue. -/
def onLanes (s : State) (ls : List Nat) (f : Nat → Lane → Lane) : State := ls.foldl (fun s l => s.mapLane s.who l (f l)) s

/-- Each lane of a list with nothing of its own. -/
def plain (ls : List Nat) : List (Nat × LaneOut) := ls.map fun l => (l, {})

/-- Each lane of a list with its pc set. -/
def moved (ls : List Nat) : List (Nat × LaneOut) := ls.map fun l => (l, { moved := true })

/-- The issue, on a well-formed instruction where it acts at once in a state that `ok` admits, gives a state. -/
def Gives (i : Instr) (b : Base) (ok : State → Prop) (t : State → State) : Prop :=
  ∀ s : State, i.WellFormed → s.Clear (formOf i) b → ok s → exec i s = .next (t s)

/-- The same where the lanes' values of a source are read first. -/
def GivesFrom (i : Instr) (b : Base) (n : Nat) (ok : State → List (Nat × DWord) → Prop)
    (t : State → List (Nat × DWord) → State) : Prop :=
  ∀ (s s1 : State) (xs : List (Nat × DWord)), i.WellFormed → s.Clear (formOf i) b →
    (collect (s.acting b) fun l => do
      let x ← readSrc (formOf i) b n l
      pure (l, x)) s = .ok (xs, s1) → ok s1 xs → exec i s = .next (t s1 xs)

/-- Values of the lanes of a bound rope agree (09 R216). -/
def Agree (s : State) (xs : List (Nat × DWord)) : Prop :=
  (s.agent s.who).bound.isSome = true → ∀ x ∈ xs, ∀ y ∈ xs, x.2 = y.2

/-- The target of a relative transfer (07 R155): the pc plus four times the offset. -/
def near (s : State) (b : Base) : DWord := s.issue.pc + 4 * BitVec.ofInt 64 b.offset

/-- The pc after the instruction of the issue. -/
def after (s : State) : DWord := s.issue.pc + BitVec.ofNat 64 s.issue.len

/-- Address in global space (08 R184): base, plus the index as i32 times the scale, plus the offset. -/
def globalAt (b : Base) (x : Operands) : DWord :=
  x.a + (x.b.setWidth 32 : Word).signExtend 64 * BitVec.ofNat 64 b.scale + BitVec.ofInt 64 b.offset

/-- Address of 32 bits, in scratchpad, constant-window and lane-stack space (08 R184). -/
def localAt (b : Base) (x : Operands) : Word :=
  x.a.setWidth 32 + x.b.setWidth 32 * BitVec.ofNat 32 b.scale + BitVec.ofInt 32 b.offset

/-- Bytes of one element. -/
def elemSize (b : Base) : Nat := b.ty.bits / 8

/-- Bytes of an access: its elements, 1, 2 or 4 of them by VEC (08 R185). -/
def accessSize (b : Base) : Nat := elemSize b * b.vecCount

/-- The registers that a load writes (08 R185): consecutive elements in consecutive registers or pairs, each extended. -/
def loaded (b : Base) (l : Nat) (bs : List Byte) : List (Dest × Word) :=
  (List.range b.vecCount).flatMap fun e =>
    let v := BitVec.ofNat b.ty.bits (leNat ((bs.drop (e * elemSize b)).take (elemSize b)))
    regWrites b l (b.dst.toNat + e * (if b.ty.is64 then 2 else 1)) b.ty.is64 (wide b.ty v)

/-- The bytes that a store writes (08 R186): the low bytes of C, or of the registers from C on. -/
def stored (b : Base) (s : State) (l : Nat) (x : Operands) : List Byte :=
  if b.vecCount = 1 then leBytes (elemSize b) x.c.toNat
  else (List.range b.vecCount).flatMap fun e =>
    let r := b.c.field.toNat + e * (if b.ty.is64 then 2 else 1)
    leBytes (elemSize b) (if b.c.kind = .vec then s.readVec s.who l r b.ty.is64 else s.readScl s.who r b.ty.is64).toNat

/-- A load completes (08 R189): in each acting lane, or once for a scalar destination, the address is aligned, the bytes are read there,
and they go to the destination. -/
def Loads (i : Instr) (b : Base) (ea : State → Operands → DWord) (read : State → Nat → DWord → M (List Byte)) : Prop :=
  CompletesIn i b (fun _ => True) (fun s => s.doers b) fun l => do
    let x ← readSrcs (formOf i) b l
    let s ← get
    require ((ea s x).toNat % accessSize b == 0) .misaligned (ea s x)
    let bs ← read s l (ea s x)
    pure { writes := loaded b l bs, touch := [((ea s x).toNat, accessSize b)] }

/-- A store completes: in each acting lane the address is aligned and the bytes are written there; the lane is held while a far access to
an append-only page is performed. -/
def Stores (i : Instr) (b : Base) (ea : State → Operands → DWord) (write : State → DWord → List Byte → M Bool) : Prop :=
  CompletesIn i b (fun _ => True) (fun s => s.acting b) fun l => do
    let x ← readSrcs (formOf i) b l
    let s ← get
    require ((ea s x).toNat % accessSize b == 0) .misaligned (ea s x)
    let held ← write s (ea s x) (stored b s l x)
    pure { hold := if held then some .held else none, far := held, touch := [((ea s x).toNat, accessSize b)] }

/-- A place in scratchpad, as party and offset (04 R79). -/
def placeOf (addr : Word) (n : Nat) (dest : Bool) : M (Nat × Nat) := fun s =>
  match s.spadPlace (s.agent s.who).party addr n dest with
  | .ok p => .ok (p, s)
  | .error t => .error (.trap t)

/-- A new operation of a class is counted for the agent of the issue, under the next number (03 R62), with the lane that issues it and what
that lane's RWC counts of the instructions that a pair compares (16 R360, R367). -/
def counted (s : State) (c : EngClass) (l : Nat) : State :=
  let a := s.agent s.who
  let x := s.lane s.who l
  State.setAgent { s with uid := s.uid + 1 } s.who { a with ops := a.ops ++ [⟨c, s.uid, false, l, x.rwc - x.skew, none⟩] }

/-- A far operation of a group that is counted and not waited for (03 R62, 08 R189): with room in the FAR counter, one operation is
counted, and each acting lane defers its part under the operation's name. -/
def CompletesFar (i : Instr) (b : Base) (part : Nat → Nat → M LaneOut) : Prop :=
  ∀ (s s1 : State) (outs : List (Nat × LaneOut)), i.WellFormed → s.Clear (formOf i) b → s.acting b ≠ [] →
    (s.agent s.who).counter .far < 63 →
    doAll (s.acting b) (part s.uid) (counted s .far ((s.acting b).headD 0)) = .ok (outs, s1) → exec i s = .next (s1.retired (formOf i) b { outs := outs })

/-- A well-formed instruction, issued where it acts at once in a state that `ok` admits, completes with the outcome of an effect that
raises no trap. -/
def CompletesBy (i : Instr) (b : Base) (ok : State → Prop) (act : M GroupOut) : Prop :=
  ∀ (s s1 : State) (g : GroupOut), i.WellFormed → s.Clear (formOf i) b → ok s → act s = .ok (g, s1) → g.traps = [] →
    exec i s = .next (s1.retired (formOf i) b g)

/-- An instruction that acts once and may hold its lanes (10 R242, 11 R263) completes: the issuing lane writes what the effect answers,
and the whole issue is held with it. -/
def CompletesHeld (i : Instr) (b : Base) (act : Nat → M (List (Dest × Word) × Option Wait)) : Prop :=
  ∀ (s s1 : State) (l : Nat) (ws : List (Dest × Word)) (w : Option Wait), i.WellFormed → s.Clear (formOf i) b →
    (s.acting b).head? = some l → act l s = .ok ((ws, w), s1) →
    exec i s = .next (s1.retired (formOf i) b
      { outs := s.issued.map fun j => (j, { writes := if j = l then ws else [], hold := w }) })

/-- A long operation (09 R220) of a rope bound in groups of `n` lanes completes: each group whose guard holds writes what the effect of
its first lane gives. -/
def CompletesGroups (i : Instr) (b : Base) (act : Nat → Nat → M (List (Dest × Word))) : Prop :=
  ∀ (s s1 : State) (n : Nat) (outs : List (Nat × LaneOut)), i.WellFormed → s.Clear (formOf i) b →
    (s.agent s.who).bound = some n →
    doAll (((List.range (32 / n)).map (· * n)).filter (s.acting b).contains) (fun base => do
      let ws ← act n base
      pure { writes := ws }) s = .ok (outs, s1) →
    exec i s = .next (s1.retired (formOf i) b { outs := outs })

/-- The limbs of a number in consecutive lanes of a register. -/
def limbs (reg base n v : Nat) : List (Dest × Word) :=
  (List.range n).map fun j => (.vreg reg (base + j), BitVec.ofNat 32 (v / 2 ^ (32 * j)))

/-- A predicate in every lane of a group, and none for p7. -/
def inGroup (base n p : Nat) (v : Bool) : List (Dest × Word) :=
  if p = 7 then [] else (List.range n).map fun j => (.pred (base + j) p, if v then 1 else 0)

/-- An event completes with the effect of an operation that meets nothing to wait for. -/
def Performs (i : Instr) (ok : State → Prop) (act : M Unit) : Prop :=
  ∀ s s1 : State, ok s → act s = .ok ((), s1) → exec i s = .next s1

/-- An event gives a state. -/
def EventGives (i : Instr) (ok : State → Prop) (t : State → State) : Prop := ∀ s : State, ok s → exec i s = .next (t s)

/-- An instruction that acts once and counts in a class (03 R62) completes: after checks that succeed, with room in its counter, the state
is what `t` makes of the answer. -/
def OnceThen {α : Type} (i : Instr) (b : Base) (c : EngClass) (checks : Nat → Operands → M α) (t : State → Nat → α → State) : Prop :=
  ∀ (s s1 : State) (l : Nat) (a : α), i.WellFormed → s.Clear (formOf i) b → (s.acting b).head? = some l →
    (s.agent s.who).counter c < 63 → (do
      let x ← readSrcs (formOf i) b l
      checks l x) s = .ok (a, s1) →
    exec i s = .next ((t s1 l a).retired (formOf i) b { outs := [(l, {})] })

/-- An operation of the matrix engine is counted and arrives at its camp (03 R62, 10 R236). -/
def arrives (s : State) (l : Nat) (phase : CampPhase) (kind : CampKind) : State :=
  let c := counted s .mat l
  let p := (s.agent s.who).party
  let x := c.camp (campOf (coreOf s.who))
  c.setCamp (campOf (coreOf s.who)) { x with ops := x.ops ++ [⟨s.uid, s.who, p, l, s.mode, (s.party p).prio, kind, phase⟩] }

/-- The moment of an arrival, and its number among arrivals. -/
def arrivedAt (s : State) : CampPhase := .arrived (s.clock (coreOf s.who)) s.uid

/-- An operation of the class COL is counted and begins (15 R351, R355). -/
def beginsCol (s : State) (l kind chip : Nat) (src dst : DWord) (bytes bar : Nat) (record group : List Byte) : State :=
  let c := counted s .col l
  let x := c.core (coreOf s.who)
  let e : ColOp := ⟨s.uid, s.who, l, kind, kind != 3 && chip != s.chip, chip, src, dst, bytes, bar, record, group, [], 0, [], [], false, s.mode⟩
  c.setCore (coreOf s.who) { x with cols := x.cols ++ [e] }

end Sys2Proof.Claims

open Sys2Proof Sys2Proof.Machine Sys2Proof.Claims

/-! ### Integers (spec/07 R160 to R166) -/

/-- ADD, SUB, MIN, MAX, ABS and NEG (07 R160): modulo 2^w, saturated with FN = 001, or on each half of a packed pair. -/
def Sys2Proof.Claims.IntegerSumsComplete : Prop := ∀ b : Base,
  Computes (.add b) b b.ty (arith b (fun _ _ p q => p + q) fun p q => p + q) ∧
  Computes (.sub b) b b.ty (arith b (fun _ _ p q => p - q) fun p q => p - q) ∧
  Computes (.min b) b b.ty (arith b (fun _ g p q => if less g q p then q else p) min) ∧
  Computes (.max b) b b.ty (arith b (fun _ g p q => if less g p q then q else p) max) ∧
  Computes (.abs b) b b.ty (arith b (fun _ g p _ => magnitude g p) fun p _ => p.natAbs) ∧
  Computes (.neg b) b b.ty (arith b (fun _ _ p _ => -p) fun p _ => -p)

/-- MUL, MULH, MAD and MADW (07 R160): low half, high half, low half of the product plus an addend, and the 64-bit product plus a
64-bit addend. -/
def Sys2Proof.Claims.IntegerProductsComplete : Prop := ∀ b : Base,
  let w := b.ty.bits
  let g := b.ty.isSigned
  Computes (.mul b) b b.ty (fun x => wide b.ty (low b.ty x.a * low b.ty x.b)) ∧
  Computes (.mulh b) b b.ty (fun x =>
    wide b.ty ((grow g (2 * w) (low b.ty x.a) * grow g (2 * w) (low b.ty x.b)).extractLsb' w w)) ∧
  Computes (.mad b) b b.ty (fun x => wide b.ty (low b.ty x.a * low b.ty x.b + low b.ty x.c)) ∧
  Computes (.madw b) b .n64 (fun x => grow g 64 (low b.ty x.a) * grow g 64 (low b.ty x.b) + x.c)

/-- Integer arithmetic (07 R160). -/
def Obligations.IntegerArithmeticCompletes : Prop := Sys2Proof.Claims.IntegerSumsComplete ∧ Sys2Proof.Claims.IntegerProductsComplete

/-- DIV and REM (07 R161): the quotient is truncated toward zero and the remainder is a - b × quotient; a divisor of 0 gives all ones
and a; the least number divided by -1 gives itself and 0. -/
def Obligations.DivisionCompletes : Prop := ∀ b : Base,
  let quot := fun (p q : BitVec b.ty.bits) =>
    if q = 0 then BitVec.allOnes _ else if b.ty.isSigned then p.sdiv q else p / q
  let rem := fun (p q : BitVec b.ty.bits) =>
    if q = 0 then p else if b.ty.isSigned && p == BitVec.intMin _ && q == BitVec.allOnes _ then 0 else p - q * quot p q
  (∀ i ∈ [Instr.div b, .rem b], i.WellFormed → b.ty.isInt = true ∧ b.fn = 0) ∧
  Computes (.div b) b b.ty (fun x => wide b.ty (quot (low b.ty x.a) (low b.ty x.b))) ∧
  Computes (.rem b) b b.ty (fun x => wide b.ty (rem (low b.ty x.a) (low b.ty x.b)))

/-- AND, OR, XOR and NOT (07 R160): bitwise, in the low bits of the type. -/
def Sys2Proof.Claims.LogicCompletes : Prop := ∀ b : Base,
  Computes (.and b) b b.ty (fun x => wide b.ty (low b.ty x.a &&& low b.ty x.b)) ∧
  Computes (.or b) b b.ty (fun x => wide b.ty (low b.ty x.a ||| low b.ty x.b)) ∧
  Computes (.xor b) b b.ty (fun x => wide b.ty (low b.ty x.a ^^^ low b.ty x.b)) ∧
  Computes (.not b) b b.ty (fun x => wide b.ty (~~~low b.ty x.a))

/-- SHL, SHR, ROT and FSHF (07 R160): a shift by the width or more gives 0, or the sign of an arithmetic shift; a rotation and a funnel
shift take the amount modulo the width. -/
def Sys2Proof.Claims.ShiftsComplete : Prop := ∀ b : Base,
  let w := b.ty.bits
  Computes (.shl b) b b.ty (fun x => wide b.ty (low b.ty x.a <<< x.b.toNat)) ∧
  Computes (.shr b) b b.ty (fun x => wide b.ty
    (if b.ty.isSigned then (low b.ty x.a).sshiftRight x.b.toNat else low b.ty x.a >>> x.b.toNat)) ∧
  Computes (.rot b) b b.ty (fun x => wide b.ty
    (if b.fn = 0 then (low b.ty x.a).rotateLeft x.b.toNat else (low b.ty x.a).rotateRight x.b.toNat)) ∧
  Computes (.fshf b) b b.ty (fun x => wide b.ty
    (let p := low b.ty x.a ++ low b.ty x.b
     let n := x.c.toNat % w
     if b.fn = 0 then (p <<< n).extractLsb' w w else (p >>> n).setWidth w))

/-- Logic and shifts (07 R160). -/
def Obligations.LogicAndShiftsComplete : Prop := Sys2Proof.Claims.LogicCompletes ∧ Sys2Proof.Claims.ShiftsComplete

/-- POPC, CLZ, BREV, BFE, BFI and LOP3 (07 R160, R162, R163): counts as n32, the reverse of the bits, a field taken out with its
extension, a field put in, and a truth table over A, B and the old destination. -/
def Obligations.BitFieldsComplete : Prop := ∀ b : Base,
  let w := b.ty.bits
  let byte := fun (n : Nat) (x : DWord) => (x.extractLsb' (8 * n) 8).toNat
  Computes (.popc b) b .n32 (fun x => (low b.ty x.a).cpop.setWidth 64) ∧
  Computes (.clz b) b .n32 (fun x => (low b.ty x.a).clz.setWidth 64) ∧
  Computes (.brev b) b b.ty (fun x => wide b.ty (low b.ty x.a).reverse) ∧
  Computes (.bfe b) b b.ty (fun x => wide b.ty
    (let pos := byte 0 x.b
     let len := byte 1 x.b
     let v := if b.ty.isSigned then (low b.ty x.a).sshiftRight pos else low b.ty x.a >>> pos
     let top := b.ty.isSigned && len != 0 && v.getLsbD (len - 1)
     (v &&& fieldMask w 0 len) ||| (if top then ~~~fieldMask w 0 len else 0))) ∧
  Computes (.bfi b) b b.ty (fun x => wide b.ty
    (let m := fieldMask w (byte 0 x.c) (byte 1 x.c)
     (low b.ty x.a &&& ~~~m) ||| ((low b.ty x.b <<< byte 0 x.c) &&& m))) ∧
  ComputesIn (.lop3 b) b b.ty (fun s l x => wide b.ty
    (let d := low b.ty (oldDest s b l b.ty.is64)
     let bit := fun (v : BitVec b.ty.bits) i => if v.getLsbD i then 1 else 0
     BitVec.ofFnLE fun i : Fin b.ty.bits =>
       (b.litWord .ext 2 b.c).getLsbD (bit (low b.ty x.a) i + 2 * bit (low b.ty x.b) i + 4 * bit d i)))

/-- MOV, SEL, MOVI and LEA (07 R160): a copy, a choice by a predicate, an arithmetic sequence over the lanes, and a scaled sum. -/
def Sys2Proof.Claims.MovesComplete : Prop := ∀ b : Base,
  let p := (b.litWord .ext 2 b.c).toNat
  let out := fun l v => regWrites b l b.dst.toNat b.ty.is64 v
  Computes (.mov b) b b.ty (fun x => wide b.ty (low b.ty x.a)) ∧
  ComputesWhen (.sel b) b (LeadOrVector b) (fun s l x =>
    out l (wide b.ty (low b.ty (if s.readP s.who l p then x.a else x.b)))) ∧
  ComputesWhen (.movi b) b (LeadOrVector b) (fun s l x => out l (wide b.ty
    (if isLead s.who then low b.ty x.a else low b.ty x.a + BitVec.ofNat _ l * low b.ty x.b))) ∧
  Computes (.lea b) b .n64 (fun x => x.a + grow b.ty.isSigned 64 (low b.ty x.b) <<< p)

/-- DP4A and SAD (07 R160): sums over the four bytes of A and B. -/
def Sys2Proof.Claims.ByteSumsComplete : Prop := ∀ b : Base,
  let byte := fun (x : DWord) j => valueOf b.ty.isSigned (x.extractLsb' (8 * j) 8)
  let plain := fun (x : DWord) j => ((x.extractLsb' (8 * j) 8).toNat : Int)
  let sum := fun (c : DWord) (f : Nat → Int) => ((c.setWidth 32 : Word) + BitVec.ofInt 32 (f 0 + f 1 + f 2 + f 3)).setWidth 64
  Computes (.dp4a b) b b.ty (fun x => sum x.c fun j => byte x.a j * byte x.b j) ∧
  Computes (.sad b) b b.ty (fun x => sum x.c fun j => (plain x.a j - plain x.b j).natAbs)

/-- Moves and byte sums (07 R160). -/
def Obligations.MovesComplete : Prop := Sys2Proof.Claims.MovesComplete ∧ Sys2Proof.Claims.ByteSumsComplete

/-- ISETP, ISET, FSETP and FSET (07 R164, R169): the comparison goes to a predicate, or to all ones, or to 1.0 in f32. -/
def Sys2Proof.Claims.ComparesComplete : Prop := ∀ b : Base,
  let p := fun (x : Operands) => valueOf b.ty.isSigned (low b.ty x.a)
  let q := fun (x : Operands) => valueOf b.ty.isSigned (low b.ty x.b)
  let toPred := fun (i : Instr) (test : Operands → Bool) =>
    ComputesWhen i b (fun _ => b.dk ≠ .scl) fun _ l x => predWrite l b.dst.toNat (test x)
  toPred (.isetp b) (intTest b.fn p q) ∧
  toPred (.fsetp b) (fun x => floatTest b.fn (b.ty.fval x.a) (b.ty.fval x.b)) ∧
  Computes (.iset b) b .n32 (fun x => if intTest b.fn p q x then 0xFFFFFFFF else 0) ∧
  Computes (.fset b) b .f32 (fun x => if floatTest b.fn (b.ty.fval x.a) (b.ty.fval x.b) then 0x3F800000 else 0)

/-- ISETP and FSETP with a scalar destination (07 R164): bit `l` of the mask is 1 when lane `l` takes part and its comparison holds. -/
def Sys2Proof.Claims.CompareMasks : Prop := ∀ b : Base,
  let p := fun (x : Operands) => valueOf b.ty.isSigned (low b.ty x.a)
  let q := fun (x : Operands) => valueOf b.ty.isSigned (low b.ty x.b)
  let toMask := fun (i : Instr) (test : Operands → Bool) =>
    CompletesCross i b (fun _ => b.dk = .scl) (fun xs => (xs.take 1).map (·.1)) fun xs _ =>
      [(.sreg b.dst.toNat, BitVec.ofFnLE fun j : Fin 32 => xs.any fun e => e.1 == j.val && test e.2)]
  toMask (.isetp b) (intTest b.fn p q) ∧
  toMask (.fsetp b) (fun x => floatTest b.fn (b.ty.fval x.a) (b.ty.fval x.b))

/-- Comparisons into a predicate, and into a mask of the lanes (07 R164, R169). -/
def Obligations.ComparesComplete : Prop := Sys2Proof.Claims.ComparesComplete ∧ Sys2Proof.Claims.CompareMasks

/-- ADDX and SUBX (07 R165): a sum and a difference with a carry in and a carry out. -/
def Sys2Proof.Claims.CarriesComplete : Prop := ∀ b : Base,
  let out := (b.litWord .ext 2 b.c).toNat
  let cin := fun (s : State) l => if b.fn ≠ 7 ∧ s.readP s.who l b.fn.toNat then 1 else 0
  let u := fun (x : DWord) => (low b.ty x).toNat
  ComputesWhen (.addx b) b (LeadOrVector b) (fun s l x =>
    regWrites b l b.dst.toNat b.ty.is64 ((low b.ty x.a + low b.ty x.b + BitVec.ofNat _ (cin s l)).setWidth 64) ++
      predWrite l out (decide (2 ^ b.ty.bits ≤ u x.a + u x.b + cin s l))) ∧
  ComputesWhen (.subx b) b (LeadOrVector b) (fun s l x =>
    regWrites b l b.dst.toNat b.ty.is64 ((low b.ty x.a - low b.ty x.b - BitVec.ofNat _ (cin s l)).setWidth 64) ++
      predWrite l out (decide (u x.a < u x.b + cin s l)))

/-- PLOP, P2V and V2P (07 R166): an operation on two predicates, the predicates as a byte, and predicates from a mask of bits. -/
def Sys2Proof.Claims.PredicatesComplete : Prop := ∀ b : Base,
  let pa := (b.litWord .ext 0 b.a).toNat
  let pb := (b.litWord .ext 1 b.b).toNat
  let op := fun (p q : Bool) => [p && q, p || q, p ^^ q, p && !q, p || !q, !(p ^^ q), !p, p].getD b.fn.toNat false
  ComputesWhen (.plop b) b (fun _ => True) (fun s l _ => predWrite l b.dst.toNat (op (s.readP s.who l pa) (s.readP s.who l pb))) ∧
  ComputesWhen (.p2v b) b (fun _ => True) (fun s l _ =>
    [(.vreg b.dst.toNat l, BitVec.ofFnLE fun i : Fin 32 => decide (i.val < 8) && s.readP s.who l i.val)]) ∧
  ComputesWhen (.v2p b) b (fun _ => True) (fun _ l x =>
    ((List.range 7).filter fun i => (b.litWord .ext 1 b.b).getLsbD i).flatMap fun i => predWrite l i (x.a.getLsbD i))

/-- Carries and predicates (07 R165, R166). -/
def Obligations.PredicatesAndCarriesComplete : Prop := Sys2Proof.Claims.CarriesComplete ∧ Sys2Proof.Claims.PredicatesComplete

/-- A scalar destination outside a lead thread makes SEL, MOVI, ADDX, SUBX, QNT, DQNT, three forms of RAND, and RDSR of a register that
each lane has, take ILLEGAL_OPERAND in every acting lane, with the word (07 R152, R160, R165, R175, R177; 05 R110). That SEL, ADDX and
SUBX do follows from rule 4 of 07 R152, on a predicate operand. -/
def Obligations.ScalarResultOutsideLeadTraps : Prop := ∀ b : Base,
  let traps := fun (i : Instr) => TrapsWhen i b (fun s => b.dk = .scl ∧ isLead s.who = false)
    fun s => ⟨.illegalOperand, 0, s.issue.word, false⟩
  traps (.sel b) ∧ traps (.movi b) ∧ traps (.addx b) ∧ traps (.subx b) ∧ traps (.qnt b) ∧ traps (.dqnt b) ∧
  traps (.randNext b) ∧ traps (.randBlk b) ∧ traps (.randRdpos b) ∧
  ((b.litWord .ext 0 b.a).toNat ∈ [0, 9] → traps (.rdsr b))

/-! ### Floating point (spec/06 and 07 R167 to R172) -/

/-- FADD, FSUB, FMUL and FFMA (07 R167): the exact result, rounded once in the mode FN names; on a packed pair each half by RNE. -/
def Sys2Proof.Claims.FloatArithmeticCompletes : Prop := ∀ b : Base,
  Computes (.fadd b) b b.ty (floating b fun down p q _ => p.add down q) ∧
  Computes (.fsub b) b b.ty (floating b fun down p q _ => p.add down q.neg) ∧
  Computes (.fmul b) b b.ty (floating b fun _ p q _ => p.mul q) ∧
  Computes (.ffma b) b b.ty (floating b fun down p q r => (p.mul q).add down r)

/-- FMIN, FMAX, FABS and FNEG (07 R168): a NaN operand of FMIN and FMAX is ignored, -0 lies below +0, and a NaN result is the canonical
NaN. -/
def Sys2Proof.Claims.FloatSelectionCompletes : Prop := ∀ b : Base,
  let least := fun (p q : FVal) => if p.isNan then q else if q.isNan then p else if q.totalLt p then q else p
  let most := fun (p q : FVal) => if p.isNan then q else if q.isNan then p else if p.totalLt q then q else p
  Computes (.fmin b) b b.ty (floating b fun _ p q _ => least p q) ∧
  Computes (.fmax b) b b.ty (floating b fun _ p q _ => most p q) ∧
  Computes (.fabs b) b b.ty (floating b fun _ p _ _ => if p.isNeg then p.neg else p) ∧
  Computes (.fneg b) b b.ty (floating b fun _ p _ _ => p.neg)

/-- FCLASS, FRND, FSCL, FFRX and FDOT2 (07 R169, R171, R172): the class as one bit, an integer value, a scaled value, a significand or
exponent, and a sum of three terms rounded once. -/
def Sys2Proof.Claims.FloatFormsComplete : Prop := ∀ b : Base,
  let m := RMode.ofFn b.fn 0
  let v := fun (x : DWord) => b.ty.fval x
  let e := if b.fn = 0 then Ty.f16 else Ty.bf16
  let half := fun (x : DWord) i => e.fval (x >>> (16 * i))
  Computes (.fclass b) b .n32 (fun x => 1 <<< classOf b.ty.fmt (x.a.toNat % 2 ^ b.ty.bits)) ∧
  Computes (.frnd b) b b.ty (fun x => b.ty.fround
    (match v x.a with | .fin n d => .ofQuot (decide (n < 0)) (roundInt m n d) 1 | w => w) .rne) ∧
  Computes (.fscl b) b b.ty (fun x => match v x.a with
    | .inf n => b.ty.fround (.inf n) .rne
    | w => b.ty.fround (scaleValue (x.b.setWidth 32).toInt w) m) ∧
  ComputesWhen (.ffrx b) b (fun _ => True) (fun _ l x => regWrites b l b.dst.toNat false
    (if b.fn = 0 then b.ty.fround (scaleValue (-ffrxExp (v x.a)) (v x.a)) .rne else BitVec.ofInt 64 (ffrxExp (v x.a)))) ∧
  Computes (.fdot2 b) b .f32 (fun x => Ty.f32.fround (sumTerms [Ty.f32.fval x.c, (half x.a 0).mul (half x.b 0),
    (half x.a 1).mul (half x.b 1)]) .rne)

/-- Floating point (07 R167 to R171). -/
def Obligations.FloatArithmeticCompletes : Prop := Sys2Proof.Claims.FloatArithmeticCompletes ∧ Sys2Proof.Claims.FloatSelectionCompletes ∧ Sys2Proof.Claims.FloatFormsComplete

/-- The nine special functions (07 R170): each writes the value of its function of the f32 operand, rounded once by RNE. For FEX2, FLG2, FSIN,
FCOS and FTANH that value is the enclosure of the model's own that assumption log 12 (DEDUCED) describes. -/
def Sys2Proof.Claims.SpecialFunctionsComplete : Prop := ∀ b : Base,
  let fn1 := fun (i : Instr) (f : FVal → FVal) => Computes i b .f32 fun x => (rneF32 (f (f32Val (x.a.setWidth 32)))).setWidth 64
  fn1 (.frcp b) frcpVal ∧ fn1 (.frsq b) frsqVal ∧ fn1 (.fsqrt b) fsqrtVal ∧ fn1 (.fex2 b) fex2Val ∧ fn1 (.flg2 b) flg2Val ∧
  fn1 (.fsin b) fsinVal ∧ fn1 (.fcos b) fcosVal ∧ fn1 (.ftanh b) ftanhVal ∧
  Computes (.fdiv b) b .f32 (fun x =>
    (rneF32 ((f32Val (x.a.setWidth 32)).div (f32Val (x.b.setWidth 32)))).setWidth 64)

/-- The special functions at their special operands (06 R147): the table's rows, FDIV's for every pair of operands; FEX2 of the integers from
−149 to 127, and of operands from 128 on; FLG2 of every power of two, and FRCP of those whose reciprocal is finite. -/
def Sys2Proof.Claims.SpecialOperands : Prop :=
  let at_ := fun (f : FVal → FVal) (x : Word) => rneF32 (f (f32Val x))
  let nan : Word := 0x7FC00000
  let inf : Word := 0x7F800000
  let neg : Word := 0x80000000
  (∀ x : Word, (f32Val x).isNan = true → ∀ f ∈ [frcpVal, frsqVal, fsqrtVal, fex2Val, flg2Val, fsinVal, fcosVal, ftanhVal],
    at_ f x = nan) ∧
  (∀ x : Word, (f32Val x).isNeg = true → x ≠ neg → ∀ f ∈ [frsqVal, fsqrtVal, flg2Val], at_ f x = nan) ∧
  [at_ frcpVal 0, at_ frcpVal neg, at_ frcpVal inf, at_ frcpVal (neg ||| inf)] = [inf, neg ||| inf, 0, neg] ∧
  [at_ frsqVal 0, at_ frsqVal neg, at_ frsqVal inf] = [inf, neg ||| inf, 0] ∧
  [at_ fsqrtVal 0, at_ fsqrtVal neg, at_ fsqrtVal inf] = [0, neg, inf] ∧
  [at_ fex2Val 0, at_ fex2Val neg, at_ fex2Val inf, at_ fex2Val (neg ||| inf)] = [0x3F800000, 0x3F800000, inf, 0] ∧
  [at_ flg2Val 0, at_ flg2Val neg, at_ flg2Val 0x3F800000, at_ flg2Val inf] = [neg ||| inf, neg ||| inf, 0, inf] ∧
  [at_ fsinVal 0, at_ fsinVal neg, at_ fsinVal inf, at_ fsinVal (neg ||| inf)] = [0, neg, nan, nan] ∧
  [at_ fcosVal 0, at_ fcosVal neg, at_ fcosVal inf, at_ fcosVal (neg ||| inf)] = [0x3F800000, 0x3F800000, nan, nan] ∧
  [at_ ftanhVal 0, at_ ftanhVal neg, at_ ftanhVal inf, at_ ftanhVal (neg ||| inf)] = [0, neg, 0x3F800000, 0xBF800000] ∧
  (∀ x y : Word,
    let q := rneF32 ((f32Val x).div (f32Val y))
    let size := fun (w : Word) => w &&& 0x7FFFFFFF
    let sign := (x ^^^ y) &&& neg
    let zero := fun w => size w = 0
    let infinite := fun w => size w = inf
    let finite := fun w => size w < inf
    (inf < size x ∨ inf < size y → q = nan) ∧ (zero x ∧ zero y → q = nan) ∧ (infinite x ∧ infinite y → q = nan) ∧
    (finite x ∧ ¬zero x ∧ zero y → q = sign ||| inf) ∧ (finite x ∧ infinite y → q = sign)) ∧
  (∀ x : Word, 0x43000000 ≤ x → x ≤ inf → at_ fex2Val x = inf) ∧
  let power := fun (n : Int) => if n < -126 then BitVec.ofNat 32 (2 ^ (n + 149).toNat) else BitVec.ofNat 32 ((n + 127).toNat * 2 ^ 23)
  (∀ i : Fin 277, let n : Int := i.val - 149
    at_ fex2Val (rneF32 (ofInt n)) = power n ∧ at_ flg2Val (power n) = rneF32 (ofInt n)) ∧
  ∀ i : Fin 255, let n : Int := i.val - 127
    at_ frcpVal (power n) = power (-n) ∧ at_ frcpVal (neg ||| power n) = neg ||| power (-n)

/-- The special functions at the other operands (06 R146, R147). For a positive finite x, FSQRT gives the f32 value whose neighbourhood, up to
the midpoints to its neighbours, holds the root: the squares of the midpoints lie on the two sides of x; FRSQ likewise, times x on the two
sides of 1. FRCP and FDIV give the f32 value nearest to the quotient, where it is finite and not zero. FSIN and FTANH are odd and FCOS is
even. -/
def Sys2Proof.Claims.SpecialRoots : Prop :=
  let at_ := fun (f : FVal → FVal) (x : Word) => rneF32 (f (f32Val x))
  let inf : Word := 0x7F800000
  let neg : Word := 0x80000000
  let v := fun (w : Word) => rational (f32Val w)
  let mid := fun (w : Word) => (v w + v (w + 1)) / 2
  (∀ x : Word, 0 < x → x < inf →
    let r := at_ fsqrtVal x
    let q := at_ frsqVal x
    0 < r ∧ r < inf ∧ mid (r - 1) ^ 2 ≤ v x ∧ v x ≤ mid r ^ 2 ∧
    0 < q ∧ q < inf ∧ mid (q - 1) ^ 2 * v x ≤ 1 ∧ 1 ≤ mid q ^ 2 * v x) ∧
  (∀ x y : Word, 0 < x → x < inf → 0 < y → y < inf →
    let q := rneF32 ((f32Val x).div (f32Val y))
    0 < q → q + 1 < inf → mid (q - 1) * v y ≤ v x ∧ v x ≤ mid q * v y) ∧
  (∀ x : Word, 0 < x → x < inf → at_ frcpVal x = rneF32 ((f32Val 0x3F800000).div (f32Val x))) ∧
  (∀ x : Word, x &&& 0x7FFFFFFF < inf → ∀ f ∈ [fsinVal, ftanhVal], at_ f (x ^^^ neg) = at_ f x ^^^ neg) ∧
  ∀ x : Word, at_ fcosVal (x ^^^ neg) = at_ fcosVal x

/-- The special functions (07 R170, 06 R146, R147). The values of FEX2, FLG2, FSIN, FCOS and FTANH rest on the model's enclosures
(assumption log 12). -/
def Obligations.SpecialFunctionsComplete : Prop := Sys2Proof.Claims.SpecialFunctionsComplete ∧ Sys2Proof.Claims.SpecialOperands ∧ Sys2Proof.Claims.SpecialRoots

/-- Rounding leaves a value of the format alone, in every mode (06 R141 step 2): every encoding but a NaN's comes back as itself. -/
def Sys2Proof.Claims.RoundingKeepsTheGrid : Prop :=
  ∀ t ∈ [Ty.f32, .f16, .bf16, .e4m3, .e5m2, .e2m1], ∀ (x : BitVec t.bits) (m : RMode),
    (t.fval (x.setWidth 64)).isNan = false → (∀ g, t.fval (x.setWidth 64) ≠ .inf g) →
      t.fround (t.fval (x.setWidth 64)) m = x.setWidth 64

/-- Rounding to nearest (06 R141 step 3): no finite value of the format lies nearer to the exact value than the result, if that is
finite. -/
def Sys2Proof.Claims.RoundingIsNearest : Prop :=
  ∀ t ∈ [Ty.f32, .f16, .bf16, .e4m3, .e5m2, .e2m1], ∀ (n : Int) (d : Nat) (x : DWord) (p q : Int) (e g : Nat), n ≠ 0 → 0 < d →
    let near := fun (p : Int) (e : Nat) => |(n : ℚ) / d - p / e|
    (t.fval (t.fround (.fin n d) .rne) = .fin p e ∨ (p = 0 ∧ e = 1 ∧ ∃ s, t.fval (t.fround (.fin n d) .rne) = .zero s)) →
    (t.fval x = .fin q g ∨ (q = 0 ∧ g = 1 ∧ ∃ s, t.fval x = .zero s)) → near p e ≤ near q g

/-- Rounding (06 R141). -/
def Obligations.RoundingIsToTheNearest : Prop := Sys2Proof.Claims.RoundingKeepsTheGrid ∧ Sys2Proof.Claims.RoundingIsNearest

/-! ### Conversion, quantisation and random numbers (spec/07 R173 to R177) -/

/-- CVT, PACK and UNPK (07 R173, R174): a conversion of one value, two values packed beside C, and an element taken out and widened. A
stochastic mode draws one word for each value converted. -/
def Sys2Proof.Claims.ConversionsComplete : Prop := ∀ b : Base,
  let conv := fun (i : Instr) (t : Ty) (n : Nat) (g : List Nat → Operands → DWord) =>
    CompletesIn i b (fun _ => True) (fun s => s.doers b) fun l => do
      let x ← readSrcs (formOf i) b l
      let us ← collect (List.range n) fun _ => drawFor b.fn l
      pure { writes := dstWrites b l t (g us x) }
  let one := fun (us : List Nat) (n : Nat) (x : DWord) => b.ty.fround (Ty.f32.fval x) (RMode.ofFn b.fn (us.getD n 0))
  let k := (b.litWord .ext 1 b.b).toNat
  let part := fun (x : DWord) => (x.extractLsb' (k * b.ty.bits) b.ty.bits).setWidth 64
  conv (.cvt b) b.ty 1 (fun us x =>
    convert b.ty (Ty.ofCode (b.e1.extractLsb' 28 4)) x.a (RMode.ofFn b.fn (us.headD 0)) (b.e1.getLsbD 27)) ∧
  conv (.pack b) .n32 2 (fun us x => if b.ty = .f16 ∨ b.ty = .bf16 then one us 0 x.a ||| one us 1 x.b <<< 16
    else one us 0 x.a ||| one us 1 x.b <<< 8 ||| (x.c.setWidth 16).setWidth 64 <<< 16) ∧
  Computes (.unpk b) b .n32 (fun x => if b.ty.isInt then BitVec.ofInt 64 (b.ty.intVal (part x.a))
    else Ty.f32.fround (b.ty.fval (part x.a)) .rne)

/-- The values of a conversion to an integer (06 R144): of a floating value, NaN gives 0, an infinity or a value outside the destination's range
the end of the range, another value the integer that the mode picks, and the saturate bit changes nothing; of an integer, the value modulo 2^w,
or saturated. -/
def Sys2Proof.Claims.ConversionsToIntegers : Prop := ∀ t ∈ [Ty.i8, .n8, .i16, .n16, .i32, .n32, .i64, .n64],
  (∀ f ∈ [Ty.f32, .f16, .bf16, .e4m3, .e5m2, .e2m1], ∀ (x : DWord) (m : RMode) (sat : Bool),
    let r := t.intVal (convert t f x m sat)
    let v := rational (f.fval x)
    let finite := (f.fval x).isNan = false ∧ ∀ g, f.fval x ≠ .inf g
    ((f.fval x).isNan = true → convert t f x m sat = 0) ∧
    (∀ g, f.fval x = .inf g → r = if g then t.minInt else t.maxInt) ∧
    (finite → t.maxInt ≤ v → r = t.maxInt) ∧ (finite → v ≤ t.minInt → r = t.minInt) ∧
    (finite → t.minInt ≤ v → v ≤ t.maxInt → match m with
      | .rne => |v - r| ≤ 1 / 2 ∧ (|v - r| = 1 / 2 → 2 ∣ r)
      | .rz => 0 ≤ v * r ∧ |(r : ℚ)| ≤ |v| ∧ |v| < |(r : ℚ)| + 1
      | .ru => v ≤ r ∧ r < v + 1
      | .rd => r ≤ v ∧ v < r + 1
      | .rs u => r = ⌊v⌋ + if (u : Int) < ⌊2 ^ 32 * (v - ⌊v⌋)⌋ then 1 else 0) ∧
    convert t f x m true = convert t f x m false) ∧
  ∀ g ∈ [Ty.i8, .n8, .i16, .n16, .i32, .n32, .i64, .n64], ∀ (x : DWord) (m : RMode),
    convert t g x m false = (BitVec.ofInt t.bits (g.intVal x)).setWidth 64 ∧
    t.intVal (convert t g x m true) = max t.minInt (min t.maxInt (g.intVal x))

/-- The values of a conversion to a floating type (06 R144, R141): of an integer n, n rounded once, which is n where it has no more bits than a
significand, and in a directed mode lies on the side that the mode names; of a narrower floating value, that value with its sign, a NaN made
canonical; of another floating value, that value rounded once. With the saturate bit, a value that is rounded gives no more than the largest
finite one. -/
def Sys2Proof.Claims.ConversionsToFloats : Prop := ∀ t ∈ [Ty.f32, .f16, .bf16, .e4m3, .e5m2, .e2m1],
  let nan := BitVec.ofNat 64 t.fmt.nanEnc
  let most := fun (g : Bool) => BitVec.ofNat 64 (t.fmt.signBit g + t.fmt.maxEnc)
  let top := rational (t.fmt.decode t.fmt.maxEnc)
  (∀ g ∈ [Ty.i8, .n8, .i16, .n16, .i32, .n32, .i64, .n64], ∀ (x : DWord) (m : RMode) (sat : Bool),
    let n := g.intVal x
    let r := t.fval (convert t g x m sat)
    convert t g x m sat = t.fround (if n = 0 then .zero false else .fin n 1) m sat ∧
    (n.natAbs ≤ 2 ^ (t.fmt.mbits + 1) → r.isNan = false ∧ (∀ s, r ≠ .inf s) ∧ rational r = n) ∧
    (|(n : ℚ)| ≤ top → match m with
      | .rz => |rational r| ≤ |(n : ℚ)|
      | .ru => n ≤ rational r
      | .rd => rational r ≤ n
      | _ => True) ∧
    (top < |(n : ℚ)| → sat = true → convert t g x m sat = most (decide (n < 0)))) ∧
  ∀ f ∈ [Ty.f32, .f16, .bf16, .e4m3, .e5m2, .e2m1], ∀ (x : DWord) (m : RMode) (sat : Bool),
    let v := f.fval x
    let r := convert t f x m sat
    (v.isNan = true → r = nan) ∧
    (f.bits < t.bits → v.isNan = false → (t.fval r).eq v = true ∧ (t.fval r).isNeg = v.isNeg) ∧
    (t.bits ≤ f.bits → r = t.fround v m sat ∧ ∀ g, sat = true → (v = .inf g ∨ (v.isNeg = g ∧ top < |rational v|)) → r = most g)

/-- Conversions (07 R173, R174, 06 R144). -/
def Obligations.ConversionsComplete : Prop := Sys2Proof.Claims.ConversionsComplete ∧ Sys2Proof.Claims.ConversionsToIntegers ∧ Sys2Proof.Claims.ConversionsToFloats

/-- QNT, DQNT and SCLC (07 R175): every participant of a group of 8 lanes receives the group's packed elements and its scale; a lane that
does not take part counts as +0. -/
def Sys2Proof.Claims.BlockQuantisationCompletes : Prop := ∀ b : Base,
  (∀ (s s1 : State) (vals : List (Nat × FVal × Nat)), (Instr.qnt b).WellFormed → s.Clear (formOf (.qnt b)) b → LeadOrVector b s →
    (collect (s.acting b) fun l => do
      let x ← readSrcs (formOf (.qnt b)) b l
      let u ← drawFor b.fn l
      pure (l, Ty.f32.fval x.a, u)) s = .ok (vals, s1) →
    let val := fun l => (vals.find? fun v => v.1 == l).map (·.2)
    let group := fun (l : Nat) => (List.range 8).map fun i => (val (l / 8 * 8 + i)).getD (.zero false, 0)
    let block := fun l => quantBlock b.fn ((group l).map (·.1)) ((group l).map (·.2))
    let ws := fun l => regWrites b l b.dst.toNat false (BitVec.ofNat 64 (block l).2) ++
      regWrites b l (b.dst.toNat + 1) false (BitVec.ofNat 64 (block l).1)
    exec (.qnt b) s = .next (s1.retired (formOf (.qnt b)) b { outs := (s.acting b).map fun l => (l, { writes := ws l }) })) ∧
  ComputesWhen (.dqnt b) b (LeadOrVector b) (fun _ l x => regWrites b l b.dst.toNat false (Ty.f32.fround
    ((Ty.e2m1.fval (x.a >>> (4 * (l % 8)))).mul (e3m5Val (x.a.extractLsb' 32 8).toNat)) .rne)) ∧
  Computes (.sclc b) b .n32 (fun x => BitVec.ofNat 64 (quantScale (Ty.f32.fval x.a).abs))

/-- The scale of a block (06 R145): 0 for a block of zeros, 31.5 above 189, and else the smallest E3M5 value that brings the largest
magnitude to 6 or less. -/
def Sys2Proof.Claims.BlockScaleIsSmallest : Prop :=
  quantScale (.zero false) = 0 ∧ quantScale .nan = 0 ∧ quantScale (.inf false) = 255 ∧
  ∀ n d : Nat, 0 < n → 0 < d →
    if 189 * d < n then quantScale (.fin n d) = 255
    else quantScale (.fin n d) ≤ 255 ∧ n * 128 ≤ 6 * e3m5Units (quantScale (.fin n d)) * d ∧
      ∀ x < quantScale (.fin n d), 6 * e3m5Units x * d < n * 128

/-- Block quantisation (07 R175, 06 R145). The sign of a zero that DQNT gives is the model's choice (assumption logs 36 and 97). -/
def Obligations.BlockQuantisationCompletes : Prop := Sys2Proof.Claims.BlockQuantisationCompletes ∧ Sys2Proof.Claims.BlockScaleIsSmallest

/-- The six forms of RAND (07 R177): the next word, the next whole block, and the position and key read and written. -/
def Obligations.RandomNumbersComplete : Prop := ∀ b : Base,
  let src := fun (i : Instr) (f : Operands → State → Nat → State) (l : Nat) => (do
    let x ← readSrcs (formOf i) b l
    modify fun s => f x s l
    pure {} : M LaneOut)
  CompletesIn (.randNext b) b (LeadOrVector b) (fun s => s.acting b) (fun l => do
    let s ← get
    let p := (s.lane s.who l).randPos
    set (s.mapLane s.who l fun y => { y with randPos := p + 1 })
    let n := streamBlock (s.agent s.who).key (p >>> 2) (laneWord s.who l) (ropeWord s s.who)
    pure { writes := regWrites b l b.dst.toNat false ((n.getD (p.toNat % 4) 0).setWidth 64) }) ∧
  CompletesIn (.randBlk b) b (LeadOrVector b) (fun s => s.acting b) (fun l => do
    let s ← get
    let n := ((s.lane s.who l).randPos.toNat + 3) / 4
    set (s.mapLane s.who l fun y => { y with randPos := BitVec.ofNat 64 (4 * (n % 2 ^ 62 + 1)) })
    let ws := streamBlock (s.agent s.who).key (BitVec.ofNat 64 (n % 2 ^ 62)) (laneWord s.who l) (ropeWord s s.who)
    pure { writes := (List.range 4).flatMap fun i => regWrites b l (b.dst.toNat + i) false ((ws.getD i 0).setWidth 64) }) ∧
  ComputesWhen (.randRdpos b) b (LeadOrVector b) (fun s l _ => regWrites b l b.dst.toNat true (s.lane s.who l).randPos) ∧
  CompletesLanes (.randWrpos b) b (src (.randWrpos b) fun x s l => s.mapLane s.who l fun y => { y with randPos := x.a }) ∧
  CompletesLanes (.randSkip b) b (src (.randSkip b) fun x s l =>
    s.mapLane s.who l fun y => { y with randPos := y.randPos + x.a }) ∧
  CompletesOnce (.randWrkey b) b (src (.randWrkey b) fun x s _ => s.setAgent s.who { s.agent s.who with key := x.a })

/-! ### Across lanes (spec/07 R178 to R183) -/

/-- SHFL, BCAST and MATCH (07 R178, R179, R182): a lane that names no participant receives its own A from SHFL, and the lowest
participant's from BCAST. -/
def Sys2Proof.Claims.LaneExchangeCompletes : Prop := ∀ b : Base,
  let at_ := fun (xs : List (Nat × Operands)) (l : Nat) => (xs.find? fun e => e.1 == l).map (·.2)
  let all := fun (xs : List (Nat × Operands)) => xs.map (·.1)
  let out := fun (l : Nat) (v : DWord) => regWrites b l b.dst.toNat b.ty.is64 v
  CompletesCross (.shfl b) b (fun _ => True) all (fun xs l =>
    let own := (at_ xs l).getD ⟨0, 0, 0⟩
    let n : Int := own.b.toNat
    let src : Int := [n % 32, (l : Int) - n, l + n, ((l ^^^ (own.b.toNat % 32) : Nat) : Int)].getD b.fn.toNat 0
    out l ((if 0 ≤ src then (at_ xs src.toNat).getD own else own).a)) ∧
  CompletesCross (.bcast b) b (fun _ => True) (fun xs => if b.dk = .scl then (all xs).take 1 else all xs) (fun xs l =>
    let first := (xs.headD (0, ⟨0, 0, 0⟩)).2
    out l ((at_ xs (first.b.toNat % 32)).getD first).a) ∧
  CompletesCross (.matchx b) b (fun _ => True) all (fun xs l =>
    [(.vreg b.dst.toNat l, BitVec.ofFnLE fun j : Fin 32 =>
      (at_ xs j.val).isSome && decide ((at_ xs j.val).map (·.a) = (at_ xs l).map (·.a)))])

/-- VOTE and ELECT (07 R179): over the participants, a verdict or a ballot, and the lowest of them. -/
def Sys2Proof.Claims.VotesComplete : Prop := ∀ b : Base,
  let p := (b.litWord .ext 0 b.a).toNat
  let done := fun (i : Instr) (ok : State → Prop) (outs : State → List (Nat × LaneOut)) =>
    ∀ s, i.WellFormed → s.Clear (formOf i) b → ok s → exec i s = .next (s.retired (formOf i) b { outs := outs s })
  done (.vote b) (fun _ => b.fn ≠ 3) (fun s =>
    let ls := s.acting b
    let yes := fun l => s.readP s.who l p
    let verdict := [ls.all yes, ls.any yes, ls.all yes || !ls.any yes].getD b.fn.toNat false
    ls.map fun l => (l, { writes := predWrite l b.dst.toNat verdict })) ∧
  done (.vote b) (fun _ => b.fn = 3) (fun s =>
    let ls := s.acting b
    let ballot : Word := BitVec.ofFnLE fun j : Fin 32 => ls.contains j.val && s.readP s.who j.val p
    (if b.dk = .scl then ls.take 1 else ls).map fun l => (l, { writes := regWrites b l b.dst.toNat false (ballot.setWidth 64) })) ∧
  done (.elect b) (fun _ => b.dk ≠ .scl) (fun s =>
    (s.acting b).map fun l => (l, { writes := predWrite l b.dst.toNat ((s.acting b).head? == some l) })) ∧
  done (.elect b) (fun _ => b.dk = .scl) (fun s =>
    let v := match (s.acting b).head? with | some l => BitVec.ofNat 32 l | none => 0xFFFFFFFF
    [(s.issued.headD 0, { writes := [(.sreg b.dst.toNat, v)] })])

/-- Lane exchange and votes (07 R178 to R182). -/
def Obligations.LaneExchangeAndVotesComplete : Prop := Sys2Proof.Claims.LaneExchangeCompletes ∧ Sys2Proof.Claims.VotesComplete

/-- REDUX, SCANX and FREDX (07 R180, R181): a combination over the participants, over those at or below a lane, and by the fixed pairwise
tree of 32 values. -/
def Obligations.ReductionsComplete : Prop := ∀ b : Base,
  let t := b.ty
  let pick := fun (lt : Bool) (p q : DWord) => if lt then p else q
  let ops : List (DWord → DWord → DWord) := [fun p q => p + q, fun p q => pick (less t.isSigned (low t q) (low t p)) q p,
    fun p q => pick (less t.isSigned (low t p) (low t q)) q p, fun p q => p &&& q, fun p q => p ||| q, fun p q => p ^^^ q]
  let fold := fun (n : Nat) (vs : List DWord) => match vs with | [] => 0 | v :: vs => vs.foldl (ops.getD n fun p _ => p) v
  let all := fun (xs : List (Nat × Operands)) => xs.map (·.1)
  let lanes := fun (xs : List (Nat × Operands)) => if b.dk = .scl then (all xs).take 1 else all xs
  CompletesCross (.redux b) b (fun _ => True) lanes (fun xs l =>
    regWrites b l b.dst.toNat t.is64 (fold b.fn.toNat (xs.map (·.2.a)))) ∧
  CompletesCross (.scanx b) b (fun _ => True) all (fun xs l =>
    let upTo := xs.filter fun e => if b.fn = 1 then decide (e.1 < l) else decide (e.1 ≤ l)
    regWrites b l b.dst.toNat t.is64 (fold ([0, 0, 1, 2].getD b.fn.toNat 0) (upTo.map (·.2.a)))) ∧
  CompletesCross (.fredx b) b (fun _ => True) lanes (fun xs l =>
    let unit : Word := [0x80000000, 0x7F800000, 0xFF800000].getD b.fn.toNat 0
    let leaf := fun i => match xs.find? fun e => e.1 == i with | some e => e.2.a.setWidth 32 | none => unit
    let op := fun (p q : Word) => rneF32 (match b.fn.toNat with
      | 0 => (f32Val p).add false (f32Val q) | 1 => (f32Val p).min (f32Val q) | _ => (f32Val p).max (f32Val q))
    regWrites b l b.dst.toNat false ((treeOf op leaf 5 0).setWidth 64))

/-- RDSR (05 R110, 07 R183): the special registers. -/
def Sys2Proof.Claims.SpecialRegistersRead : Prop := ∀ b : Base,
  let i := (b.litWord .ext 0 b.a).toNat
  let num := fun (n : Nat) => BitVec.ofNat 64 n
  ComputesWhen (.rdsr b) b (fun s => i ∈ [0, 9] → LeadOrVector b s) (fun s l _ =>
    let k := s.who
    let c := coreOf k
    let t := s.partyOf k
    let lead := isLead k
    let v : DWord := [if lead then 0 else num l, if lead then 0xFFFFFFFF else num (s.agent k).rope, num t.partyId, num t.teamId,
      num t.task.slot, num c, num (campOf c), num (dieOf c), s.clock c, (s.lane k l).rwc, t.phaseId.setWidth 64,
      (if lead then Config.leadLfsr s.fresh else (s.agent k).lfsr).setWidth 64].getD i 0
    regWrites b l b.dst.toNat (decide (i = 8 ∨ i = 9)) v)

/-! ### Control (spec/05 R122, 07 R154 to R159) -/

/-- NOP does nothing; YIELD sends a rope to the tail of the pending set, and passes a lead over once (07 R154). -/
def Sys2Proof.Claims.NopAndYieldComplete : Prop := ∀ b : Base,
  Gives (.nop b) b (fun _ => True) (fun s => s.retired (formOf (.nop b)) b {}) ∧
  Gives (.yield b) b (fun s => s.acting b ≠ []) (fun s =>
    let a := s.agent s.who
    let c := coreOf s.who
    let x := s.core c
    let gone := if x.active.any fun p => p.agent == s.who then
        let y := x.vacate fun j => j == s.who
        { y with pending := y.pending ++ [⟨s.who, 0⟩] }
      else x
    State.retired (if isLead s.who then s.setAgent s.who { a with yielded := true } else s.setCore c gone)
      (formOf (.yield b)) b {})

/-- CLH (05 R122, R123): with a flag of WAIT raised the group sleeps; else a clause of COUNT instructions opens in every lane, with SETA
and SETB. A word that breaks a rule of its own takes that fault. BKPT traps BREAKPOINT in every lane (07 R154). -/
def Sys2Proof.Claims.ClauseHeadersAndBreakpoints : Prop := ∀ (s : State),
  (∀ w : ClhWord, w.check = none → s.detOf s.who = none →
    exec (.clh w) s = .next (if (s.agent s.who).raised w.wait then s.noteWait s.who s.issued (.flags w.wait)
      else onLanes s s.issued fun _ x => x.goOn 8 ⟨w.setb, w.seta, w.count, 0⟩)) ∧
  (∀ (w : ClhWord) (c : Cause), w.check = some c → exec (.clh w) s = .next (s.decodeFault ⟨s.issue.word, 0, 0⟩ c s.issue.word)) ∧
  ∀ w : BkptWord, w.lenWords = true → (isProducer s.who = false ∨ s.mode ≠ .u) →
    exec (.bkpt w) s = .next (s.takeTraps s.who (s.issued.map fun l => (l, ⟨.breakpoint, 0, s.issue.word, false⟩)))

/-- RDSR, NOP, YIELD, CLH and BKPT (05 R110, R122, 07 R154, R183). What a lead reads as LFSR is the model's choice (assumption log 19). -/
def Obligations.SpecialRegistersAndHeadersComplete : Prop := Sys2Proof.Claims.SpecialRegistersRead ∧ Sys2Proof.Claims.NopAndYieldComplete ∧ Sys2Proof.Claims.ClauseHeadersAndBreakpoints

/-- BRA, BRAU, BRX and BRC (07 R155): the lanes whose guard holds go to the pc plus four times the offset, or to the address in A; BRAU
takes the whole group or traps NONUNIFORM in all of it; BRC counts down once for the group and branches while the count is not 0. -/
def Sys2Proof.Claims.BranchesComplete : Prop := ∀ b : Base,
  Gives (.bra b) b (fun _ => True) (fun s =>
    (onLanes s (s.acting b) fun _ x => x.branch (near s b)).retired (formOf (.bra b)) b { outs := moved (s.acting b) }) ∧
  Gives (.brau b) b (fun s => s.acting b = [] ∨ s.acting b = s.issued) (fun s =>
    (onLanes s (s.acting b) fun _ x => x.branch (near s b)).retired (formOf (.brau b)) b { outs := moved (s.acting b) }) ∧
  Gives (.brau b) b (fun s => s.acting b ≠ [] ∧ s.acting b ≠ s.issued) (fun s => s.retired (formOf (.brau b)) b
    { traps := s.issued.map fun l => (l, ⟨.nonuniform, 0, s.issue.word, false⟩) }) ∧
  GivesFrom (.brx b) b 0 Agree (fun s xs =>
    (xs.foldl (fun t x => t.mapLane s.who x.1 fun y => y.branch x.2) s).retired (formOf (.brx b)) b
      { outs := moved (xs.map (·.1)) }) ∧
  Gives (.brc b) b (fun _ => True) (fun s =>
    let r := b.a.field.toNat
    let n := s.readS s.who r - 1
    let count := fun m => (s.issued.headD 0, ({ writes := [(.sreg r, n)], moved := m } : LaneOut))
    if n = 0 then s.retired (formOf (.brc b)) b { outs := [count false] }
    else (onLanes s s.issued fun _ x => x.branch (near s b)).retired (formOf (.brc b)) b
      { outs := count true :: moved s.issued })

/-- CALL and CALLX (07 R156): each lane pushes the address after the instruction and goes to its target, where every push succeeds. RET
goes to the address it pops. -/
def Sys2Proof.Claims.CallsComplete : Prop := ∀ b : Base,
  let call := fun (s : State) (t : Nat → DWord) (l : Nat) => (do
    pushReturn s.who l (after s)
    modLane s.who l fun x => x.jump (t l)
    pure { moved := true } : M LaneOut)
  (∀ s, CompletesIn (.call b) b (fun t => t = s) (fun _ => s.acting b) (call s fun _ => near s b)) ∧
  (∀ (s s1 s2 : State) (xs : List (Nat × DWord)) (outs : List (Nat × LaneOut)), (Instr.callx b).WellFormed →
    s.Clear (formOf (.callx b)) b → (collect (s.acting b) fun l => do
      let x ← readSrc (formOf (.callx b)) b 0 l
      pure (l, x)) s = .ok (xs, s1) → Agree s1 xs →
    doAll (s.acting b) (call s1 fun l => ((xs.find? fun x => x.1 == l).getD (l, 0)).2) s1 = .ok (outs, s2) →
    exec (.callx b) s = .next (s2.retired (formOf (.callx b)) b { outs := outs })) ∧
  ∀ s : State, ((s.agent s.who).bound.isSome = true → ∀ l ∈ s.acting b, ∀ m ∈ s.acting b, ∀ a t c u,
      popReturn s.who l s = .ok (a, t) → popReturn s.who m s = .ok (c, u) → a = c) →
    CompletesIn (.ret b) b (fun t => t = s) (fun _ => s.acting b) (fun l => do
      let a ← popReturn s.who l
      modLane s.who l fun x => x.jump a
      pure { moved := true })

/-- Branches, calls and returns (07 R155, R156). -/
def Obligations.ControlTransfersComplete : Prop := Sys2Proof.Claims.BranchesComplete ∧ Sys2Proof.Claims.CallsComplete

/-- The return stack (07 R156): what a push puts on top, the next pop returns; and where the push sent the lane's four entries to memory,
the pop after that brings them back. -/
def Obligations.PopReturnsWhatWasPushed : Prop :=
  ∀ (s s1 : State) (k l : Nat) (ra : DWord), l < (s.agent k).lanes.length → (s.lane k l).rstack.length ≤ 4 →
    pushReturn k l ra s = .ok ((), s1) → ∃ s2, popReturn k l s1 = .ok (ra, s2) ∧
      ((s.lane k l).rstack.length < 4 → (s2.lane k l).rstack = (s.lane k l).rstack ∧ s2.mem = s.mem) ∧
      ((s.lane k l).rstack.length = 4 → s2.eccBad (frameAddr s2 k l (s.lane k l).rsd) 32 = false →
        ∃ s3, popReturn k l s2 = .ok ((s.lane k l).rstack.getLastD 0, s3) ∧
          (s3.lane k l).rstack = (s.lane k l).rstack.dropLast ∧ (s3.lane k l).rsd = (s.lane k l).rsd)

/-- REPEAT (07 R159): as the last instruction of its clause it enters the body, with the count in loop register 0 and the old register 0 in
register 1; a count of 0 skips the body. -/
def Sys2Proof.Claims.RepeatCompletes : Prop := ∀ b : Base,
  GivesFrom (.repeatx b) b 0
    (fun s xs => Agree s xs ∧ s.clause.pos + 1 = s.clause.count ∧ after s < near s b ∧
      ∀ x ∈ xs, x.2.setWidth 32 = (0 : Word) ∨ (s.lane s.who x.1).lc1.valid = false)
    (fun s xs => State.retired (xs.foldl (fun t x => t.mapLane s.who x.1 fun y =>
        let n : Word := x.2.setWidth 32
        if n = 0 then y.jump (near s b)
        else { y.jump (after s) with lc1 := y.lc0, lc0 := ⟨true, y.mode, after s, near s b, n⟩ }) s)
      (formOf (.repeatx b)) b { outs := moved (xs.map (·.1)) })

/-- The loop test (07 R159): at the end of the innermost body a lane goes back to its start with one pass less, and on the last pass the
loop ends and the next one is tested. -/
def Sys2Proof.Claims.LoopTest : Prop := ∀ (x : Lane) (n : Nat) (cl : Clause),
  let pc := x.pc + BitVec.ofNat 64 n
  let ends := fun (r : LoopReg) => r.valid = true ∧ x.mode = r.mode ∧ pc = r.fin
  let y := x.goOn n cl
  y.rwc = x.rwc + 1 ∧
  (¬ends x.lc0 → y.pc = pc ∧ y.clause = cl ∧ y.lc0 = x.lc0 ∧ y.lc1 = x.lc1) ∧
  (ends x.lc0 → x.lc0.rem ≠ 1 → y.pc = x.lc0.start ∧ y.clause = .due ∧ y.lc0 = { x.lc0 with rem := x.lc0.rem - 1 } ∧ y.lc1 = x.lc1) ∧
  (ends x.lc0 → x.lc0.rem = 1 → ¬ends x.lc1 → y.pc = pc ∧ y.clause = cl ∧ y.lc0 = x.lc1 ∧ y.lc1.valid = false) ∧
  (ends x.lc0 → x.lc0.rem = 1 → ends x.lc1 → x.lc1.rem ≠ 1 →
    y.pc = x.lc1.start ∧ y.clause = .due ∧ y.lc0 = { x.lc1 with rem := x.lc1.rem - 1 } ∧ y.lc1.valid = false) ∧
  (ends x.lc0 → x.lc0.rem = 1 → ends x.lc1 → x.lc1.rem = 1 →
    y.pc = pc ∧ y.clause = cl ∧ y.lc0.valid = false ∧ y.lc1.valid = false)

/-- REPEAT and the loop test (07 R159). -/
def Obligations.LoopsComplete : Prop := Sys2Proof.Claims.RepeatCompletes ∧ Sys2Proof.Claims.LoopTest

/-- EXIT (07 R158): the lanes whose guard holds are live no longer. The last lanes of a rope wait for its outstanding operations. That the
whole group waits at a rope's last EXIT is the model's reading (assumption log 38). Ropes that are bound, the last EXIT of a team's party,
and parties in a deterministic mode are left out. -/
def Obligations.ExitCompletes : Prop := ∀ (b : Base) (s : State), (Instr.exit b).WellFormed → s.Clear (formOf (.exit b)) b →
  (s.agent s.who).bound = none → s.acting b ≠ [] → (s.partyOf s.who).det = none → (s.partyOf s.who).team = none →
  s.roleOf s.who ≠ .leader → s.roleOf s.who ≠ .trailer →
  let last := (s.agent s.who).live.all (s.acting b).contains
  (last = false ∨ (s.agent s.who).quiet = true →
    ∃ t, exec (.exit b) s = .next t ∧ ∀ l ∈ s.acting b, l ∉ (t.agent s.who).live) ∧
  (last = true → (s.agent s.who).quiet = false → exec (.exit b) s = .next (s.noteWait s.who s.issued .exit))

/-! ### Memory (spec/08 R184 to R199) -/

/-- LD, LDS, LDC, LDF and LDL (08 R189, R190): an aligned load writes the bytes at its address, as consecutive elements extended by TY. -/
def Obligations.LoadsComplete : Prop := ∀ b : Base,
  let n := accessSize b
  let f := fun (i : Instr) => (formOf i).opc
  Loads (.ld b) b (fun _ => globalAt b) (fun s l va => loadBytes s.who l s.mode va n (f (.ld b))) ∧
  Loads (.ldf b) b (fun _ => globalAt b) (fun s _ va => do
    let ph ← translate s.who s.mode va .load
    farRead s.who va ph.pa n) ∧
  Loads (.ldl b) b (fun s x => (s.partyOf s.who).lsva + (localAt b x).setWidth 64)
    (fun s l va => loadBytes s.who l s.mode va n (f (.ldl b))) ∧
  CompletesIn (.ldc b) b (fun _ => True) (fun s => s.doers b) (fun l => do
    let x ← readSrcs (formOf (.ldc b)) b l
    let s ← get
    let off := (localAt b x).toNat
    require (off % n == 0) .misaligned (BitVec.ofNat 64 off)
    require (decide (off + n ≤ 65536)) .illegalOperand s.issue.word
    let va := (s.partyOf s.who).param + BitVec.ofNat 64 off
    let bs ← loadBytes s.who l s.mode va n 0xA4
    pure { writes := loaded b l bs, touch := [(((s.partyOf s.who).param + BitVec.ofNat 64 off).toNat, n)] }) ∧
  CompletesIn (.lds b) b (fun _ => True) (fun s => s.doers b) (fun l => do
    let x ← readSrcs (formOf (.lds b)) b l
    let addr := localAt b x
    require (addr.toNat % n == 0) .misaligned (addr.setWidth 64)
    let (q, off) ← placeOf addr n false
    let s ← get
    pure { writes := loaded b l ((s.party q).spad.readN off n), touch := [(q * 2 ^ 20 + off, n)], banked := true })

/-- ST, STS and STL (08 R189, R190): an aligned store writes the bytes of its datum at its address. -/
def Sys2Proof.Claims.StoresComplete : Prop := ∀ b : Base,
  Stores (.st b) b (fun _ => globalAt b) (fun s va bs => storeBytes s.who s.mode va bs) ∧
  Stores (.stl b) b (fun s x => (s.partyOf s.who).lsva + (localAt b x).setWidth 64)
    (fun s va bs => storeBytes s.who s.mode va bs) ∧
  CompletesIn (.sts b) b (fun _ => True) (fun s => s.acting b) (fun l => do
    let x ← readSrcs (formOf (.sts b)) b l
    let addr := localAt b x
    require (addr.toNat % accessSize b == 0) .misaligned (addr.setWidth 64)
    let (q, off) ← placeOf addr (accessSize b) true
    modify fun s =>
      let y := s.party q
      s.setParty q { y with spad := y.spad.writeN off (stored b s l x) }
    pure { touch := [(q * 2 ^ 20 + off, accessSize b)], banked := true })

/-- STF and RED (08 R189, R198; 03 R57, R62): the access is counted in FAR, and each lane's bytes wait for their home slice. -/
def Sys2Proof.Claims.DeferredFarComplete : Prop := ∀ b : Base,
  let defer := fun (u l : Nat) (va : DWord) (pa : Nat) (red : Option (BitVec 3 × Ty)) (bs : List Byte) => (modify fun s =>
    let a := s.agent s.who
    s.setAgent s.who { a with far := a.far ++ [⟨u, l, va, pa, red, bs⟩] } : M Unit)
  CompletesFar (.stf b) b (fun u l => do
    let x ← readSrcs (formOf (.stf b)) b l
    let va := globalAt b x
    require (va.toNat % accessSize b == 0) .misaligned va
    let s ← get
    let ph ← translate s.who s.mode va .store
    defer u l va ph.pa none (stored b s l x)
    pure { touch := [(va.toNat, accessSize b)] }) ∧
  CompletesFar (.red b) b (fun u l => do
    let x ← readSrcs (formOf (.red b)) b l
    let va := globalAt b x
    require (va.toNat % elemSize b == 0) .misaligned va
    let s ← get
    let ph ← translate s.who s.mode va .store
    require (!s.eccBad ph.pa (elemSize b)) .eccUncorrectable va
    defer u l va ph.pa (some (b.fn, b.ty)) (leBytes (elemSize b) x.c.toNat)
    pure { touch := [(va.toNat, elemSize b)] })

/-- Stores (08 R189, R190, R198). -/
def Obligations.StoresComplete : Prop := Sys2Proof.Claims.StoresComplete ∧ Sys2Proof.Claims.DeferredFarComplete

/-- Where every acting lane's address is misaligned, each lane traps MISALIGNED with its address, in a bound rope every lane of the issue with
that of the lowest, and nothing else happens (08 R185, R198, R206, 09 R217, R218): loads, stores and atomics in every space, SQLD's element in
its slot, WWAIT and WWAKE. STF and RED count their operation, which ends at once (03 R62). The scratchpad addresses of GTH and SCT trap in
every lane (08 R194). -/
def Obligations.MisalignedAccessesTrap : Prop := ∀ b : Base,
  let taken := fun (s : State) (ls : List Nat) (va : Nat → DWord) =>
    let trap := fun l => (⟨.misaligned, 0, va l, false⟩ : Trap)
    if (s.agent s.who).bound.isSome then (ls.take 1).flatMap fun l => s.issued.map fun j => (j, trap l) else ls.map fun l => (l, trap l)
  let traps := fun (i : Instr) (ea : State → Operands → DWord) (n : Nat) (ls : State → List Nat) =>
    ∀ (s : State) (x : Nat → Operands), i.WellFormed → s.Clear (formOf i) b →
      (∀ l ∈ ls s, (∃ t, readSrcs (formOf i) b l s = .ok (x l, t)) ∧ (ea s (x l)).toNat % n ≠ 0) →
      exec i s = .next (s.retired (formOf i) b { traps := taken s (ls s) fun l => ea s (x l) })
  let deferred := fun (i : Instr) (n : Nat) (keep : Bool) => ∀ (s : State) (x : Nat → Operands), i.WellFormed → s.Clear (formOf i) b →
    s.acting b ≠ [] → (s.agent s.who).counter .far < 63 →
    let c := counted s .far ((s.acting b).headD 0)
    (∀ l ∈ s.acting b, (∃ t, readSrcs (formOf i) b l c = .ok (x l, t)) ∧ (globalAt b (x l)).toNat % n ≠ 0) →
    exec i s = .next (State.retired (if (s.agent s.who).bound.isSome ∧ keep = false then s else c.finishOp s.who s.uid) (formOf i) b
      { traps := taken s (s.acting b) fun l => globalAt b (x l) })
  let gathers := fun (i : Instr) (scatter : Bool) => ∀ (s : State) (x : Nat → Operands), i.WellFormed → s.Clear (formOf i) b →
    (s.agent s.who).counter .gth < 63 →
    let size := 2 ^ (b.e2.extractLsb' 5 3).toNat
    let at_ := fun (l : Nat) => (x l).c.setWidth 32 + BitVec.ofNat 32 (b.e2.extractLsb' 16 16).toNat * BitVec.ofNat 32 l
    (∀ l ∈ s.acting b, readSrcs (formOf i) b l s = .ok (x l, s) ∧ (∃ q, s.spadPlace (s.agent s.who).party (at_ l) size (!scatter) = .ok q) ∧
      (at_ l).toNat % size ≠ 0) →
    exec i s = .next (s.retired (formOf i) b { traps := taken s (s.acting b) fun l => (at_ l).setWidth 64 })
  let near32 := fun (_ : State) (x : Operands) => (localAt b x).setWidth 64
  let far := fun (_ : State) => globalAt b
  let plain := fun (_ : State) (x : Operands) => x.a + BitVec.ofInt 64 b.offset
  let stack := fun (s : State) (x : Operands) => (s.partyOf s.who).lsva + near32 s x
  (∀ i ∈ [Instr.ld b, .ldf b], traps i far (accessSize b) (·.doers b)) ∧
  (∀ i ∈ [Instr.lds b, .ldc b], traps i near32 (accessSize b) (·.doers b)) ∧
  traps (.ldl b) stack (accessSize b) (·.doers b) ∧
  traps (.st b) far (accessSize b) (·.acting b) ∧ traps (.sts b) near32 (accessSize b) (·.acting b) ∧
  traps (.stl b) stack (accessSize b) (·.acting b) ∧
  traps (.atom b) far (elemSize b) (·.doers b) ∧ traps (.atomc b) plain (elemSize b) (·.doers b) ∧
  traps (.atoms b) (fun s x => if b.fn = 7 then ((plain s x).setWidth 32 : Word).setWidth 64 else near32 s x) (elemSize b) (·.doers b) ∧
  traps (.wwait b) far (elemSize b) (·.doers b) ∧ traps (.wwake b) far (elemSize b) (·.acting b) ∧
  deferred (.stf b) (accessSize b) false ∧ deferred (.red b) (elemSize b) true ∧ gathers (.gth b) false ∧ gathers (.sct b) true ∧
  ∀ (s : State) (va : Nat → DWord), (Instr.sqld b).WellFormed → s.Clear (formOf (.sqld b)) b →
    (∀ l ∈ s.doers b, (∃ t, (do
      let x ← readSrcs (formOf (.sqld b)) b l
      let s ← get
      let v := Via.lane s.who s.mode
      let d ← openDesc v x.a .load
      let i := (x.b.setWidth 32 : Word).toNat
      require (decide (i < d.cl)) .seqBounds (BitVec.ofNat 64 i)
      require (decide (0 ≤ b.offset ∧ b.offset + accessSize b ≤ d.slotBytes)) .illegalOperand s.issue.word
      let (_, slot) ← locate v d i
      pure (slot + BitVec.ofInt 64 b.offset) : M DWord) s = .ok (va l, t)) ∧ (va l).toNat % accessSize b ≠ 0) →
    exec (.sqld b) s = .next (s.retired (formOf (.sqld b)) b { traps := taken s (s.doers b) va })

/-- ATOM, ATOMC and ATOMS (08 R198, R199): each lane in ascending order receives the old value and writes the new one. -/
def Sys2Proof.Claims.AtomicsComplete : Prop := ∀ b : Base,
  let n := elemSize b
  let result := fun (old : List Byte) => wide b.ty (BitVec.ofNat b.ty.bits (leNat old))
  let new := fun (fn : BitVec 3) (old : List Byte) (x : Operands) =>
    leBytes n (atomicNew fn b.ty (BitVec.ofNat 64 (leNat old)) x.b x.c).toNat
  let out := fun (l : Nat) (old : List Byte) => regWrites b l b.dst.toNat b.ty.is64 (result old)
  let atHome := fun (i : Instr) (ea : Operands → DWord) (fn : BitVec 3) =>
    CompletesIn i b (fun _ => True) (fun s => s.doers b) fun l => do
      let x ← readSrcs (formOf i) b l
      require ((ea x).toNat % n == 0) .misaligned (ea x)
      let s ← get
      let ph ← translate s.who s.mode (ea x) .atomic
      let old ← farRead s.who (ea x) ph.pa n
      farWrite s.who ph.pa (new fn old x)
      pure { writes := out l old, touch := [((ea x).toNat, n)] }
  let plain := fun (x : Operands) => x.a + BitVec.ofInt 64 b.offset
  atHome (.atom b) (globalAt b) b.fn ∧ atHome (.atomc b) plain 7 ∧
  CompletesIn (.atoms b) b (fun _ => True) (fun s => s.doers b) (fun l => do
    let x ← readSrcs (formOf (.atoms b)) b l
    let addr : Word := if b.fn = 7 then (plain x).setWidth 32 else localAt b x
    require (addr.toNat % n == 0) .misaligned (addr.setWidth 64)
    let (q, off) ← placeOf addr n true
    let s ← get
    let old := (s.party q).spad.readN off n
    modify fun s =>
      let y := s.party q
      s.setParty q { y with spad := y.spad.writeN off (new b.fn old x) }
    pure { writes := out l old, touch := [(q * 2 ^ 20 + off, n)], banked := true })

/-- The new value of an atomic, in the bits of its type (08 R198, R199): of an integer one, add, min, max, and, or, xor, exchange, and
compare-and-swap; of an f32 one, the sum rounded once, the smaller and the larger with a NaN ignored and -0 below +0, and exchange. -/
def Sys2Proof.Claims.AtomicValues : Prop := ∀ (t : Ty) (old cmp c : DWord),
  let v := fun (n : Nat) => low t (atomicNew (BitVec.ofNat 3 n) t old cmp c)
  let p := low t old
  let q := low t c
  (t ∈ [Ty.i32, .i64, .n32, .n64] →
    v 0 = p + q ∧ v 1 = (if less t.isSigned q p then q else p) ∧ v 2 = (if less t.isSigned p q then q else p) ∧
    v 3 = p &&& q ∧ v 4 = p ||| q ∧ v 5 = p ^^^ q ∧ v 6 = q ∧ v 7 = (if p = low t cmp then q else p)) ∧
  (t = .f32 →
    let x := f32Val (old.setWidth 32)
    let y := f32Val (c.setWidth 32)
    let bits := fun (n : Nat) => (v n).setWidth 32
    bits 0 = rneF32 (x.add false y) ∧
    bits 1 = rneF32 (if x.isNan then y else if y.isNan then x else if y.totalLt x then y else x) ∧
    bits 2 = rneF32 (if x.isNan then y else if y.isNan then x else if x.totalLt y then y else x) ∧ v 6 = q)

/-- Atomics (08 R198, R199). -/
def Obligations.AtomicsComplete : Prop := Sys2Proof.Claims.AtomicsComplete ∧ Sys2Proof.Claims.AtomicValues

/-- LDV and STTA (08 R192, R193; 03 R69, R70): a stable tile's data go to scratchpad and its encoding word to D; a tile is written between
an odd and an even version word. -/
def Sys2Proof.Claims.TilesComplete : Prop := ∀ b : Base,
  let n := 16 * (b.e2.extractLsb' 0 11).toNat
  let tile := fun (x : Operands) => x.a + BitVec.ofInt 64 b.offset
  CompletesOnce (.ldv b) b (fun l => do
    let x ← readSrcs (formOf (.ldv b)) b l
    let t := tile x
    require (t.toNat % 64 == 0) .misaligned t
    require ((x.c.setWidth 32 : Word).toNat % 16 == 0) .misaligned ((x.c.setWidth 32 : Word).setWidth 64)
    let (q, off) ← placeOf (x.c.setWidth 32) n true
    let ver ← farRange t 8
    let enc ← farRange (t + 8) 4
    let data ← farRange (t + 64) n
    if leNat ver % 2 = 1 then retryTile l t else pure ()
    modify fun s =>
      let y := s.party q
      s.setParty q { y with spad := y.spad.writeN off data }
    pure { writes := [(.sreg b.dst.toNat, BitVec.ofNat 32 (leNat enc))], touch := [(t.toNat, 64 + n)],
           tile := some ((x.c.setWidth 32).setWidth 64, data) }) ∧
  (∀ (s s1 s2 s3 : State) (l : Nat) (w : TileWrite), (Instr.stta b).WellFormed → s.Clear (formOf (.stta b)) b →
    (s.acting b).head? = some l → openTile (formOf (.stta b)) b l s = .ok (w, s1) → farWrites w.pieces s1 = .ok (none, s2) →
    farWrite s.who w.pa (leBytes 8 (w.ver + 2).toNat) s2 = .ok ((), s3) →
    exec (.stta b) s = .next (s3.retired (formOf (.stta b)) b { outs := s.issued.map fun j => (j, { hold := some .held }) }))

/-- GTH and SCT (08 R194): with room in the GTH counter and every scratchpad place in range, one transfer of an element for each acting
lane is counted and handed to the engine. -/
def Sys2Proof.Claims.GathersComplete : Prop := ∀ b : Base,
  let esz := 2 ^ (b.e2.extractLsb' 5 3).toNat
  let stride := BitVec.ofNat 32 (b.e2.extractLsb' 16 16).toNat
  let issue := fun (i : Instr) (scatter : Bool) =>
    ∀ (s s1 : State) (es : List (Nat × DWord × Word × Bool)), i.WellFormed → s.Clear (formOf i) b → s.acting b ≠ [] →
      (s.agent s.who).counter .gth < 63 →
      (collect (s.acting b) fun l => do
        let x ← readSrcs (formOf i) b l
        let sp := x.c.setWidth 32 + stride * BitVec.ofNat 32 l
        let _ ← placeOf sp esz (!scatter)
        require (sp.toNat % esz == 0) .misaligned (sp.setWidth 64)
        pure (l, globalAt b x, sp, false)) s = .ok (es, s1) →
      let c := coreOf s.who
      let g : Gather := ⟨s1.uid, s.who, scatter, esz, (b.e2.extractLsb' 0 5).toNat, esz * es.length, es, s.mode⟩
      let t := counted s1 .gth ((s.acting b).headD 0)
      exec i s = .next (State.retired (t.setCore c { t.core c with gathers := (t.core c).gathers ++ [g] }) (formOf i) b
        { outs := es.map fun e => (e.1, { touch := [(e.2.1.toNat, esz)] }) })
  issue (.gth b) false ∧ issue (.sct b) true

/-- Tiles, gathers and scatters (08 R191 to R194). -/
def Obligations.TilesAndGathersComplete : Prop := Sys2Proof.Claims.TilesComplete ∧ Sys2Proof.Claims.GathersComplete

/-- PFT (08 R195): in each acting lane the line is filled into L1 once the home slice has it and L1 has room, but for FN = 001, an
append-only page and a private party; of a flash line that must be read, the read begins; a lane whose address faults does nothing and
raises nothing. -/
def Sys2Proof.Claims.PrefetchCompletes : Prop := ∀ b : Base,
  CompletesLanes (.pft b) b fun l => do
    let x ← readSrcs (formOf (.pft b)) b l
    let s ← get
    let va := globalAt b x
    if s.isPrivate s.who then pure {}
    else do
      let r ← attempt (do
        let ph ← translate s.who s.mode va .load
        let line := ph.pa / 128
        if tierOf ph.pa = some 2 ∧ s.flashSlow line = true then modify fun t => t.startFlash line
        else if ph.ao || b.fn == 1 then pure ()
        else do
          homeReady va ph.pa
          takeLineIn va (coreOf s.who) line
          modify fun t =>
            let c := t.core (coreOf s.who)
            t.setCore (coreOf s.who)
              { c with clean := Sparse.put c.clean line ⟨t.mem.readN (128 * line) 128, t.now, t.badMask line⟩ })
      pure (match r with | .ok _ => { touch := [(va.toNat, 1)] } | .error _ => {})

/-- The four forms of CCTL (08 R196): over the physical ranges of a length other than 0, PUB and WB publish, INV also drops the core's
unmarked lines, and IINV drops the instruction caches of its scope. What the core has translated of the range is acted on; the group is held
when nothing is left of it, stays for what is left, and misses where nothing is translated. IINV traps PRIVILEGE in U. -/
def Sys2Proof.Claims.CacheControlCompletes : Prop := ∀ b : Base,
  let over_ := fun (i : Instr) (iinv : Bool) (ok : State → Prop) (act : State → Nat → List (Nat × Nat) → State) =>
    ∀ (s s1 : State) (l n : Nat) (va : DWord), i.WellFormed → s.Clear (formOf i) b → ok s → (s.acting b).head? = some l →
      ((s.lane s.who l).step = some (.range va n) ∧ s1 = s ∨ (∀ v m, (s.lane s.who l).step ≠ some (.range v m)) ∧
        ∃ x, readSrcs (formOf i) b l s = .ok (x, s1) ∧ va = x.a + BitVec.ofInt 64 b.offset ∧ n = (x.b.setWidth 32 : Word).toNat) →
      let r := s1.physRanges s1.who s1.mode ((va.toNat % 65536 + n + 65535) / 65536) va n
      let t := act s1 (coreOf s1.who) r.1
      let each := fun (o : LaneOut) => s1.issued.map fun j => (j, o)
      (n = 0 → exec i s = .next (s1.retired (formOf i) b {})) ∧
      (n ≠ 0 → r.2.2 = 0 →
        exec i s = .next (State.retired { t with uid := t.uid + 1 } (formOf i) b { outs := each { hold := some (.cache t.uid iinv) } })) ∧
      (r.2.2 ≠ 0 → r.2.2 < n → exec i s = .next (t.retired (formOf i) b { outs := each { stay := some (.range r.2.1 r.2.2) } })) ∧
      (n ≠ 0 → r.2.2 = n →
        exec i s = .next (s.noteMiss s.who s.issued false (granuleKey (s1.space (coreOf s1.who) (s1.partOf s1.who) s1.mode) (va55 va))))
  let pub := fun (s : State) c rs => s.publish c (inRanges rs)
  over_ (.cctlPub b) false (fun _ => True) pub ∧ over_ (.cctlWb b) false (fun _ => True) pub ∧
  over_ (.cctlInv b) false (fun _ => True) (fun s c rs => (pub s c rs).dropLines c rs) ∧
  over_ (.cctlIinv b) true (fun s => s.mode ≠ .u) (fun s c rs => s.dropFetched c b.vecCode rs) ∧
  TrapsWhen (.cctlIinv b) b (fun s => s.mode = .u) (fun s => ⟨.privilege, 0, s.issue.word, false⟩)

/-- IIACK (08 R196): it counts a CCTL.IINV once, when the last lane that the operation holds goes on; no other release counts. -/
def Sys2Proof.Claims.InstructionInvalidationCounts : Prop := ∀ (k u : Nat) (m : Word) (s t : State),
  exec (.operationPerformed k m) s = .next t →
  let held := fun (s : State) l => (s.lane k l).wait = some (.cache u true)
  let count := fun (s : State) => (s.core (coreOf k)).counters.iiack
  (∀ l, m.getLsbD l = true → ¬held t l) ∧
  ((∀ l, m.getLsbD l = true → ∀ v, (s.lane k l).wait ≠ some (.cache v true)) → count t = count s) ∧
  ((∃ l < 32, l < (s.agent k).lanes.length ∧ m.getLsbD l = true ∧ held s l) → (∀ l < (s.agent k).lanes.length, m.getLsbD l = true ∨ ¬held s l) →
    (∀ l v, (s.lane k l).wait = some (.cache v true) → v = u) → count t = count s + 1)

/-- Prefetch and cache control (08 R195, R196). What PFT does on an append-only page and when IIACK counts are the model's reading
(assumption log 41). -/
def Obligations.CachesComplete : Prop := Sys2Proof.Claims.PrefetchCompletes ∧ Sys2Proof.Claims.CacheControlCompletes ∧ Sys2Proof.Claims.InstructionInvalidationCounts

/-- What a party stores by the phased path, it reads back (03 R50). -/
def Obligations.PhasedReadAfterWrite : Prop := ∀ (s : State) (k pa : Nat) (va : DWord) (bs : List Byte), bs ≠ [] →
  pa % 128 + bs.length ≤ 128 → ∃ t, phasedRead k va pa bs.length (s.phasedWrite k pa bs) = .ok (bs, t)

/-- Memory and scratchpad (03 R45): bytes written are read back, every other byte reads as before, and the canonical form is kept. -/
def Obligations.MemoryReadsWhatWasWritten : Prop := ∀ (m : Memory) (a : Nat) (bs : List Byte), Memory.wf m = true →
  (m.writeN a bs).readN a bs.length = bs ∧ (∀ x, (x < a ∨ a + bs.length ≤ x) → (m.writeN a bs).read x = m.read x) ∧
  Memory.wf (m.writeN a bs) = true

/-! ### Synchronisation (spec/03 R46 to R64, 04 R92 to R97, 08 R200 to R207) -/

/-- FENCE (08 R200, 03 R60): a release performs every deferred far access of the agent first; PHASE and PHASE.TEAM (08 R201) put every
lane of the issue to sleep at the instruction, and complete the collective if that was its last arrival. -/
def Sys2Proof.Claims.FencesAndPhasesComplete : Prop := ∀ b : Base,
  Gives (.fence b) b (fun _ => True) (fun s =>
    (if s.acting b ≠ [] ∧ b.fn ≠ 1 then s.drainAll s.who else s).retired (formOf (.fence b)) b {}) ∧
  ∀ (s : State) (team : Bool), let i := if team then Instr.phaseTeam b else .phase b
    i.WellFormed → s.Clear (formOf i) b →
    let t := team && (s.partyOf s.who).team.isSome
    let s1 := s.retired (formOf i) b { outs := s.issued.map fun l => (l, { stay := some (.phase t b.len.bytes) }) }
    (∀ p, (s.party p).det = none) →
    ∃ s2, collective (s1.agent s1.who).party t s1 = .ok ((), s2) ∧ exec i s = .next s2

/-- A barrier's events (04 R93, R95): an arrival and an expectation count up; the phase completes when every member has arrived and every
expected byte has landed; one member too many, or bytes past 2^32 or past what the last member expects, is a misuse. -/
def Sys2Proof.Claims.BarrierEvents : Prop := ∀ (x : Barrier) (n : Nat),
  let done := fun (y : Barrier) => if y.arr = y.memb ∧ y.landb = y.expb
    then { y with phase := (y.phase + 1) % 65536, arr := 0, landb := 0, expb := 0 } else y
  x.arrive n = (if x.arr = x.memb ∨ x.landb + n ≥ 2 ^ 32 ∨ (x.arr + 1 = x.memb ∧ x.expb < x.landb + n) then none
    else some (done { x with arr := x.arr + 1, landb := x.landb + n })) ∧
  x.expect n = (if x.memb = 0 ∨ x.expb + n ≥ 2 ^ 32 then none else some (done { x with expb := x.expb + n }))

/-- BINIT, BEXP, BARA and BWAIT (08 R202, 04 R93 to R95): a barrier is set up, told of bytes, arrived at once by a whole rope, and waited
for until its phase has passed. -/
def Sys2Proof.Claims.BarriersComplete : Prop := ∀ b : Base,
  let n := (b.litWord .ext 0 b.a).toNat
  let pty := fun (s : State) => (s.agent s.who).party
  let bar := fun (s : State) => s.barrier (pty s) n
  let value := fun (i : Instr) (t : State → Word → Option State) =>
    ∀ (s s1 s2 : State) (l : Nat) (x : DWord), i.WellFormed → s.Clear (formOf i) b → (s.acting b).head? = some l →
      readSrc (formOf i) b 1 l s = .ok (x, s1) → s1.mutedBarrier (pty s1) n = false → t s1 (x.setWidth 32) = some s2 →
      exec i s = .next (s2.retired (formOf i) b {})
  value (.binit b) (fun s m =>
    if 1 ≤ m.toNat ∧ m.toNat ≤ 4095 ∧ (bar s).arr = 0 ∧ (bar s).landb = 0 ∧ (bar s).expb = 0 ∧ s.sleepers (pty s) n = false
    then some (s.setBarrier (pty s) n ⟨0, m.toNat, 0, 0, 0⟩) else none) ∧
  value (.bexp b) (fun s m => ((bar s).expect m.toNat).map (s.setBarrier (pty s) n)) ∧
  (∀ s : State, (Instr.bara b).WellFormed → s.Clear (formOf (.bara b)) b → isLead s.who = false → (bar s).memb ≠ 0 →
    let a := s.agent s.who
    let have_ := Sparse.getD a.bara n 0 ||| maskOf s.issued
    let t := s.setAgent s.who { a with bara := Sparse.put a.bara n have_ }
    (a.live.all (fun l => have_.getLsbD l) = false → exec (.bara b) s = .next (t.retired (formOf (.bara b)) b {})) ∧
    ∀ x, a.live.all (fun l => have_.getLsbD l) = true → have_ ≠ 0 → (bar s).arrive 0 = some x →
      let u := t.setBarrier (pty s) n x
      let c := u.agent s.who
      exec (.bara b) s = .next (State.retired (u.setAgent s.who { c with bara := Sparse.drop c.bara n }) (formOf (.bara b)) b {})) ∧
  ∀ (s s1 : State) (l : Nat) (x : DWord), (Instr.bwait b).WellFormed → s.Clear (formOf (.bwait b)) b →
    (s.acting b).head? = some l → readSrc (formOf (.bwait b)) b 1 l s = .ok (x, s1) → (s1.lane s1.who l).step ≠ some .woken →
    (bar s1).memb ≠ 0 →
    let ph := x.toNat % 65536
    let d := ((bar s1).phase + 65536 - ph) % 65536
    (1 ≤ d → d ≤ 32767 → exec (.bwait b) s = .next (s1.retired (formOf (.bwait b)) b { outs := plain (s.acting b) })) ∧
    (d = 0 ∨ 32769 ≤ d → exec (.bwait b) s = .next (s.noteWait s.who s.issued (.barrier n ph)))

/-- The misuses of a barrier that its instruction finds (04 R94, R95): BWAIT at the distance 32,768, and BWAIT, BEXP and BARA on a barrier
whose member count is 0, take BARRIER_STATE with the barrier's number in every acting lane, and the barrier stays as it was; so do BEXP past
2^32 - 1 and BINIT of a barrier in use. -/
def Sys2Proof.Claims.BarrierMisuses : Prop := ∀ b : Base,
  let n := (b.litWord .ext 0 b.a).toNat
  let pty := fun (s : State) => (s.agent s.who).party
  let bar := fun (s : State) => s.barrier (pty s) n
  let trap : Trap := ⟨.barrierState, 0, BitVec.ofNat 64 n, false⟩
  let misuse := fun (i : Instr) (bad : State → Word → Prop) =>
    ∀ (s : State) (x : DWord), i.WellFormed → s.Clear (formOf i) b → s.acting b ≠ [] →
      readSrc (formOf i) b 1 ((s.acting b).headD 0) s = .ok (x, s) → bad s (x.setWidth 32) →
      let ls := if (s.agent s.who).bound.isSome then s.issued else s.acting b
      exec i s = .next (s.retired (formOf i) b { traps := ls.map fun l => (l, trap) })
  misuse (.bwait b) (fun s ph => (s.lane s.who ((s.acting b).headD 0)).step ≠ some .woken ∧
    ((bar s).memb = 0 ∨ ((bar s).phase + 65536 - ph.toNat % 65536) % 65536 = 32768)) ∧
  misuse (.bexp b) (fun s m => s.mutedBarrier (pty s) n = false ∧ ((bar s).memb = 0 ∨ (bar s).expb + m.toNat ≥ 2 ^ 32)) ∧
  misuse (.binit b) (fun s m => s.mutedBarrier (pty s) n = false ∧ 1 ≤ m.toNat ∧ m.toNat ≤ 4095 ∧
    ((bar s).arr ≠ 0 ∨ (bar s).landb ≠ 0 ∨ (bar s).expb ≠ 0 ∨ s.sleepers (pty s) n = true)) ∧
  TrapsWhen (.bara b) b (fun s => isLead s.who = false ∧ (bar s).memb = 0 ∧ s.mutedBarrier (pty s) n = false) (fun _ => trap)

/-- CWAIT (08 R203, 03 R64): the group goes on when no more than the given number of a class are outstanding, and sleeps until then. -/
def Sys2Proof.Claims.CounterWaitCompletes : Prop := ∀ (b : Base) (s s1 : State) (l : Nat) (x : DWord), (Instr.cwait b).WellFormed →
  s.Clear (formOf (.cwait b)) b → (s.acting b).head? = some l → readSrc (formOf (.cwait b)) b 1 l s = .ok (x, s1) →
  let n := (x.setWidth 32 : Word).toNat
  let cls := [EngClass.cpy, .gth, .mat, .col, .apn].getD (b.litWord .ext 0 b.a).toNat .far
  let bad : Trap := ⟨.illegalOperand, 0, s.issue.word, false⟩
  exec (.cwait b) s =
    if 63 < n then .next (if (s.agent s.who).bound.isSome
      then s.retired (formOf (.cwait b)) b { traps := s.issued.map fun j => (j, bad) }
      else s1.retired (formOf (.cwait b)) b { traps := [(l, bad)] })
    else if (s1.agent s.who).counter cls ≤ n then .next (s1.retired (formOf (.cwait b)) b { outs := plain (s.acting b) })
    else .next (s.noteWait s.who s.issued (.cwait cls n))

/-- Fences, phases, barriers and CWAIT (08 R200 to R203). -/
def Obligations.PhasesAndBarriersComplete : Prop := Sys2Proof.Claims.FencesAndPhasesComplete ∧ Sys2Proof.Claims.BarrierEvents ∧ Sys2Proof.Claims.BarriersComplete ∧ Sys2Proof.Claims.BarrierMisuses ∧ Sys2Proof.Claims.CounterWaitCompletes

/-- QLOCK and QUNLK (08 R204, R205): a free lock takes its owner's words; a busy one queues the lane, in the table or the overflow list of
its slice, or where both are full the lane asks again; a release hands the lock to the oldest waiter, or frees it. -/
def Sys2Proof.Claims.QueueLocksComplete : Prop := ∀ b : Base,
  CompletesLanes (.qlock b) b (fun l => do
    let x ← readSrcs (formOf (.qlock b)) b l
    let s ← get
    if (s.lane s.who l).step = some .granted then pure {}
    else do
      let pa ← lockPlace (globalAt b x)
      let s ← get
      let id := ownerWords s s.who l
      let old := s.mem.readN pa 16
      if (s.locks.any fun e => e.who == .lane s.who l) then pure { stay := some .qlock }
      else if old = List.replicate 16 0 ∧ (s.locks.any fun e => e.pa == pa) = false then do
        set (s.writeHome pa (leBytes 8 id.1.toNat ++ leBytes 8 id.2.toNat))
        pure {}
      else do
        require (old != leBytes 8 id.1.toNat ++ leBytes 8 id.2.toNat) .lockState (globalAt b x)
        if s.lockRoom pa then do
          set ({ s with locks := s.locks ++ [⟨pa, .lane s.who l, id.1, id.2, !s.lockTabled pa⟩] } : State)
          pure { stay := some .qlock }
        else pure { stay := some (.slice pa true) }) ∧
  CompletesLanes (.qunlk b) b (fun l => do
    let x ← readSrcs (formOf (.qunlk b)) b l
    let pa ← lockPlace (globalAt b x)
    modify fun s => s.drainAll s.who
    let s ← get
    let id := ownerWords s s.who l
    require (s.mem.readN pa 16 == leBytes 8 id.1.toNat ++ leBytes 8 id.2.toNat) .lockState (globalAt b x)
    match s.locks.find? fun e => e.pa == pa with
    | some e => do
      let t := s.writeHome pa (leBytes 8 e.word0.toNat ++ leBytes 8 e.word1.toNat)
      set (State.grantWaiter { t with locks := t.locks.erase e } e.who)
      pure {}
    | none => do
      set (s.writeHome pa (List.replicate 16 0))
      pure {})

/-- WWAIT and WWAKE (08 R206, R207): a lane returns the word when it was woken or the word is not the one expected, and is armed and sleeps
else, or where its slice has no room asks again; where the destination is scalar, the other acting lanes sleep with the one that asks (08
R188). A wake performs the agent's far accesses and then wakes. -/
def Sys2Proof.Claims.WaitAndWakeComplete : Prop := ∀ b : Base,
  let sleep := fun (act : Nat → M LaneOut) =>
    ∀ (s s1 : State) (outs : List (Nat × LaneOut)), (Instr.wwait b).WellFormed → s.Clear (formOf (.wwait b)) b →
      doAll (s.doers b) act s = .ok (outs, s1) →
      let mates := fun (e : Nat × LaneOut) => ((s.acting b).filter (· != e.1)).map fun j => (j, ({ stay := some (.mate e.1) } : LaneOut))
      exec (.wwait b) s = .next (s1.retired (formOf (.wwait b)) b
        { outs := outs.flatMap fun e => e :: if b.dk = .scl ∧ e.2.stay.isSome = true then mates e else [] })
  sleep (fun l => do
    let x ← readSrcs (formOf (.wwait b)) b l
    let va := globalAt b x
    require (va.toNat % elemSize b == 0) .misaligned va
    let s ← get
    let ph ← translate s.who s.mode va .load
    let bs ← farRead s.who va ph.pa (elemSize b)
    let t ← get
    if (t.lane s.who l).step = some .woken ∨ BitVec.ofNat b.ty.bits (leNat bs) ≠ low b.ty x.c then do
      set (t.withdraw s.who l)
      pure { writes := regWrites b l b.dst.toNat b.ty.is64 (wide b.ty (BitVec.ofNat b.ty.bits (leNat bs))) }
    else do
      if (t.waits.any fun e => e.who == .lane s.who l) then pure { stay := some .wwait }
      else if t.armRoom (sliceOf ph.pa) then do
        set (t.arm (t.partOf s.who) t.asid va (sliceOf ph.pa) (.lane s.who l))
        pure { stay := some .wwait }
      else pure { stay := some (.slice ph.pa false) }) ∧
  CompletesLanes (.wwake b) b (fun l => do
    let x ← readSrcs (formOf (.wwake b)) b l
    let va := globalAt b x
    require (va.toNat % elemSize b == 0) .misaligned va
    let s ← get
    let ph ← translate s.who s.mode va .load
    modify fun t => (t.drainAll s.who).wake (sliceOf ph.pa) (t.partOf s.who) t.asid va (x.c.setWidth 32 : Word).toNat
    pure { hold := some .held })

/-- Locks, WWAIT and WWAKE (08 R204 to R207). That WWAIT and WWAKE translate their address as a load does is the model's reading (assumption
log 45). -/
def Obligations.LocksAndWaitsComplete : Prop := Sys2Proof.Claims.QueueLocksComplete ∧ Sys2Proof.Claims.WaitAndWakeComplete

/-! ### Copies, streams and sequences (spec/04, 08 R208 to R212, 11) -/

/-- CPY (08 R208, 04 R84, R85): with a place and room in its counter, a record without reserved bits makes one counted copy. -/
def Sys2Proof.Claims.CopiesIssue : Prop := ∀ b : Base,
  CompletesOnce (.cpy b) b (fun l => do
    let x ← readSrcs (formOf (.cpy b)) b l
    let s ← get
    if (s.agent s.who).counter .cpy < 63 then pure () else waitFor (.counter .cpy)
    if (s.core (coreOf s.who)).copies.length < 40 then pure () else waitFor .copyFull
    let bs ← copyRecord b l (x.c.setWidth 32)
    let wide := fun (space : Nat) (base : DWord) => space != 0 && decide (base.toNat ≥ 2 ^ 32)
    match parseTraverse bs with
    | none => raise .reservedField (x.c.setWidth 32 |>.setWidth 64)
    | some t => do
      require (!wide t.ssp x.a && !wide t.dsp x.b) .illegalOperand s.issue.word
      require (decide (t.total * t.esz < 2 ^ 32)) .illegalOperand s.issue.word
      let e : Copy := ⟨0, s.who, l, t, x.a, x.b, (b.e2.extractLsb' 0 5).toNat, 0, false, s.mode, []⟩
      modify fun s =>
        let c := counted s .cpy l
        let y := c.core (coreOf s.who)
        c.setCore (coreOf s.who) { y with copies := y.copies ++ [{ e with uid := s.uid }] }
      pure {})

/-- COPY_PROGRESS, TRANSFER_LANDS and OUTSTANDING_COMPLETE (04 R90, R93; 03 R63): a copy moves elements, in the order of its indices, from
and to addresses that its strides give; the others carry an operation to its end. -/
def Sys2Proof.Claims.EnginesProgress : Prop :=
  let ends := fun (i : Instr) (k uid : Nat) (ok : State → Prop) =>
    let far := fun (s : State) => (s.agent k).far.any fun o => o.uid == uid
    EventGives i (fun s => ok s ∧ (s.partyOf k).halted = false ∧ far s = true) (fun s => s.drainFar k fun o => o.uid == uid) ∧
    ∀ e, Performs i (fun s => ok s ∧ (s.partyOf k).halted = false ∧ far s = false ∧
      (s.agent k).flights.any (fun f => f.uid == uid && f.known) = false ∧
      (s.core (coreOf k)).copies.find? (fun (e : Copy) => e.uid == uid) = some e) (landCopy e)
  (∀ (c uid : Nat) (e : Copy), Performs (.copyProgress c uid)
    (fun s => ((s.core c).copies.take 8).find? (fun e => e.uid == uid) = some e ∧ (s.partyOf e.agent).halted = false)
    (moveElements c uid (min 16 (64 / e.trav.esz)))) ∧
  (∀ (e : Copy) (bs : List Byte) (s s1 s2 : State),
    let at_ := fun (ds : List Int) => (List.zipWith (fun (i : Nat) (d : Int) => i * d) (elemIndices e.trav.counts e.next) ds).sum
    readElement e (elementAddr e.trav.ssp e.sbase (at_ e.trav.sstr)) s = .ok (bs, s1) →
    writeElement e (elementAddr e.trav.dsp e.dbase (at_ e.trav.dstr)) bs s1 = .ok ((), s2) → moveElement e s = .ok ((), s2)) ∧
  (∀ uid k, ends (.transferLands uid) k uid fun s => s.ownerOf uid = some k) ∧
  ∀ k cls o, ends (.outstandingComplete k cls) k o.uid fun s => (s.agent k).ops.find? (fun o => o.cls == cls && !o.done) = some o

/-- Copies count their elements by the first index fastest (04 R86). -/
def Sys2Proof.Claims.ElementOrder : Prop := ∀ (c : Nat) (cs : List Nat) (e : Nat), 0 < c →
  elemIndices (c :: cs) (e + 1) = if e % c + 1 < c then (e % c + 1) :: elemIndices cs (e / c)
    else 0 :: elemIndices cs (e / c + 1)

/-- The copy engine and the other engines of a core (04 R84 to R91, 08 R208). -/
def Obligations.CopiesComplete : Prop := Sys2Proof.Claims.CopiesIssue ∧ Sys2Proof.Claims.EnginesProgress ∧ Sys2Proof.Claims.ElementOrder

/-- SPOP, SPSH, SQRY and PRDL (04 R98 to R102, 08 R209, R210): a pop takes the oldest entry, a push adds one of 32 lanes, a query tells the
fill, and a producer starts with eight words of scratchpad. -/
def Sys2Proof.Claims.StreamQueuesComplete : Prop := ∀ b : Base,
  let q := (b.litWord .ext 0 b.a).toNat
  let c := fun (s : State) => s.core (coreOf s.who)
  let put := fun (s : State) es => s.setCore (coreOf s.who) { c s with queues := (c s).queues.set q ⟨es⟩ }
  let owns := fun (s : State) => (c s).producer = some (s.agent s.who).party ∧ s.acting b ≠ []
  let entries := fun (s : State) => ((c s).queue q).entries
  let give := fun (s : State) (v : Nat → Word) =>
    (s.acting b).map fun l => (l, ({ writes := regWrites b l b.dst.toNat false ((v l).setWidth 64) } : LaneOut))
  (∀ e rest, Gives (.spop b) b (fun s => owns s ∧ LeadOrVector b s ∧ entries s = e :: rest ∧ s.streamAhead q = false)
    (fun s => (put s rest).retired (formOf (.spop b)) b { outs := give s fun l => e.getD l 0 })) ∧
  Gives (.spop b) b (fun s => owns s ∧ LeadOrVector b s ∧ entries s = [] ∧ (c s).queuesClosed = false)
    (fun s => s.noteWait s.who s.issued (.stream q)) ∧
  Gives (.spsh b) b (fun s => isProducer s.who = true ∧ s.acting b ≠ [] ∧ (entries s).length < 32)
    (fun s => (put s (entries s ++ [(List.range 32).map fun l =>
      if (s.acting b).contains l then s.readV s.who b.b.field.toNat l else 0])).retired (formOf (.spsh b)) b {}) ∧
  Gives (.sqry b) b owns (fun s =>
    let n := (entries s).length
    let w := BitVec.ofNat 32 ((if (c s).queuesClosed then 65536 else 0) + (32 - n) * 256 + n)
    s.retired (formOf (.sqry b)) b { outs := give s fun _ => w }) ∧
  CompletesOnce (.prdl b) b (fun l => do
    let x ← readSrcs (formOf (.prdl b)) b l
    let s ← get
    let p := (s.agent s.who).party
    let slot := 128 * coreOf s.who + 64
    if (c s).producer = none ∨ ((c s).producer = some p ∧ (s.agent slot).ended = true) then pure ()
    else abort (.trap ⟨.queueState, 0, s.issue.word, false⟩)
    let addr : Word := x.b.setWidth 32
    require (addr.toNat % 4 == 0) .misaligned (addr.setWidth 64)
    let bs ← spadRead s.who addr 32
    let params := (List.range 8).map fun i => BitVec.ofNat 32 (leNat ((bs.drop (4 * i)).take 4))
    modify fun s => s.startProducer (coreOf s.who) p (s.issue.pc + BitVec.ofInt 64 (4 * b.e1.toInt)) params
    pure {})

/-- DQPSH and DQPOP (08 R211): the lead adds an entry, and each rope takes the entries in order. -/
def Sys2Proof.Claims.DecisionQueueCompletes : Prop := ∀ b : Base,
  let dq := fun (s : State) => (s.partyOf s.who).dq
  GivesFrom (.dqpsh b) b 0 (fun s xs => isLead s.who = true ∧ (dq s).entries.length < 64 ∧ xs.map (·.1) = [0])
    (fun s xs =>
      let p := (s.agent s.who).party
      let y := s.party p
      let t := s.setParty p { y with dq := { y.dq with entries := y.dq.entries ++ xs.map (·.2) } }
      (t.freeDecisions p).retired (formOf (.dqpsh b)) b {}) ∧
  (∀ x, Gives (.dqpop b) b (fun s => isLead s.who = false ∧ s.acting b ≠ [] ∧
      (dq s).entries[(s.agent s.who).dqPos - (dq s).base]? = some x)
    (fun s =>
      let a := s.agent s.who
      let t := (s.setAgent s.who { a with dqPos := a.dqPos + 1 }).freeDecisions a.party
      t.retired (formOf (.dqpop b)) b
        { outs := (s.acting b).map fun l => (l, { writes := regWrites b l b.dst.toNat true x }) })) ∧
  Gives (.dqpop b) b (fun s => isLead s.who = false ∧ s.acting b ≠ [] ∧ s.leadLives (s.agent s.who).party = true ∧
      (dq s).entries[(s.agent s.who).dqPos - (dq s).base]? = none)
    (fun s => s.noteWait s.who s.issued .decision)

/-- Stream queues and the decision queue (08 R209 to R211). -/
def Obligations.QueuesComplete : Prop := Sys2Proof.Claims.StreamQueuesComplete ∧ Sys2Proof.Claims.DecisionQueueCompletes

/-- The nine sequence instructions (11 R263 to R272) complete where their operation at the descriptor's home slice does. -/
def Sys2Proof.Claims.SequencesComplete : Prop := ∀ b : Base,
  let count := fun (l n : Nat) => regWrites b l b.dst.toNat false (BitVec.ofNat 64 n)
  let word := fun (x : DWord) => (x.setWidth 32 : Word).toNat
  let lanes := fun (i : Instr) (act : Nat → Via → Operands → M LaneOut) =>
    CompletesIn i b (fun _ => True) (fun s => s.doers b) fun l => do
      let x ← readSrcs (formOf i) b l
      let s ← get
      act l (.lane s.who s.mode) x
  let held := fun (i : Instr) (act : Nat → Via → Operands → M (List (Dest × Word))) =>
    CompletesHeld i b fun l => do
      let x ← readSrcs (formOf i) b l
      let s ← get
      let ws ← act l (.lane s.who s.mode) x
      pure (ws, some .held)
  let store := fun (i : Instr) (rotary : Bool) => lanes i fun _ v x => do
    let n := 16 * (b.e2.extractLsb' 0 13).toNat
    let d ← openPlain v x.a .load
    let s ← get
    require (decide (d.cl ≤ word x.b ∧ word x.b < d.rt) && !d.marked (word x.b)) .seqBounds (BitVec.ofNat 64 (word x.b))
    require (decide (0 ≤ b.offset ∧ b.offset % 16 = 0 ∧ b.offset + n ≤ d.slotBytes)) .illegalOperand s.issue.word
    require ((x.c.setWidth 32 : Word).toNat % 16 == 0) .misaligned ((x.c.setWidth 32 : Word).setWidth 64)
    let bs ← spadRead s.who (x.c.setWidth 32) n
    storeSlot v x.a (word x.b) b.offset bs rotary s.issue.word
    pure { hold := some .held }
  held (.sqnew b) (fun _ v x => do
    let s ← get
    require (word x.b % 64 == 0) .misaligned (BitVec.ofNat 64 (word x.b))
    let bs ← spadRead s.who (x.b.setWidth 32) 64
    newSequence v x.a bs (BitVec.ofNat 64 (word x.b))
    pure []) ∧
  lanes (.sqrsv b) (fun l v x => do
    let d ← openPlain v x.a .atomic
    let r ← reserveSlots v d (word x.b) d.limit
    pure { writes := regWrites b l b.dst.toNat false (reserveWord r) }) ∧
  store (.sqstPlain b) false ∧ store (.sqstRotary b) true ∧
  lanes (.sqcmt b) (fun l v x => do
    modify fun s => s.drainFar s.who fun o => o.lane == l
    let d ← openPlain v x.a .atomic
    let r ← commitSlots v d (word x.b) (word x.c)
    settleParked
    pure { writes := count l r, hold := some .held }) ∧
  held (.sqfrk b) (fun l v x => do
    let s ← get
    let r ← forkSequence v s.who x.a x.b (word x.c)
    pure (count l r)) ∧
  lanes (.sqlen b) (fun l v x => do
    require (x.a != 0) .illegalOperand x.a
    require (x.a.toNat % 64 == 0) .misaligned x.a
    let bs ← viaRead v (x.a + [0, 4].getD b.fn.toNat 12) 4 .load
    pure { writes := count l (leNat bs) }) ∧
  held (.sqfre b) (fun l v x => do
    let r ← freeSequence v x.a
    pure (count l r)) ∧
  ∀ (s s1 : State) (outs : List (Nat × LaneOut)), (Instr.sqabn b).WellFormed → s.Clear (formOf (.sqabn b)) b →
    doAll (s.doers b).reverse (fun l => do
      let x ← readSrcs (formOf (.sqabn b)) b l
      let s ← get
      let v := Via.lane s.who s.mode
      let d ← openPlain v x.a .atomic
      let r ← abandonSlots v d (word x.b) (word x.c)
      pure { writes := count l r, hold := some .held }) s = .ok (outs, s1) →
    exec (.sqabn b) s = .next (s1.retired (formOf (.sqabn b)) b { outs := outs.reverse })

/-- SQLD (08 R197): a committed slot's element, through the block translation. -/
def Sys2Proof.Claims.SequenceLoadCompletes : Prop := ∀ b : Base,
  CompletesIn (.sqld b) b (fun _ => True) (fun s => s.doers b) fun l => do
    let x ← readSrcs (formOf (.sqld b)) b l
    let s ← get
    let v := Via.lane s.who s.mode
    let d ← openDesc v x.a .load
    let i := (x.b.setWidth 32 : Word).toNat
    let n := accessSize b
    require (decide (i < d.cl)) .seqBounds (BitVec.ofNat 64 i)
    require (decide (0 ≤ b.offset ∧ b.offset + n ≤ d.slotBytes)) .illegalOperand s.issue.word
    let (chip, slot) ← locate v d i
    let va := slot + BitVec.ofInt 64 b.offset
    require (va.toNat % n == 0) .misaligned va
    let bs ← locatedRead v s.who chip va n (comparator d (i / d.blockSlots))
    pure { writes := loaded b l bs, touch := [(va.toNat, n)] }

namespace Sys2Proof.Claims

/-- Blocks that a number of slots takes up. -/
def blocksFor (d : Desc) (slots : Nat) : Nat := (slots + 2 ^ d.blog - 1) / 2 ^ d.blog

/-- Bytes of block `k`'s entry in a block table (11 R254). -/
def entryAt (bt1 : DWord) (k : Nat) : DWord := bt1 + BitVec.ofNat 64 (16 * k)

/-- The block that an entry's word 0 names (11 R254): GBN times 128, as a signed address of 55 bits. -/
def blockAt (e : List Byte) : DWord := (BitVec.ofNat 55 (leNat (e.take 8) / 2 ^ 16 * 128)).signExtend 64

/-- Pop a block of a pool (11 R253): FREE falls by one, and the entry of the stack that it then counts is the block. -/
def popped (v : Via) (p : Pool) : M DWord := do
  let free ← viaRead v p.va 4 .atomic
  let a ← viaRead v (p.stack + BitVec.ofNat 64 (8 * (leNat free - 1))) 8 .load
  viaWrite v p.va (leBytes 4 (leNat free - 1))
  pure (BitVec.ofNat 64 (leNat a))

/-- Push a block to a pool (11 R253): to the top of the stack, FREE going up by one; in a full pool LOST goes up by one instead. -/
def pushed (v : Via) (p : Pool) (a : DWord) : M Unit := do
  let bs ← viaRead v p.va 24 .atomic
  let free := leNat (bs.take 4)
  if leNat ((bs.drop 4).take 4) ≤ free then viaWrite v (p.va + 20) (leBytes 4 ((leNat ((bs.drop 20).take 4) + 1) % 2 ^ 32))
  else do
    viaWrite v (p.stack + BitVec.ofNat 64 (8 * free)) (leBytes 8 a.toNat)
    viaWrite v p.va (leBytes 4 (free + 1))

/-- Enter a new block of a pool in a block table (11 R264): GBN, a count of 1, the pool's chip and tier, and PIN. -/
def entered (v : Via) (bt1 : DWord) (k : Nat) (p : Pool) (a : DWord) : M Unit :=
  viaWrite v (entryAt bt1 k) (leBytes 8 (a.toNat / 128 % 2 ^ 48 * 2 ^ 16 + 1) ++ leBytes 8 (4 + 8 * p.tier + 32 * p.chip))

/-- PEND has a slot: it is committed above a hole (11 R252). -/
def pending (d : Desc) (i : Nat) : Prop := d.cl ≤ i ∧ d.pend.getLsbD (i - d.cl) = true

/-- A SEQ_BOUNDS trap at an index. -/
def outOfBounds {α : Type} (i : Nat) : Except Abort (α × State) := .error (.trap ⟨.seqBounds, 0, BitVec.ofNat 64 i, false⟩)

end Sys2Proof.Claims

/-- What SQRSV does at the descriptor (11 R264): nothing for no slots; LIMIT and POOL_EMPTY change nothing; else the blocks that the slots
need are popped from the pool and entered, RT goes up, and the old RT is the answer. -/
def Sys2Proof.Claims.ReservationEffects : Prop := ∀ (v : Via) (d : Desc) (n limit : Nat) (s s1 : State) (p : Pool),
  openPool v d.va d s = .ok (p, s1) →
  let old := blocksFor d d.rt
  let need := blocksFor d (d.rt + n) - old
  let r := reserveSlots v d n limit s
  (n = 0 → r = .ok (.ok d.rt, s1)) ∧
  (0 < n → limit < d.rt + n → r = .ok (.error 5, s1)) ∧
  (0 < n → d.rt + n ≤ limit → p.free < need → r = .ok (.error 4, s1)) ∧
  (0 < n → d.rt + n ≤ limit → need ≤ p.free → r = (do
    forEach (List.range need) fun i => do
      let a ← popped v p
      entered v d.bt1 (old + i) p a
    viaWrite v (d.va + 4) (leBytes 4 (d.rt + n))
    pure (.ok d.rt) : M (Except Nat Nat)) s1)

/-- What SQCMT does at the descriptor (11 R267, R252, R256): the first index of the range that is below CL, at RT or above, or pending already
is out of bounds; a range above CL joins PEND, or is BUSY beyond 128 slots or 16 ranges; a range at CL moves CL past itself and the pending
slots that follow, PEND moving with it, unpins the blocks whose end CL has reached, and wakes those that wait on CL. -/
def Sys2Proof.Claims.CommitEffects : Prop := ∀ (v : Via) (d : Desc) (b c : Nat) (s : State),
  let within := fun i => b ≤ i ∧ i < b + c
  let bad := fun i => within i ∧ (i < d.cl ∨ d.rt ≤ i ∨ pending d i)
  let r := commitSlots v d b c s
  (c = 0 → r = .ok (0, s)) ∧
  (∀ i, bad i → (∀ j < i, ¬bad j) → r = outOfBounds i) ∧
  (0 < c → (∀ i, ¬bad i) → b ≠ d.cl → ∀ set : BitVec 128,
    (∀ i < 128, set.getLsbD i = true ↔ pending d (d.cl + i) ∨ within (d.cl + i)) →
    let runs := (List.range 128).filter fun i => set.getLsbD i && (i == 0 || !set.getLsbD (i - 1))
    r = if d.cl + 128 < b + c ∨ 16 < runs.length then .ok (1, s) else (do
      viaWrite v (d.va + 48) (leBytes 16 set.toNat)
      pure 0 : M Nat) s) ∧
  (0 < c → (∀ i, ¬bad i) → b = d.cl → ∀ (cl : Nat) (set : BitVec 128), b + c ≤ cl →
    (∀ i, b + c ≤ i → i < cl → pending d i) → ¬pending d cl →
    (∀ i < 128, set.getLsbD i = d.pend.getLsbD (cl + i - d.cl)) →
    let k := d.cl / 2 ^ d.blog
    r = (do
      viaWrite v d.va (leBytes 4 cl)
      viaWrite v (d.va + 48) (leBytes 16 set.toNat)
      forEach (List.range (cl / 2 ^ d.blog - k)) fun i => do
        let e ← viaRead v (entryAt d.bt1 (k + i)) 16 .atomic
        let w := BitVec.ofNat 64 (leNat (e.drop 8))
        if (w.extractLsb' 15 49 == 0 && w.getLsbD 2) = true then
          viaWrite v (entryAt d.bt1 (k + i) + 8) (leBytes 8 (w &&& ~~~4).toNat)
        else pure ()
      viaWake v d.va
      pure 0 : M Nat) s)

/-- What SQABN does at the descriptor (11 R268): a range outside [CL, RT) is out of bounds at its first index there; one that does not end at RT
is NOTTAIL, one with a pending slot HELD, and both change nothing; else every block whose first slot lies in the range is pushed to the pool,
and RT goes down. -/
def Sys2Proof.Claims.AbandonmentEffects : Prop := ∀ (v : Via) (d : Desc) (b c : Nat) (s s1 : State) (p : Pool),
  openPool v d.va d s = .ok (p, s1) →
  let held := ∃ i, b ≤ i ∧ i < b + c ∧ pending d i
  let r := abandonSlots v d b c s
  (c = 0 → r = .ok (0, s1)) ∧ (0 < c → b < d.cl → r = outOfBounds b) ∧
  (0 < c → d.cl ≤ b → d.rt < b + c → r = outOfBounds (max b d.rt)) ∧
  (0 < c → d.cl ≤ b → b + c < d.rt → r = .ok (2, s1)) ∧
  (0 < c → d.cl ≤ b → b + c = d.rt → held → r = .ok (3, s1)) ∧
  (0 < c → d.cl ≤ b → b + c = d.rt → ¬held → r = (do
    forEach (List.range (blocksFor d d.rt - blocksFor d b)) fun i => do
      let e ← viaRead v (entryAt d.bt1 (blocksFor d b + i)) 16 .load
      pushed v p (blockAt e)
    viaWrite v (d.va + 4) (leBytes 4 b)
    pure 0 : M Nat) s1)

/-- What SQNEW does (11 R263): an image whose CL, RT, HELD, PEND and FREED are zero, whose CFG is sound and whose addresses are canonical and
aligned is written to the descriptor's address; another is QUEUE_STATE. -/
def Sys2Proof.Claims.NewSequenceEffects : Prop := ∀ (v : Via) (va src : DWord) (bs : List Byte) (s : State),
  let d := Desc.parse va bs
  let sound := d.cl = 0 ∧ d.rt = 0 ∧ d.held = 0 ∧ d.pend = 0 ∧ d.freed = false ∧ d.malformed = false ∧ canonical d.bt1 = true ∧
    d.bt1.toNat % 64 = 0 ∧ canonical d.pool = true ∧ d.pool.toNat % 64 = 0 ∧ d.theta.toNat % 4 = 0 ∧ (d.rot = true ∨ d.theta = 0)
  let trap := fun (c : Cause) (x : DWord) => (.error (.trap ⟨c, 0, x, false⟩) : Except Abort (Unit × State))
  (va = 0 → newSequence v va bs src s = trap .illegalOperand va) ∧
  (va.toNat % 64 ≠ 0 → newSequence v va bs src s = trap .misaligned va) ∧
  (va ≠ 0 → va.toNat % 64 = 0 → ¬sound → newSequence v va bs src s = trap .queueState src) ∧
  (va ≠ 0 → va.toNat % 64 = 0 → sound → newSequence v va bs src s = viaWrite v va bs s)

/-- What SQFRK does (11 R269): past the parent's CL it is out of bounds; MISMATCH, LIMIT and POOL_EMPTY change nothing; else a block for the
last, partial one is popped, filled from the parent and entered, the whole blocks' counts go up and their forked entries are written, and the
child's CL and RT are the length of the prefix. -/
def Sys2Proof.Claims.ForkEffects : Prop := ∀ (v : Via) (who k : Nat) (a b : DWord) (s s1 s2 s3 : State) (parent child : Desc) (p : Pool),
  openDesc v a .load s = .ok (parent, s1) → openPlain v b .atomic s1 = .ok (child, s2) → openPool v b child s2 = .ok (p, s3) →
  let w := k / 2 ^ parent.blog
  let r := forkSequence v who a b k s
  let differ := parent.slog ≠ child.slog ∨ parent.blog ≠ child.blog ∨ child.cl ≠ 0 ∨ child.rt ≠ 0
  (parent.cl < k → r = outOfBounds parent.cl) ∧
  (k ≤ parent.cl → differ → r = .ok (6, s3)) ∧
  (k ≤ parent.cl → ¬differ → 2 ^ child.tlog < blocksFor parent k → r = .ok (5, s3)) ∧
  (k ≤ parent.cl → ¬differ → blocksFor parent k ≤ 2 ^ child.tlog → r = (do
    let counts ← collect (List.range w) fun x => do
      let (_, _, e) ← originOf v parent x .load
      pure (e.w0.toNat % 65536)
    if counts.contains 65535 = true then pure 5
    else if w < blocksFor parent k ∧ p.free = 0 then pure 4
    else do
      if w < blocksFor parent k then do
        let block ← popped v p
        forEach (List.range (k - w * 2 ^ parent.blog)) fun i => do
          let slot := w * 2 ^ parent.blog + i
          let (chip, at_) ← locate v parent slot
          let bs ← locatedRead v who chip at_ parent.slotBytes (comparator parent (slot / 2 ^ parent.blog))
          viaWrite v (block + BitVec.ofNat 64 (i * parent.slotBytes)) bs
        entered v child.bt1 w p block
      else pure ()
      forEach (List.range w) fun x => do
        let (holder, bt1, e) ← originOf v parent x .atomic
        viaWrite v (entryAt bt1 x) (leBytes 8 (e.w0.toNat / 65536 * 65536 + (e.w0.toNat + 1) % 65536) ++ leBytes 8 e.w1.toNat)
        viaWrite v (entryAt child.bt1 x) (leBytes 8 0 ++ leBytes 8 (holder.toNat / 64 % 2 ^ 49 * 2 ^ 15))
      viaWrite v b (leBytes 4 k)
      viaWrite v (b + 4) (leBytes 4 k)
      pure 0 : M Nat) s3)

/-- What SQFRE does (11 R271): the count of every block's origin entry goes down; at 0 the block goes back to its pool where it is still in the
pool's tier, and where the entry lies in another descriptor HELD of that one goes down, and wakes those that wait on it at 0. HELD is then
the number of own entries that are still counted, FREED is set, and CL and RT stay. -/
def Sys2Proof.Claims.FreeEffects : Prop := ∀ (v : Via) (va : DWord) (s s1 : State) (d : Desc), openDesc v va .atomic s = .ok (d, s1) →
  let blocks := List.range (blocksFor d d.rt)
  freeSequence v va s = (do
    forEach blocks fun x => do
      let (holder, bt1, e) ← originOf v d x .atomic
      let n := (e.w0.toNat + 65535) % 65536
      viaWrite v (entryAt bt1 x) (leBytes 8 (e.w0.toNat / 65536 * 65536 + n) ++ leBytes 8 e.w1.toNat)
      if n = 0 then do
        let y ← readDesc v holder .load
        let tier ← poolTier v d.va y
        if e.tier = tier then do
          let p ← openPool v d.va y
          pushed v p (blockAt (leBytes 8 e.w0.toNat))
        else pure ()
        if holder ≠ d.va then do
          let held ← viaRead v (holder + 12) 4 .atomic
          let h := (leNat held + 2 ^ 32 - 1) % 2 ^ 32
          viaWrite v (holder + 12) (leBytes 4 h)
          if h = 0 then viaWake v (holder + 12) else pure ()
        else pure ()
      else pure ()
    let own ← collect blocks fun x => viaRead v (entryAt d.bt1 x) 16 .load
    let held := (own.filter fun e => (BitVec.ofNat 64 (leNat (e.drop 8))).extractLsb' 15 49 == 0 && leNat (e.take 8) % 65536 != 0).length
    viaWrite v (va + 12) (leBytes 4 held)
    viaWrite v (va + 8) (leBytes 4 (d.cfg ||| 0x10000).toNat)
    if held = 0 then viaWake v (va + 12) else pure ()
    pure held : M Nat) s1

/-- Sequences (11 R263 to R272, 08 R197): the instructions, and what their operations do to CL, RT, HELD, PEND, the block table and the pool. -/
def Obligations.SequencesComplete : Prop := Sys2Proof.Claims.SequencesComplete ∧ Sys2Proof.Claims.SequenceLoadCompletes ∧ Sys2Proof.Claims.ReservationEffects ∧ Sys2Proof.Claims.CommitEffects ∧ Sys2Proof.Claims.AbandonmentEffects ∧ Sys2Proof.Claims.NewSequenceEffects ∧ Sys2Proof.Claims.ForkEffects ∧ Sys2Proof.Claims.FreeEffects

/-! ### Durable streams and the fabric (spec/12, 15) -/

/-- APND and AFNC (12 R282, R284): a record's slots are reserved and its transfer counted; lanes that come to an AFNC capture the slots
reserved so far, and go on once those are durable. -/
def Sys2Proof.Claims.DurableStreamsComplete : Prop := ∀ b : Base,
  CompletesHeld (.apnd b) b (fun l => do
    let x ← readSrcs (formOf (.apnd b)) b l
    let s ← get
    let v := Via.lane s.who s.mode
    let len := (x.c.setWidth 32 : Word).toNat
    let spad := b.e2.getLsbD 16
    let _ ← openDurable v x.a
    require (decide (len ≤ 65536)) .illegalOperand s.issue.word
    require (x.b.toNat % 16 == 0) .misaligned x.b
    if spad then do
      require (decide (x.b.toNat < 2 ^ 32)) .illegalOperand x.b
      let _ ← spadRead s.who (x.b.setWidth 32) len
      pure ()
    if (s.agent s.who).counter .apn < 63 then pure () else waitFor (.counter .apn)
    let (d, r) ← reserveRecord v x.a len
    match r with
    | .error c => pure (regWrites b l b.dst.toNat false (reserveWord (.error c)), some .held)
    | .ok seq => do
      modify fun t =>
        let c := counted t .apn l
        let y := c.core (coreOf s.who)
        c.setCore (coreOf s.who) { y with appends := y.appends ++
          [⟨t.uid, s.who, l, x.a, seq, recordSlots d len, len, (b.e2.extractLsb' 0 16).toNat, spad, x.b, [], false, false, s.mode⟩] }
      pure (regWrites b l b.dst.toNat false (BitVec.ofNat 64 seq), some .held)) ∧
  let afnc := fun (s t : State) (n upto : Nat) => ∀ g, s.logs[n]? = some g →
    (upto ≤ g.dslot → exec (.afnc b) s = .next (t.retired (formOf (.afnc b)) b { outs := plain (s.acting b) })) ∧
    (g.dslot < upto → g.err = false → exec (.afnc b) s = .next (t.retired (formOf (.afnc b)) b
      { outs := (s.acting b).map fun l => (l, { stay := some (.durable n upto) }) }))
  (∀ (s s1 : State) (l n upto : Nat), (Instr.afnc b).WellFormed → s.Clear (formOf (.afnc b)) b → (s.acting b).head? = some l →
    (∀ j ∈ s.acting b, s.captured j = none) →
    (do
      let x ← readSrcs (formOf (.afnc b)) b l
      let s ← get
      let d ← openDesc (.lane s.who s.mode) x.a .load
      let t ← get
      match t.logOf (t.partOf t.who) x.a with
      | some (n, _) => do
        require d.dur .queueState x.a
        pure (n, d.rt)
      | none => raise .queueState x.a : M (Nat × Nat)) s = .ok ((n, upto), s1) → afnc s s1 n upto) ∧
  ∀ (s : State) (n upto : Nat), (Instr.afnc b).WellFormed → s.Clear (formOf (.afnc b)) b → s.acting b ≠ [] →
    (∀ j ∈ s.acting b, s.captured j = some (n, upto)) → afnc s s n upto

/-- The bytes of a record (12 R280): the header with its CRC over header and payload, the payload, and zeros up to a slot boundary. -/
def Sys2Proof.Claims.RecordLayout : Prop := ∀ (d : Desc) (tag seq ns : Nat) (p : List Byte),
  let head := fun (crc : Nat) => leBytes 4 p.length ++ leBytes 2 tag ++ leBytes 2 0 ++ leBytes 4 seq ++ leBytes 4 ns ++ leBytes 4 crc ++
    List.replicate 12 0
  recordBytes d tag seq ns p = head (crc32c (head 0 ++ p)).toNat ++ p ++ List.replicate (ns * d.slotBytes - (32 + p.length)) 0 ∧
  recordSlots d p.length = (32 + p.length + d.slotBytes - 1) / d.slotBytes

/-- The events of the storage processor and of the append engine (12 R278 to R283, R286): the next request of the storage processor's
sequence is bound or refused, and then counts as served; the slot images of whole records are programmed in rising order, and the durable
length goes up to their end, where the log has not failed; a failed program sets ERR; a block all of whose slots are durable is demoted to its
page in the log and its staging block pushed back; an append writes its record and commits it, and is then complete. -/
def Sys2Proof.Claims.StorageEventsPerform : Prop :=
  let length := fun (n : Nat) (s : State) => match s.logs[n]? with
    | some g => viaWrite (s.serviceVia g.part) g.dlw (leBytes 8 ((if g.err then 2 ^ 34 else 0) + 2 ^ 32 + g.dslot % 2 ^ 32))
    | none => pure ()
  (∀ (part : Nat) (req : List Byte) (r : Except Trap Unit) (s s1 s2 : State), s.cairnReady 12 = true →
    nextRequest part s.platform.storageSeq s.platform.storageDone s = .ok (some req, s1) →
    attempt (bindStream part req) s1 = .ok (r, s2) →
    exec (.storageBindRequest part s.platform.storageDone) s =
      .next { s2 with platform := { s2.platform with storageDone := s2.platform.storageDone + 1 } }) ∧
  (∀ (n k : Nat) (g : FlashLog),
    Performs (.dslotAdvance n k) (fun s => s.logs[n]? = some g ∧ g.err = false ∧ s.platform.programStopped = false) (do
      let s ← get
      let v := s.serviceVia g.part
      let d ← openDesc v g.desc .load
      let e ← recordEnd v d (min d.cl (g.dslot + k)) k g.dslot
      programSlots v d g (upTo g.dslot e)
      modify fun s => s.dropAnswers (2 ^ 30)
      modify fun s => { s with logs := s.logs.modify n fun g => { g with dslot := e } }
      let s ← get
      length n s) ∧
    EventGives (.dslotAdvance n k) (fun s => s.logs[n]? = some g ∧ (g.err = true ∨ s.platform.programStopped = true)) (fun s => s) ∧
    ∀ s t : State, s.logs[n]? = some g → exec (.dslotAdvance n k) s = .next t → ∃ h, t.logs[n]? = some h ∧ g.dslot ≤ h.dslot) ∧
  (∀ (n : Nat) (g : FlashLog), Performs (.flashProgramFail n) (fun s => s.logs[n]? = some g) (do
    modify fun s => { s with logs := s.logs.modify n fun g => { g with err := true } }
    let s ← get
    length n s)) ∧
  (∀ (n k : Nat) (g : FlashLog), Performs (.blockDemotion n k) (fun s => s.logs[n]? = some g) (do
    let s ← get
    let v := s.serviceVia g.part
    let d ← openDesc v g.desc .load
    let p ← openPool v g.desc d
    let e ← readEntry v d.bt1 k .atomic
    if (e.isOrigin && !e.w1.getLsbD 2 && e.tier < 2 && (k + 1) * d.blockSlots ≤ g.dslot) = true then do
      let page := (g.base + BitVec.ofNat 64 (k * d.blockBytes)).extractLsb' 7 48
      writeEntry v d.bt1 k ⟨page.setWidth 64 <<< 16 ||| BitVec.ofNat 64 e.refs, e.w1 &&& ~~~(24 : DWord) ||| 16⟩
      pushBlock v p e.block
    else pure ())) ∧
  (∀ (uid : Nat) (e : Append) (s s1 s2 s3 : State) (bytes : List Byte), s.findAppend uid = some e →
    (s.partyOf e.agent).halted = false → e.held = false →
    (if e.written then (e.got, (none : Option Trap), s) = (bytes, none, s1) else appendSource e s = .ok ((bytes, none), s1)) →
    s1.dry e.agent e.uid = false →
    let v : Via := .unit e.agent e.uid e.mode false
    (do
      if e.written then pure () else writeRecord v e.desc e.tag e.seq e.ns bytes
      commitRecord v e.desc e.seq e.ns) s1 = .ok (true, s2) →
    (do
      modCore (coreOf e.agent) fun x => { x with appends := x.appends.filter fun y => y.uid != e.uid }
      landTransfer e.agent e.uid e.lane 31 0) s2 = .ok ((), s3) →
    exec (.appendTransfer uid) s = .next s3) ∧
  ∀ uid, EventGives (.appendTransfer uid) (fun s => s.findAppend uid = none) (fun s => s)

/-- Durable streams (12 R277 to R286). That the storage processor serves one request at an event, in the order of its service sequence, and
the space in which it reads are the model's choices (assumption logs 54 and 99). -/
def Obligations.DurableStreamsComplete : Prop := Sys2Proof.Claims.DurableStreamsComplete ∧ Sys2Proof.Claims.RecordLayout ∧ Sys2Proof.Claims.StorageEventsPerform

/-! ### The camp matrix engine and attention (spec/10, 11) -/

/-- OCLM and ACLM (10 R242, R244): a slot or tile that is free and allowed is claimed with its type, and its number returned; the lanes
are held. -/
def Sys2Proof.Claims.ClaimsComplete : Prop := ∀ b : Base,
  let party := fun (s : State) => (s.agent s.who).party
  let number := fun (l n : Nat) => (regWrites b l b.dst.toNat false (BitVec.ofNat 64 n), some Wait.held)
  CompletesHeld (.aclm b) b (fun l => do
    let x ← readSrcs (formOf (.aclm b)) b l
    let s ← get
    let v : Word := x.a.setWidth 32
    let held := fun n => (s.heldTile (party s) n).isSome
    let n ← if v = 0xFFFFFFFF then claimAny true 32 held
      else do
        let n ← tileRef v
        if held n then slotFault true 3 n else pure n
    if (Sparse.find? (s.party (party s)).tiles n).isSome then waitFor (.release true n)
    if s.campAllows (campOf (coreOf s.who)) (s.partOf s.who) true then pure () else slotFault true 5 n
    modify fun s =>
      let y := s.party (party s)
      s.setParty (party s) { y with tiles := Sparse.put y.tiles n ⟨b.ty, []⟩ }
    pure (number l n)) ∧
  CompletesHeld (.oclm b) b (fun l => do
    let x ← readSrcs (formOf (.oclm b)) b l
    let s ← get
    let v : Word := x.a.setWidth 32
    let fmt : Word := x.b.setWidth 32
    let n ← if v = 0xFFFFFFFF then claimAny false 128 fun i => (s.heldSlot (party s) i).isSome
      else do
        let (_, n, nb) ← slotRef v
        if nb then slotFault false 2 v.toNat
        if (s.heldSlot (party s) n).isSome then slotFault false 3 v.toNat else pure n
    if (recordFault b.ty fmt b.e2).isSome then raise .illegalOperand s.issue.word else pure ()
    let m ← metaOf b (fmtRole fmt) (x.c.setWidth 32)
    if (Sparse.find? (s.party (party s)).slots n).isSome then waitFor (.release false n)
    if s.campAllows (campOf (coreOf s.who)) (s.partOf s.who) false then pure () else slotFault false 5 n
    modify fun s =>
      let y := s.party (party s)
      s.setParty (party s) { y with slots := Sparse.put y.slots n ⟨b.ty, fmt, b.e2, m, []⟩ }
    pure (number l n))

/-- OREL and AREL (10 R243): a release arrives at the camp and the lanes sleep; RELEASE_COMPLETE drops the claim and wakes them once no
earlier operation on it is left. -/
def Sys2Proof.Claims.ReleasesComplete : Prop :=
  let waits := fun (b : Base) (i : Instr) (own : Word → M Nat) (kind : Nat → CampKind) =>
    CompletesHeld i b fun l => do
      let x ← readSrcs (formOf i) b l
      let n ← own (x.a.setWidth 32)
      let s ← get
      let c := campOf (coreOf s.who)
      let p := (s.agent s.who).party
      let y := s.camp c
      set (State.setCamp { s with uid := s.uid + 1 } c { y with ops := y.ops ++
        [⟨s.uid, s.who, p, l, s.mode, (s.party p).prio, kind n, arrivedAt { s with uid := s.uid + 1 }⟩] })
      pure ([], some (.camp s.uid))
  (∀ b, waits b (.orel b) (fun v => do let r ← ownSlot v; pure r.1) .orel ∧ waits b (.arel b) (fun v => do let r ← ownTile v; pure r.1) .arel) ∧
  ∀ (c u : Nat) (o : CampOp), EventGives (.releaseComplete c u)
    (fun s => s.campOp c u = some o ∧ o.isRelease = true ∧ s.blocked c o = false)
    (fun s =>
      let x := s.camp c
      let t := s.setCamp c { x with ops := x.ops.filter fun o => o.uid != u }
      let y := t.party o.party
      let z := match o.kind with
        | .orel n => { y with slots := Sparse.drop y.slots n }
        | .arel n => { y with tiles := Sparse.drop y.tiles n }
        | _ => y
      (t.setParty o.party z).wakeLanes o.agent fun w => w == .camp u)

/-- OLD, MMA, ACRD, ACWR and ATTNF (10 R245 to R247, 11 R277): after their checks the operation is counted in MAT and arrives at the camp. -/
def Sys2Proof.Claims.MatrixOperationsIssue : Prop := ∀ b : Base,
  let w := fun (x : DWord) => (x.setWidth 32 : Word)
  let spadForm := b.e2.getLsbD 14
  let first := (b.e2.extractLsb' 0 7).toNat
  let rows := (b.e2.extractLsb' 7 7).toNat + 1
  let index := fun (x : Operands) => (w x.b).toNat
  OnceThen (.old b) b .mat (fun _ x => do
    let (n, _) ← ownSlot (w x.a)
    let off := (w x.c).toNat
    let len := 16 * (b.e2.extractLsb' 16 11).toNat
    let s ← get
    require (decide (0 < len ∧ len ≤ 16384 ∧ off + len ≤ 16384)) .illegalOperand s.issue.word
    require ((w x.b).toNat % 16 == 0) .misaligned (BitVec.ofNat 64 (w x.b).toNat)
    require (off % 16 == 0) .misaligned (BitVec.ofNat 64 off)
    let _ ← spadRead s.who (w x.b) len
    pure (n, w x.b, off, len))
    (fun s l (n, src, off, len) => arrives s l (arrivedAt s) (.old n src off len (b.e2.extractLsb' 0 5).toNat)) ∧
  OnceThen (.mma b) b .mat (fun l x => do
    let (ap, an, ac) ← mmaOperand (w x.a) false
    let (bp, bn, bc) ← mmaOperand (w x.b) true
    let cls := passClass ac.ty
    if cls = passClass bc.ty then pure () else slotFault false 4 (w x.b).toNat
    let (t, tc) ← ownTile (w x.c)
    if tc.ty = (if cls = 2 then .i32 else .f32) then pure () else slotFault true 4 t
    let k := (b.e2.extractLsb' 0 9).toNat
    let s ← get
    require (decide (k % chunkLen cls = 0 ∧ k ≤ kFull cls)) .illegalOperand s.issue.word
    tablePlace l
    pure (CampKind.mma ap an bp bn t (b.fn == 1) k))
    (fun s l kind => arrives s l (.tabled 0 0 s.uid) kind) ∧
  OnceThen (.attnf b) b .mat (fun _ x => do
    let (t, tc) ← ownTile (w x.c)
    if tc.ty = .f32 then pure t else slotFault true 4 t)
    (fun s l t => arrives s l (arrivedAt s) (.attnf t)) ∧
  OnceThen (.acrd b) b .mat (fun _ x => do
    let t ← tileOperand b x
    let addr ← if spadForm then tileSpad b x true else pure 0
    pure (t, addr, index x))
    (fun s l (t, addr, i) =>
      if spadForm then arrives s l (arrivedAt s) (.acrdSpad t addr first rows b.ty b.fn)
      else
        let u := arrives s l (arrivedAt s) (.acrdReg t b.dst.toNat (maskOf (s.acting b)) i 0)
        let a := u.agent s.who
        u.setAgent s.who { a with flights := a.flights ++
          [⟨s.uid, none, (s.acting b).map fun j => (.vreg b.dst.toNat j, 0), false⟩] }) ∧
  OnceThen (.acwr b) b .mat (fun _ x => do
    let t ← tileOperand b x
    let addr ← if spadForm then tileSpad b x false else pure 0
    pure (t, addr, index x))
    (fun s l (t, addr, i) => arrives s l (arrivedAt s) (if spadForm then .acwrSpad t addr first rows
      else .acwrReg t i ((s.acting b).map fun j => (j, s.readV s.who b.c.field.toNat j))))

/-- ATTN (11 R273, R274): a record that fits the sequence, the query slot and the tile starts an operation at its first key. The lane's
outcome carries the descriptor that it read, for the log of a deterministic party (16 R360). -/
def Sys2Proof.Claims.AttentionIssues : Prop := ∀ b : Base,
  let checks := fun (l : Nat) => (do
    let x ← readSrcs (formOf (.attn b)) b l
    let s ← get
    let bs ← attnRecord b l (x.b.setWidth 32)
    require (!attnReserved bs) .reservedField s.issue.word
    require (x.a != 0) .illegalOperand x.a
    require (x.a.toNat % 64 == 0) .misaligned x.a
    let raw ← viaRead (.lane s.who s.mode) x.a 64 .load
    let d := Desc.parse x.a raw
    require (!d.freed && !d.malformed) .queueState x.a
    require (attnFits bs d) .illegalOperand s.issue.word
    let q := attnQslot bs
    match s.heldSlot (s.agent s.who).party q with
    | none => slotFault false 1 q
    | some c =>
      if fmtRole c.fmt = 0 ∧ fmtScaled c.fmt = false ∧ fmtLayout c.fmt = false ∧ passClass c.ty = passClass (attnTy (attnKty bs)) then pure ()
      else slotFault false 4 q
    let (t, tc) ← ownTile (x.c.setWidth 32)
    if tc.ty = .f32 then pure () else slotFault true 4 t
    require (decide (attnBegin bs ≤ attnEnd bs ∧ attnEnd bs ≤ d.cl)) .seqBounds (BitVec.ofNat 64 (attnEnd bs))
    pure (x.a, bs, t, raw) : M (DWord × List Byte × Nat × List Byte))
  ∀ (s s1 : State) (l t : Nat) (d : DWord) (bs raw : List Byte), (Instr.attn b).WellFormed → s.Clear (formOf (.attn b)) b →
    (s.acting b).head? = some l → (s.agent s.who).counter .mat < 63 → checks l s = .ok ((d, bs, t, raw), s1) →
    exec (.attn b) s = .next ((arrives s1 l (arrivedAt s1) (.attn d bs t (attnBegin bs) s1.uid none)).retired (formOf (.attn b)) b
      { outs := [(l, { tile := some (d, raw) })] })

/-- The order of the reservation table (10 R238, R239): every entry that is not granted yet, by EP, highest first, and among equal EP in the
order of arrival; EP is the task's priority and the age together, at most 7, and the age a 256th of the cycles waited, at most 255. -/
def Sys2Proof.Claims.ReservationOrder : Prop :=
  (∀ ops : List CampOp,
    (∀ o, o ∈ byEp ops ↔ o ∈ ops ∧ ∃ w age n, o.phase = .tabled w age n) ∧
    (byEp ops).Pairwise fun x y => y.ep < x.ep ∨ (y.ep = x.ep ∧ x.seq.getD 0 ≤ y.seq.getD 0)) ∧
  ∀ (o : CampOp) (w age n : Nat), o.phase = .tabled w age n →
    o.ep = min 7 (o.prio + age) ∧ o.seq = some n ∧ ageOf w = min 255 (w / 256)

/-- The walk of the arbiter (10 R239, R240), over the entries in their order: an entry is granted exactly when it is eligible, both of its
arrays are free, and no eligible entry before it needs either of them: that one has been granted, or has reserved them. An entry that is not
eligible stands in nobody's way. -/
def Sys2Proof.Claims.ArbiterGrants : Prop := ∀ (s : State) (c : Nat) (pre post : List CampOp) (o : CampOp) (busy : List Nat),
  ((pre ++ o :: post).map (·.uid)).Nodup →
  let arrays := fun (x : CampOp) => [coreOf x.agent % 4, (coreOf x.agent % 4 + 1) % 4]
  (o.uid ∈ arbitrate s c (pre ++ o :: post) busy [] ↔
    s.blocked c o = false ∧ ∀ a ∈ arrays o, a ∉ busy ∧ ∀ x ∈ pre, s.blocked c x = false → a ∉ arrays x)

/-- ARBITER_CYCLE (10 R228, R238, R239): the cycle passes for every operation of the camp and those that wait enter the table; then the entries
that the walk grants, from the arrays that passes occupy now, begin their occupancy, and the others have waited one cycle more. -/
def Sys2Proof.Claims.ArbiterCycleCompletes : Prop := ∀ (s : State) (c : Nat),
  let u := s.tickDie (c / 40) (320 + c)
  let v := State.enterTable (u.setCamp c { u.camp c with ops := (u.camp c).ops.map u.tick }) c 64
  let ops := (v.camp c).ops
  let arrays := fun (x : CampOp) => [coreOf x.agent % 4, (coreOf x.agent % 4 + 1) % 4]
  let won := arbitrate v c (byEp ops) ((ops.filter (·.occupies)).flatMap arrays) []
  ∃ t, exec (.arbiterCycle c) s = .next t ∧ t.mem = s.mem ∧ t.agents = s.agents ∧ t.parties = s.parties ∧
    ((ops.map (·.uid)).Nodup → ∀ o ∈ ops, ∀ w age n, o.phase = .tabled w age n →
      ∃ x ∈ (t.camp c).ops, x.uid = o.uid ∧
        x.phase = if o.uid ∈ won then .granted (v.occupancy o) else .tabled (w + 1) age n)

/-- The camp's own events (10 R228, R236, R238, R239; 11 R276). A pass reads its slots when its occupancy ends (assumption log 47), and a block
whose remote access fails is held as one that fails here (assumption log 98). -/
def Sys2Proof.Claims.CampEvents : Prop := ∀ (c u : Nat) (o : CampOp),
  EventGives (.reservationAge c u) (fun _ => True) (fun s =>
    let up := fun (o : CampOp) => match o.phase with
      | .tabled n _ k => if o.uid = u then { o with phase := .tabled n (ageOf n) k } else o
      | _ => o
    let x := s.camp c
    s.setCamp c { x with ops := x.ops.map up }) ∧
  (∀ ap an bp bn t z k ws, Performs (.passRetire c u)
    (fun s => s.campOp c u = some o ∧ o.kind = .mma ap an bp bn t z k ∧ o.phase = .writing 0 ws)
    (do
      modParty o.party fun y => { y with tiles := Sparse.adjust y.tiles t fun c => { c with words := ws } }
      dropOp c u
      noteComplete o.agent u
      modify fun s => s.finishOp o.agent u)) ∧
  ∀ desc bs t k parent query, Performs (.attnBlockDone c u)
    (fun s => s.campOp c u = some o ∧ o.kind = .attn desc bs t k parent query ∧ o.phase = .granted 0)
    (do
      let r ← attempt (attnBlock o desc bs t k parent query)
      match r with
      | .ok _ => do
        dropOp c u
        modify fun s => s.dropAnswers (engineWho o.agent)
        if attnEnd bs ≤ k + 64 then do
          noteComplete o.agent parent
          modify fun s => s.finishOp o.agent parent
      | .error x => do
        modify fun s => s.dropAnswers (engineWho o.agent)
        modOp c u fun o => { o with phase := .held }
        modify fun s => s.holdFault o.agent parent o.lane x)

/-- The camp matrix engine (10 R236 to R248, 11 R273 to R276). When passes run and arrays are held (assumption log 47), and the block that a
fault of another chip's read holds (assumption log 98), are the model's reading. -/
def Obligations.MatrixComplete : Prop := Sys2Proof.Claims.ClaimsComplete ∧ Sys2Proof.Claims.ReleasesComplete ∧ Sys2Proof.Claims.MatrixOperationsIssue ∧ Sys2Proof.Claims.AttentionIssues ∧ Sys2Proof.Claims.ReservationOrder ∧ Sys2Proof.Claims.ArbiterGrants ∧ Sys2Proof.Claims.ArbiterCycleCompletes ∧ Sys2Proof.Claims.CampEvents

/-! ### The fabric (spec/15 R346 to R355) -/

/-- COLL and RBLK (15 R350 to R353, R355): after their checks one operation is counted in COL and begins. -/
def Sys2Proof.Claims.FabricOperationsIssue : Prop := ∀ b : Base,
  let bar := (b.e2.extractLsb' 0 5).toNat
  let w := fun (x : DWord) => (x.setWidth 32 : Word)
  let block := fun (x : Operands) => (do
    let s ← get
    let n := (w x.c).toNat
    require (decide (n % 16 = 0 ∧ n ≤ 2 ^ 24 ∧ x.a.toNat % 16 = 0 ∧ x.b.toNat % 16 = 0)) .illegalOperand s.issue.word
    pure (n, x.a, x.b) : M (Nat × DWord × DWord))
  let chip := (b.e2.extractLsb' 5 10).toNat
  OnceThen (.rblkSeq b) b .col (fun _ x => do
    let s ← get
    let v := Via.lane s.who s.mode
    let d ← openDesc v x.a .load
    let i := (w x.b).toNat
    require (decide (i < ceilDiv d.cl d.blockSlots)) .seqBounds (BitVec.ofNat 64 i)
    let (chip, src) ← locate v d (i * d.blockSlots)
    pure (d, i, chip, src, x.c))
    (fun s l (d, i, chip, src, dst) => beginsCol s l 0 chip src dst d.blockBytes bar (leBytes 8 (comparator d i).toNat) []) ∧
  OnceThen (.rblkGet b) b .col (fun _ x => block x) (fun s l (n, remote, own) => beginsCol s l 1 chip remote own n bar [] []) ∧
  OnceThen (.rblkPut b) b .col (fun _ x => block x) (fun s l (n, remote, own) => beginsCol s l 2 chip own remote n bar [] []) ∧
  OnceThen (.coll b) b .col (fun l x => do
    let s ← get
    let bs ← collRecord b l (w x.a)
    let c := Coll.parse bs
    require (!collReserved bs) .reservedField s.issue.word
    require (decide (1 ≤ c.cnt ∧ c.cnt ≤ 2 ^ 24)) .illegalOperand s.issue.word
    require (c.group.toNat % 16 == 0) .misaligned c.group
    let head ← farRange c.group 16
    let n := groupRanks head
    require (decide (1 ≤ n ∧ n ≤ 1024 ∧ groupRank head < n)) .illegalOperand s.issue.word
    let chips ← farRange (c.group + 16) (2 * n)
    let g := head ++ chips
    require (groupChip g (groupRank g) == s.chip && !(c.mode == 2 && (c.red != 0 || c.elem.isInt)) && !c.overlaps n)
      .illegalOperand s.issue.word
    pure (c, bs, g, n))
    (fun s l (c, bs, g, n) => beginsCol s l 3 s.chip c.src c.dst (c.dstBytes n) bar bs g)

/-- Messages that arrive (15 R348, R349): a request is performed and answered, or refused with a NAK; an answer ends what waits for it, and
waits itself while the collective that it answers is saved in a frame (14 R335). Without a fabric engine that is ready nothing is taken in
(17 R375). -/
def Sys2Proof.Claims.MessagesPerform : Prop := ∀ (n : Nat) (m : Msg) (e : ColOp),
  let here := fun (s : State) (kind : Nat) => s.arrived n kind = some m
  Performs (.roiloRead n) (fun s => here s 0) (serve n m fun v => do
    let bs ← viaRead v m.addr m.len .load
    pure (1, bs)) ∧
  Performs (.roiloWrite n) (fun s => here s 2) (serve n m fun v => do
    viaWrite v m.addr m.payload
    pure (3, [])) ∧
  (∀ (s s1 : State) (p : Nat) (bs : List Byte), s.jobPart m = some p →
    viaRead (s.fabricVia p) m.addr m.len .load { s with msgs := Sparse.drop s.msgs n } = .ok (bs, s1) →
    serve n m (fun v => do
      let bs ← viaRead v m.addr m.len .load
      pure (1, bs)) s = .ok ((), s1.send m.chip { m with kind := 1, chip := s1.chip, payload := bs, cause := none })) ∧
  Performs (.roiloReadData n) (fun s => here s 1 ∧ s.findCol m.tag = some e) (landData n m e) ∧
  Performs (.roiloReadData n) (fun s => here s 1 ∧ s.findCol m.tag = none ∧ s.colSaved m.tag = false) (do
    dropMsg n
    modify fun s => s.answerRemote m.tag (.ok m.payload)) ∧
  Performs (.roiloWriteAck n) (fun s => here s 3 ∧ m.payload = [] ∧ s.findCol m.tag = some e ∧ e.waits = true) (do
    dropMsg n
    landCol e) ∧
  Performs (.roiloWriteAck n) (fun s => here s 3 ∧ m.payload ≠ [] ∧ s.collOf m = some e) (do
    dropMsg n
    modCol (coreOf e.agent) e.uid fun x => { x with acked := (m.addr.toNat * 2 ^ 40 + m.offset) :: x.acked }) ∧
  Performs (.roiloRdv n) (fun s => here s 4 ∧ s.collFor m = some e ∧ e.met.contains m.rank = false) (do
    dropMsg n
    if m.body e = e.digest then modCol (coreOf e.agent) e.uid fun x => { x with met := x.met ++ [m.rank] }
    else do
      modify fun s => s.send m.chip { m with kind := 6, chip := s.chip, cause := none }
      failCol e ⟨.queueState, 0, BitVec.ofNat 64 e.coll.tag, true⟩) ∧
  Performs (.roiloCdata n) (fun s => here s 5 ∧ s.collFor m = some e ∧ e.met.contains m.rank = true) (do
    dropMsg n
    modCol (coreOf e.agent) e.uid fun x => { x with got := Sparse.put x.got (m.rank * 2 ^ 40 + m.offset) (m.body e) }
    modify fun s => s.send m.chip { m with kind := 3, chip := s.chip, cause := none, payload := groupKey e.group }) ∧
  (∀ k ∈ [4, 5], Performs (if k = 4 then .roiloRdv n else .roiloCdata n)
    (fun s => here s k ∧ s.collFor m = none ∧ s.jobPart m = none) (do
      dropMsg n
      modify fun s => s.send m.chip { m with kind := 6, chip := s.chip, cause := some (.queueState, 0) })) ∧
  Performs (.roiloNak n) (fun s => here s 6 ∧ (if m.payload = [] then s.findCol m.tag = some e ∧ e.waits = true else s.collOf m = some e)) (do
    dropMsg n
    failCol e (e.refused m)) ∧
  (∀ i ∈ [Instr.roiloWriteAck n, .roiloNak n], EventGives i (fun s => here s (if i = .roiloNak n then 6 else 3) ∧ m.payload ≠ [] ∧
    s.collOf m = none ∧ s.collSaved m = true) (fun s => s)) ∧
  (∀ i ∈ [Instr.roiloRead n, .roiloReadData n, .roiloWrite n, .roiloWriteAck n, .roiloRdv n, .roiloCdata n, .roiloNak n],
    EventGives i (fun s => s.fabricReady = false) (fun s => s)) ∧
  (∀ u, Performs (.transportTimeout u) (fun s => s.findCol u = some e ∧ s.dry e.agent u = false ∧
    (e.waits = true ∨ (e.kind = 3 ∧ e.remote = true ∧ (e.full && e.delivered) = false))) (failCol e e.lost)) ∧
  ∀ u, EventGives (.transportTimeout u) (fun s => s.findCol u = none ∧ (∃ r ∈ s.remotes, r.uid = u ∧ r.answer = none))
    (fun s => s.answerRemote u (.error (.queueState, 0)))

/-- The fabric (15 R346 to R355). The fields and kinds of messages, the NAK of a collective without a job, and the keys of acknowledgements
are the model's choices (assumption logs 52, 76 and 77). -/
def Obligations.FabricCompletes : Prop := Sys2Proof.Claims.FabricOperationsIssue ∧ Sys2Proof.Claims.MessagesPerform

/-! ### Bound lanes and long integers (spec/09) -/

/-- LBND (09 R214, R215): a rope binds when all its lanes issue together with equal loop registers and it is not bound; it unbinds, or its
sticky flags clear, when it is. Else every lane of the issue takes BIND_STATE with the mask of the issue. -/
def Sys2Proof.Claims.BindingCompletes : Prop := ∀ b : Base,
  let n := (b.litWord .ext 0 b.a).toNat
  let whole := fun (s : State) => s.issue.lanes = BitVec.allOnes 32 ∧ (s.agent s.who).bound = none ∧
    ∀ l < 32, (s.lane s.who l).lc0 = (s.lane s.who 0).lc0 ∧ (s.lane s.who l).lc1 = (s.lane s.who 0).lc1
  let isBound := fun (s : State) => (s.agent s.who).bound.isSome = true
  let form := fun (i : Instr) (ok : State → Prop) (f : Agent → Agent) =>
    Gives i b (fun s => isLead s.who = false ∧ ok s) (fun s => (s.setAgent s.who (f (s.agent s.who))).retired (formOf i) b {}) ∧
    Gives i b (fun s => isLead s.who = false ∧ ¬ok s) (fun s => s.retired (formOf i) b
      { traps := s.issued.map fun l => (l, ⟨.bindState, 0, s.issue.lanes.setWidth 64, false⟩) })
  form (.lbndOn b) whole (fun a => { a with bound := some n, sticky := List.replicate (32 / n) 0 }) ∧
  form (.lbndOff b) isBound (fun a => { a with bound := none, sticky := [] }) ∧
  form (.lbndClr b) isBound (fun a => { a with sticky := List.replicate (32 / a.bound.getD 32) 0 })

/-- LARI, LSHF and LMUL (09 R220 to R223): the long value of each group, taken as one number of 32n bits, in its limbs; a carry, borrow,
comparison or lost bit in a predicate of every lane of the group. -/
def Sys2Proof.Claims.LongIntegersComplete : Prop := ∀ b : Base,
  let p := (b.litWord .ext 2 b.c).toNat
  let d := b.dst.toNat
  let u := fun (s : State) (r base n : Nat) => ((List.range n).map fun j => (s.readV s.who r (base + j)).toNat * 2 ^ (32 * j)).sum
  let int : Nat → Nat → Int := fun n v => if b.ty.isSigned ∧ 2 ^ (32 * n) ≤ 2 * v then (v : Int) - 2 ^ (32 * n) else (v : Int)
  let long := fun (i : Instr) (bUsed : Bool) (f : Nat → Nat → Nat → Nat → Option (List (Dest × Word))) =>
    CompletesGroups i b fun n base => do
      let s ← get
      let x := u s b.a.field.toNat base n
      let y ← if !bUsed then pure 0 else if b.b.kind = .vec then pure (u s b.b.field.toNat base n)
        else do
          let y ← readSrc (formOf i) b 1 base
          pure (valueOf b.ty.isSigned (low b.ty y) % 2 ^ (32 * n)).toNat
      match f n base x y with
      | some ws => pure ws
      | none => raise .limbOverflow (BitVec.ofNat 64 base)
  let short := fun (i : Instr) (f : State → Nat → Nat → Nat → Nat → Option (List (Dest × Word))) =>
    CompletesGroups i b fun n base => do
      let s ← get
      let x := u s b.a.field.toNat base n
      let y ← readSrc (formOf i) b 1 base
      let t ← get
      match f s n base x (y.setWidth 32 : Word).toNat with
      | some ws => pure ws
      | none => raise .illegalOperand t.issue.word
  let both := fun (base n v : Nat) (c : Bool) => some (limbs d base n v ++ inGroup base n p c)
  long (.lariAdd b) true (fun n base x y => both base n (x + y) (decide (2 ^ (32 * n) ≤ x + y))) ∧
  long (.lariSub b) true (fun n base x y => both base n (x + 2 ^ (32 * n) - y) (decide (x < y))) ∧
  long (.lariNeg b) false (fun n base x _ => both base n (2 ^ (32 * n) - x) (decide (x ≠ 0))) ∧
  long (.lariAddt b) true (fun n base x y =>
    let t := int n x + int n y
    let fits := if b.ty.isSigned then -2 ^ (32 * n) ≤ 2 * t ∧ 2 * t < 2 ^ (32 * n) else t < 2 ^ (32 * n)
    if fits then both base n (x + y) (decide (2 ^ (32 * n) ≤ x + y)) else none) ∧
  long (.lariCmp b) true (fun n base x y =>
    some (inGroup base n d (decide (x = y)) ++ inGroup base n p (decide (int n x < int n y)))) ∧
  short (.lshf b) (fun _ n base x y =>
    if 32 * n ≤ y then none
    else if b.fn = 0 then both base n (x * 2 ^ y) (decide (2 ^ (32 * n) ≤ x * 2 ^ y))
    else both base n (int n x / 2 ^ y % 2 ^ (32 * n)).toNat (decide (x % 2 ^ y ≠ 0))) ∧
  short (.lmul b) (fun s n base x y =>
    let r := x * y + if b.c.kind = .vec then u s b.c.field.toNat base n else 0
    some (limbs d base n r ++ (List.range n).map fun j => (.vreg (d + 1) (base + j), BitVec.ofNat 32 (r / 2 ^ (32 * n)))))

/-- A long instruction of a rope that is not bound takes BIND_STATE in every lane of the issue (09 R220). -/
def Sys2Proof.Claims.LongNeedsABoundRope : Prop := ∀ b : Base,
  ∀ i ∈ [Instr.lariAdd b, .lariSub b, .lariNeg b, .lariAddt b, .lariCmp b, .lariLacc b, .lariLnrm b, .lshf b, .lmul b],
    Gives i b (fun s => (s.agent s.who).bound = none) (fun s => s.retired (formOf i) b
      { traps := s.issued.map fun l => (l, ⟨.bindState, 0, s.issue.lanes.setWidth 64, false⟩) })

/-- The exact accumulator (09 R225 to R227): in groups of 16 lanes, LACC adds f32 values in units of 2^-160 to a number of 512 bits and
notes NaN, infinities and overflow; LNRM rounds it once to f32. -/
def Sys2Proof.Claims.ExactAccumulation : Prop := ∀ b : Base,
  let u := fun (s : State) (r base : Nat) => ((List.range 16).map fun j => (s.readV s.who r (base + j)).toNat * 2 ^ (32 * j)).sum
  let int : Nat → Int := fun v => if 2 ^ 511 ≤ v then (v : Int) - 2 ^ 512 else (v : Int)
  CompletesGroups (.lariLacc b) b (fun n base => do
    let s ← get
    require (n == 16) .illegalOperand s.issue.word
    let xs := (List.range 16).map fun j => f32Val (s.readV s.who b.a.field.toNat (base + j))
    let units : List Int := xs.map fun x => match x with | .fin p q => p * 2 ^ 160 / (q : Int) | _ => 0
    let r := int (u s b.dst.toNat base) + units.sum
    let flags : BitVec 3 := BitVec.ofNat 3 ((if xs.any FVal.isNan || decide (r < -2 ^ 511 ∨ 2 ^ 511 ≤ r) then 1 else 0) +
      (if xs.contains (.inf false) then 2 else 0) + (if xs.contains (.inf true) then 4 else 0))
    let a := s.agent s.who
    set (s.setAgent s.who { a with sticky := a.sticky.modify (base / 16) fun f => f ||| flags })
    pure (limbs b.dst.toNat base 16 (r % 2 ^ 512).toNat)) ∧
  CompletesGroups (.lariLnrm b) b (fun n base => do
    let s ← get
    require (n == 16) .illegalOperand s.issue.word
    let f := (s.agent s.who).sticky.getD (base / 16) 0
    let v := int (u s b.a.field.toNat base)
    let x : FVal := if f.getLsbD 0 ∨ (f.getLsbD 1 ∧ f.getLsbD 2) then .nan else if f.getLsbD 1 then .inf false
      else if f.getLsbD 2 then .inf true else if v = 0 then .zero false else .fin v (2 ^ 160)
    pure ((List.range 16).map fun j => (.vreg b.dst.toNat (base + j), rneF32 x)))

/-- Bound lanes and long integers (09). -/
def Obligations.LongIntegersComplete : Prop := Sys2Proof.Claims.BindingCompletes ∧ Sys2Proof.Claims.LongIntegersComplete ∧ Sys2Proof.Claims.LongNeedsABoundRope ∧ Sys2Proof.Claims.ExactAccumulation

/-! ### Traps, system instructions and privileged registers (spec/14, 02 R36 to R39) -/

/-- Taking a trap (14 R321, R322, R324): the slot of S takes a delegated cause unless the lane is in H; a trap in S whose slot is not saved
goes to H as DOUBLE_TRAP with the cause in VAL; a trap in H whose slot is not saved stops the lane. The slot saves the pc, the clause
position, the cause, the value and the status; the pc goes to the vector; nothing else of the lane changes. -/
def Obligations.TrapEntry : Prop :=
  ∀ (x : Lane) (hdeleg : DWord) (base : Mode → DWord) (bound : Bool) (t : Trap) (pc : DWord) (cl : Clause),
  let y := x.trap hdeleg base bound t pc cl
  let deleg := x.mode ≠ .h ∧ t.cause ∉ [.hvcall, .debugHalt, .doubleTrap, .stage2Absent, .stage2Protection] ∧
    hdeleg.getLsbD t.cause.code.toNat = true
  let entered := fun (m : Mode) (o z : TrapSlot) (c : Trap) =>
    y.mode = m ∧ y.pc = (base m &&& ~~~(0xFFF : DWord)) + 64 * c.cause.code.setWidth 64 ∧ y.clause = .due ∧ y.wait = none ∧
    z.pc = pc ∧ z.cls = cl.toCls ∧ z.val = c.val ∧ z.cause = (c.cause.code.setWidth 64 ||| c.sub.setWidth 64 <<< 8 |||
      (if c.eng then 0x1000 else 0)) ∧ z.scra = o.scra ∧ z.scrb = o.scrb ∧
    z.stat = BitVec.ofNat 64 x.mode.code ||| (if o.stat.getLsbD 2 then 8 else 0) ||| x.preds.setWidth 64 <<< 4 |||
      (if bound then 0x800 else 0)
  let same := y.preds = x.preds ∧ y.lc0 = x.lc0 ∧ y.lc1 = x.lc1 ∧ y.rstack = x.rstack ∧ y.rsd = x.rsd ∧
    y.randPos = x.randPos ∧ y.rwc = x.rwc ∧ y.exited = x.exited
  same ∧
  (x.mode = .h → x.h.stat.getLsbD 2 = false → y.mode = .h ∧ y.t = x.t ∧ y.h = x.h ∧ y.halted = true ∧
    y.dbg.stat.extractLsb' 8 8 = t.cause.code ∧ y.dbg.stat.getLsbD 1 = true ∧ y.dbg.pc = pc) ∧
  (deleg → (x.mode = .u ∨ x.t.stat.getLsbD 2 = true) → entered .s x.t y.t t ∧ y.h = x.h) ∧
  (deleg → x.mode = .s → x.t.stat.getLsbD 2 = false → y.t = x.t ∧ entered .h x.h y.h
    ⟨.doubleTrap, 0, t.cause.code.setWidth 64 ||| t.sub.setWidth 64 <<< 8, t.eng⟩) ∧
  (¬deleg → (x.mode ≠ .h ∨ x.h.stat.getLsbD 2 = true) → y.t = x.t ∧ entered .h x.h y.h t)

/-- SYSC, HVC and ERET (14 R326, R327): a call raises its cause once it has retired, with the call number in TVAL, HVC in U takes
PRIVILEGE, and ERET restores NEST, the predicates, the mode, the pc and the clause position; the last return of a handler of REDUNDANT_MISMATCH takes what it retired out
of the count that a pair compares (16 R367). -/
def Sys2Proof.Claims.SystemCallsComplete : Prop := ∀ b : Base,
  let call := fun (i : Instr) (c : Cause) (ok : State → Prop) => GivesFrom i b 0 (fun s _ => ok s) fun s xs =>
    s.retired (formOf i) b { outs := plain (xs.map (·.1)), after := xs.map fun x => (x.1, ⟨c, 0, x.2, false⟩) }
  call (.sysc b) .syscall (fun _ => True) ∧ call (.hvc b) .hvcall (fun s => s.mode ≠ .u) ∧
  TrapsWhen (.hvc b) b (fun s => s.mode = .u) (fun s => ⟨.privilege, 0, s.issue.word, false⟩) ∧
  Gives (.eret b) b (fun s => (s.agent s.who).bound = none ∧ (s.agent s.who).faults = [] ∧ s.roleOf s.who ≠ .trailer ∧
      ∀ l ∈ s.acting b, let x := s.lane s.who l
        x.mode ≠ .u ∧ x.haltPend = false ∧ let p := x.eretSlot.stat.extractLsb' 0 2
        p ≠ 3 ∧ ¬(x.mode = .s ∧ p = 2))
    (fun s => (onLanes s (s.acting b) fun _ x =>
      let z := x.eretSlot
      let stat := if z.stat.getLsbD 3 then z.stat ||| 4 else z.stat &&& ~~~(4 : DWord)
      let y : Lane := { x with
        mode := [.u, .s, .h].getD (z.stat.extractLsb' 0 2).toNat .u, pc := z.pc, clause := .ofCls z.cls
        preds := z.stat.extractLsb' 4 7, rwc := x.rwc + 1, wait := none, age := 0, kept := none, slow := false }
      Lane.rejoin (if x.mode = .h then { y with h := { x.h with stat := stat } } else { y with t := { x.t with stat := stat } })).retired
        (formOf (.eret b)) b { outs := moved (s.acting b) })

/-- RDPR and WRPR (14 R328): the value of a register goes to a pair, and a value that is not refused is written, by each acting lane for a
register of its own, and once for any other. -/
def Sys2Proof.Claims.PrivilegedRegistersComplete : Prop := ∀ b : Base,
  CompletesIn (.rdpr b) b (fun _ => True) (fun s => s.doers b) (fun l => do
    let n ← readSrc (formOf (.rdpr b)) b 0 l
    let s ← get
    let (reg, hold, part) ← nameReg s.who s.mode n s.issue.word fun h => !(h == .lane && b.dk == .scl && !isLead s.who)
    let v := if hold = .lane then (s.lane s.who l).readReg reg else s.readReg (coreOf s.who) part reg
    pure { writes := regWrites b l b.dst.toNat true v }) ∧
  ∀ (s s0 s1 : State) (l : Nat) (n : DWord) (outs : List (Nat × LaneOut)), (Instr.wrpr b).WellFormed →
    s.Clear (formOf (.wrpr b)) b → (s.acting b).head? = some l → readSrc (formOf (.wrpr b)) b 0 l s = .ok (n, s0) →
    doAll (if perLane n then s.acting b else [l]) (fun l => do
      let n ← readSrc (formOf (.wrpr b)) b 0 l
      let s ← get
      let (reg, hold, part) ← nameReg s.who s.mode n s.issue.word fun _ => true
      let w ← readSrc (formOf (.wrpr b)) b 1 l
      require (w &&& regReserved reg == 0) .reservedField s.issue.word
      require (!s.refusesWrite part reg w) .illegalOperand s.issue.word
      if hold = .lane then modLane s.who l fun y => y.writeReg reg w else writeReg (coreOf s.who) part reg w
      pure {}) s0 = .ok (outs, s1) → exec (.wrpr b) s = .next (s1.retired (formOf (.wrpr b)) b { outs := outs })

/-- Register numbers (14 R318, 05 R121): the modes that reach a register, and the bank, by number. A register held in a way that the
instruction may not name takes ILLEGAL_OPERAND, and any other from below its mode PRIVILEGE. -/
def Sys2Proof.Claims.RegisterAccess : Prop := ∀ (s : State) (k : Nat) (m : Mode) (n w : DWord) (may : RegHold → Bool),
  let reg := (n.extractLsb' 0 12).toNat
  let r := nameReg k m n w may s
  (regInfo reg = none ∨ n.extractLsb' 16 16 ≠ 0 → r = .error (.trap ⟨.illegalOperand, 0, w, false⟩)) ∧
  (∀ h lowest, regInfo reg = some (h, lowest) → may h = false → r = .error (.trap ⟨.illegalOperand, 0, w, false⟩)) ∧
  (m = .u → n.extractLsb' 12 20 = 0 → ∀ h lowest, regInfo reg = some (h, lowest) → may h = true →
    r = .error (.trap ⟨.privilege, 0, w, false⟩)) ∧
  (m = .s → n.extractLsb' 12 20 = 0 → ∀ h, regInfo reg = some (h, .h) → may h = true → r = .error (.trap ⟨.privilege, 0, w, false⟩)) ∧
  (m ≠ .h → n.extractLsb' 16 16 = 0 → n.extractLsb' 12 4 ≠ 0 → r = .error (.trap ⟨.illegalOperand, 0, w, false⟩)) ∧
  ∀ h lowest, regInfo reg = some (h, lowest) → may h = true → lowest.code ≤ m.code → n.extractLsb' 12 20 = 0 → m ≠ .h →
    r = .ok ((reg, h, s.partOf k), s)

/-- System instructions and privileged registers (14 R318, R326 to R328). -/
def Obligations.SystemInstructionsComplete : Prop := Sys2Proof.Claims.SystemCallsComplete ∧ Sys2Proof.Claims.PrivilegedRegistersComplete ∧ Sys2Proof.Claims.RegisterAccess

/-- TLBI (14 R329, 02 R39): in S or H it asks every member of its scope and the group sleeps at the instruction. A selector with a nonzero
bit 17 or above is ILLEGAL_OPERAND, and then U, STAGE2 in S, and another partition's selector in S are PRIVILEGE (05 R121). A member that
acknowledges drops what matches; with the last the TLBI is complete, and its group retires it. -/
def Sys2Proof.Claims.InvalidationsComplete : Prop := ∀ b : Base,
  let forms := [(Instr.tlbiPage b, 0), (.tlbiSpace b, 1), (.tlbiPartition b, 2), (.tlbiStage2 b, 3)]
  let selects := fun (i : Instr) (s : State) (p : Word → Prop) => ∃ l x s1, (s.acting b).head? = some l ∧
    (∀ n, (s.lane s.who l).step ≠ some (.tlbi n)) ∧ readSrcs (formOf i) b l s = .ok (x, s1) ∧ p (x.c.setWidth 32)
  (∀ e ∈ forms, TrapsWhen e.1 b (fun s => selects e.1 s fun c => c.extractLsb' 17 15 ≠ 0)
      (fun s => ⟨.illegalOperand, 0, s.issue.word, false⟩) ∧
    TrapsWhen e.1 b (fun s => selects e.1 s fun c => c.extractLsb' 17 15 = 0 ∧
      (s.mode = .u ∨ (s.mode = .s ∧ (e.2 = 3 ∨ c.getLsbD 16 = true)))) fun s => ⟨.privilege, 0, s.issue.word, false⟩) ∧
  (∀ e ∈ forms, ∀ (s s1 : State) (l : Nat) (x : Operands), e.1.WellFormed → s.Clear (formOf e.1) b → (s.acting b).head? = some l →
    ¬(s.mode = .u ∨ (s.mode = .s ∧ e.2 = 3)) → (∀ n, (s.lane s.who l).step ≠ some (.tlbi n)) → readSrcs (formOf e.1) b l s = .ok (x, s1) →
    let c : Word := x.c.setWidth 32
    c.extractLsb' 17 15 = 0 → ¬(s.mode = .s ∧ c.getLsbD 16 = true) →
    let part := if c.getLsbD 16 then (c.extractLsb' 12 4).toNat else s.partOf s.who
    let scope := (b.litWord .ext 0 b.a).toNat
    let t : TlbInv := ⟨s1.uid, s.who, s.issue.lanes, part, (c.extractLsb' 0 12).toNat, e.2, x.b.toNat, scope,
      scopeMembers scope (coreOf s.who)⟩
    exec e.1 s = .next (State.retired { s1 with uid := s1.uid + 1, tlbis := s1.tlbis ++ [t] } (formOf e.1) b
      { outs := s.issued.map fun j => (j, { stay := some (.tlbi s1.uid) }) })) ∧
  (∀ e ∈ forms, ∀ (s : State) (l n : Nat), e.1.WellFormed → s.Clear (formOf e.1) b → (s.acting b).head? = some l →
    (s.lane s.who l).step = some (.tlbi n) →
    exec e.1 s = .next (s.retired (formOf e.1) b (if s.tlbis.any fun t => t.id == n
      then { outs := s.issued.map fun j => (j, { stay := some (.tlbi n) }) } else {}))) ∧
  ∀ (u m : Nat) (t : TlbInv), EventGives (.tlbiAck u m)
    (fun s => s.tlbis.find? (fun t => t.id == u && t.mayAck m) = some t)
    (fun s =>
      let d := s.dropTranslations t m
      let left := t.left.erase m
      { d with tlbis := if left.isEmpty then d.tlbis.filter fun v => v.id != u
               else d.tlbis.map fun v => if v.id == u then { v with left := left } else v })

/-- Walks and flash lines (02 R20, R36): the oldest queued request hits the last-level TLB, or takes a free slot where no walk for it is in
progress; a walk that ends fills the TLBs of who asked, or answers its fault. A flash line that lands has landed. -/
def Sys2Proof.Claims.WalksComplete : Prop := ∀ (d i : Nat),
  (∀ r rest e, EventGives (.walkStart d) (fun s => (s.die d).queue = r :: rest ∧ s.lookup (s.die d).ltlb r.space (r.granule * 65536) = some e)
    (fun s => (s.setDie d { s.die d with queue := rest }).fillTlb r e)) ∧
  (∀ r rest, EventGives (.walkStart d) (fun s => (s.die d).queue = r :: rest ∧ r.die = d ∧
      s.lookup (s.die d).ltlb r.space (r.granule * 65536) = none ∧
      (s.die d).walks.any (fun w => w.reqs.any r.same) = false ∧ (s.die d).walks.length < 256)
    (fun s =>
      let t := s.setDie d { s.die d with queue := rest }
      t.setDie d { t.die d with walks := (t.die d).walks ++ [⟨[r]⟩] })) ∧
  (∀ w r, ∀ s : State, (s.die d).walks[i]? = some w → w.reqs.head? = some r →
    let t := s.setDie d { s.die d with walks := (s.die d).walks.eraseIdx i }
    let walked := walk t false (s.die d).ltlb.runs r.space ((s.die d).walkFrom r) (r.granule * 65536)
    (∀ f, walked = .error f → exec (.walkComplete d i) s = .next (w.reqs.foldl (fun s q => s.answerFault f q) t)) ∧
    ∀ e ptrs v, walked = .ok (e, ptrs, v) →
      let x := (v.die d).cachePointers r ptrs
      exec (.walkComplete d i) s = .next (w.reqs.foldl (fun s q => s.fillTlb q e) (v.setDie d { x with ltlb := x.ltlb.putLast e }))) ∧
  EventGives (.flashLineLands i) (fun s => s.landedFlash.contains i = false) (fun s =>
    { s with slowFlash := s.slowFlash.filter (· != i), landedFlash := i :: s.landedFlash })

/-- TLBI, walks and flash lines (14 R329, 02 R20, R36, R39). -/
def Obligations.TranslationCompletes : Prop := Sys2Proof.Claims.InvalidationsComplete ∧ Sys2Proof.Claims.WalksComplete

/-- Traps from outside, held engine faults and the watchdog (14 R321, R333, R402): a lane takes them where it stands, its wait withdrawn. -/
def Sys2Proof.Claims.OutsideTrapsTaken : Prop := ∀ (k l : Nat) (t : Trap),
  EventGives (.takeTrap k l t) (fun s => (s.lane k l).exited = false ∧ (s.lane k l).halted = false) (fun s => s.interrupt k l t) ∧
  (∀ u e f, Performs (.engineFaultDelivery u l) (fun s => s.heldFor u l = some (k, e) ∧ s.lowestFault k e = f ∧
      s.recordsLog k false = false ∧ s.takesNow k (s.deliveryLane k f.lane) = true)
    (do
      let s ← get
      let d := s.deliveryLane k f.lane
      modAgent k fun a => a.takeFault u f.lane d
      modify fun t => t.interrupt k d f.trap)) ∧
  EventGives (.watchdog k l) (fun s =>
    let limit := ((s.core (coreOf k)).wdog.extractLsb' 0 32).toNat
    limit ≠ 0 ∧ (s.lane k l).exited = false ∧ (s.lane k l).halted = false ∧ (s.partyOf k).halted = false ∧
      (s.lane k l).wait.any (fun w => w.watched k) = true ∧
      limit * 65536 < (s.clock (coreOf k) - (s.lane k l).since).toNat)
    (fun s => s.interrupt k l ⟨.watchdog, 0, (s.lane k l).word, false⟩)

/-- DBGREQ (14 R331): a halt stops the named lanes at once where it is system-level or the lane is in U, and pends else; a resume lets them
go on at DPC. A halted lane that takes a trap stays halted, at the first instruction of its handler. -/
def Sys2Proof.Claims.DebugHaltsComplete : Prop := ∀ (c : Nat) (w : DWord) (x : Lane) (s : State),
  (80 < (w.extractLsb' 32 7).toNat → exec (.dbgreqHalt c w) s = .next s ∧ exec (.dbgreqResume c w) s = .next s) ∧
  ((w.extractLsb' 32 7).toNat ≤ 80 →
    let k := 128 * c + (w.extractLsb' 32 7).toNat
    let t := s.setCore c { s.core c with dbgreq := w }
    exec (.dbgreqHalt c w) s = .next ((t.dbgLanes k w).foldl (fun s l => s.mapLane k l fun x => x.request (w.getLsbD 39)) t) ∧
    exec (.dbgreqResume c w) s = .next ((t.dbgLanes k w).foldl (fun s l => s.mapLane k l Lane.resume) t)) ∧
  (x.halted = false → ∀ level, (level = true ∨ x.mode = .u → (x.request level).halted = true ∧ (x.request level).dbg.pc = x.pc ∧
      (x.request level).dbg.stat.extractLsb' 8 8 = 0x23) ∧
    (level = false → x.mode ≠ .u → (x.request level).halted = false ∧ (x.request level).haltPend = true)) ∧
  (x.halted = true → x.resume.halted = false ∧ x.resume.haltPend = false ∧ x.resume.pc = x.dbg.pc) ∧
  ∀ k l t pc cl, l < (s.agent k).lanes.length → (s.lane k l).halted = true → (s.lane k l).mode ≠ .h →
    let y := (s.takeTrap k l t pc cl).lane k l
    y.halted = true ∧ y.dbg.pc = y.pc ∧ y.dbg.cls = y.clause.toCls ∧ y.resume.pc = y.pc

/-- Traps and halts from outside (14 R321, R331, R333). -/
def Obligations.OutsideTrapsAndHaltsTaken : Prop := Sys2Proof.Claims.OutsideTrapsTaken ∧ Sys2Proof.Claims.DebugHaltsComplete

/-! ### Task records and trace (spec/13 R303, spec/16 R369 to R371) -/

/-- LAUNCH (13 R303): the record of 128 bytes, at an address that is a multiple of 16, is appended to a task sequence whose slots hold 128
bytes; the slot, or the reason why none is free, goes to the destination. -/
def Sys2Proof.Claims.LaunchCompletes : Prop := ∀ b : Base,
  CompletesHeld (.launch b) b fun l => do
    let x ← readSrcs (formOf (.launch b)) b l
    modify fun s => s.drainAll s.who
    let s ← get
    require (x.b.toNat % 16 == 0) .misaligned x.b
    let bs ← if b.e2.getLsbD 0 then farRange x.b 128
      else do
        let _ ← spadTouch (x.b.setWidth 32) 128 true
        spadRead s.who (x.b.setWidth 32) 128
    let v ← laneVia
    let _ ← shapedDesc v x.a 3
    let d ← openPlain v x.a .atomic
    let r ← reserveSlots v d 1 d.limit
    match r with
    | .error e => pure (regWrites b l b.dst.toNat false (reserveWord (.error e)), some .held)
    | .ok i => do
      let d ← openPlain v x.a .load
      writeSlots v d [i] bs
      let u ← newUid
      let ok ← commitOrPark u v x.a i
      pure (regWrites b l b.dst.toNat false (BitVec.ofNat 64 i), some (if ok then .held else .camp u))

/-- TRACE and TRACE_SAMPLE (16 R369 to R371): with EN the record of 64 bytes takes its place in the agent's issue order. From the head of
that order the records of instructions that are complete go to the core's buffer, or count as dropped when 32 stand there; one whose
instruction is still to complete keeps those behind it, and has CLOCK of its completion. The oldest record of the buffer goes to its
partition's sink, or counts as dropped where the sink does not take it. -/
def Sys2Proof.Claims.TraceCompletes : Prop :=
  (∀ b : Base, CompletesOnce (.trace b) b fun l => do
    let x ← readSrc (formOf (.trace b)) b 0 l
    let s ← get
    let k := s.who
    let c := coreOf k
    let r := leBytes 2 0 ++ leBytes 2 (x.toNat % 2 ^ 32) ++ leBytes 4 (maskOf (s.acting b)).toNat ++ leBytes 8 s.issue.pc.toNat ++
      leBytes 8 (s.lane k l).rwc.toNat ++ (List.range 8).flatMap (fun i => leBytes 4 (s.readS k (b.b.field.toNat + i)).toNat) ++
      leBytes 8 (s.clock c).toNat
    let a := s.agent k
    if (s.part (s.partOf k)).trctl.getLsbD 0 = true ∧ s.traceMuted k l = false then
      set (s.setAgent k { a with samples := a.samples ++ [⟨none, 0, r⟩] })
    pure {}) ∧
  (∀ (s : State) (k : Nat) (e : Sample) (rest : List Sample), (s.agent k).samples = e :: rest →
    let a := s.agent k
    let c := coreOf k
    let x := s.core c
    let t := s.releaseSamples k
    let stamped := fun (e : Sample) => e.settle a (s.clock c)
    let drop := { x with counters := { x.counters with trdrop := x.counters.trdrop + 1 } }
    (e.open_ = true → a.completed e = true → stamped e = ⟨none, 0, e.bytes.take 56 ++ leBytes 8 (s.clock c).toNat⟩) ∧
    ((stamped e).open_ = true → t.cores = s.cores ∧ (t.agent k).samples = (e :: rest).map stamped) ∧
    ((stamped e).open_ = false → t = (State.setAgent (s.setCore c
      (if 32 ≤ x.trace.length then drop else { x with trace := x.trace ++ [(s.partOf k, (stamped e).bytes)] })) k
        { a with samples := rest.map stamped }).releaseSamples k)) ∧
  ∀ (c p : Nat) (bytes : List Byte) (rest : List (Nat × List Byte)) (s : State), (s.core c).trace = (p, bytes) :: rest →
    let t := s.setCore c { s.core c with trace := rest }
    let append := appendTrace (.direct (dieOf c) c (t.space c p .s) .s) (sinkBase (t.part p).trctl) bytes t
    (∀ u, append = .ok ((), u) → exec (.traceSample c) s = .next u) ∧
    ∀ f, append = .error (.trap f) →
      let y := t.core c
      exec (.traceSample c) s = .next (t.setCore c { y with counters := { y.counters with trdrop := y.counters.trdrop + 1 } })

/-- LAUNCH and TRACE (13 R303, 16 R369 to R371). The space in which the sink is translated, and when a record takes its CLOCK, are the
model's reading (assumption logs 44 and 75). -/
def Obligations.LaunchAndTraceComplete : Prop := Sys2Proof.Claims.LaunchCompletes ∧ Sys2Proof.Claims.TraceCompletes

/-! ### Scheduling (spec/13 R312 to R316, spec/05 R112, R113, R125) -/

/-- ISSUE_CYCLE (13 R313 to R316): the first active rope, from the rope pointer on, that has a ready group issues its lowest group on port
A. Port B takes an aged group of the rope, else its next group, else the lowest group of the next ready rope; groups of one shared unit class
conflict: of two of one rope the aged one issues, or the LFSR chooses and steps, and of two ropes the second waits. -/
def Sys2Proof.Claims.IssueCycleChooses : Prop := ∀ (c : Nat) (s : State),
  let t := (s.tickCore c).fillPlaces c 8
  let x := t.core c
  let ready := ((x.active.drop x.ropePtr ++ x.active.take x.ropePtr).map (·.agent)).filter fun k => t.readyGroups k ≠ []
  let first := fun k => (t.readyGroups k).headD []
  let aged := fun k g => 64 ≤ t.groupAge k g
  let issue := fun (es : List (Nat × List Nat)) => es.map fun e => (⟨e.1, maskOf e.2, (t.lane e.1 (e.2.headD 0)).pc, 0, 0⟩ : Issue)
  let u := t.issueRopes c
  exec (.issueCycle c) s = .next (u.issueLead c) ∧
  (ready = [] → u = t) ∧
  ∀ r rest, ready = r :: rest →
    (u.core c).ropePtr = (((x.active.findIdx? fun e => e.agent == r).getD 0) + 1) % 8 ∧
    (∀ a, t.readyGroups r = [a] → rest = [] → u.ports = t.ports ++ issue [(r, a)]) ∧
    (∀ a j more, t.readyGroups r = [a] → rest = j :: more →
      u.ports = t.ports ++ issue (if t.groupClass r a ≠ .alu ∧ t.groupClass r a = t.groupClass j (first j) then [(r, a)]
        else [(r, a), (j, first j)])) ∧
    ∀ a g gs, t.readyGroups r = a :: g :: gs →
      let b := (t.agedGroup r (g :: gs)).getD g
      let clash := t.groupClass r a ≠ .alu ∧ t.groupClass r a = t.groupClass r b
      u.ports = t.ports ++ issue (if ¬clash then [(r, a), (r, b)] else if aged r a ∧ ¬aged r b then [(r, a)] else if aged r b ∧ ¬aged r a
        then [(r, b)] else if (t.agent r).lfsr.getLsbD 0 then [(r, b)] else [(r, a)]) ∧
      (u.agent r).lfsr = if clash ∧ (aged r a ↔ aged r b) then
        ((t.agent r).lfsr >>> 1) ^^^ (if (t.agent r).lfsr.getLsbD 0 then 0x80200003 else 0) else (t.agent r).lfsr

/-- The events of scheduling (13 R312, R315, 05 R113, R125, 11 R265): ageing, a swap, a time slice, a refill, a result that lands, and
held lanes that go on. A time slice goes to a ready pending rope that has been ready for 2,048 cycles. -/
def Sys2Proof.Claims.SchedulingEvents : Prop := ∀ (c k l : Nat) (m : Word),
  EventGives (.laneAged k l) (fun s => (s.core (coreOf k)).aging.contains (k, l) = true)
    (fun s => (s.setCore (coreOf k)
      { s.core (coreOf k) with aging := (s.core (coreOf k)).aging.filter fun (e : Nat × Nat) => e != (k, l) }).mapLane k l
        fun x => { x with age := 64 }) ∧
  (∀ e p, EventGives (.ropeSwap c l) (fun s => (s.core c).active[l]? = some e ∧ s.nextPending c = some p ∧ s.readyGroups e.agent = [] ∧
      ∃ j ∈ (s.agent e.agent).live, s.waitsLong e.agent j = true)
    (fun s =>
      let x := s.core c
      s.setCore c { x with
        active := x.active.map fun (f : Place) => if f.agent = e.agent then ⟨p, 0⟩ else f
        pending := ((x.pending.filter fun (f : Pending) => f.agent != p) ++ [Pending.mk e.agent 0]).map fun (f : Pending) => { f with ready := 0 } })) ∧
  (∀ e p, EventGives (.timeSlice c) (fun s => (s.core c).pending.find? (fun f => decide (2048 ≤ f.ready) && !(s.readyGroups f.agent).isEmpty) =
        some p ∧ longestHeld ((s.core c).active.filter fun f => f.agent != noAgent) = some e)
    (fun s =>
      let x := s.core c
      s.setCore c { x with
        active := x.active.map fun (f : Place) => if f.agent = e.agent then ⟨p.agent, 0⟩ else f
        pending := ((x.pending.filter fun (f : Pending) => f.agent != p.agent) ++ [Pending.mk e.agent 0]).map fun (f : Pending) => { f with ready := 0 } })) ∧
  Performs (.vregRefill k l) (fun s => ((Sparse.find? (s.agent k).spilled l).isSome || (s.agent k).owes l) = true) (do
    makeRoom k [l] 1 (fileSize + 1)
    modify fun s => (s.refill k l).giveOwed k l
    let v := 128 * slotOf k + l
    modCore (coreOf k) fun x => { x with vfile := (x.vfile.filter fun y => y != v) ++ [v] }) ∧
  EventGives (.flagFall k l) (fun s => (s.agent k).flights.any (fun f => f.uid == l && f.known) = true ∧
      (s.agent k).ops.any (fun o => o.uid == l) = false)
    (fun s => s.setAgent k ((s.agent k).land l)) ∧
  EventGives (.operationPerformed k m) (fun s => (s.agent k).samples = [] ∧ ∀ l ∈ lanesOf m, ∀ u, (s.lane k l).wait ≠ some (.cache u true))
    (fun s => (lanesOf m).foldl (fun s l => s.mapLane k l fun x =>
      match x.wait with
      | some .held | some (.cache _ _) => { x with wait := none }
      | _ => x) s)

/-- Issue and the active set (13 R312 to R316). One tick of CLOCK for an issue cycle (assumption log 6), and the ready counts after a swap
or a slice (assumption log 61), are the model's choices. -/
def Obligations.SchedulingCompletes : Prop := Sys2Proof.Claims.IssueCycleChooses ∧ Sys2Proof.Claims.SchedulingEvents

/-! ### The work distributor (spec/13 R294 to R310, spec/04 R76) -/

/-- The distributor's events (13 R294 to R308, 04 R76): accepting tasks, appending completions, writes of its registers, placement, and the
scratchpad split. -/
def Sys2Proof.Claims.DistributorPerforms : Prop := ∀ (p q i c : Nat) (w : DWord),
  Performs (.taskAccept p q) (fun s => ((s.part p).seq q).en = true) (do
    acceptTasks p q
    modify fun s => s.endMalformed p) ∧
  EventGives (.taskAccept p q) (fun s => ((s.part p).seq q).en = false) (fun s => s.endMalformed p) ∧
  Performs (.taskComplete p q i) (fun s => (s.part p).pendings.any (fun id => id.qidx == q && id.slot == i) = true ∧
    (s.part p).faulted = false) (runCompletions p) ∧
  Performs (.completionAppendRetry p) (fun s => (s.part p).faulted = false) (runCompletions p) ∧
  Performs (.tasktabWrite p w) (fun _ => True) (do
    modPart p fun x => { x with tasktab := w &&& 0x7FFFFFFFFFFF00 }
    let s ← get
    let x := s.part p
    let seqs ← readTable (s.serviceVia p) (tableBase x.tasktab) x.seqs
    modPart p fun x => { x with seqs := seqs, tasks := x.tasks.filter (keepTask x.seqs seqs) }
    modify fun s => (s.renewPrios p).endMalformed p
    modify fun s => { s with waits := s.waits.filter fun e => match e.who with
      | .dist r _ => r != p
      | _ => true }
    runCompletions p) ∧
  Performs (.compdescWrite p w) (fun _ => True) (do
    modPart p fun x => { x with compdesc := w &&& 0x7FFFFFFFFFFFC0 }
    modify fun s => { s with waits := s.waits.filter fun e => e.who != .dist p 16 }
    runCompletions p) ∧
  Performs .placementAttempt (fun _ => True) (do
    let ps ← placeableParts (List.range 16)
    let s ← get
    forEach (s.taskOrder ps) attemptTask) ∧
  EventGives (.sramcfgWrite c w) (fun _ => True)
    (fun s => s.setCore c { s.core c with spadReq := w.toNat % 8, spadPend := true }) ∧
  EventGives (.sramSplitApply c) (fun s => (s.core c).spadPend = true ∧ s.coreParties c = [])
    (fun s => (s.publishAll c).setCore c
      { (s.publishAll c).core c with clean := [], spadCur := ((s.publishAll c).core c).spadReq, spadPend := false })

/-- Where a party goes (13 R307, R309, R310): a chosen core is eligible and none before or after it has a smaller load; the cores of a
chosen team are distinct cores of one camp in rising order, each eligible. -/
def Sys2Proof.Claims.PlacementChooses : Prop := ∀ (s : State) (p n : Nat) (need : Need) (cs : List Nat),
  s.choose p n need [] = some cs →
  (∀ c ∈ cs, c < 320 ∧ s.eligible c p need = true) ∧ cs.Pairwise (· < ·) ∧ cs.length = max n 1 ∧
  (∀ c ∈ cs, ∀ d ∈ cs, campOf c = campOf d) ∧
  (n ≤ 1 → ∀ c ∈ cs, ∀ d < 320, s.eligible d p need = true → s.load c p ≤ s.load d p ∧ (s.load d p = s.load c p → c ≤ d))

/-- The work distributor (13 R294 to R310). That tasks once begun stay, and when a retry is tried and a waiter dropped, are the model's
reading (assumption logs 55 and 82). -/
def Obligations.DistributionCompletes : Prop := Sys2Proof.Claims.DistributorPerforms ∧ Sys2Proof.Claims.PlacementChooses

/-! ### Pre-emption (spec/14 R334 to R339) -/

/-- PREQ, CONTEXT_SAVE and PARTY_RESUME (14 R334 to R339). A request names its task; NO_TASK is result 1; SAVE holds the task and halts its
parties, RESUME lets it be placed, ABORT ends it. A halted party whose passes have retired goes into a frame with its team, and returns
from it to the cores that 13 R309 and R310 choose, and to no other. -/
def Obligations.PreemptionCompletes : Prop := ∀ (p q n y c : Nat),
  let id := fun (s : State) => s.namedTask p q n
  let answer := fun (id : TaskId) (busy : Bool) (res : Nat) (s : State) =>
    s.setPart id.part { s.part id.part with
      preq := BitVec.ofNat 64 (res * 2 ^ 39 + (if busy then 2 ^ 38 else 0) + id.qidx * 2 ^ 32 + id.slot)
      preqFor := if busy then some id else none }
  let mark := fun (id : TaskId) (h : Bool) (s : State) =>
    s.setPart id.part { s.part id.part with tasks := (s.part id.part).tasks.map fun u => if u.id = id then { u with held := h } else u }
  (∀ i ∈ [Instr.preqSave p q n, .preqResume p q n, .preqAbort p q n],
    EventGives i (fun s => (s.part p).preq.getLsbD 38 = true) (fun s => s) ∧
    EventGives i (fun s => (s.part p).preq.getLsbD 38 = false ∧ s.task (id s) = none) (fun s => answer (id s) false 1 s)) ∧
  (∀ t, EventGives (.preqSave p q n) (fun s => (s.part p).preq.getLsbD 38 = false ∧ s.task (id s) = some t ∧ t.status = none)
    (fun s => ((t.live.filter fun j => (Sparse.find? s.parties j).isSome).foldl State.haltParty
      (mark (id s) true (answer (id s) true 0 s))).settleSave (id s))) ∧
  (∀ t, EventGives (.preqResume p q n) (fun s => (s.part p).preq.getLsbD 38 = false ∧ s.task (id s) = some t)
    (fun s => mark (id s) false (answer (id s) false 0 s))) ∧
  (∀ t, EventGives (.preqAbort p q n) (fun s => (s.part p).preq.getLsbD 38 = false ∧ s.task (id s) = some t ∧ t.complete = false)
    (fun s => (answer (id s) true 0 s).abortTask (id s))) ∧
  Performs (.contextSave y) (fun s => (s.party y).halted = true ∧ (∀ j ∈ s.saveGroup y, (s.party j).halted = true ∧ s.settled j = true ∧
      s.frameTooSmall j = false) ∧ ∃ t, s.task (s.party y).task = some t ∧ t.held = true)
    (do
      let s ← get
      saveParties (s.saveGroup y)
      modify fun t => t.settleSave (s.party y).task) ∧
  ∀ v, EventGives (.partyResume y c) (fun s => s.savedParty y = some v ∧
      ∀ cs, s.choose v.party.task.part (s.resumeGroup v).length v.need [] = some cs → c ∉ cs) (fun s => s) ∧
    ∀ cs, c ∈ cs → Performs (.partyResume y c) (fun s => s.savedParty y = some v ∧ s.mayResume v = true ∧ s.pairGroup v = [] ∧
        s.choose v.party.task.part (s.resumeGroup v).length v.need [] = some cs ∧ s.savedFit (s.resumeGroup v) cs = true)
      (do
        let s ← get
        resumeGroup (s.resumeGroup v) cs)

/-! ### Determinism (spec/16 R360 to R367) -/

/-- Replay and redundancy (16 R360 to R366): a full log ends the interval with a checkpoint, a pair that agrees publishes and starts anew
and one that does not rolls back, the leader follows the trailer's effects; DREQ begins and ends a replay, which halts at its stop. That a
write of REPLAY during a replay is ignored, and the steps of a checkpoint and of a pair, are the model's reading (assumption logs 70, 73 and
74). -/
def Obligations.DeterminismEvents : Prop := ∀ (p y n : Nat) (w : DWord) (d : Det),
  Performs (.logFull y) (fun s => (s.party y).det = some n ∧ Sparse.find? s.dets n = some d ∧ (s.party y).role = .replay ∧
      d.replay = none ∧ d.isFull = true ∧ (s.haltParty y).settled y = true)
    (do
      modify fun s => s.haltParty y
      startInterval n
      modify fun s => s.unhaltParty y) ∧
  EventGives (.logFullCompare n) (fun s => Sparse.find? s.dets n = some d ∧ d.halted.isSome = true) (fun s => s) ∧
  (∀ t, Performs (.logFullCompare n) (fun s => Sparse.find? s.dets n = some d ∧ d.trailer = some t ∧ d.halted = none ∧ d.isFull = true ∧ d.consumed = true ∧
      s.pairAligned d t = true ∧ d.agrees = true)
    (do
      modify fun s => s.publishHeld d.leader
      startInterval n)) ∧
  (∀ t, EventGives (.logFullCompare n) (fun s => Sparse.find? s.dets n = some d ∧ d.trailer = some t ∧ d.halted = none ∧ d.isFull = true ∧ d.consumed = true ∧
      s.pairAligned d t = true ∧ d.agrees = false) (fun s => s.pairMismatch n 3)) ∧
  (∀ k l ls, EventGives (.redundantEffect n) (fun s => Sparse.find? s.dets n = some d ∧
      (s.party d.leader).agents.find? (fun k => d.posted.any fun e => e.rope == logRope s k &&
        ((s.agent k).live.filter fun l => (s.lane k l).wait == some .pair && s.laneReady k l).contains e.lane) = some k ∧
      ((s.agent k).live.filter fun l => (s.lane k l).wait == some .pair && s.laneReady k l) = l :: ls)
    (fun s => { s with ports := s.ports ++ [⟨k, maskOf ((l :: ls).filter fun j => (s.lane k j).sameGroup (s.lane k l)),
      (s.lane k (((l :: ls).filter fun j => (s.lane k j).sameGroup (s.lane k l)).headD 0)).pc, 0, 0⟩] })) ∧
  EventGives (.dreqReplay p w) (fun s => (s.part p).dreq.getLsbD 61 = true) (fun s => s) ∧
  Performs (.dreqReplay p w) (fun s => (s.part p).dreq.getLsbD 61 = false) (requestReplay p w) ∧
  EventGives (.replayStop y) (fun s => (s.party y).det = some n ∧ Sparse.find? s.dets n = some d ∧ (s.party y).role = .replay ∧
      d.replay.isSome = true ∧ d.aside.isSome = true ∧ ∃ k ∈ s.ownKeys y, ∃ l ∈ (s.agent k).live, s.atStop k l = true)
    (fun s => (s.haltLanes y).setDreq (s.party y).task.part false 0) ∧
  ∀ v, EventGives (.dreqEnd p) (fun s => List.find? (fun (e : Nat × Det) => e.2.replay.isSome && (s.party e.2.leader).task.part == p) s.dets =
      some (n, d) ∧ d.aside = some v)
    (fun s =>
      let t := ((s.rollBack d.leader (some v)).freeFrame v).setDet n
        { d with replay := none, aside := none, cursor := d.cursor2, cursor2 := [], lines := [], own := [], seen := [] }
      t.setDreq p false ((t.part p).dreq.toNat / 2 ^ 58 % 8))

/-! ### The base-die harts (spec/15 R340 to R343) -/

/-- Operation windows (15 R341, R342): a write of OP while one is in progress is ignored; a reserved operand or code ends it with
RESERVED_FIELD and a function code it does not have with ILLEGAL_INSTRUCTION; else it is done with RES, waits, or ends with the fault in
STS. One that waits goes on, and CANCEL withdraws a WWAIT or QLOCK that is not yet woken or granted. A hart's 8-byte store in the register
space takes effect where its access is allowed (17 R372), and takes a store access fault where it is not; OP of a window starts an operation
of the window; a configuration record's write takes effect as a store does. A hart's levels, roots and traps (assumption log 80), the checks
of arguments (assumption log 81) and a CANCEL with an argument (assumption log 102) are the model's. -/
def Obligations.HartOperationsComplete : Prop := ∀ (n fn : Nat),
  let ops := [(Instr.hartSqnew n fn, 0xE8), (.hartSqrsv n fn, 0xE9), (.hartSqst n fn, 0xEA), (.hartSqcmt n fn, 0xEB),
    (.hartSqabn n fn, 0xEC), (.hartSqfrk n fn, 0xED), (.hartSqlen n fn, 0xEE), (.hartSqfre n fn, 0xEF), (.hartApnd n fn, 0xD5),
    (.hartAfnc n fn, 0xD6), (.hartLaunch n fn, 0xFA), (.hartQlock n fn, 0xCA), (.hartQunlk n fn, 0xCB), (.hartWwait n fn, 0xCC),
    (.hartWwake n fn, 0xCD), (.hartLdf n fn, 0xA5), (.hartStf n fn, 0xA6), (.hartCctlIinv n fn, 0xAD)]
  let ended := fun (s : State) (res sts : DWord) =>
    (s.setHart n { s.hart n with op := none, res := res, sts := sts, wait := none, woken := false, pend := 0 }).dropAnswers (2 ^ 33 + n)
  let fault := fun (c : Cause) (sub : BitVec 4) => (0xC000000000000000 : DWord) ||| c.code.setWidth 64 <<< 8 ||| sub.setWidth 64 <<< 4
  let done : DWord := 0x8000000000000000
  let outcome := fun (i : Instr) (s t : State) (m : M HartEnd) =>
    (∀ r u, m t = .ok (.done r, u) → exec i s = .next (ended u r done)) ∧
    (∀ v r u, m t = .ok (.waits v r, u) → exec i s = .next (u.setHart n { u.hart n with wait := some v, pend := r })) ∧
    ∀ f, m t = .error (.trap f) → exec i s = .next (ended t 0 (fault f.cause f.sub))
  (∀ e ∈ ops, ∀ s : State,
    let h := s.hart n
    let bad := 8 ≤ fn ∨ h.argsReserved e.2 = true
    (h.op ≠ none → exec e.1 s = .next s) ∧
    (h.op = none → bad → exec e.1 s = .next (ended s 0 (fault .reservedField 0))) ∧
    (h.op = none → ¬bad → fnAllowed e.2 fn = false → exec e.1 s = .next (ended s 0 (fault .illegalInstruction 0))) ∧
    (h.op = none → ¬bad → fnAllowed e.2 fn = true →
      let g : Hart := { h with
        op := some ⟨e.2, fn, h.args, h.ctx, h.root, h.root2, h.mode⟩, sts := 0x2000000000000000, wait := none, woken := false, pend := 0 }
      outcome e.1 s (s.setHart n g) (hartEffect n g e.2 fn))) ∧
  (∀ (s : State) (op : HartCall), (s.hart n).op = some op → outcome (.hartOpComplete n) s s (hartGoesOn n (s.hart n) op)) ∧
  (∀ s : State, (s.hart n).argsReserved 0 = false → ((s.hart n).op = none → exec (.cancel n) s = .next (ended s 0 done)) ∧
    ∀ op, (s.hart n).op = some op →
      ((op.code = 0xCA ∨ op.code = 0xCC) ∧ (s.hart n).woken = false →
        exec (.cancel n) s = .next (ended { s with
          waits := s.waits.filter fun e => e.who != .hart n, locks := s.locks.filter fun e => e.who != .hart n } 0 done)) ∧
      (¬((op.code = 0xCA ∨ op.code = 0xCC) ∧ (s.hart n).woken = false) → exec (.cancel n) s = .next s)) ∧
  (∀ s : State, (s.hart n).argsReserved 0 = true →
    exec (.cancel n) s = .next (s.setHart n { s.hart n with res := 0, sts := fault .reservedField 0 })) ∧
  (∀ (m : Nat) (run : HartRun) (addr w : DWord) (pa : Nat) (s t s1 : State), (s.runsAs m run).hartPlace m addr .store = .ok (pa, t) →
    registerSpace ≤ pa →
    (t.spaceAllows m pa 8 = false → exec (.writeRegister ⟨some (m, run), addr⟩ w) s = .next (t.hartTraps m .storeAccess addr)) ∧
    (t.spaceAllows m pa 8 = true →
      (∀ k, windowOp pa = some k → exec (.writeRegister ⟨some (m, run), addr⟩ w) s = writeOp m k w t) ∧
      (windowOp pa = none → writeSpace (t.hart m).mode pa w t = .ok ((), s1) →
        exec (.writeRegister ⟨some (m, run), addr⟩ w) s = .next s1))) ∧
  ∀ (addr w : DWord), Performs (.writeRegister ⟨none, addr⟩ w) (fun _ => True) (writeDefault (addr.toNat, w))

/-! ### The platform (spec/17, spec/02 R21, R22, spec/03 R71, R74) -/

/-- The platform's events (17 R373 to R384, 02 R21, R22, 03 R71, R74, 15 R340): boot from the configuration region, or its end at an image
that fails its check, readiness, the security block's requests, throttling, soft errors, the stores and loads of harts, requantisation and
power loss. Cairn numbers and the report's layout (assumption log 84), thermal halt and soft errors (85), the order of requests (99), the
portions of a store (104), requantisation (86 and 106), power loss (20) and a hart's levels (80) are the model's choices. -/
def Obligations.PlatformEvents : Prop := ∀ (d c pa p : Nat) (tile : DWord) (enc : Word) (bs : List Byte) (rs : List ConfigRecord),
  EventGives (.boot rs) (fun s => s.platform.booted = true) (fun s => s) ∧
  Performs (.boot rs) (fun s => s.platform.booted = false ∧ ∀ i < Config.firmwareDigests.length, Config.imageRefused i = false) (do
    let s ← get
    let g := s.platform.region.place rs
    let (good, bad) := chooseRecords g.records
    set ({ s with platform := { s.platform with
      booted := true, region := g, rejected := s.platform.rejected + bad, measured := Config.firmwareDigests } } : State)
    forEach good applyRecord) ∧
  (∀ i < Config.firmwareDigests.length, Config.imageRefused i = true → (∀ j < i, Config.imageRefused j = false) →
    EventGives (.boot rs) (fun s => s.platform.booted = false) (fun s => { s with platform := { s.platform with
      booted := true, region := s.platform.region.place rs, measured := Config.firmwareDigests.take i
      cairns := Sparse.put s.platform.cairns 0 ⟨false, some (Config.imageError i)⟩ } })) ∧
  (∀ f, EventGives (.cairnReady c f) (fun s => c < 31 ∧ c ≠ 1 ∧ c ≠ 2 ∧ c ≠ 12 ∧ c ≠ 29 ∧
      (Sparse.getD s.platform.cairns c ⟨false, none⟩) = ⟨false, none⟩)
    (fun s => { s with platform := { s.platform with cairns := Sparse.put s.platform.cairns c ⟨f.isNone, f⟩ } })) ∧
  EventGives (.cairnReady (d % 2 + 1) none) (fun s => (Sparse.getD s.platform.cairns (d % 2 + 1) ⟨false, none⟩) = ⟨false, none⟩)
    (fun s => State.setDie { s with platform := { s.platform with cairns := Sparse.put s.platform.cairns (d % 2 + 1) ⟨true, none⟩ } }
      (d % 2) { s.die (d % 2) with ready := true }) ∧
  (∀ f, EventGives (.cairnReady c f) (fun s => 31 ≤ c ∨ (Sparse.getD s.platform.cairns c ⟨false, none⟩) ≠ ⟨false, none⟩) (fun s => s)) ∧
  (∀ (s s1 s2 : State) (req : List Byte) (r : Except Trap Unit), s.cairnReady 29 = true →
    nextRequest p s.platform.securitySeq s.platform.securityDone s = .ok (some req, s1) →
    let v := s.serviceVia p
    let field := fun i n => leNat ((req.drop i).take n)
    let served : State := { s2 with platform := { s2.platform with securityDone := s2.platform.securityDone + 1 } }
    (field 0 4 = 1 →
      attempt (answerRequest v (BitVec.ofNat 64 (field 24 8)) 32 do
        let m ← viaRead v (BitVec.ofNat 64 (field 8 8)) (field 16 8) .load
        pure (sm3 m)) s1 = .ok (r, s2) → exec (.securityDigest p s.platform.securityDone) s = .next served) ∧
    (field 0 4 = 2 →
      let body := (req.drop 32).take 32 ++ s.platform.measured.flatten ++ leBytes 4 s.chip
      let report := body ++ (List.range 64).map (Config.sm2Sign body)
      attempt (answerRequest v (BitVec.ofNat 64 (field 24 8)) report.length (pure report)) s1 = .ok (r, s2) →
        exec (.securityAttest p s.platform.securityDone) s = .next served)) ∧
  EventGives (.throttleDown d) (fun _ => True) (fun s => if (s.die d).step < 4 then s.setDie d { s.die d with step := (s.die d).step + 1 } else s) ∧
  EventGives (.throttleUp d) (fun _ => True) (fun s => s.setDie d { s.die d with step := (s.die d).step - 1 }) ∧
  EventGives .thermalHalt (fun _ => True) (fun s => { s with
    agents := s.agents.map fun e => (e.1, { e.2 with lanes := e.2.lanes.map fun x => if x.exited then x else x.request true })
    platform := { s.platform with programStopped := true } }) ∧
  EventGives (.softError .corrected) (fun _ => True) (fun s => s) ∧
  EventGives (.softError (.flashLine pa)) (fun s => pa / 128 ∉ s.badFlash ∧ tierOf pa = some 2)
    (fun s => { s with badFlash := s.badFlash ++ [pa / 128] }) ∧
  (∀ k l r, EventGives (.softError (.pred k l r)) (fun _ => True) (fun s => s.mapLane k l fun x => x.setPred r (!x.pred r))) ∧
  EventGives (.softError (.sector pa)) (fun s => pa / 32 ∉ s.badSectors ∧ (tierOf pa).any (· < 2) = true)
    (fun s => { s with badSectors := s.badSectors ++ [pa / 32] }) ∧
  (∀ k l r j, EventGives (.softError (.vreg k l r j)) (fun _ => True) (fun s => s.setAgent k { s.agent k with
    vregs := Sparse.adjust (s.agent k).vregs (32 * r + l) fun v => v ^^^ ((1 : Word) <<< (j % 32)) })) ∧
  (∀ (n : Nat) (run : HartRun) (va : DWord), bs ≠ [] →
    (∀ f, EventGives (.cpuStore ⟨n, run, va, none⟩ bs) (fun s => (s.runsAs n run).hartPlace n va .store = .error f)
      (fun s => (s.runsAs n run).hartTraps n f va)) ∧
    (∀ (s t u : State) (q : Nat), (s.runsAs n run).hartPlace n va .store = .ok (q, t) → q < registerSpace →
      (t.hartPuts n va bs = .ok u → exec (.cpuStore ⟨n, run, va, none⟩ bs) s = .next u) ∧
      ∀ f, t.hartPuts n va bs = .error f → exec (.cpuStore ⟨n, run, va, none⟩ bs) s = .next (t.hartTraps n f va)) ∧
    (run.level = .machine →
      EventGives (.cpuStore ⟨n, run, va, none⟩ bs) (fun _ => ∀ i < bs.length, (tierOf (va.toNat + i)).any (· < 2) = true)
        (fun s => (lineChunks va.toNat bs.length).foldl
          (fun s c => s.writeHome (va.toNat + c.1) ((bs.drop c.1).take c.2)) (s.runsAs n run)) ∧
      EventGives (.cpuStore ⟨n, run, va, none⟩ bs) (fun _ => tierOf va.toNat = some 2)
        (fun s => (s.runsAs n run).hartTraps n .storePage va))) ∧
  (∀ (n len : Nat) (run : HartRun) (va : DWord), 0 < len →
    let load := Instr.cpuStore ⟨n, run, va, some len⟩ bs
    let brings := fun (v : List Byte) (t : State) => t.setHart n { t.hart n with loaded := v }
    (∀ f, EventGives load (fun s => (s.runsAs n run).hartPlace n va .load = .error f) (fun s => (s.runsAs n run).hartTraps n f va)) ∧
    (∀ (s t : State) (q : Nat), (s.runsAs n run).hartPlace n va .load = .ok (q, t) → registerSpace ≤ q →
      (t.spaceAllows n q len = true → exec load s = .next (brings (leBytes 8 (t.readSpace q).toNat) t)) ∧
      (t.spaceAllows n q len = false → exec load s = .next ((s.runsAs n run).hartTraps n .loadAccess va))) ∧
    (run.level = .machine → va.toNat + len ≤ 2 ^ 48 → va.toNat < registerSpace →
      let bad := fun (s : State) => ∃ c ∈ lineChunks va.toNat len, s.loadFaults (va.toNat + c.1) c.2 = true
      EventGives load bad (fun s => (s.runsAs n run).hartTraps n .loadAccess va) ∧
      EventGives load (fun s => ¬bad s)
        (fun s => brings ((lineChunks va.toNat len).flatMap fun c => s.mem.readN (va.toNat + c.1) c.2) (s.runsAs n run)))) ∧
  Performs (.backgroundRequantisation p tile enc bs) (fun _ => tile.toNat % 64 = 0) (do
    let s ← get
    let v := s.serviceVia p
    let ph ← v.translate tile .atomic
    let ver ← viaRead v tile 8 .atomic
    let s ← get
    if s.versionOpen ph.pa storageWriter 0 = true then do
      let _ ← attempt (do
        viaWrite v (tile + 8) (leBytes 4 enc.toNat)
        viaWrite v (tile + 64) bs)
      viaWrite v tile (leBytes 8 (BitVec.ofNat 64 (leNat ver) + 2).toNat)
    else pure ()) ∧
  ∀ torn, ∀ s : State, ∃ t, exec (.powerLoss torn) s = .next t ∧ t.agents = [] ∧ t.parties = [] ∧ t.cores = [] ∧ t.camps = [] ∧ t.dies = [] ∧
    t.parts = [] ∧ t.saved = [] ∧ t.locks = [] ∧ t.waits = [] ∧ t.platform = { State.reset.platform with region := s.platform.region } ∧ t.chip = 0 ∧ t.logs.length = s.logs.length ∧
    (s.logs = [] → ∀ a, t.mem.read a = if tierOf a = some 2 then s.mem.read a else Memory.read [] a)

/-! ### The machine as a whole -/

/-- What the spec gives for reset: quotas and floors (13 R305), the registers of partitions, cores and lanes (13 R294, R304, 14 R319, R320,
R324, R333, R334, 16 R358, R369), the scratchpad split (04 R75), the counters (04 R83), CLOCK (05 R110), and no agent on any core. -/
def Sys2Proof.Claims.ResetRegisters : Prop :=
  let s := State.reset
  (∀ c < 320, ∀ p < 16,
    (∀ r < 5, quotaField (s.bank c p).qcore r = if p = 0 then coreCap r else 0) ∧ (s.bank c p).qfloor = 0 ∧
    s.qcamp (campOf c) p = (if p = 0 then 0x2080 else 0) ∧
    [(s.bank c p).stvec, (s.bank c p).ptbase, (s.bank c p).g2base, (s.bank c p).hdeleg, (s.bank c p).ctxbase, (s.bank c p).detbase,
      (s.core c).htvec, (s.core c).hstopa, (s.core c).wdog, (s.part p).partcfg, (s.part p).tasktab, (s.part p).compdesc, (s.part p).preq,
      (s.part p).dreq, (s.part p).trctl].all (· == 0) = true) ∧
  (∀ c < 320, (s.core c).spadReq = 0 ∧ (s.core c).spadCur = 0 ∧ (s.core c).spadPend = false ∧ s.coreAgents c = [] ∧
    s.coreParties c = [] ∧ (s.core c).counters.bcr = 0 ∧ (s.core c).counters.trdrop = 0 ∧ s.clock c = 0) ∧
  ∀ pc, let x := Lane.start pc
    x.t = ⟨0, 0xFF000, 0, 0, 0, 0, 0⟩ ∧ x.h = x.t ∧ x.dbg.stat = 0 ∧ x.mode = .u ∧ x.preds = 0 ∧ x.lc0.valid = false ∧ x.lc1.valid = false

/-- How a party starts (13 R311): its scratchpad reads zero and its barriers are reset; each rope stands at KENTRY in U with its predicates
clear, no live vector register, and its LFSR seeded; v126 then holds the top of each lane's stack, or waits for an entry where the file or
the quota has none (05 R113, 13 R307). -/
def Obligations.PartyStart : Prop :=
  ∀ (s : State) (t : Task) (scl : List Word) (c n rank key : Nat) (ks : List Nat) (team det : Option Nat) (role : DetRole),
  let y := startParty s t c n rank ks team role det
  (∀ a, y.spad.read a = 0) ∧ y.barriers = List.replicate 20 ⟨0, 0, 0, 0, 0⟩ ∧ y.dq.entries = [] ∧
  y.lsva = BitVec.ofNat 64 (recField t.record 40 8 + 512 * recStack t.record * n) ∧
  ∀ r < 16, let a := startRope t scl key n r
    a.sregs = scl ∧ a.lanes.length = 32 ∧
    (∀ l < 32, a.lanes[l]? = some (Lane.start (BitVec.ofNat 64 (recEntry t.record)))) ∧ a.vregs = [] ∧ a.spilled = [] ∧
    (let seed := BitVec.ofNat 32 (recField t.record 48 4) ^^^ BitVec.ofNat 32 (16 * n + r)
     a.lfsr = if seed = 0 then 1 else seed) ∧
    ∀ k, s.agent k = a →
      let u := s.startReg k 126 (stackTops t r)
      let top := fun l => some (BitVec.ofNat 32 ((32 * r + l + 1) * recStack t.record))
      if s.fileAllows (coreOf k) (s.partOf k) 1 = true then
        (∀ l < 32, Sparse.find? (u.agent k).vregs (32 * 126 + l) = top l) ∧
        ∀ i, i / 32 ≠ 126 → Sparse.find? (u.agent k).vregs i = none
      else (u.agent k).vregs = [] ∧ (u.agent k).owes 126 = true

/-- Predicate p7 (05 R108): it reads as 1 in every lane, a write of it changes nothing, and p0 to p6 are 0 when a rope starts. -/
def Obligations.PredicateSeven : Prop :=
  (∀ (s : State) (k l : Nat), s.readP k l 7 = true) ∧ (∀ (a : Agent) (l : Nat) (v : Word), a.write (.pred l 7) v = a) ∧
  ∀ (t : Task) (scl : List Word) (key n r : Nat), ∀ l < 32, ∀ p < 7,
    ((startRope t scl key n r).lanes[l]?.map fun x => x.pred p) = some false

/-- Words of the opcode table, as the spec writes them out (05 R115 to R122), decode to the instructions they stand for. -/
def Obligations.DecodesTableWords : Prop :=
  let v := fun n => (⟨.vec, n⟩ : Src)
  let lit := fun n => (⟨.lit, n⟩ : Src)
  let scl := fun n => (⟨.scl, n⟩ : Src)
  let b : Base := ⟨.w64, 0, 7, false, 0, .vec, .i8, v 0, v 0, v 0, 0, false, 0, 0⟩
  decode ⟨0x183102016008614C, 0, 0⟩ = .ok (.ffma { b with grd := 3, dst := 4, ty := .f32, a := v 5, b := scl 2, c := ⟨.cst, 12⟩, lu := 1 }) ∧
  decode ⟨0x0000000154802404, 0, 0⟩ = .ok (.clh ⟨5, 5, 2, 9⟩) ∧
  decode ⟨0x0000000000014021, 0x00FFFFF0, 0⟩ = .ok (.bra { b with len := .w96, grd := 2, gneg := true, e1 := 0x00FFFFF0 }) ∧
  decode ⟨0x000003411810E281, 0x02000040, 0⟩ =
    .ok (.ld { b with len := .w96, dst := 8, ty := .n32, a := scl 4, b := v 3, e1 := 0x02000040 }) ∧
  decode ⟨0x0C0404009814E3C4, 0, 0⟩ = .ok (.lariAdd { b with dst := 10, ty := .n32, a := v 2, b := v 4, c := lit 1 }) ∧
  decode ⟨0x000000C14000E3D0, 0, 0⟩ = .ok (.sysc { b with a := lit 5 }) ∧
  decode ⟨0x00230002D818FF0C, 0, 0⟩ = .ok (.atoms { b with fn := 7, dst := 12, ty := .n32, a := v 11, b := lit 0, c := v 8 })

/-- Decoding undoes encoding (05 R114 to R122): every well-formed instruction, with any operands, is decoded from its words; and what is
decoded is well formed and has those words. -/
def Obligations.DecodeUndoesEncode : Prop :=
  (∀ i : Instr, i.WellFormed → ∃ w, encode i = some w ∧ decode w = .ok i) ∧
  ∀ (w : Words) (i : Instr), decode w = .ok i → i.WellFormed ∧ ∃ v, encode i = some v ∧ v.base = w.base ∧
    (8 < i.bytes → v.e1 = w.e1) ∧ (12 < i.bytes → v.e2 = w.e2)

/-- A step runs the decoded instruction (05 R114, R121, R123): where the lanes of the oldest issue still stand at a pc that is a multiple of
4, and the bytes fetched there, all in one block of 32, may stand in the clause and decode to an instruction that its agent may execute and
its lanes may execute together (07 R153, 09 R216), the step is that instruction's execution. Without issues, the step is the next
event's. -/
def Obligations.StepRunsDecoded : Prop :=
  (∀ (s s1 s3 : State) (p : Issue) (rest : List Issue) (bs all : List Byte) (i : Instr), s.ports = p :: rest →
    let s0 : State := { s with now := s.now + 1, ports := rest, issue := s.trim p }
    s0.issue.lanes ≠ 0 → p.pc.toNat % 4 = 0 → p.pc.toNat % 32 ≤ 24 → fetch s0.who s0.mode p.pc 8 s0 = .ok (bs, s1) →
    let w := BitVec.ofNat 64 (leNat (bs.take 8))
    let n := fetchBytes w
    let s2 : State := { s1 with issue := { s1.issue with len := n, word := w } }
    p.pc.toNat % 32 + n ≤ 32 → badFrame s2.clause w = false → fetch s2.who s2.mode p.pc n s2 = .ok (all, s3) →
    agentBars s3.who s3.mode (w.extractLsb' 2 8) = false → decode (.ofBytes all) = .ok i →
    s3.together s3.who s3.issue.word s3.issued = s3.issued → i.WellFormed ∧ step s = exec i s3) ∧
  ∀ (s : State) (e : Instr) (rest : List Instr), s.ports = [] → e.encoded = false →
    (s.agenda = e :: rest → step s = exec e { s with now := s.now + 1, agenda := rest }) ∧
    (s.agenda = [] → s.nextEvent = e → step s = exec e { s with now := s.now + 1, turn := s.turn + 1 })

/-- The machine starts with its memory in canonical form. -/
def Obligations.ResetIsCanonical : Prop := State.Canonical State.reset

/-- Every step keeps the memory's canonical form: addresses strictly rise, and no entry equals what an unlisted address reads as. -/
def Obligations.StepKeepsCanonical : Prop := ∀ s t : State, s.Canonical → step s = .next t → t.Canonical

/-- Boot with no records, and every function reporting READY, but for the module cairn where an image is refused (17 R380): what the
default schedule does first after reset (assumption log 7). No party is placed by it. -/
def Sys2Proof.Claims.BringUp : Prop :=
  let first := if ∃ i < Config.firmwareDigests.length, Config.imageRefused i = true then 1 else 0
  ∃ t, step State.reset = .next t ∧ t.platform.booted = true ∧ t.parties = [] ∧
    t.bootEvents = ((List.range 31).drop first).map fun i => Instr.cairnReady i none

/-- The machine at reset (the bring-up is the model's default schedule, assumption logs 3 and 7). -/
def Obligations.ResetRegisters : Prop := Sys2Proof.Claims.ResetRegisters ∧ Sys2Proof.Claims.BringUp

/-! ### What an instruction leaves unchanged -/

namespace Sys2Proof.Claims

/-- No operand of an instruction is a word of the constant window. -/
def noWindow (b : Base) : Prop := b.a.kind ≠ .cst ∧ b.b.kind ≠ .cst ∧ b.c.kind ≠ .cst

/-- What a computing instruction of an agent may change besides its destinations: the pc, the loop registers, the clause position and the
counts of its lanes. -/
def Steady (x y : Lane) : Prop :=
  y.exited = x.exited ∧ y.mode = x.mode ∧ y.rstack = x.rstack ∧ y.rsd = x.rsd ∧ y.t = x.t ∧ y.h = x.h ∧ y.dbg = x.dbg ∧
    y.randPos = x.randPos

/-- The rest of the machine is as it was: other agents, memory, parties, camps, dies, partitions, and the registers of the cores. -/
def Elsewhere (s t : State) : Prop :=
  t.mem = s.mem ∧ (∀ k ≠ s.who, t.agent k = s.agent k) ∧ t.parties = s.parties ∧ t.teams = s.teams ∧ t.camps = s.camps ∧
  t.dies = s.dies ∧ t.parts = s.parts ∧ t.dets = s.dets ∧ t.harts = s.harts ∧ t.logs = s.logs ∧ t.locks = s.locks ∧ t.waits = s.waits ∧
  t.platform = s.platform ∧ ∀ c, { t.core c with vfile := [] } = { s.core c with vfile := [] }

/-- The registers of the agent of the issue but the named ones, as its file holds them and as results in flight will bring them, and its
lanes' own state, are in `t` as in `s`. -/
def RegsKept (s t : State) (named : Dest → Prop) : Prop :=
  let a := s.agent s.who
  let c := t.agent s.who
  (∀ r, ∀ l < 32, ¬named (.vreg r l) → c.vreg r l = a.vreg r l) ∧ (∀ r, ¬named (.sreg r) → c.sreg r = a.sreg r) ∧
  (∀ l p, ¬named (.pred l p) → (t.lane s.who l).pred p = (s.lane s.who l).pred p) ∧
  (∀ d, ¬named d → (c.flights.take a.flights.length).map (·.find d) = a.flights.map (·.find d)) ∧
  ∀ l, Steady (s.lane s.who l) (t.lane s.who l)

/-- The same, with the flags, counters and what else the agent holds. -/
def Kept (s t : State) (named : Dest → Prop) : Prop :=
  let a := s.agent s.who
  let c := t.agent s.who
  RegsKept s t named ∧ c.flags = a.flags ∧ c.ops = a.ops ∧ c.far = a.far ∧ c.faults = a.faults ∧ c.lfsr = a.lfsr ∧ c.key = a.key ∧
  c.bound = a.bound ∧ c.sticky = a.sticky ∧ c.bara = a.bara ∧ c.dqPos = a.dqPos ∧ c.spilled = a.spilled

/-- The source registers whose last use an instruction is, in the lanes of the issue: they become dead (05 R111). -/
def Dies (s : State) (f : Form) (b : Base) : Dest → Prop
  | .vreg r l => r ∈ lastUse f b ∧ l ∈ s.issued
  | _ => False

/-- The destinations of an instruction: `n` registers from its destination on, vector registers in the lanes `ls`, or scalar ones, and the
predicates that `pred` says. -/
def Lands (b : Base) (ls : List Nat) (n : Nat) (pred : Nat → Nat → Prop) : Dest → Prop
  | .vreg r l => b.dk = .vec ∧ b.dst.toNat ≤ r ∧ r < b.dst.toNat + n ∧ l ∈ ls
  | .sreg r => b.dk = .scl ∧ b.dst.toNat ≤ r ∧ r < b.dst.toNat + n
  | .pred l p => pred l p

/-- The core's data TLB holds the translation of an address for an access, of a page that is dirty already, and keeps no broken run of
contiguous entries (02 R29 to R31). -/
def Reaches (s : State) (va : DWord) (acc : Access) (ph : Phys) : Prop :=
  let x := s.core (coreOf s.who)
  let sp := s.space (coreOf s.who) (s.partOf s.who) s.mode
  canonical va = true ∧ x.dtlb.runs = [] ∧ ∃ e, s.lookup x.dtlb sp (va55 va) = some e ∧ e.dirty = true ∧
    useEntry false e s.mode acc va s = .ok (ph, s)

/-- L1 of every core, and its instruction cache, is as it was. -/
def CachesKept (s t : State) : Prop :=
  ∀ c, (t.core c).dirty = (s.core c).dirty ∧ (t.core c).clean = (s.core c).clean ∧ (t.core c).icache = (s.core c).icache

end Sys2Proof.Claims

/-- The frame of the computing instructions (05 R107, R111, 07 R152): with operands that are read, they complete, and change their
destination, source registers at their last use, and nothing else: an instruction with a typed result its register or pair, in the lanes
whose guard holds, or a scalar register; ADDX, SUBX, PLOP, V2P and a comparison predicates; a comparison of a scalar destination its mask.
SEL, MOVI, ADDX and SUBX write a scalar register only in a lead thread. Register and literal operands are always read, and change nothing;
what the read of a constant window word itself changes in L1 stands between the two states compared. -/
def Obligations.ComputingFrame : Prop :=
  (∀ (f : Form) (b : Base) (ls : List Nat) (s : State), noWindow b → ∃ xs, readAll f b ls s = .ok (xs, s)) ∧ ∀ b : Base,
  let result := [Instr.add b, .sub b, .min b, .max b, .abs b, .neg b, .mul b, .mulh b, .mad b, .div b, .rem b, .and b, .or b, .xor b, .not b,
    .shl b, .shr b, .rot b, .fshf b, .bfe b, .bfi b, .brev b, .lop3 b, .mov b, .fadd b, .fsub b, .fmul b, .ffma b, .fmin b, .fmax b,
    .fabs b, .fneg b, .frnd b, .fscl b, .ffrx b]
  let narrow := [Instr.popc b, .clz b, .dp4a b, .sad b, .iset b, .fset b, .fclass b, .fdot2 b, .unpk b, .sclc b]
  let goes := fun (i : Instr) (ls : State → List Nat) (ok : State → Prop) (n : Nat) (pred : State → Nat → Nat → Prop) =>
    ∀ (s s1 : State) (xs : List (Nat × Operands)), i.WellFormed → s.Clear (formOf i) b → ok s →
      readAll (formOf i) b (ls s) s = .ok (xs, s1) → s1.busy (formOf i) b = none →
      ∃ t, exec i s = .next t ∧ Elsewhere s1 t ∧ Kept s1 t fun d => Lands b (s.acting b) n (pred s) d ∨ Dies s1 (formOf i) b d
  let size := if b.ty.is64 then 2 else 1
  let plain := fun (_ : State) => True
  let none_ := fun (_ : State) (_ _ : Nat) => False
  let one := fun (s : State) (l p : Nat) => p = b.dst.toNat ∧ l ∈ s.acting b
  (∀ i ∈ result, goes i (·.doers b) plain size none_) ∧ (∀ i ∈ narrow, goes i (·.doers b) plain 1 none_) ∧
  (∀ i ∈ [Instr.madw b, .lea b], goes i (·.doers b) plain 2 none_) ∧
  (∀ i ∈ [Instr.sel b, .movi b], goes i (·.doers b) (LeadOrVector b) size none_) ∧
  (∀ i ∈ [Instr.addx b, .subx b], goes i (·.doers b) (LeadOrVector b) size fun s l p =>
    p = (b.litWord .ext 2 b.c).toNat ∧ l ∈ s.acting b) ∧
  (∀ i ∈ [Instr.isetp b, .fsetp b], goes i (·.acting b) (fun _ => b.dk = .vec) 0 one ∧
    goes i (·.acting b) (fun _ => b.dk = .scl) 1 none_) ∧
  goes (.plop b) (·.acting b) plain 0 one ∧ goes (.p2v b) (·.acting b) plain 1 none_ ∧
  goes (.v2p b) (·.acting b) plain 0 fun s l p => p < 7 ∧ (b.litWord .ext 1 b.b).getLsbD p = true ∧ l ∈ s.acting b

/-- The special functions on register and literal operands (07 R170, 05 R125): each completes; where its guard holds in a lane, the
correctly rounded results of the acting lanes, for a scalar destination of the first of them, are on their way to the destination under the
flag that FS names in the clause header; the rest of the machine and the lanes' own state but pc and counts stay. The results of FEX2, FLG2,
FSIN, FCOS and FTANH are correctly rounded by the model's enclosures (assumption log 12). -/
def Obligations.SpecialFunctionResultsFly : Prop := ∀ b : Base,
  let of_ := fun (f : FVal → FVal) (x : Operands) => rneF32 (f (f32Val (x.a.setWidth 32)))
  let all := [(Instr.frcp b, of_ frcpVal), (.frsq b, of_ frsqVal), (.fsqrt b, of_ fsqrtVal), (.fex2 b, of_ fex2Val), (.flg2 b, of_ flg2Val),
    (.fsin b, of_ fsinVal), (.fcos b, of_ fcosVal), (.ftanh b, of_ ftanhVal),
    (.fdiv b, fun x => rneF32 ((f32Val (x.a.setWidth 32)).div (f32Val (x.b.setWidth 32))))]
  ∀ e ∈ all, ∀ s : State, e.1.WellFormed → s.Clear (formOf e.1) b → noWindow b →
    ∃ t, exec e.1 s = .next t ∧ Elsewhere s t ∧ (∀ l, Steady (s.lane s.who l) (t.lane s.who l)) ∧
      (s.acting b ≠ [] → ∃ f ∈ (t.agent s.who).flights, f.uid = s.uid ∧ f.known = true ∧ f.flag = flagOf s.clause b.fs ∧
        f.writes = (s.doers b).flatMap fun l => match readSrcs (formOf e.1) b l s with
          | .ok (x, _) => regWrites b l b.dst.toNat false ((e.2 x).setWidth 64)
          | .error _ => [])

/-- The frame of STS (08 R186, R189, 04 R79): where every lane's address is aligned and in its party's scratchpad, the bytes that the lanes
store to change, and no other byte of any scratchpad, no byte of memory and no register. -/
def Sys2Proof.Claims.ScratchpadStoreFrame : Prop := ∀ (b : Base) (s : State),
  let i := Instr.sts b
  let f := formOf i
  let n := accessSize b
  let p := (s.agent s.who).party
  let stores := fun (q x : Nat) => ∃ l ∈ s.acting b, ∃ y off, readSrcs f b l s = .ok (y, s) ∧
    s.spadPlace p (localAt b y) n true = .ok (q, off) ∧ off ≤ x ∧ x < off + n
  i.WellFormed → s.Clear f b → noWindow b →
  (∀ l ∈ s.acting b, ∃ y q off, readSrcs f b l s = .ok (y, s) ∧ (localAt b y).toNat % n = 0 ∧
    s.spadPlace p (localAt b y) n true = .ok (q, off)) →
  ∃ t, exec i s = .next t ∧ t.mem = s.mem ∧
    (∀ q x, ¬stores q x → (t.party q).spad.read x = (s.party q).spad.read x) ∧
    (∀ q, { t.party q with spad := [] } = { s.party q with spad := [] }) ∧ (∀ k ≠ s.who, t.agent k = s.agent k) ∧
    CachesKept s t ∧ Kept s t (Dies s f b)

/-- The frame of ATOMS (08 R198, 04 R79, R82): where every lane's address is aligned and in its party's scratchpad, the bytes that the lanes
act on change, and no other byte of any scratchpad, no byte of memory and no register: the old values are on their way. -/
def Sys2Proof.Claims.ScratchpadAtomicFrame : Prop := ∀ (b : Base) (s : State),
  let i := Instr.atoms b
  let f := formOf i
  let n := elemSize b
  let p := (s.agent s.who).party
  let at_ := fun (y : Operands) => if b.fn = 7 then (y.a + BitVec.ofInt 64 b.offset).setWidth 32 else localAt b y
  let stores := fun (q x : Nat) => ∃ l ∈ s.doers b, ∃ y off, readSrcs f b l s = .ok (y, s) ∧
    s.spadPlace p (at_ y) n true = .ok (q, off) ∧ off ≤ x ∧ x < off + n
  i.WellFormed → s.Clear f b → noWindow b →
  (∀ l ∈ s.doers b, ∃ y q off, readSrcs f b l s = .ok (y, s) ∧ (at_ y).toNat % n = 0 ∧
    s.spadPlace p (at_ y) n true = .ok (q, off)) →
  ∃ t, exec i s = .next t ∧ t.mem = s.mem ∧
    (∀ q x, ¬stores q x → (t.party q).spad.read x = (s.party q).spad.read x) ∧
    (∀ q, { t.party q with spad := [] } = { s.party q with spad := [] }) ∧ (∀ k ≠ s.who, t.agent k = s.agent k) ∧
    CachesKept s t ∧ RegsKept s t (Dies s f b)

/-- The frame of ST and STL (08 R186, R189, R190, 03 R46, R50): where every lane's address is aligned and translates to an ordinary page, and
L1 has room for the lines and no eviction due, the bytes that the lanes store to become dirty in the core's L1; every other dirty byte, every
core's other bytes and every byte of memory outside the spill entries of lines that a party has read stay, and so do scratchpad and
registers. -/
def Sys2Proof.Claims.GlobalStoreFrame : Prop := ∀ (b : Base) (s : State),
  let n := accessSize b
  ∀ e ∈ [(Instr.st b, globalAt b), (.stl b, fun y => (s.partyOf s.who).lsva + (localAt b y).setWidth 64)],
  let f := formOf e.1
  let places := fun (l : Nat) (pa : Nat) => ∃ y ph, readSrcs f b l s = .ok (y, s) ∧ (e.2 y).toNat % n = 0 ∧
    Reaches s (e.2 y) .store ph ∧ ph.ao = false ∧ ph.pa = pa
  let stores := fun (x : Nat) => ∃ l ∈ s.acting b, ∃ pa, places l pa ∧ pa ≤ x ∧ x < pa + n
  e.1.WellFormed → s.Clear f b → noWindow b → (∀ l ∈ s.acting b, ∃ pa, places l pa) →
  (∀ v ∈ s.evicts, v.1 ≠ coreOf s.who) → (s.lines (coreOf s.who)).length + 32 ≤ (s.core (coreOf s.who)).lineRoom →
  ∃ t, exec e.1 s = .next t ∧
    (∀ c x, (c ≠ coreOf s.who ∨ ¬stores x) → Sparse.find? (t.core c).dirty x = Sparse.find? (s.core c).dirty x) ∧
    (∀ c, (t.core c).clean = (s.core c).clean ∧ (t.core c).icache = (s.core c).icache) ∧
    (∀ x, (∀ q, ∀ m ∈ (s.party q).marks, ∀ v, m.2.entry = some v → x < v ∨ v + 128 ≤ x) → t.mem.read x = s.mem.read x) ∧
    (∀ q, { t.party q with marks := [] } = { s.party q with marks := [] }) ∧ (∀ k ≠ s.who, t.agent k = s.agent k) ∧
    Kept s t (Dies s f b)

/-- The frame of ATOM and ATOMC (08 R187, R198, R199, 03 R53): where every lane's address is aligned and translates, no far operation of the
agent is deferred, and the home slice gives the bytes at once, the bytes that the lanes act on change at home, and no other byte of memory, no
byte of any L1 or scratchpad, and no register: the old values are on their way. -/
def Sys2Proof.Claims.AtomicFrame : Prop := ∀ (b : Base) (s : State),
  let n := elemSize b
  ∀ e ∈ [(Instr.atom b, globalAt b), (.atomc b, fun y => y.a + BitVec.ofInt 64 b.offset)],
  let f := formOf e.1
  let places := fun (l : Nat) (pa : Nat) => ∃ y ph, readSrcs f b l s = .ok (y, s) ∧ (e.2 y).toNat % n = 0 ∧
    Reaches s (e.2 y) .atomic ph ∧ tierOf ph.pa ≠ some 2 ∧ s.eccBad ph.pa n = false ∧ ph.pa = pa
  let stores := fun (x : Nat) => ∃ l ∈ s.doers b, ∃ pa, places l pa ∧ pa ≤ x ∧ x < pa + n
  e.1.WellFormed → s.Clear f b → noWindow b → (s.agent s.who).far = [] → (∀ l ∈ s.doers b, ∃ pa, places l pa) →
  ∃ t, exec e.1 s = .next t ∧ (∀ x, ¬stores x → t.mem.read x = s.mem.read x) ∧ CachesKept s t ∧ t.parties = s.parties ∧
    (∀ k ≠ s.who, t.agent k = s.agent k) ∧ RegsKept s t (Dies s f b)

/-- The frame of STF and RED (08 R189, R198, 03 R57, R62): where every lane's address is aligned and translates, and a RED's bytes can be
corrected, each acting lane defers its part under the operation's name, behind those deferred before, and no byte of memory, of any L1 or of
any scratchpad changes yet, and no register. A deferred part, when it is performed, changes the bytes it goes to and nothing else. -/
def Sys2Proof.Claims.DeferredFrame : Prop :=
  (∀ (b : Base) (s : State), ∀ e ∈ [(Instr.stf b, accessSize b, false), (.red b, elemSize b, true)],
    let f := formOf e.1
    let places := fun (l pa : Nat) => ∃ y ph, readSrcs f b l s = .ok (y, s) ∧ (globalAt b y).toNat % e.2.1 = 0 ∧
      Reaches s (globalAt b y) .store ph ∧ (e.2.2 = true → s.eccBad ph.pa e.2.1 = false) ∧ ph.pa = pa
    e.1.WellFormed → s.Clear f b → noWindow b → s.acting b ≠ [] → (s.agent s.who).counter .far < 63 →
    (∀ l ∈ s.acting b, ∃ pa, places l pa) →
    ∃ t new, exec e.1 s = .next t ∧ (t.agent s.who).far = (s.agent s.who).far ++ new ∧ new.map (·.lane) = s.acting b ∧
      (∀ o ∈ new, o.uid = s.uid ∧ places o.lane o.pa ∧ o.bytes.length = e.2.1) ∧ t.mem = s.mem ∧ CachesKept s t ∧ t.parties = s.parties ∧
      (∀ k ≠ s.who, t.agent k = s.agent k) ∧ RegsKept s t (Dies s f b)) ∧
  ∀ (s : State) (o : FarOp),
    (∀ x, (x < o.pa ∨ o.pa + o.bytes.length ≤ x) → (s.performFar o).mem.read x = s.mem.read x) ∧
    { s.performFar o with mem := s.mem, badSectors := s.badSectors } = s

/-- The frame of LDS (08 R189): where every lane's address is aligned and in a scratchpad its party reaches, the load completes; memory, every
party with its scratchpad, every L1, the registers and the other agents stay: what was loaded is on its way. -/
def Sys2Proof.Claims.ScratchpadLoadFrame : Prop := ∀ (b : Base) (s : State),
  let i := Instr.lds b
  let f := formOf i
  let n := accessSize b
  i.WellFormed → s.Clear f b → noWindow b →
  (∀ l ∈ s.doers b, ∃ y q off, readSrcs f b l s = .ok (y, s) ∧ (localAt b y).toNat % n = 0 ∧
    s.spadPlace (s.agent s.who).party (localAt b y) n false = .ok (q, off)) →
  ∃ t, exec i s = .next t ∧ t.mem = s.mem ∧ t.parties = s.parties ∧ CachesKept s t ∧ (∀ k ≠ s.who, t.agent k = s.agent k) ∧
    RegsKept s t (Dies s f b)

/-- What stores, atomics and scratchpad loads leave unchanged. -/
def Obligations.MemoryFrames : Prop := Sys2Proof.Claims.ScratchpadStoreFrame ∧ Sys2Proof.Claims.ScratchpadAtomicFrame ∧ Sys2Proof.Claims.GlobalStoreFrame ∧ Sys2Proof.Claims.AtomicFrame ∧ Sys2Proof.Claims.DeferredFrame ∧ Sys2Proof.Claims.ScratchpadLoadFrame
end

