-- ==== Sys2Proof/Laws/Memory.lean ====
section
/-! SUPPORT. Tables and memory: what an entry reads as after each operation, and that the operations keep the canonical form. -/

namespace Sys2Proof.Machine

/-! ### Reading an entry after an update -/

@[simp] theorem Sparse.find?_put_same {α : Type} (m : Sparse α) (k : Nat) (v : α) : Sparse.find? (Sparse.put m k v) k = some v := by
  induction m with
  | nil => simp [Sparse.put, Sparse.find?]
  | cons e t ih =>
    obtain ⟨j, w⟩ := e
    rcases lt_trichotomy k j with h | h | h
    · simp [Sparse.put, Sparse.find?, h, h.ne']
    · simp [Sparse.put, Sparse.find?, h]
    · simp [Sparse.put, Sparse.find?, h.ne, h.not_gt, ih]

theorem Sparse.find?_put_other {α : Type} (m : Sparse α) {k x : Nat} (v : α) (h : x ≠ k) :
    Sparse.find? (Sparse.put m k v) x = Sparse.find? m x := by
  induction m with
  | nil => simp [Sparse.put, Sparse.find?, h.symm]
  | cons e t ih =>
    obtain ⟨j, w⟩ := e
    rcases lt_trichotomy k j with g | g | g
    · simp [Sparse.put, Sparse.find?, g, g.ne', h.symm]
    · subst g; simp [Sparse.put, Sparse.find?, h.symm]
    · simp [Sparse.put, Sparse.find?, g.ne, g.not_gt, ih]

@[simp] theorem Sparse.getD_put_same {α : Type} (m : Sparse α) (k : Nat) (v d : α) : Sparse.getD (Sparse.put m k v) k d = v := by
  simp [Sparse.getD]

theorem Sparse.getD_put_other {α : Type} (m : Sparse α) {k x : Nat} (v d : α) (h : x ≠ k) :
    Sparse.getD (Sparse.put m k v) x d = Sparse.getD m x d := by
  simp [Sparse.getD, Sparse.find?_put_other m v h]

/-! ### Keys rise strictly -/

theorem Sparse.mem_put {α : Type} {m : Sparse α} {k : Nat} {v : α} {e : Nat × α} (h : e ∈ Sparse.put m k v) : e = (k, v) ∨ e ∈ m := by
  induction m with
  | nil => simpa [Sparse.put] using h
  | cons a t ih =>
    obtain ⟨j, w⟩ := a
    simp only [Sparse.put] at h
    split_ifs at h
    · simp only [List.mem_cons] at h ⊢; tauto
    · simp only [List.mem_cons] at h ⊢; tauto
    · simp only [List.mem_cons] at h ⊢; tauto

theorem Sparse.mem_drop {α : Type} {m : Sparse α} {k : Nat} {e : Nat × α} (h : e ∈ Sparse.drop m k) : e ∈ m := by
  induction m with
  | nil => simp [Sparse.drop] at h
  | cons a t ih =>
    obtain ⟨j, w⟩ := a
    simp only [Sparse.drop] at h
    split_ifs at h
    · exact List.mem_cons_of_mem _ (ih h)
    · simp only [List.mem_cons] at h ⊢; tauto

theorem Sparse.ok_cons {α : Type} (j : Nat) (w : α) (t : Sparse α) :
    Sparse.ok ((j, w) :: t) = true ↔ (∀ e ∈ t, j < e.1) ∧ Sparse.ok t = true := by
  simp [Sparse.ok]

theorem Sparse.ok_put {α : Type} (m : Sparse α) (k : Nat) (v : α) (h : Sparse.ok m = true) : Sparse.ok (Sparse.put m k v) = true := by
  induction m with
  | nil => simp [Sparse.put, Sparse.ok]
  | cons a t ih =>
    obtain ⟨j, w⟩ := a
    obtain ⟨h1, h2⟩ := (Sparse.ok_cons j w t).1 h
    simp only [Sparse.put]
    split_ifs with c1 c2
    · subst c1; exact (Sparse.ok_cons _ _ _).2 ⟨h1, h2⟩
    · refine (Sparse.ok_cons _ _ _).2 ⟨fun e he => ?_, h⟩
      rcases List.mem_cons.1 he with rfl | he
      · exact c2
      · exact c2.trans (h1 e he)
    · refine (Sparse.ok_cons _ _ _).2 ⟨fun e he => ?_, ih h2⟩
      rcases Sparse.mem_put he with rfl | he
      · omega
      · exact h1 e he

theorem Sparse.ok_drop {α : Type} (m : Sparse α) (k : Nat) (h : Sparse.ok m = true) : Sparse.ok (Sparse.drop m k) = true := by
  induction m with
  | nil => simp [Sparse.drop, Sparse.ok]
  | cons a t ih =>
    obtain ⟨j, w⟩ := a
    obtain ⟨h1, h2⟩ := (Sparse.ok_cons j w t).1 h
    simp only [Sparse.drop]
    split_ifs
    · exact ih h2
    · exact (Sparse.ok_cons _ _ _).2 ⟨fun e he => h1 e (Sparse.mem_drop he), ih h2⟩

theorem Sparse.ok_filter {α : Type} (m : Sparse α) (p : Nat × α → Bool) (h : Sparse.ok m = true) : Sparse.ok (m.filter p) = true := by
  induction m with
  | nil => simp [Sparse.ok]
  | cons a t ih =>
    obtain ⟨j, w⟩ := a
    obtain ⟨h1, h2⟩ := (Sparse.ok_cons j w t).1 h
    rw [List.filter_cons]
    split_ifs
    · exact (Sparse.ok_cons _ _ _).2 ⟨fun e he => h1 e (List.mem_filter.1 he).1, ih h2⟩
    · exact ih h2

/-! ### Memory keeps its canonical form -/

theorem Memory.wf_iff (m : Memory) : Memory.wf m = true ↔ Sparse.ok m = true ∧ ∀ e ∈ m, e.2 ≠ 0 := by
  simp [Memory.wf]

/-- The empty memory, which State.reset has. -/
theorem Memory.wf_nil : Memory.wf [] = true := rfl

theorem Memory.wf_write (m : Memory) (a : Nat) (b : Byte) (h : Memory.wf m = true) : Memory.wf (m.write a b) = true := by
  obtain ⟨h1, h2⟩ := (Memory.wf_iff m).1 h
  unfold Memory.write
  split_ifs with c
  · exact (Memory.wf_iff _).2 ⟨Sparse.ok_drop m a h1, fun e he => h2 e (Sparse.mem_drop he)⟩
  · refine (Memory.wf_iff _).2 ⟨Sparse.ok_put m a b h1, fun e he => ?_⟩
    rcases Sparse.mem_put he with rfl | he
    · exact c
    · exact h2 e he

theorem Memory.wf_writeN (bs : List Byte) : ∀ (m : Memory) (a : Nat), Memory.wf m = true → Memory.wf (m.writeN a bs) = true := by
  induction bs with
  | nil => intro m a h; exact h
  | cons b bs ih => intro m a h; exact ih _ _ (Memory.wf_write m a b h)

theorem Memory.wf_filter (m : Memory) (p : Host.Cell → Bool) (h : Memory.wf m = true) : Memory.wf (m.filter p) = true := by
  obtain ⟨h1, h2⟩ := (Memory.wf_iff m).1 h
  exact (Memory.wf_iff _).2 ⟨Sparse.ok_filter m p h1, fun e he => h2 e (List.mem_filter.1 he).1⟩

theorem Memory.wf_clear (m : Memory) (a n : Nat) (h : Memory.wf m = true) : Memory.wf (m.clear a n) = true :=
  Memory.wf_filter m _ h

/-! ### Dropping an entry -/

@[simp] theorem Sparse.find?_drop_same {α : Type} (m : Sparse α) (k : Nat) : Sparse.find? (Sparse.drop m k) k = none := by
  induction m with
  | nil => rfl
  | cons a t ih =>
    obtain ⟨j, w⟩ := a
    by_cases c : j = k <;> simp [Sparse.drop, Sparse.find?, c, ih]

theorem Sparse.find?_drop_other {α : Type} (m : Sparse α) {k x : Nat} (hx : x ≠ k) :
    Sparse.find? (Sparse.drop m k) x = Sparse.find? m x := by
  induction m with
  | nil => rfl
  | cons a t ih =>
    obtain ⟨j, w⟩ := a
    by_cases c : j = k
    · simp [Sparse.drop, Sparse.find?, c, ih, hx.symm]
    · simp [Sparse.drop, Sparse.find?, c, ih]

/-! ### One byte -/

theorem Memory.read_write_same (m : Memory) (a : Nat) (b : Byte) : (m.write a b).read a = b := by
  unfold Memory.write Memory.read
  split_ifs with c
  · simp [Sparse.getD, c]
  · simp

theorem Memory.read_write_other (m : Memory) {a x : Nat} (b : Byte) (hx : x ≠ a) : (m.write a b).read x = m.read x := by
  unfold Memory.write Memory.read
  split_ifs
  · simp [Sparse.getD, Sparse.find?_drop_other m hx]
  · exact Sparse.getD_put_other m b 0 hx

end Sys2Proof.Machine
end

