-- ==== Sys2Proof/Laws/State.lean ====
section
/-! SUPPORT. What each named update of the state leaves and what is read back after it: one lemma per field and update. -/

namespace Sys2Proof.Machine

/-! ### State.setCore -/

@[simp] theorem State.setCore_mem (s : State) (k : Nat) (x : Core) : (s.setCore k x).mem = s.mem := rfl
@[simp] theorem State.setCore_badSectors (s : State) (k : Nat) (x : Core) : (s.setCore k x).badSectors = s.badSectors := rfl
@[simp] theorem State.setCore_badFlash (s : State) (k : Nat) (x : Core) : (s.setCore k x).badFlash = s.badFlash := rfl
@[simp] theorem State.setCore_slowFlash (s : State) (k : Nat) (x : Core) : (s.setCore k x).slowFlash = s.slowFlash := rfl
@[simp] theorem State.setCore_landedFlash (s : State) (k : Nat) (x : Core) : (s.setCore k x).landedFlash = s.landedFlash := rfl
@[simp] theorem State.setCore_agents (s : State) (k : Nat) (x : Core) : (s.setCore k x).agents = s.agents := rfl
@[simp] theorem State.setCore_parties (s : State) (k : Nat) (x : Core) : (s.setCore k x).parties = s.parties := rfl
@[simp] theorem State.setCore_teams (s : State) (k : Nat) (x : Core) : (s.setCore k x).teams = s.teams := rfl
@[simp] theorem State.setCore_camps (s : State) (k : Nat) (x : Core) : (s.setCore k x).camps = s.camps := rfl
@[simp] theorem State.setCore_dies (s : State) (k : Nat) (x : Core) : (s.setCore k x).dies = s.dies := rfl
@[simp] theorem State.setCore_parts (s : State) (k : Nat) (x : Core) : (s.setCore k x).parts = s.parts := rfl
@[simp] theorem State.setCore_saved (s : State) (k : Nat) (x : Core) : (s.setCore k x).saved = s.saved := rfl
@[simp] theorem State.setCore_dets (s : State) (k : Nat) (x : Core) : (s.setCore k x).dets = s.dets := rfl
@[simp] theorem State.setCore_tlbis (s : State) (k : Nat) (x : Core) : (s.setCore k x).tlbis = s.tlbis := rfl
@[simp] theorem State.setCore_answered (s : State) (k : Nat) (x : Core) : (s.setCore k x).answered = s.answered := rfl
@[simp] theorem State.setCore_locks (s : State) (k : Nat) (x : Core) : (s.setCore k x).locks = s.locks := rfl
@[simp] theorem State.setCore_waits (s : State) (k : Nat) (x : Core) : (s.setCore k x).waits = s.waits := rfl
@[simp] theorem State.setCore_versions (s : State) (k : Nat) (x : Core) : (s.setCore k x).versions = s.versions := rfl
@[simp] theorem State.setCore_harts (s : State) (k : Nat) (x : Core) : (s.setCore k x).harts = s.harts := rfl
@[simp] theorem State.setCore_chip (s : State) (k : Nat) (x : Core) : (s.setCore k x).chip = s.chip := rfl
@[simp] theorem State.setCore_msgs (s : State) (k : Nat) (x : Core) : (s.setCore k x).msgs = s.msgs := rfl
@[simp] theorem State.setCore_sent (s : State) (k : Nat) (x : Core) : (s.setCore k x).sent = s.sent := rfl
@[simp] theorem State.setCore_remotes (s : State) (k : Nat) (x : Core) : (s.setCore k x).remotes = s.remotes := rfl
@[simp] theorem State.setCore_parked (s : State) (k : Nat) (x : Core) : (s.setCore k x).parked = s.parked := rfl
@[simp] theorem State.setCore_logs (s : State) (k : Nat) (x : Core) : (s.setCore k x).logs = s.logs := rfl
@[simp] theorem State.setCore_platform (s : State) (k : Nat) (x : Core) : (s.setCore k x).platform = s.platform := rfl
@[simp] theorem State.setCore_agenda (s : State) (k : Nat) (x : Core) : (s.setCore k x).agenda = s.agenda := rfl
@[simp] theorem State.setCore_ports (s : State) (k : Nat) (x : Core) : (s.setCore k x).ports = s.ports := rfl
@[simp] theorem State.setCore_issue (s : State) (k : Nat) (x : Core) : (s.setCore k x).issue = s.issue := rfl
@[simp] theorem State.setCore_evicts (s : State) (k : Nat) (x : Core) : (s.setCore k x).evicts = s.evicts := rfl
@[simp] theorem State.setCore_fresh (s : State) (k : Nat) (x : Core) : (s.setCore k x).fresh = s.fresh := rfl
@[simp] theorem State.setCore_now (s : State) (k : Nat) (x : Core) : (s.setCore k x).now = s.now := rfl
@[simp] theorem State.setCore_turn (s : State) (k : Nat) (x : Core) : (s.setCore k x).turn = s.turn := rfl
@[simp] theorem State.setCore_uid (s : State) (k : Nat) (x : Core) : (s.setCore k x).uid = s.uid := rfl
@[simp] theorem State.core_setCore_same (s : State) (k : Nat) (x : Core) : (s.setCore k x).core k = x := Sparse.getD_put_same ..
theorem State.core_setCore_other (s : State) {k j : Nat} (x : Core) (h : j ≠ k) : (s.setCore k x).core j = s.core j :=
  Sparse.getD_put_other _ _ _ h
@[simp] theorem State.camp_setCore (s : State) (k j : Nat) (x : Core) : (s.setCore k x).camp j = s.camp j := rfl
@[simp] theorem State.die_setCore (s : State) (k j : Nat) (x : Core) : (s.setCore k x).die j = s.die j := rfl
@[simp] theorem State.part_setCore (s : State) (k j : Nat) (x : Core) : (s.setCore k x).part j = s.part j := rfl
@[simp] theorem State.agent_setCore (s : State) (k j : Nat) (x : Core) : (s.setCore k x).agent j = s.agent j := rfl
@[simp] theorem State.party_setCore (s : State) (k j : Nat) (x : Core) : (s.setCore k x).party j = s.party j := rfl
@[simp] theorem State.hart_setCore (s : State) (k j : Nat) (x : Core) : (s.setCore k x).hart j = s.hart j := rfl

/-! ### State.setCamp -/

@[simp] theorem State.setCamp_mem (s : State) (k : Nat) (x : Camp) : (s.setCamp k x).mem = s.mem := rfl
@[simp] theorem State.setCamp_badSectors (s : State) (k : Nat) (x : Camp) : (s.setCamp k x).badSectors = s.badSectors := rfl
@[simp] theorem State.setCamp_badFlash (s : State) (k : Nat) (x : Camp) : (s.setCamp k x).badFlash = s.badFlash := rfl
@[simp] theorem State.setCamp_slowFlash (s : State) (k : Nat) (x : Camp) : (s.setCamp k x).slowFlash = s.slowFlash := rfl
@[simp] theorem State.setCamp_landedFlash (s : State) (k : Nat) (x : Camp) : (s.setCamp k x).landedFlash = s.landedFlash := rfl
@[simp] theorem State.setCamp_agents (s : State) (k : Nat) (x : Camp) : (s.setCamp k x).agents = s.agents := rfl
@[simp] theorem State.setCamp_parties (s : State) (k : Nat) (x : Camp) : (s.setCamp k x).parties = s.parties := rfl
@[simp] theorem State.setCamp_teams (s : State) (k : Nat) (x : Camp) : (s.setCamp k x).teams = s.teams := rfl
@[simp] theorem State.setCamp_cores (s : State) (k : Nat) (x : Camp) : (s.setCamp k x).cores = s.cores := rfl
@[simp] theorem State.setCamp_dies (s : State) (k : Nat) (x : Camp) : (s.setCamp k x).dies = s.dies := rfl
@[simp] theorem State.setCamp_parts (s : State) (k : Nat) (x : Camp) : (s.setCamp k x).parts = s.parts := rfl
@[simp] theorem State.setCamp_saved (s : State) (k : Nat) (x : Camp) : (s.setCamp k x).saved = s.saved := rfl
@[simp] theorem State.setCamp_dets (s : State) (k : Nat) (x : Camp) : (s.setCamp k x).dets = s.dets := rfl
@[simp] theorem State.setCamp_tlbis (s : State) (k : Nat) (x : Camp) : (s.setCamp k x).tlbis = s.tlbis := rfl
@[simp] theorem State.setCamp_answered (s : State) (k : Nat) (x : Camp) : (s.setCamp k x).answered = s.answered := rfl
@[simp] theorem State.setCamp_locks (s : State) (k : Nat) (x : Camp) : (s.setCamp k x).locks = s.locks := rfl
@[simp] theorem State.setCamp_waits (s : State) (k : Nat) (x : Camp) : (s.setCamp k x).waits = s.waits := rfl
@[simp] theorem State.setCamp_versions (s : State) (k : Nat) (x : Camp) : (s.setCamp k x).versions = s.versions := rfl
@[simp] theorem State.setCamp_harts (s : State) (k : Nat) (x : Camp) : (s.setCamp k x).harts = s.harts := rfl
@[simp] theorem State.setCamp_chip (s : State) (k : Nat) (x : Camp) : (s.setCamp k x).chip = s.chip := rfl
@[simp] theorem State.setCamp_msgs (s : State) (k : Nat) (x : Camp) : (s.setCamp k x).msgs = s.msgs := rfl
@[simp] theorem State.setCamp_sent (s : State) (k : Nat) (x : Camp) : (s.setCamp k x).sent = s.sent := rfl
@[simp] theorem State.setCamp_remotes (s : State) (k : Nat) (x : Camp) : (s.setCamp k x).remotes = s.remotes := rfl
@[simp] theorem State.setCamp_parked (s : State) (k : Nat) (x : Camp) : (s.setCamp k x).parked = s.parked := rfl
@[simp] theorem State.setCamp_logs (s : State) (k : Nat) (x : Camp) : (s.setCamp k x).logs = s.logs := rfl
@[simp] theorem State.setCamp_platform (s : State) (k : Nat) (x : Camp) : (s.setCamp k x).platform = s.platform := rfl
@[simp] theorem State.setCamp_agenda (s : State) (k : Nat) (x : Camp) : (s.setCamp k x).agenda = s.agenda := rfl
@[simp] theorem State.setCamp_ports (s : State) (k : Nat) (x : Camp) : (s.setCamp k x).ports = s.ports := rfl
@[simp] theorem State.setCamp_issue (s : State) (k : Nat) (x : Camp) : (s.setCamp k x).issue = s.issue := rfl
@[simp] theorem State.setCamp_evicts (s : State) (k : Nat) (x : Camp) : (s.setCamp k x).evicts = s.evicts := rfl
@[simp] theorem State.setCamp_fresh (s : State) (k : Nat) (x : Camp) : (s.setCamp k x).fresh = s.fresh := rfl
@[simp] theorem State.setCamp_now (s : State) (k : Nat) (x : Camp) : (s.setCamp k x).now = s.now := rfl
@[simp] theorem State.setCamp_turn (s : State) (k : Nat) (x : Camp) : (s.setCamp k x).turn = s.turn := rfl
@[simp] theorem State.setCamp_uid (s : State) (k : Nat) (x : Camp) : (s.setCamp k x).uid = s.uid := rfl
@[simp] theorem State.camp_setCamp_same (s : State) (k : Nat) (x : Camp) : (s.setCamp k x).camp k = x := Sparse.getD_put_same ..
theorem State.camp_setCamp_other (s : State) {k j : Nat} (x : Camp) (h : j ≠ k) : (s.setCamp k x).camp j = s.camp j :=
  Sparse.getD_put_other _ _ _ h
@[simp] theorem State.core_setCamp (s : State) (k j : Nat) (x : Camp) : (s.setCamp k x).core j = s.core j := rfl
@[simp] theorem State.die_setCamp (s : State) (k j : Nat) (x : Camp) : (s.setCamp k x).die j = s.die j := rfl
@[simp] theorem State.part_setCamp (s : State) (k j : Nat) (x : Camp) : (s.setCamp k x).part j = s.part j := rfl
@[simp] theorem State.agent_setCamp (s : State) (k j : Nat) (x : Camp) : (s.setCamp k x).agent j = s.agent j := rfl
@[simp] theorem State.party_setCamp (s : State) (k j : Nat) (x : Camp) : (s.setCamp k x).party j = s.party j := rfl
@[simp] theorem State.hart_setCamp (s : State) (k j : Nat) (x : Camp) : (s.setCamp k x).hart j = s.hart j := rfl

/-! ### State.setDie -/

@[simp] theorem State.setDie_mem (s : State) (k : Nat) (x : Die) : (s.setDie k x).mem = s.mem := rfl
@[simp] theorem State.setDie_badSectors (s : State) (k : Nat) (x : Die) : (s.setDie k x).badSectors = s.badSectors := rfl
@[simp] theorem State.setDie_badFlash (s : State) (k : Nat) (x : Die) : (s.setDie k x).badFlash = s.badFlash := rfl
@[simp] theorem State.setDie_slowFlash (s : State) (k : Nat) (x : Die) : (s.setDie k x).slowFlash = s.slowFlash := rfl
@[simp] theorem State.setDie_landedFlash (s : State) (k : Nat) (x : Die) : (s.setDie k x).landedFlash = s.landedFlash := rfl
@[simp] theorem State.setDie_agents (s : State) (k : Nat) (x : Die) : (s.setDie k x).agents = s.agents := rfl
@[simp] theorem State.setDie_parties (s : State) (k : Nat) (x : Die) : (s.setDie k x).parties = s.parties := rfl
@[simp] theorem State.setDie_teams (s : State) (k : Nat) (x : Die) : (s.setDie k x).teams = s.teams := rfl
@[simp] theorem State.setDie_cores (s : State) (k : Nat) (x : Die) : (s.setDie k x).cores = s.cores := rfl
@[simp] theorem State.setDie_camps (s : State) (k : Nat) (x : Die) : (s.setDie k x).camps = s.camps := rfl
@[simp] theorem State.setDie_parts (s : State) (k : Nat) (x : Die) : (s.setDie k x).parts = s.parts := rfl
@[simp] theorem State.setDie_saved (s : State) (k : Nat) (x : Die) : (s.setDie k x).saved = s.saved := rfl
@[simp] theorem State.setDie_dets (s : State) (k : Nat) (x : Die) : (s.setDie k x).dets = s.dets := rfl
@[simp] theorem State.setDie_tlbis (s : State) (k : Nat) (x : Die) : (s.setDie k x).tlbis = s.tlbis := rfl
@[simp] theorem State.setDie_answered (s : State) (k : Nat) (x : Die) : (s.setDie k x).answered = s.answered := rfl
@[simp] theorem State.setDie_locks (s : State) (k : Nat) (x : Die) : (s.setDie k x).locks = s.locks := rfl
@[simp] theorem State.setDie_waits (s : State) (k : Nat) (x : Die) : (s.setDie k x).waits = s.waits := rfl
@[simp] theorem State.setDie_versions (s : State) (k : Nat) (x : Die) : (s.setDie k x).versions = s.versions := rfl
@[simp] theorem State.setDie_harts (s : State) (k : Nat) (x : Die) : (s.setDie k x).harts = s.harts := rfl
@[simp] theorem State.setDie_chip (s : State) (k : Nat) (x : Die) : (s.setDie k x).chip = s.chip := rfl
@[simp] theorem State.setDie_msgs (s : State) (k : Nat) (x : Die) : (s.setDie k x).msgs = s.msgs := rfl
@[simp] theorem State.setDie_sent (s : State) (k : Nat) (x : Die) : (s.setDie k x).sent = s.sent := rfl
@[simp] theorem State.setDie_remotes (s : State) (k : Nat) (x : Die) : (s.setDie k x).remotes = s.remotes := rfl
@[simp] theorem State.setDie_parked (s : State) (k : Nat) (x : Die) : (s.setDie k x).parked = s.parked := rfl
@[simp] theorem State.setDie_logs (s : State) (k : Nat) (x : Die) : (s.setDie k x).logs = s.logs := rfl
@[simp] theorem State.setDie_platform (s : State) (k : Nat) (x : Die) : (s.setDie k x).platform = s.platform := rfl
@[simp] theorem State.setDie_agenda (s : State) (k : Nat) (x : Die) : (s.setDie k x).agenda = s.agenda := rfl
@[simp] theorem State.setDie_ports (s : State) (k : Nat) (x : Die) : (s.setDie k x).ports = s.ports := rfl
@[simp] theorem State.setDie_issue (s : State) (k : Nat) (x : Die) : (s.setDie k x).issue = s.issue := rfl
@[simp] theorem State.setDie_evicts (s : State) (k : Nat) (x : Die) : (s.setDie k x).evicts = s.evicts := rfl
@[simp] theorem State.setDie_fresh (s : State) (k : Nat) (x : Die) : (s.setDie k x).fresh = s.fresh := rfl
@[simp] theorem State.setDie_now (s : State) (k : Nat) (x : Die) : (s.setDie k x).now = s.now := rfl
@[simp] theorem State.setDie_turn (s : State) (k : Nat) (x : Die) : (s.setDie k x).turn = s.turn := rfl
@[simp] theorem State.setDie_uid (s : State) (k : Nat) (x : Die) : (s.setDie k x).uid = s.uid := rfl
@[simp] theorem State.die_setDie_same (s : State) (k : Nat) (x : Die) : (s.setDie k x).die k = x := Sparse.getD_put_same ..
theorem State.die_setDie_other (s : State) {k j : Nat} (x : Die) (h : j ≠ k) : (s.setDie k x).die j = s.die j :=
  Sparse.getD_put_other _ _ _ h
@[simp] theorem State.core_setDie (s : State) (k j : Nat) (x : Die) : (s.setDie k x).core j = s.core j := rfl
@[simp] theorem State.camp_setDie (s : State) (k j : Nat) (x : Die) : (s.setDie k x).camp j = s.camp j := rfl
@[simp] theorem State.part_setDie (s : State) (k j : Nat) (x : Die) : (s.setDie k x).part j = s.part j := rfl
@[simp] theorem State.agent_setDie (s : State) (k j : Nat) (x : Die) : (s.setDie k x).agent j = s.agent j := rfl
@[simp] theorem State.party_setDie (s : State) (k j : Nat) (x : Die) : (s.setDie k x).party j = s.party j := rfl
@[simp] theorem State.hart_setDie (s : State) (k j : Nat) (x : Die) : (s.setDie k x).hart j = s.hart j := rfl

/-! ### State.setPart -/

@[simp] theorem State.setPart_mem (s : State) (k : Nat) (x : Partition) : (s.setPart k x).mem = s.mem := rfl
@[simp] theorem State.setPart_badSectors (s : State) (k : Nat) (x : Partition) : (s.setPart k x).badSectors = s.badSectors := rfl
@[simp] theorem State.setPart_badFlash (s : State) (k : Nat) (x : Partition) : (s.setPart k x).badFlash = s.badFlash := rfl
@[simp] theorem State.setPart_slowFlash (s : State) (k : Nat) (x : Partition) : (s.setPart k x).slowFlash = s.slowFlash := rfl
@[simp] theorem State.setPart_landedFlash (s : State) (k : Nat) (x : Partition) : (s.setPart k x).landedFlash = s.landedFlash := rfl
@[simp] theorem State.setPart_agents (s : State) (k : Nat) (x : Partition) : (s.setPart k x).agents = s.agents := rfl
@[simp] theorem State.setPart_parties (s : State) (k : Nat) (x : Partition) : (s.setPart k x).parties = s.parties := rfl
@[simp] theorem State.setPart_teams (s : State) (k : Nat) (x : Partition) : (s.setPart k x).teams = s.teams := rfl
@[simp] theorem State.setPart_cores (s : State) (k : Nat) (x : Partition) : (s.setPart k x).cores = s.cores := rfl
@[simp] theorem State.setPart_camps (s : State) (k : Nat) (x : Partition) : (s.setPart k x).camps = s.camps := rfl
@[simp] theorem State.setPart_dies (s : State) (k : Nat) (x : Partition) : (s.setPart k x).dies = s.dies := rfl
@[simp] theorem State.setPart_saved (s : State) (k : Nat) (x : Partition) : (s.setPart k x).saved = s.saved := rfl
@[simp] theorem State.setPart_dets (s : State) (k : Nat) (x : Partition) : (s.setPart k x).dets = s.dets := rfl
@[simp] theorem State.setPart_tlbis (s : State) (k : Nat) (x : Partition) : (s.setPart k x).tlbis = s.tlbis := rfl
@[simp] theorem State.setPart_answered (s : State) (k : Nat) (x : Partition) : (s.setPart k x).answered = s.answered := rfl
@[simp] theorem State.setPart_locks (s : State) (k : Nat) (x : Partition) : (s.setPart k x).locks = s.locks := rfl
@[simp] theorem State.setPart_waits (s : State) (k : Nat) (x : Partition) : (s.setPart k x).waits = s.waits := rfl
@[simp] theorem State.setPart_versions (s : State) (k : Nat) (x : Partition) : (s.setPart k x).versions = s.versions := rfl
@[simp] theorem State.setPart_harts (s : State) (k : Nat) (x : Partition) : (s.setPart k x).harts = s.harts := rfl
@[simp] theorem State.setPart_chip (s : State) (k : Nat) (x : Partition) : (s.setPart k x).chip = s.chip := rfl
@[simp] theorem State.setPart_msgs (s : State) (k : Nat) (x : Partition) : (s.setPart k x).msgs = s.msgs := rfl
@[simp] theorem State.setPart_sent (s : State) (k : Nat) (x : Partition) : (s.setPart k x).sent = s.sent := rfl
@[simp] theorem State.setPart_remotes (s : State) (k : Nat) (x : Partition) : (s.setPart k x).remotes = s.remotes := rfl
@[simp] theorem State.setPart_parked (s : State) (k : Nat) (x : Partition) : (s.setPart k x).parked = s.parked := rfl
@[simp] theorem State.setPart_logs (s : State) (k : Nat) (x : Partition) : (s.setPart k x).logs = s.logs := rfl
@[simp] theorem State.setPart_platform (s : State) (k : Nat) (x : Partition) : (s.setPart k x).platform = s.platform := rfl
@[simp] theorem State.setPart_agenda (s : State) (k : Nat) (x : Partition) : (s.setPart k x).agenda = s.agenda := rfl
@[simp] theorem State.setPart_ports (s : State) (k : Nat) (x : Partition) : (s.setPart k x).ports = s.ports := rfl
@[simp] theorem State.setPart_issue (s : State) (k : Nat) (x : Partition) : (s.setPart k x).issue = s.issue := rfl
@[simp] theorem State.setPart_evicts (s : State) (k : Nat) (x : Partition) : (s.setPart k x).evicts = s.evicts := rfl
@[simp] theorem State.setPart_fresh (s : State) (k : Nat) (x : Partition) : (s.setPart k x).fresh = s.fresh := rfl
@[simp] theorem State.setPart_now (s : State) (k : Nat) (x : Partition) : (s.setPart k x).now = s.now := rfl
@[simp] theorem State.setPart_turn (s : State) (k : Nat) (x : Partition) : (s.setPart k x).turn = s.turn := rfl
@[simp] theorem State.setPart_uid (s : State) (k : Nat) (x : Partition) : (s.setPart k x).uid = s.uid := rfl
@[simp] theorem State.part_setPart_same (s : State) (k : Nat) (x : Partition) : (s.setPart k x).part k = x := Sparse.getD_put_same ..
theorem State.part_setPart_other (s : State) {k j : Nat} (x : Partition) (h : j ≠ k) : (s.setPart k x).part j = s.part j :=
  Sparse.getD_put_other _ _ _ h
@[simp] theorem State.core_setPart (s : State) (k j : Nat) (x : Partition) : (s.setPart k x).core j = s.core j := rfl
@[simp] theorem State.camp_setPart (s : State) (k j : Nat) (x : Partition) : (s.setPart k x).camp j = s.camp j := rfl
@[simp] theorem State.die_setPart (s : State) (k j : Nat) (x : Partition) : (s.setPart k x).die j = s.die j := rfl
@[simp] theorem State.agent_setPart (s : State) (k j : Nat) (x : Partition) : (s.setPart k x).agent j = s.agent j := rfl
@[simp] theorem State.party_setPart (s : State) (k j : Nat) (x : Partition) : (s.setPart k x).party j = s.party j := rfl
@[simp] theorem State.hart_setPart (s : State) (k j : Nat) (x : Partition) : (s.setPart k x).hart j = s.hart j := rfl

/-! ### State.setAgent -/

@[simp] theorem State.setAgent_mem (s : State) (k : Nat) (x : Agent) : (s.setAgent k x).mem = s.mem := rfl
@[simp] theorem State.setAgent_badSectors (s : State) (k : Nat) (x : Agent) : (s.setAgent k x).badSectors = s.badSectors := rfl
@[simp] theorem State.setAgent_badFlash (s : State) (k : Nat) (x : Agent) : (s.setAgent k x).badFlash = s.badFlash := rfl
@[simp] theorem State.setAgent_slowFlash (s : State) (k : Nat) (x : Agent) : (s.setAgent k x).slowFlash = s.slowFlash := rfl
@[simp] theorem State.setAgent_landedFlash (s : State) (k : Nat) (x : Agent) : (s.setAgent k x).landedFlash = s.landedFlash := rfl
@[simp] theorem State.setAgent_parties (s : State) (k : Nat) (x : Agent) : (s.setAgent k x).parties = s.parties := rfl
@[simp] theorem State.setAgent_teams (s : State) (k : Nat) (x : Agent) : (s.setAgent k x).teams = s.teams := rfl
@[simp] theorem State.setAgent_cores (s : State) (k : Nat) (x : Agent) : (s.setAgent k x).cores = s.cores := rfl
@[simp] theorem State.setAgent_camps (s : State) (k : Nat) (x : Agent) : (s.setAgent k x).camps = s.camps := rfl
@[simp] theorem State.setAgent_dies (s : State) (k : Nat) (x : Agent) : (s.setAgent k x).dies = s.dies := rfl
@[simp] theorem State.setAgent_parts (s : State) (k : Nat) (x : Agent) : (s.setAgent k x).parts = s.parts := rfl
@[simp] theorem State.setAgent_saved (s : State) (k : Nat) (x : Agent) : (s.setAgent k x).saved = s.saved := rfl
@[simp] theorem State.setAgent_dets (s : State) (k : Nat) (x : Agent) : (s.setAgent k x).dets = s.dets := rfl
@[simp] theorem State.setAgent_tlbis (s : State) (k : Nat) (x : Agent) : (s.setAgent k x).tlbis = s.tlbis := rfl
@[simp] theorem State.setAgent_answered (s : State) (k : Nat) (x : Agent) : (s.setAgent k x).answered = s.answered := rfl
@[simp] theorem State.setAgent_locks (s : State) (k : Nat) (x : Agent) : (s.setAgent k x).locks = s.locks := rfl
@[simp] theorem State.setAgent_waits (s : State) (k : Nat) (x : Agent) : (s.setAgent k x).waits = s.waits := rfl
@[simp] theorem State.setAgent_versions (s : State) (k : Nat) (x : Agent) : (s.setAgent k x).versions = s.versions := rfl
@[simp] theorem State.setAgent_harts (s : State) (k : Nat) (x : Agent) : (s.setAgent k x).harts = s.harts := rfl
@[simp] theorem State.setAgent_chip (s : State) (k : Nat) (x : Agent) : (s.setAgent k x).chip = s.chip := rfl
@[simp] theorem State.setAgent_msgs (s : State) (k : Nat) (x : Agent) : (s.setAgent k x).msgs = s.msgs := rfl
@[simp] theorem State.setAgent_sent (s : State) (k : Nat) (x : Agent) : (s.setAgent k x).sent = s.sent := rfl
@[simp] theorem State.setAgent_remotes (s : State) (k : Nat) (x : Agent) : (s.setAgent k x).remotes = s.remotes := rfl
@[simp] theorem State.setAgent_parked (s : State) (k : Nat) (x : Agent) : (s.setAgent k x).parked = s.parked := rfl
@[simp] theorem State.setAgent_logs (s : State) (k : Nat) (x : Agent) : (s.setAgent k x).logs = s.logs := rfl
@[simp] theorem State.setAgent_platform (s : State) (k : Nat) (x : Agent) : (s.setAgent k x).platform = s.platform := rfl
@[simp] theorem State.setAgent_agenda (s : State) (k : Nat) (x : Agent) : (s.setAgent k x).agenda = s.agenda := rfl
@[simp] theorem State.setAgent_ports (s : State) (k : Nat) (x : Agent) : (s.setAgent k x).ports = s.ports := rfl
@[simp] theorem State.setAgent_issue (s : State) (k : Nat) (x : Agent) : (s.setAgent k x).issue = s.issue := rfl
@[simp] theorem State.setAgent_evicts (s : State) (k : Nat) (x : Agent) : (s.setAgent k x).evicts = s.evicts := rfl
@[simp] theorem State.setAgent_fresh (s : State) (k : Nat) (x : Agent) : (s.setAgent k x).fresh = s.fresh := rfl
@[simp] theorem State.setAgent_now (s : State) (k : Nat) (x : Agent) : (s.setAgent k x).now = s.now := rfl
@[simp] theorem State.setAgent_turn (s : State) (k : Nat) (x : Agent) : (s.setAgent k x).turn = s.turn := rfl
@[simp] theorem State.setAgent_uid (s : State) (k : Nat) (x : Agent) : (s.setAgent k x).uid = s.uid := rfl
@[simp] theorem State.agent_setAgent_same (s : State) (k : Nat) (x : Agent) : (s.setAgent k x).agent k = x := Sparse.getD_put_same ..
theorem State.agent_setAgent_other (s : State) {k j : Nat} (x : Agent) (h : j ≠ k) : (s.setAgent k x).agent j = s.agent j :=
  Sparse.getD_put_other _ _ _ h
@[simp] theorem State.core_setAgent (s : State) (k j : Nat) (x : Agent) : (s.setAgent k x).core j = s.core j := rfl
@[simp] theorem State.camp_setAgent (s : State) (k j : Nat) (x : Agent) : (s.setAgent k x).camp j = s.camp j := rfl
@[simp] theorem State.die_setAgent (s : State) (k j : Nat) (x : Agent) : (s.setAgent k x).die j = s.die j := rfl
@[simp] theorem State.part_setAgent (s : State) (k j : Nat) (x : Agent) : (s.setAgent k x).part j = s.part j := rfl
@[simp] theorem State.party_setAgent (s : State) (k j : Nat) (x : Agent) : (s.setAgent k x).party j = s.party j := rfl
@[simp] theorem State.hart_setAgent (s : State) (k j : Nat) (x : Agent) : (s.setAgent k x).hart j = s.hart j := rfl

/-! ### State.setParty -/

@[simp] theorem State.setParty_mem (s : State) (k : Nat) (x : Party) : (s.setParty k x).mem = s.mem := rfl
@[simp] theorem State.setParty_badSectors (s : State) (k : Nat) (x : Party) : (s.setParty k x).badSectors = s.badSectors := rfl
@[simp] theorem State.setParty_badFlash (s : State) (k : Nat) (x : Party) : (s.setParty k x).badFlash = s.badFlash := rfl
@[simp] theorem State.setParty_slowFlash (s : State) (k : Nat) (x : Party) : (s.setParty k x).slowFlash = s.slowFlash := rfl
@[simp] theorem State.setParty_landedFlash (s : State) (k : Nat) (x : Party) : (s.setParty k x).landedFlash = s.landedFlash := rfl
@[simp] theorem State.setParty_agents (s : State) (k : Nat) (x : Party) : (s.setParty k x).agents = s.agents := rfl
@[simp] theorem State.setParty_teams (s : State) (k : Nat) (x : Party) : (s.setParty k x).teams = s.teams := rfl
@[simp] theorem State.setParty_cores (s : State) (k : Nat) (x : Party) : (s.setParty k x).cores = s.cores := rfl
@[simp] theorem State.setParty_camps (s : State) (k : Nat) (x : Party) : (s.setParty k x).camps = s.camps := rfl
@[simp] theorem State.setParty_dies (s : State) (k : Nat) (x : Party) : (s.setParty k x).dies = s.dies := rfl
@[simp] theorem State.setParty_parts (s : State) (k : Nat) (x : Party) : (s.setParty k x).parts = s.parts := rfl
@[simp] theorem State.setParty_saved (s : State) (k : Nat) (x : Party) : (s.setParty k x).saved = s.saved := rfl
@[simp] theorem State.setParty_dets (s : State) (k : Nat) (x : Party) : (s.setParty k x).dets = s.dets := rfl
@[simp] theorem State.setParty_tlbis (s : State) (k : Nat) (x : Party) : (s.setParty k x).tlbis = s.tlbis := rfl
@[simp] theorem State.setParty_answered (s : State) (k : Nat) (x : Party) : (s.setParty k x).answered = s.answered := rfl
@[simp] theorem State.setParty_locks (s : State) (k : Nat) (x : Party) : (s.setParty k x).locks = s.locks := rfl
@[simp] theorem State.setParty_waits (s : State) (k : Nat) (x : Party) : (s.setParty k x).waits = s.waits := rfl
@[simp] theorem State.setParty_versions (s : State) (k : Nat) (x : Party) : (s.setParty k x).versions = s.versions := rfl
@[simp] theorem State.setParty_harts (s : State) (k : Nat) (x : Party) : (s.setParty k x).harts = s.harts := rfl
@[simp] theorem State.setParty_chip (s : State) (k : Nat) (x : Party) : (s.setParty k x).chip = s.chip := rfl
@[simp] theorem State.setParty_msgs (s : State) (k : Nat) (x : Party) : (s.setParty k x).msgs = s.msgs := rfl
@[simp] theorem State.setParty_sent (s : State) (k : Nat) (x : Party) : (s.setParty k x).sent = s.sent := rfl
@[simp] theorem State.setParty_remotes (s : State) (k : Nat) (x : Party) : (s.setParty k x).remotes = s.remotes := rfl
@[simp] theorem State.setParty_parked (s : State) (k : Nat) (x : Party) : (s.setParty k x).parked = s.parked := rfl
@[simp] theorem State.setParty_logs (s : State) (k : Nat) (x : Party) : (s.setParty k x).logs = s.logs := rfl
@[simp] theorem State.setParty_platform (s : State) (k : Nat) (x : Party) : (s.setParty k x).platform = s.platform := rfl
@[simp] theorem State.setParty_agenda (s : State) (k : Nat) (x : Party) : (s.setParty k x).agenda = s.agenda := rfl
@[simp] theorem State.setParty_ports (s : State) (k : Nat) (x : Party) : (s.setParty k x).ports = s.ports := rfl
@[simp] theorem State.setParty_issue (s : State) (k : Nat) (x : Party) : (s.setParty k x).issue = s.issue := rfl
@[simp] theorem State.setParty_evicts (s : State) (k : Nat) (x : Party) : (s.setParty k x).evicts = s.evicts := rfl
@[simp] theorem State.setParty_fresh (s : State) (k : Nat) (x : Party) : (s.setParty k x).fresh = s.fresh := rfl
@[simp] theorem State.setParty_now (s : State) (k : Nat) (x : Party) : (s.setParty k x).now = s.now := rfl
@[simp] theorem State.setParty_turn (s : State) (k : Nat) (x : Party) : (s.setParty k x).turn = s.turn := rfl
@[simp] theorem State.setParty_uid (s : State) (k : Nat) (x : Party) : (s.setParty k x).uid = s.uid := rfl
@[simp] theorem State.party_setParty_same (s : State) (k : Nat) (x : Party) : (s.setParty k x).party k = x := Sparse.getD_put_same ..
theorem State.party_setParty_other (s : State) {k j : Nat} (x : Party) (h : j ≠ k) : (s.setParty k x).party j = s.party j :=
  Sparse.getD_put_other _ _ _ h
@[simp] theorem State.core_setParty (s : State) (k j : Nat) (x : Party) : (s.setParty k x).core j = s.core j := rfl
@[simp] theorem State.camp_setParty (s : State) (k j : Nat) (x : Party) : (s.setParty k x).camp j = s.camp j := rfl
@[simp] theorem State.die_setParty (s : State) (k j : Nat) (x : Party) : (s.setParty k x).die j = s.die j := rfl
@[simp] theorem State.part_setParty (s : State) (k j : Nat) (x : Party) : (s.setParty k x).part j = s.part j := rfl
@[simp] theorem State.agent_setParty (s : State) (k j : Nat) (x : Party) : (s.setParty k x).agent j = s.agent j := rfl
@[simp] theorem State.hart_setParty (s : State) (k j : Nat) (x : Party) : (s.setParty k x).hart j = s.hart j := rfl

/-! ### State.setHart -/

@[simp] theorem State.setHart_mem (s : State) (k : Nat) (x : Hart) : (s.setHart k x).mem = s.mem := rfl
@[simp] theorem State.setHart_badSectors (s : State) (k : Nat) (x : Hart) : (s.setHart k x).badSectors = s.badSectors := rfl
@[simp] theorem State.setHart_badFlash (s : State) (k : Nat) (x : Hart) : (s.setHart k x).badFlash = s.badFlash := rfl
@[simp] theorem State.setHart_slowFlash (s : State) (k : Nat) (x : Hart) : (s.setHart k x).slowFlash = s.slowFlash := rfl
@[simp] theorem State.setHart_landedFlash (s : State) (k : Nat) (x : Hart) : (s.setHart k x).landedFlash = s.landedFlash := rfl
@[simp] theorem State.setHart_agents (s : State) (k : Nat) (x : Hart) : (s.setHart k x).agents = s.agents := rfl
@[simp] theorem State.setHart_parties (s : State) (k : Nat) (x : Hart) : (s.setHart k x).parties = s.parties := rfl
@[simp] theorem State.setHart_teams (s : State) (k : Nat) (x : Hart) : (s.setHart k x).teams = s.teams := rfl
@[simp] theorem State.setHart_cores (s : State) (k : Nat) (x : Hart) : (s.setHart k x).cores = s.cores := rfl
@[simp] theorem State.setHart_camps (s : State) (k : Nat) (x : Hart) : (s.setHart k x).camps = s.camps := rfl
@[simp] theorem State.setHart_dies (s : State) (k : Nat) (x : Hart) : (s.setHart k x).dies = s.dies := rfl
@[simp] theorem State.setHart_parts (s : State) (k : Nat) (x : Hart) : (s.setHart k x).parts = s.parts := rfl
@[simp] theorem State.setHart_saved (s : State) (k : Nat) (x : Hart) : (s.setHart k x).saved = s.saved := rfl
@[simp] theorem State.setHart_dets (s : State) (k : Nat) (x : Hart) : (s.setHart k x).dets = s.dets := rfl
@[simp] theorem State.setHart_tlbis (s : State) (k : Nat) (x : Hart) : (s.setHart k x).tlbis = s.tlbis := rfl
@[simp] theorem State.setHart_answered (s : State) (k : Nat) (x : Hart) : (s.setHart k x).answered = s.answered := rfl
@[simp] theorem State.setHart_locks (s : State) (k : Nat) (x : Hart) : (s.setHart k x).locks = s.locks := rfl
@[simp] theorem State.setHart_waits (s : State) (k : Nat) (x : Hart) : (s.setHart k x).waits = s.waits := rfl
@[simp] theorem State.setHart_versions (s : State) (k : Nat) (x : Hart) : (s.setHart k x).versions = s.versions := rfl
@[simp] theorem State.setHart_chip (s : State) (k : Nat) (x : Hart) : (s.setHart k x).chip = s.chip := rfl
@[simp] theorem State.setHart_msgs (s : State) (k : Nat) (x : Hart) : (s.setHart k x).msgs = s.msgs := rfl
@[simp] theorem State.setHart_sent (s : State) (k : Nat) (x : Hart) : (s.setHart k x).sent = s.sent := rfl
@[simp] theorem State.setHart_remotes (s : State) (k : Nat) (x : Hart) : (s.setHart k x).remotes = s.remotes := rfl
@[simp] theorem State.setHart_parked (s : State) (k : Nat) (x : Hart) : (s.setHart k x).parked = s.parked := rfl
@[simp] theorem State.setHart_logs (s : State) (k : Nat) (x : Hart) : (s.setHart k x).logs = s.logs := rfl
@[simp] theorem State.setHart_platform (s : State) (k : Nat) (x : Hart) : (s.setHart k x).platform = s.platform := rfl
@[simp] theorem State.setHart_agenda (s : State) (k : Nat) (x : Hart) : (s.setHart k x).agenda = s.agenda := rfl
@[simp] theorem State.setHart_ports (s : State) (k : Nat) (x : Hart) : (s.setHart k x).ports = s.ports := rfl
@[simp] theorem State.setHart_issue (s : State) (k : Nat) (x : Hart) : (s.setHart k x).issue = s.issue := rfl
@[simp] theorem State.setHart_evicts (s : State) (k : Nat) (x : Hart) : (s.setHart k x).evicts = s.evicts := rfl
@[simp] theorem State.setHart_fresh (s : State) (k : Nat) (x : Hart) : (s.setHart k x).fresh = s.fresh := rfl
@[simp] theorem State.setHart_now (s : State) (k : Nat) (x : Hart) : (s.setHart k x).now = s.now := rfl
@[simp] theorem State.setHart_turn (s : State) (k : Nat) (x : Hart) : (s.setHart k x).turn = s.turn := rfl
@[simp] theorem State.setHart_uid (s : State) (k : Nat) (x : Hart) : (s.setHart k x).uid = s.uid := rfl
@[simp] theorem State.hart_setHart_same (s : State) (k : Nat) (x : Hart) : (s.setHart k x).hart k = x := Sparse.getD_put_same ..
theorem State.hart_setHart_other (s : State) {k j : Nat} (x : Hart) (h : j ≠ k) : (s.setHart k x).hart j = s.hart j :=
  Sparse.getD_put_other _ _ _ h
@[simp] theorem State.core_setHart (s : State) (k j : Nat) (x : Hart) : (s.setHart k x).core j = s.core j := rfl
@[simp] theorem State.camp_setHart (s : State) (k j : Nat) (x : Hart) : (s.setHart k x).camp j = s.camp j := rfl
@[simp] theorem State.die_setHart (s : State) (k j : Nat) (x : Hart) : (s.setHart k x).die j = s.die j := rfl
@[simp] theorem State.part_setHart (s : State) (k j : Nat) (x : Hart) : (s.setHart k x).part j = s.part j := rfl
@[simp] theorem State.agent_setHart (s : State) (k j : Nat) (x : Hart) : (s.setHart k x).agent j = s.agent j := rfl
@[simp] theorem State.party_setHart (s : State) (k j : Nat) (x : Hart) : (s.setHart k x).party j = s.party j := rfl

/-! ### State.mapLane and State.setBank, which change an agent and a core -/

@[simp] theorem State.mapLane_mem (s : State) (k l : Nat) (f : Lane → Lane) : (s.mapLane k l f).mem = s.mem := rfl
@[simp] theorem State.mapLane_badSectors (s : State) (k l : Nat) (f : Lane → Lane) : (s.mapLane k l f).badSectors = s.badSectors := rfl
@[simp] theorem State.mapLane_badFlash (s : State) (k l : Nat) (f : Lane → Lane) : (s.mapLane k l f).badFlash = s.badFlash := rfl
@[simp] theorem State.mapLane_slowFlash (s : State) (k l : Nat) (f : Lane → Lane) : (s.mapLane k l f).slowFlash = s.slowFlash := rfl
@[simp] theorem State.mapLane_landedFlash (s : State) (k l : Nat) (f : Lane → Lane) : (s.mapLane k l f).landedFlash = s.landedFlash := rfl
@[simp] theorem State.mapLane_parties (s : State) (k l : Nat) (f : Lane → Lane) : (s.mapLane k l f).parties = s.parties := rfl
@[simp] theorem State.mapLane_teams (s : State) (k l : Nat) (f : Lane → Lane) : (s.mapLane k l f).teams = s.teams := rfl
@[simp] theorem State.mapLane_cores (s : State) (k l : Nat) (f : Lane → Lane) : (s.mapLane k l f).cores = s.cores := rfl
@[simp] theorem State.mapLane_camps (s : State) (k l : Nat) (f : Lane → Lane) : (s.mapLane k l f).camps = s.camps := rfl
@[simp] theorem State.mapLane_dies (s : State) (k l : Nat) (f : Lane → Lane) : (s.mapLane k l f).dies = s.dies := rfl
@[simp] theorem State.mapLane_parts (s : State) (k l : Nat) (f : Lane → Lane) : (s.mapLane k l f).parts = s.parts := rfl
@[simp] theorem State.mapLane_saved (s : State) (k l : Nat) (f : Lane → Lane) : (s.mapLane k l f).saved = s.saved := rfl
@[simp] theorem State.mapLane_dets (s : State) (k l : Nat) (f : Lane → Lane) : (s.mapLane k l f).dets = s.dets := rfl
@[simp] theorem State.mapLane_tlbis (s : State) (k l : Nat) (f : Lane → Lane) : (s.mapLane k l f).tlbis = s.tlbis := rfl
@[simp] theorem State.mapLane_answered (s : State) (k l : Nat) (f : Lane → Lane) : (s.mapLane k l f).answered = s.answered := rfl
@[simp] theorem State.mapLane_locks (s : State) (k l : Nat) (f : Lane → Lane) : (s.mapLane k l f).locks = s.locks := rfl
@[simp] theorem State.mapLane_waits (s : State) (k l : Nat) (f : Lane → Lane) : (s.mapLane k l f).waits = s.waits := rfl
@[simp] theorem State.mapLane_versions (s : State) (k l : Nat) (f : Lane → Lane) : (s.mapLane k l f).versions = s.versions := rfl
@[simp] theorem State.mapLane_harts (s : State) (k l : Nat) (f : Lane → Lane) : (s.mapLane k l f).harts = s.harts := rfl
@[simp] theorem State.mapLane_chip (s : State) (k l : Nat) (f : Lane → Lane) : (s.mapLane k l f).chip = s.chip := rfl
@[simp] theorem State.mapLane_msgs (s : State) (k l : Nat) (f : Lane → Lane) : (s.mapLane k l f).msgs = s.msgs := rfl
@[simp] theorem State.mapLane_sent (s : State) (k l : Nat) (f : Lane → Lane) : (s.mapLane k l f).sent = s.sent := rfl
@[simp] theorem State.mapLane_remotes (s : State) (k l : Nat) (f : Lane → Lane) : (s.mapLane k l f).remotes = s.remotes := rfl
@[simp] theorem State.mapLane_parked (s : State) (k l : Nat) (f : Lane → Lane) : (s.mapLane k l f).parked = s.parked := rfl
@[simp] theorem State.mapLane_logs (s : State) (k l : Nat) (f : Lane → Lane) : (s.mapLane k l f).logs = s.logs := rfl
@[simp] theorem State.mapLane_platform (s : State) (k l : Nat) (f : Lane → Lane) : (s.mapLane k l f).platform = s.platform := rfl
@[simp] theorem State.mapLane_agenda (s : State) (k l : Nat) (f : Lane → Lane) : (s.mapLane k l f).agenda = s.agenda := rfl
@[simp] theorem State.mapLane_ports (s : State) (k l : Nat) (f : Lane → Lane) : (s.mapLane k l f).ports = s.ports := rfl
@[simp] theorem State.mapLane_issue (s : State) (k l : Nat) (f : Lane → Lane) : (s.mapLane k l f).issue = s.issue := rfl
@[simp] theorem State.mapLane_evicts (s : State) (k l : Nat) (f : Lane → Lane) : (s.mapLane k l f).evicts = s.evicts := rfl
@[simp] theorem State.mapLane_fresh (s : State) (k l : Nat) (f : Lane → Lane) : (s.mapLane k l f).fresh = s.fresh := rfl
@[simp] theorem State.mapLane_now (s : State) (k l : Nat) (f : Lane → Lane) : (s.mapLane k l f).now = s.now := rfl
@[simp] theorem State.mapLane_turn (s : State) (k l : Nat) (f : Lane → Lane) : (s.mapLane k l f).turn = s.turn := rfl
@[simp] theorem State.mapLane_uid (s : State) (k l : Nat) (f : Lane → Lane) : (s.mapLane k l f).uid = s.uid := rfl
@[simp] theorem State.setBank_mem (s : State) (c p : Nat) (b : Bank) : (s.setBank c p b).mem = s.mem := rfl
@[simp] theorem State.setBank_badSectors (s : State) (c p : Nat) (b : Bank) : (s.setBank c p b).badSectors = s.badSectors := rfl
@[simp] theorem State.setBank_badFlash (s : State) (c p : Nat) (b : Bank) : (s.setBank c p b).badFlash = s.badFlash := rfl
@[simp] theorem State.setBank_slowFlash (s : State) (c p : Nat) (b : Bank) : (s.setBank c p b).slowFlash = s.slowFlash := rfl
@[simp] theorem State.setBank_landedFlash (s : State) (c p : Nat) (b : Bank) : (s.setBank c p b).landedFlash = s.landedFlash := rfl
@[simp] theorem State.setBank_agents (s : State) (c p : Nat) (b : Bank) : (s.setBank c p b).agents = s.agents := rfl
@[simp] theorem State.setBank_parties (s : State) (c p : Nat) (b : Bank) : (s.setBank c p b).parties = s.parties := rfl
@[simp] theorem State.setBank_teams (s : State) (c p : Nat) (b : Bank) : (s.setBank c p b).teams = s.teams := rfl
@[simp] theorem State.setBank_camps (s : State) (c p : Nat) (b : Bank) : (s.setBank c p b).camps = s.camps := rfl
@[simp] theorem State.setBank_dies (s : State) (c p : Nat) (b : Bank) : (s.setBank c p b).dies = s.dies := rfl
@[simp] theorem State.setBank_parts (s : State) (c p : Nat) (b : Bank) : (s.setBank c p b).parts = s.parts := rfl
@[simp] theorem State.setBank_saved (s : State) (c p : Nat) (b : Bank) : (s.setBank c p b).saved = s.saved := rfl
@[simp] theorem State.setBank_dets (s : State) (c p : Nat) (b : Bank) : (s.setBank c p b).dets = s.dets := rfl
@[simp] theorem State.setBank_tlbis (s : State) (c p : Nat) (b : Bank) : (s.setBank c p b).tlbis = s.tlbis := rfl
@[simp] theorem State.setBank_answered (s : State) (c p : Nat) (b : Bank) : (s.setBank c p b).answered = s.answered := rfl
@[simp] theorem State.setBank_locks (s : State) (c p : Nat) (b : Bank) : (s.setBank c p b).locks = s.locks := rfl
@[simp] theorem State.setBank_waits (s : State) (c p : Nat) (b : Bank) : (s.setBank c p b).waits = s.waits := rfl
@[simp] theorem State.setBank_versions (s : State) (c p : Nat) (b : Bank) : (s.setBank c p b).versions = s.versions := rfl
@[simp] theorem State.setBank_harts (s : State) (c p : Nat) (b : Bank) : (s.setBank c p b).harts = s.harts := rfl
@[simp] theorem State.setBank_chip (s : State) (c p : Nat) (b : Bank) : (s.setBank c p b).chip = s.chip := rfl
@[simp] theorem State.setBank_msgs (s : State) (c p : Nat) (b : Bank) : (s.setBank c p b).msgs = s.msgs := rfl
@[simp] theorem State.setBank_sent (s : State) (c p : Nat) (b : Bank) : (s.setBank c p b).sent = s.sent := rfl
@[simp] theorem State.setBank_remotes (s : State) (c p : Nat) (b : Bank) : (s.setBank c p b).remotes = s.remotes := rfl
@[simp] theorem State.setBank_parked (s : State) (c p : Nat) (b : Bank) : (s.setBank c p b).parked = s.parked := rfl
@[simp] theorem State.setBank_logs (s : State) (c p : Nat) (b : Bank) : (s.setBank c p b).logs = s.logs := rfl
@[simp] theorem State.setBank_platform (s : State) (c p : Nat) (b : Bank) : (s.setBank c p b).platform = s.platform := rfl
@[simp] theorem State.setBank_agenda (s : State) (c p : Nat) (b : Bank) : (s.setBank c p b).agenda = s.agenda := rfl
@[simp] theorem State.setBank_ports (s : State) (c p : Nat) (b : Bank) : (s.setBank c p b).ports = s.ports := rfl
@[simp] theorem State.setBank_issue (s : State) (c p : Nat) (b : Bank) : (s.setBank c p b).issue = s.issue := rfl
@[simp] theorem State.setBank_evicts (s : State) (c p : Nat) (b : Bank) : (s.setBank c p b).evicts = s.evicts := rfl
@[simp] theorem State.setBank_fresh (s : State) (c p : Nat) (b : Bank) : (s.setBank c p b).fresh = s.fresh := rfl
@[simp] theorem State.setBank_now (s : State) (c p : Nat) (b : Bank) : (s.setBank c p b).now = s.now := rfl
@[simp] theorem State.setBank_turn (s : State) (c p : Nat) (b : Bank) : (s.setBank c p b).turn = s.turn := rfl
@[simp] theorem State.setBank_uid (s : State) (c p : Nat) (b : Bank) : (s.setBank c p b).uid = s.uid := rfl
@[simp] theorem State.bank_setBank_same (s : State) (c p : Nat) (b : Bank) : (s.setBank c p b).bank c p = b := by
  simp [State.bank, State.setBank]
theorem State.bank_setBank_other (s : State) (c : Nat) {p q : Nat} (b : Bank) (h : q ≠ p) : (s.setBank c p b).bank c q = s.bank c q := by
  simp [State.bank, State.setBank, Sparse.getD_put_other _ _ _ h]
theorem State.agent_mapLane_other (s : State) {k j : Nat} (l : Nat) (f : Lane → Lane) (h : j ≠ k) :
    (s.mapLane k l f).agent j = s.agent j := State.agent_setAgent_other s _ h
theorem State.lane_mapLane_other (s : State) (k : Nat) {l m : Nat} (f : Lane → Lane) (h : m ≠ l) :
    (s.mapLane k l f).lane k m = s.lane k m := by
  simp [State.lane, State.mapLane, List.getD_eq_getElem?_getD, h.symm]
theorem State.lane_mapLane_same (s : State) (k l : Nat) (f : Lane → Lane) (h : l < (s.agent k).lanes.length) :
    (s.mapLane k l f).lane k l = f (s.lane k l) := by
  simp [State.lane, State.mapLane, List.getD_eq_getElem?_getD, h]

/-! ### State.writeHome, the one store to physical memory -/

@[simp] theorem State.writeHome_badFlash (s : State) (pa : Nat) (bs : List Byte) : (s.writeHome pa bs).badFlash = s.badFlash := rfl
@[simp] theorem State.writeHome_slowFlash (s : State) (pa : Nat) (bs : List Byte) : (s.writeHome pa bs).slowFlash = s.slowFlash := rfl
@[simp] theorem State.writeHome_landedFlash (s : State) (pa : Nat) (bs : List Byte) : (s.writeHome pa bs).landedFlash = s.landedFlash := rfl
@[simp] theorem State.writeHome_agents (s : State) (pa : Nat) (bs : List Byte) : (s.writeHome pa bs).agents = s.agents := rfl
@[simp] theorem State.writeHome_parties (s : State) (pa : Nat) (bs : List Byte) : (s.writeHome pa bs).parties = s.parties := rfl
@[simp] theorem State.writeHome_teams (s : State) (pa : Nat) (bs : List Byte) : (s.writeHome pa bs).teams = s.teams := rfl
@[simp] theorem State.writeHome_cores (s : State) (pa : Nat) (bs : List Byte) : (s.writeHome pa bs).cores = s.cores := rfl
@[simp] theorem State.writeHome_camps (s : State) (pa : Nat) (bs : List Byte) : (s.writeHome pa bs).camps = s.camps := rfl
@[simp] theorem State.writeHome_dies (s : State) (pa : Nat) (bs : List Byte) : (s.writeHome pa bs).dies = s.dies := rfl
@[simp] theorem State.writeHome_parts (s : State) (pa : Nat) (bs : List Byte) : (s.writeHome pa bs).parts = s.parts := rfl
@[simp] theorem State.writeHome_saved (s : State) (pa : Nat) (bs : List Byte) : (s.writeHome pa bs).saved = s.saved := rfl
@[simp] theorem State.writeHome_dets (s : State) (pa : Nat) (bs : List Byte) : (s.writeHome pa bs).dets = s.dets := rfl
@[simp] theorem State.writeHome_tlbis (s : State) (pa : Nat) (bs : List Byte) : (s.writeHome pa bs).tlbis = s.tlbis := rfl
@[simp] theorem State.writeHome_answered (s : State) (pa : Nat) (bs : List Byte) : (s.writeHome pa bs).answered = s.answered := rfl
@[simp] theorem State.writeHome_locks (s : State) (pa : Nat) (bs : List Byte) : (s.writeHome pa bs).locks = s.locks := rfl
@[simp] theorem State.writeHome_waits (s : State) (pa : Nat) (bs : List Byte) : (s.writeHome pa bs).waits = s.waits := rfl
@[simp] theorem State.writeHome_versions (s : State) (pa : Nat) (bs : List Byte) : (s.writeHome pa bs).versions = s.versions := rfl
@[simp] theorem State.writeHome_harts (s : State) (pa : Nat) (bs : List Byte) : (s.writeHome pa bs).harts = s.harts := rfl
@[simp] theorem State.writeHome_chip (s : State) (pa : Nat) (bs : List Byte) : (s.writeHome pa bs).chip = s.chip := rfl
@[simp] theorem State.writeHome_msgs (s : State) (pa : Nat) (bs : List Byte) : (s.writeHome pa bs).msgs = s.msgs := rfl
@[simp] theorem State.writeHome_sent (s : State) (pa : Nat) (bs : List Byte) : (s.writeHome pa bs).sent = s.sent := rfl
@[simp] theorem State.writeHome_remotes (s : State) (pa : Nat) (bs : List Byte) : (s.writeHome pa bs).remotes = s.remotes := rfl
@[simp] theorem State.writeHome_parked (s : State) (pa : Nat) (bs : List Byte) : (s.writeHome pa bs).parked = s.parked := rfl
@[simp] theorem State.writeHome_logs (s : State) (pa : Nat) (bs : List Byte) : (s.writeHome pa bs).logs = s.logs := rfl
@[simp] theorem State.writeHome_platform (s : State) (pa : Nat) (bs : List Byte) : (s.writeHome pa bs).platform = s.platform := rfl
@[simp] theorem State.writeHome_agenda (s : State) (pa : Nat) (bs : List Byte) : (s.writeHome pa bs).agenda = s.agenda := rfl
@[simp] theorem State.writeHome_ports (s : State) (pa : Nat) (bs : List Byte) : (s.writeHome pa bs).ports = s.ports := rfl
@[simp] theorem State.writeHome_issue (s : State) (pa : Nat) (bs : List Byte) : (s.writeHome pa bs).issue = s.issue := rfl
@[simp] theorem State.writeHome_evicts (s : State) (pa : Nat) (bs : List Byte) : (s.writeHome pa bs).evicts = s.evicts := rfl
@[simp] theorem State.writeHome_fresh (s : State) (pa : Nat) (bs : List Byte) : (s.writeHome pa bs).fresh = s.fresh := rfl
@[simp] theorem State.writeHome_now (s : State) (pa : Nat) (bs : List Byte) : (s.writeHome pa bs).now = s.now := rfl
@[simp] theorem State.writeHome_turn (s : State) (pa : Nat) (bs : List Byte) : (s.writeHome pa bs).turn = s.turn := rfl
@[simp] theorem State.writeHome_uid (s : State) (pa : Nat) (bs : List Byte) : (s.writeHome pa bs).uid = s.uid := rfl
@[simp] theorem State.writeHome_mem (s : State) (pa : Nat) (bs : List Byte) : (s.writeHome pa bs).mem = s.mem.writeN pa bs := rfl
theorem State.writeHome_wf (s : State) (pa : Nat) (bs : List Byte) (h : Memory.wf s.mem = true) : Memory.wf (s.writeHome pa bs).mem = true :=
  Memory.wf_writeN bs _ _ h

/-! ### Registers of an agent -/

@[simp] theorem Agent.setV_party (a : Agent) (reg l : Nat) (v : Word) : (a.setV reg l v).party = a.party := rfl
@[simp] theorem Agent.setV_rope (a : Agent) (reg l : Nat) (v : Word) : (a.setV reg l v).rope = a.rope := rfl
@[simp] theorem Agent.setV_lanes (a : Agent) (reg l : Nat) (v : Word) : (a.setV reg l v).lanes = a.lanes := rfl
@[simp] theorem Agent.setV_sregs (a : Agent) (reg l : Nat) (v : Word) : (a.setV reg l v).sregs = a.sregs := rfl
@[simp] theorem Agent.setV_flags (a : Agent) (reg l : Nat) (v : Word) : (a.setV reg l v).flags = a.flags := rfl
@[simp] theorem Agent.setV_flights (a : Agent) (reg l : Nat) (v : Word) : (a.setV reg l v).flights = a.flights := rfl
@[simp] theorem Agent.setV_ops (a : Agent) (reg l : Nat) (v : Word) : (a.setV reg l v).ops = a.ops := rfl
@[simp] theorem Agent.setV_far (a : Agent) (reg l : Nat) (v : Word) : (a.setV reg l v).far = a.far := rfl
@[simp] theorem Agent.setV_faults (a : Agent) (reg l : Nat) (v : Word) : (a.setV reg l v).faults = a.faults := rfl
@[simp] theorem Agent.setV_answers (a : Agent) (reg l : Nat) (v : Word) : (a.setV reg l v).answers = a.answers := rfl
@[simp] theorem Agent.setV_stuck (a : Agent) (reg l : Nat) (v : Word) : (a.setV reg l v).stuck = a.stuck := rfl
@[simp] theorem Agent.setV_lfsr (a : Agent) (reg l : Nat) (v : Word) : (a.setV reg l v).lfsr = a.lfsr := rfl
@[simp] theorem Agent.setV_key (a : Agent) (reg l : Nat) (v : Word) : (a.setV reg l v).key = a.key := rfl
@[simp] theorem Agent.setV_bound (a : Agent) (reg l : Nat) (v : Word) : (a.setV reg l v).bound = a.bound := rfl
@[simp] theorem Agent.setV_sticky (a : Agent) (reg l : Nat) (v : Word) : (a.setV reg l v).sticky = a.sticky := rfl
@[simp] theorem Agent.setV_bara (a : Agent) (reg l : Nat) (v : Word) : (a.setV reg l v).bara = a.bara := rfl
@[simp] theorem Agent.setV_dqPos (a : Agent) (reg l : Nat) (v : Word) : (a.setV reg l v).dqPos = a.dqPos := rfl
@[simp] theorem Agent.setV_spilled (a : Agent) (reg l : Nat) (v : Word) : (a.setV reg l v).spilled = a.spilled := rfl
@[simp] theorem Agent.setV_owed (a : Agent) (reg l : Nat) (v : Word) : (a.setV reg l v).owed = a.owed := rfl
@[simp] theorem Agent.setV_samples (a : Agent) (reg l : Nat) (v : Word) : (a.setV reg l v).samples = a.samples := rfl
@[simp] theorem Agent.setV_yielded (a : Agent) (reg l : Nat) (v : Word) : (a.setV reg l v).yielded = a.yielded := rfl
@[simp] theorem Agent.setS_party (a : Agent) (reg : Nat) (v : Word) : (a.setS reg v).party = a.party := rfl
@[simp] theorem Agent.setS_rope (a : Agent) (reg : Nat) (v : Word) : (a.setS reg v).rope = a.rope := rfl
@[simp] theorem Agent.setS_lanes (a : Agent) (reg : Nat) (v : Word) : (a.setS reg v).lanes = a.lanes := rfl
@[simp] theorem Agent.setS_vregs (a : Agent) (reg : Nat) (v : Word) : (a.setS reg v).vregs = a.vregs := rfl
@[simp] theorem Agent.setS_flags (a : Agent) (reg : Nat) (v : Word) : (a.setS reg v).flags = a.flags := rfl
@[simp] theorem Agent.setS_flights (a : Agent) (reg : Nat) (v : Word) : (a.setS reg v).flights = a.flights := rfl
@[simp] theorem Agent.setS_ops (a : Agent) (reg : Nat) (v : Word) : (a.setS reg v).ops = a.ops := rfl
@[simp] theorem Agent.setS_far (a : Agent) (reg : Nat) (v : Word) : (a.setS reg v).far = a.far := rfl
@[simp] theorem Agent.setS_faults (a : Agent) (reg : Nat) (v : Word) : (a.setS reg v).faults = a.faults := rfl
@[simp] theorem Agent.setS_answers (a : Agent) (reg : Nat) (v : Word) : (a.setS reg v).answers = a.answers := rfl
@[simp] theorem Agent.setS_stuck (a : Agent) (reg : Nat) (v : Word) : (a.setS reg v).stuck = a.stuck := rfl
@[simp] theorem Agent.setS_lfsr (a : Agent) (reg : Nat) (v : Word) : (a.setS reg v).lfsr = a.lfsr := rfl
@[simp] theorem Agent.setS_key (a : Agent) (reg : Nat) (v : Word) : (a.setS reg v).key = a.key := rfl
@[simp] theorem Agent.setS_bound (a : Agent) (reg : Nat) (v : Word) : (a.setS reg v).bound = a.bound := rfl
@[simp] theorem Agent.setS_sticky (a : Agent) (reg : Nat) (v : Word) : (a.setS reg v).sticky = a.sticky := rfl
@[simp] theorem Agent.setS_bara (a : Agent) (reg : Nat) (v : Word) : (a.setS reg v).bara = a.bara := rfl
@[simp] theorem Agent.setS_dqPos (a : Agent) (reg : Nat) (v : Word) : (a.setS reg v).dqPos = a.dqPos := rfl
@[simp] theorem Agent.setS_spilled (a : Agent) (reg : Nat) (v : Word) : (a.setS reg v).spilled = a.spilled := rfl
@[simp] theorem Agent.setS_owed (a : Agent) (reg : Nat) (v : Word) : (a.setS reg v).owed = a.owed := rfl
@[simp] theorem Agent.setS_samples (a : Agent) (reg : Nat) (v : Word) : (a.setS reg v).samples = a.samples := rfl
@[simp] theorem Agent.setS_yielded (a : Agent) (reg : Nat) (v : Word) : (a.setS reg v).yielded = a.yielded := rfl
@[simp] theorem Agent.kill_party (a : Agent) (reg l : Nat) : (a.kill reg l).party = a.party := rfl
@[simp] theorem Agent.kill_rope (a : Agent) (reg l : Nat) : (a.kill reg l).rope = a.rope := rfl
@[simp] theorem Agent.kill_lanes (a : Agent) (reg l : Nat) : (a.kill reg l).lanes = a.lanes := rfl
@[simp] theorem Agent.kill_sregs (a : Agent) (reg l : Nat) : (a.kill reg l).sregs = a.sregs := rfl
@[simp] theorem Agent.kill_flags (a : Agent) (reg l : Nat) : (a.kill reg l).flags = a.flags := rfl
@[simp] theorem Agent.kill_flights (a : Agent) (reg l : Nat) : (a.kill reg l).flights = a.flights := rfl
@[simp] theorem Agent.kill_ops (a : Agent) (reg l : Nat) : (a.kill reg l).ops = a.ops := rfl
@[simp] theorem Agent.kill_far (a : Agent) (reg l : Nat) : (a.kill reg l).far = a.far := rfl
@[simp] theorem Agent.kill_faults (a : Agent) (reg l : Nat) : (a.kill reg l).faults = a.faults := rfl
@[simp] theorem Agent.kill_answers (a : Agent) (reg l : Nat) : (a.kill reg l).answers = a.answers := rfl
@[simp] theorem Agent.kill_stuck (a : Agent) (reg l : Nat) : (a.kill reg l).stuck = a.stuck := rfl
@[simp] theorem Agent.kill_lfsr (a : Agent) (reg l : Nat) : (a.kill reg l).lfsr = a.lfsr := rfl
@[simp] theorem Agent.kill_key (a : Agent) (reg l : Nat) : (a.kill reg l).key = a.key := rfl
@[simp] theorem Agent.kill_bound (a : Agent) (reg l : Nat) : (a.kill reg l).bound = a.bound := rfl
@[simp] theorem Agent.kill_sticky (a : Agent) (reg l : Nat) : (a.kill reg l).sticky = a.sticky := rfl
@[simp] theorem Agent.kill_bara (a : Agent) (reg l : Nat) : (a.kill reg l).bara = a.bara := rfl
@[simp] theorem Agent.kill_dqPos (a : Agent) (reg l : Nat) : (a.kill reg l).dqPos = a.dqPos := rfl
/-- The end of a register's last use drops its lane from a spilled copy, and the copy with its last lane; other copies stay. -/
theorem Agent.kill_spilled (a : Agent) (reg l : Nat) (h : ∀ e ∈ a.spilled, e.1 ≠ reg) : (a.kill reg l).spilled = a.spilled := by
  simp only [Agent.kill]
  rw [List.map_congr_left (g := id) (by intro e he; simp [h e he]), List.map_id, List.filter_eq_self]
  intro e he; simp [h e he]
theorem Agent.kill_owed (a : Agent) (reg l : Nat) : (a.kill reg l).owed = a.owed.filter fun e => e.1 != 32 * reg + l := rfl
@[simp] theorem Agent.kill_samples (a : Agent) (reg l : Nat) : (a.kill reg l).samples = a.samples := rfl
@[simp] theorem Agent.kill_yielded (a : Agent) (reg l : Nat) : (a.kill reg l).yielded = a.yielded := rfl
@[simp] theorem Agent.discard_party (a : Agent) (ds : List Dest) : (a.discard ds).party = a.party := rfl
@[simp] theorem Agent.discard_rope (a : Agent) (ds : List Dest) : (a.discard ds).rope = a.rope := rfl
@[simp] theorem Agent.discard_lanes (a : Agent) (ds : List Dest) : (a.discard ds).lanes = a.lanes := rfl
@[simp] theorem Agent.discard_vregs (a : Agent) (ds : List Dest) : (a.discard ds).vregs = a.vregs := rfl
@[simp] theorem Agent.discard_sregs (a : Agent) (ds : List Dest) : (a.discard ds).sregs = a.sregs := rfl
@[simp] theorem Agent.discard_flags (a : Agent) (ds : List Dest) : (a.discard ds).flags = a.flags := rfl
@[simp] theorem Agent.discard_ops (a : Agent) (ds : List Dest) : (a.discard ds).ops = a.ops := rfl
@[simp] theorem Agent.discard_far (a : Agent) (ds : List Dest) : (a.discard ds).far = a.far := rfl
@[simp] theorem Agent.discard_faults (a : Agent) (ds : List Dest) : (a.discard ds).faults = a.faults := rfl
@[simp] theorem Agent.discard_answers (a : Agent) (ds : List Dest) : (a.discard ds).answers = a.answers := rfl
@[simp] theorem Agent.discard_stuck (a : Agent) (ds : List Dest) : (a.discard ds).stuck = a.stuck := rfl
@[simp] theorem Agent.discard_lfsr (a : Agent) (ds : List Dest) : (a.discard ds).lfsr = a.lfsr := rfl
@[simp] theorem Agent.discard_key (a : Agent) (ds : List Dest) : (a.discard ds).key = a.key := rfl
@[simp] theorem Agent.discard_bound (a : Agent) (ds : List Dest) : (a.discard ds).bound = a.bound := rfl
@[simp] theorem Agent.discard_sticky (a : Agent) (ds : List Dest) : (a.discard ds).sticky = a.sticky := rfl
@[simp] theorem Agent.discard_bara (a : Agent) (ds : List Dest) : (a.discard ds).bara = a.bara := rfl
@[simp] theorem Agent.discard_dqPos (a : Agent) (ds : List Dest) : (a.discard ds).dqPos = a.dqPos := rfl
@[simp] theorem Agent.discard_spilled (a : Agent) (ds : List Dest) : (a.discard ds).spilled = a.spilled := rfl
@[simp] theorem Agent.discard_owed (a : Agent) (ds : List Dest) : (a.discard ds).owed = a.owed := rfl
@[simp] theorem Agent.discard_samples (a : Agent) (ds : List Dest) : (a.discard ds).samples = a.samples := rfl
@[simp] theorem Agent.discard_yielded (a : Agent) (ds : List Dest) : (a.discard ds).yielded = a.yielded := rfl
@[simp] theorem Agent.vreg_setV_same (a : Agent) (reg l : Nat) (v : Word) : (a.setV reg l v).vreg reg l = v := Sparse.getD_put_same ..
theorem Agent.vreg_setV_other (a : Agent) {reg l r m : Nat} (v : Word) (h : 32 * r + m ≠ 32 * reg + l) :
    (a.setV reg l v).vreg r m = a.vreg r m := Sparse.getD_put_other _ _ _ h
theorem Agent.sreg_setS_same (a : Agent) (reg : Nat) (v : Word) (h : reg < a.sregs.length) : (a.setS reg v).sreg reg = v := by
  simp [Agent.sreg, Agent.setS, List.getD_eq_getElem?_getD, h]
theorem Agent.sreg_setS_other (a : Agent) {reg r : Nat} (v : Word) (h : r ≠ reg) : (a.setS reg v).sreg r = a.sreg r := by
  simp [Agent.sreg, Agent.setS, List.getD_eq_getElem?_getD, List.getElem?_set_ne h.symm]

/-! ### Predicates of a lane (05 R108) -/

@[simp] theorem Lane.setPred_exited (x : Lane) (p : Nat) (v : Bool) : (x.setPred p v).exited = x.exited := by
  unfold Lane.setPred; split_ifs <;> rfl
@[simp] theorem Lane.setPred_pc (x : Lane) (p : Nat) (v : Bool) : (x.setPred p v).pc = x.pc := by
  unfold Lane.setPred; split_ifs <;> rfl
@[simp] theorem Lane.setPred_mode (x : Lane) (p : Nat) (v : Bool) : (x.setPred p v).mode = x.mode := by
  unfold Lane.setPred; split_ifs <;> rfl
@[simp] theorem Lane.setPred_clause (x : Lane) (p : Nat) (v : Bool) : (x.setPred p v).clause = x.clause := by
  unfold Lane.setPred; split_ifs <;> rfl
@[simp] theorem Lane.setPred_lc0 (x : Lane) (p : Nat) (v : Bool) : (x.setPred p v).lc0 = x.lc0 := by
  unfold Lane.setPred; split_ifs <;> rfl
@[simp] theorem Lane.setPred_lc1 (x : Lane) (p : Nat) (v : Bool) : (x.setPred p v).lc1 = x.lc1 := by
  unfold Lane.setPred; split_ifs <;> rfl
@[simp] theorem Lane.setPred_rstack (x : Lane) (p : Nat) (v : Bool) : (x.setPred p v).rstack = x.rstack := by
  unfold Lane.setPred; split_ifs <;> rfl
@[simp] theorem Lane.setPred_rsd (x : Lane) (p : Nat) (v : Bool) : (x.setPred p v).rsd = x.rsd := by
  unfold Lane.setPred; split_ifs <;> rfl
@[simp] theorem Lane.setPred_t (x : Lane) (p : Nat) (v : Bool) : (x.setPred p v).t = x.t := by
  unfold Lane.setPred; split_ifs <;> rfl
@[simp] theorem Lane.setPred_h (x : Lane) (p : Nat) (v : Bool) : (x.setPred p v).h = x.h := by
  unfold Lane.setPred; split_ifs <;> rfl
@[simp] theorem Lane.setPred_dbg (x : Lane) (p : Nat) (v : Bool) : (x.setPred p v).dbg = x.dbg := by
  unfold Lane.setPred; split_ifs <;> rfl
@[simp] theorem Lane.setPred_randPos (x : Lane) (p : Nat) (v : Bool) : (x.setPred p v).randPos = x.randPos := by
  unfold Lane.setPred; split_ifs <;> rfl
@[simp] theorem Lane.setPred_rwc (x : Lane) (p : Nat) (v : Bool) : (x.setPred p v).rwc = x.rwc := by
  unfold Lane.setPred; split_ifs <;> rfl
@[simp] theorem Lane.setPred_wait (x : Lane) (p : Nat) (v : Bool) : (x.setPred p v).wait = x.wait := by
  unfold Lane.setPred; split_ifs <;> rfl
@[simp] theorem Lane.setPred_since (x : Lane) (p : Nat) (v : Bool) : (x.setPred p v).since = x.since := by
  unfold Lane.setPred; split_ifs <;> rfl
@[simp] theorem Lane.setPred_age (x : Lane) (p : Nat) (v : Bool) : (x.setPred p v).age = x.age := by
  unfold Lane.setPred; split_ifs <;> rfl
@[simp] theorem Lane.setPred_kept (x : Lane) (p : Nat) (v : Bool) : (x.setPred p v).kept = x.kept := by
  unfold Lane.setPred; split_ifs <;> rfl
@[simp] theorem Lane.setPred_word (x : Lane) (p : Nat) (v : Bool) : (x.setPred p v).word = x.word := by
  unfold Lane.setPred; split_ifs <;> rfl
@[simp] theorem Lane.setPred_slow (x : Lane) (p : Nat) (v : Bool) : (x.setPred p v).slow = x.slow := by
  unfold Lane.setPred; split_ifs <;> rfl
@[simp] theorem Lane.setPred_seen (x : Lane) (p : Nat) (v : Bool) : (x.setPred p v).seen = x.seen := by
  unfold Lane.setPred; split_ifs <;> rfl
@[simp] theorem Lane.setPred_skew (x : Lane) (p : Nat) (v : Bool) : (x.setPred p v).skew = x.skew := by
  unfold Lane.setPred; split_ifs <;> rfl
@[simp] theorem Lane.setPred_detour (x : Lane) (p : Nat) (v : Bool) : (x.setPred p v).detour = x.detour := by
  unfold Lane.setPred; split_ifs <;> rfl
@[simp] theorem Lane.pred_seven (x : Lane) : x.pred 7 = true := rfl
@[simp] theorem Lane.setPred_seven (x : Lane) (v : Bool) : x.setPred 7 v = x := rfl

end Sys2Proof.Machine
end

