-- ==== Sys2Proof/Laws/Ops.lean ====
section
/-! SUPPORT. What each shared operation can do, said once: the effect monad, physical memory, trap entry and return, and an issue group
that acts at once. -/

namespace Sys2Proof.Machine

/-! ### The effect monad -/

theorem M.bind_ok {α β : Type} (x : M α) (f : α → M β) (s t : State) (r : β) :
    (x >>= f) s = .ok (r, t) ↔ ∃ a s1, x s = .ok (a, s1) ∧ f a s1 = .ok (r, t) := by
  simp only [bind, StateT.bind, Except.bind]
  cases h : x s with
  | error e => simp
  | ok v =>
    obtain ⟨a, s1⟩ := v
    exact ⟨fun g => ⟨a, s1, rfl, g⟩, fun ⟨_, _, g, g'⟩ => by cases g; exact g'⟩

theorem M.bind_run {α β : Type} {x : M α} {f : α → M β} {s s1 : State} {a : α} (h : x s = .ok (a, s1)) : (x >>= f) s = f a s1 := by
  simp only [bind, StateT.bind, Except.bind, h]

@[simp] theorem M.pure_run {α : Type} (a : α) (s : State) : (pure a : M α) s = .ok (a, s) := rfl
@[simp] theorem M.get_run (s : State) : (get : M State) s = .ok (s, s) := rfl
@[simp] theorem M.modify_run (f : State → State) (s : State) : (modify f : M Unit) s = .ok ((), f s) := rfl
@[simp] theorem abort_run {α : Type} (a : Abort) (s : State) : (abort a : M α) s = .error a := rfl
@[simp] theorem modCore_run (c : Nat) (f : Core → Core) (s : State) : modCore c f s = .ok ((), s.setCore c (f (s.core c))) := rfl
@[simp] theorem modAgent_run (k : Nat) (f : Agent → Agent) (s : State) : modAgent k f s = .ok ((), s.setAgent k (f (s.agent k))) := rfl
@[simp] theorem modParty_run (p : Nat) (f : Party → Party) (s : State) : modParty p f s = .ok ((), s.setParty p (f (s.party p))) := rfl
@[simp] theorem modCamp_run (c : Nat) (f : Camp → Camp) (s : State) : modCamp c f s = .ok ((), s.setCamp c (f (s.camp c))) := rfl
@[simp] theorem modDie_run (d : Nat) (f : Die → Die) (s : State) : modDie d f s = .ok ((), s.setDie d (f (s.die d))) := rfl
@[simp] theorem modPart_run (p : Nat) (f : Partition → Partition) (s : State) : modPart p f s = .ok ((), s.setPart p (f (s.part p))) := rfl
@[simp] theorem modLane_run (k l : Nat) (f : Lane → Lane) (s : State) : modLane k l f s = .ok ((), s.mapLane k l f) := rfl

theorem require_ok (p : Bool) (c : Cause) (v : DWord) (s t : State) : require p c v s = .ok ((), t) ↔ p = true ∧ t = s := by
  cases p
  · simp [require, raise, abort]
  · simp [require, eq_comm]

/-- An attempt ends normally, or undoes a trap; other aborts pass on. -/
theorem attempt_ok {α : Type} (m : M α) (s t : State) (r : Except Trap α) :
    attempt m s = .ok (r, t) ↔ (∃ a, r = .ok a ∧ m s = .ok (a, t)) ∨ (∃ e, r = .error e ∧ t = s ∧ m s = .error (.trap e)) := by
  unfold attempt
  cases h : m s with
  | ok v =>
    obtain ⟨a, s1⟩ := v
    constructor
    · intro g; cases g; exact .inl ⟨a, rfl, rfl⟩
    · rintro (⟨b, rfl, g⟩ | ⟨e, -, -, g⟩) <;> cases g; rfl
  | error e =>
    cases e with
    | trap x =>
      constructor
      · intro g; cases g; exact .inr ⟨x, rfl, rfl, rfl⟩
      · rintro (⟨b, -, g⟩ | ⟨y, rfl, rfl, g⟩) <;> cases g; rfl
    | _ => simp

/-! ### Physical memory -/

theorem physRead_ok (pa n : Nat) (s t : State) (bs : List Byte) : physRead pa n s = .ok (bs, t) ↔
    (tierOf pa).isSome = true ∧ (tierOf (pa + n - 1)).isSome = true ∧ bs = s.mem.readN pa n ∧ t = s := by
  unfold physRead
  split_ifs with h
  · simp only [Bool.and_eq_true] at h; simp [h, eq_comm]
  · simp only [Bool.and_eq_true] at h; simp; tauto

theorem physWrite_ok (pa : Nat) (bs : List Byte) (s t : State) : physWrite pa bs s = .ok ((), t) ↔
    (tierOf pa).any (· < 2) = true ∧ (tierOf (pa + bs.length - 1)).any (· < 2) = true ∧ t = s.writeHome pa bs := by
  unfold physWrite
  split_ifs with h
  · simp only [Bool.and_eq_true] at h; simp only [h, true_and]; simp [eq_comm]
  · simp only [Bool.and_eq_true] at h
    exact ⟨fun g => (nomatch g), fun g => absurd ⟨g.1, g.2.1⟩ h⟩

/-- A store by physical address keeps memory's canonical form. -/
theorem physWrite_wf {pa : Nat} {bs : List Byte} {s t : State} (h : physWrite pa bs s = .ok ((), t)) (w : Memory.wf s.mem = true) :
    Memory.wf t.mem = true := by
  obtain ⟨-, -, rfl⟩ := (physWrite_ok ..).1 h
  exact State.writeHome_wf s pa bs w

/-! ### Trap entry and the return (14 R321, R327) -/

/-- Trap entry leaves the predicates, the loop registers, the return stack, the stream position and the counts of a lane. -/
theorem Lane.trap_leaves (x : Lane) (hdeleg : DWord) (base : Mode → DWord) (bound : Bool) (t : Trap) (pc : DWord) (cl : Clause) :
    let y := x.trap hdeleg base bound t pc cl
    y.exited = x.exited ∧ y.preds = x.preds ∧ y.lc0 = x.lc0 ∧ y.lc1 = x.lc1 ∧ y.rstack = x.rstack ∧ y.rsd = x.rsd ∧
      y.randPos = x.randPos ∧ y.rwc = x.rwc := by
  simp only [Lane.trap, Lane.halt]
  split_ifs <;> exact ⟨rfl, rfl, rfl, rfl, rfl, rfl, rfl, rfl⟩

/-- ERET leaves the loop registers, the return stack, the stream position and the counts of a lane. -/
theorem Lane.eret_leaves (x : Lane) (m : Mode) :
    let y := x.eret m
    y.exited = x.exited ∧ y.lc0 = x.lc0 ∧ y.lc1 = x.lc1 ∧ y.rstack = x.rstack ∧ y.rsd = x.rsd ∧ y.dbg = x.dbg ∧
      y.randPos = x.randPos ∧ y.rwc = x.rwc := by
  simp only [Lane.eret]
  split_ifs <;> exact ⟨rfl, rfl, rfl, rfl, rfl, rfl, rfl, rfl⟩

/-! ### An issue group that acts at once -/

/-- Where there is room, allocation changes nothing. -/
theorem allocate_room {s : State} {f : Form} {b : Base}
    (h : s.newRegs f b = [] ∨ s.fileAllows (coreOf s.who) (s.partOf s.who) (s.newRegs f b).length = true) :
    allocate f b s = .ok ((), s) := by
  unfold allocate
  rw [M.bind_run (M.get_run s)]
  cases hr : s.newRegs f b with
  | nil => rfl
  | cons r rs =>
    rw [hr] at h
    have h' := h.resolve_left (List.cons_ne_nil _ _)
    show makeRoom s.who _ (r :: rs).length (2048 + 1) s = _
    unfold makeRoom
    rw [M.bind_run (M.get_run s)]
    simp only [h', if_true]
    rfl

/-- An effect that meets no trap of its own is not caught. -/
theorem caught_ok {b : Base} {act : M GroupOut} {s s1 : State} {g : GroupOut} (h : act s = .ok (g, s1)) :
    caught b act s = .ok (g, s1) := by
  unfold caught
  rw [M.bind_run ((attempt_ok act s s1 (.ok g)).2 (.inl ⟨g, rfl, h⟩))]
  rfl

/-- Lanes that do not stay at their instruction retire as they are, also in a bound rope. -/
theorem GroupOut.joined_going {g : GroupOut} {s : State} {f : Form} (h : ∀ o ∈ g.outs, o.2.stay = none) : g.joined s f = g := by
  unfold GroupOut.joined
  rw [if_neg]
  simp only [Bool.and_eq_true, List.any_eq_true, not_and, not_exists]
  intro _ o ho hs
  simp [h o ho] at hs

/-- A group whose effect meets no trap in a state where it acts at once completes: it retires with the effect's outcome. -/
theorem runGroup_completes {s s1 : State} {f : Form} {b : Base} {keep : Bool} {act : M GroupOut} {g : GroupOut} (h : s.Clear f b)
    (ha : act s = .ok (g, s1)) (hg : g.traps = []) : runGroup f b keep act s = .next (s1.retired f b g) := by
  have hd : deterministic f b (caught b act) s = .ok (g, s1) := by
    unfold deterministic
    rw [M.bind_run (M.get_run s)]
    simp [h.free, caught_ok ha]
  have hb : boundRule keep (deterministic f b (caught b act)) s = .ok (g, s1) := by
    unfold boundRule; rw [hd]; simp [hg]
  unfold runGroup runM
  rw [M.bind_run (M.get_run s)]
  simp only [h.ready, h.whole, h.allowed, ite_self]
  cases s.decodeBarred f b
  · simp only [Bool.not_false, if_true]
    rw [M.bind_run (allocate_room h.room), M.bind_run hb]
    rfl
  · simp only [Bool.not_true, Bool.false_eq_true, if_false]
    rw [M.bind_run hb]
    rfl

/-- Lanes whose effects all succeed. -/
theorem eachLane_of_doAll {act : Nat → M LaneOut} : ∀ {ls : List Nat} {s s1 : State} {outs : List (Nat × LaneOut)},
    doAll ls act s = .ok (outs, s1) → eachLane ls act s = .ok ({ outs := outs }, s1)
  | [], s, s1, outs, h => by
    unfold doAll collect at h; cases h; rfl
  | l :: ls, s, s1, outs, h => by
    unfold doAll collect at h
    obtain ⟨y, s2, h1, h⟩ := (M.bind_ok ..).1 h
    obtain ⟨ys, s3, h2, h3⟩ := (M.bind_ok ..).1 h
    cases h3
    obtain ⟨o, s4, h4, h5⟩ := (M.bind_ok ..).1 h1
    cases h5
    unfold eachLane
    rw [M.bind_run ((attempt_ok (act l) s s2 (.ok o)).2 (.inl ⟨o, rfl, h4⟩))]
    show (eachLane ls act >>= _) s2 = _
    rw [M.bind_run (eachLane_of_doAll h2)]
    rfl

/-- A per-lane instruction whose effects all succeed in a state where it acts at once completes. -/
theorem runLanes_completes {s s1 : State} {f : Form} {b : Base} {act : Nat → M LaneOut} {outs : List (Nat × LaneOut)} (h : s.Clear f b)
    (ha : doAll (s.acting b) act s = .ok (outs, s1)) : runLanes f b act s = .next (s1.retired f b { outs := outs }) := by
  unfold runLanes
  refine runGroup_completes h ?_ rfl
  rw [M.bind_run (M.get_run s)]
  exact eachLane_of_doAll ha

/-- An instruction that acts once, whose effect succeeds in the issuing lane, completes. -/
theorem runOnce_completes {s s1 : State} {f : Form} {b : Base} {act : Nat → M LaneOut} {l : Nat} {o : LaneOut} (h : s.Clear f b)
    (hl : (s.acting b).head? = some l) (ha : act l s = .ok (o, s1)) :
    runOnce f b act s = .next (s1.retired f b { outs := [(l, o)] }) := by
  unfold runOnce
  refine runGroup_completes h ?_ rfl
  unfold onceOut
  rw [M.bind_run (M.get_run s)]
  cases hs : s.acting b with
  | nil => rw [hs] at hl; cases hl
  | cons m ms =>
    rw [hs] at hl; cases hl
    show (attempt (act l) >>= _) s = _
    rw [M.bind_run ((attempt_ok (act l) s s1 (.ok o)).2 (.inl ⟨o, rfl, ha⟩))]
    rfl

end Sys2Proof.Machine
end

