-- ==== Sys2Proof/Laws/PerInstr.lean ====
section
/-! SUPPORT. For each constructor: the row of the opcode map (spec/05 R127) that names it leads back to it. -/

namespace Sys2Proof.Laws.Row

/-- The form of an encoded instruction has the instruction's opcode, and that opcode, with the FN that selects the row, names the
instruction. -/
def Statement (i : Instr) : Prop :=
  ∀ b f, i.baseOf = some b → i.form = some f → (∀ n, f.fnSel = some n → b.fn = n) →
    f.opc = i.opcode ∧ Instr.ofOpcode i.opcode b = some i

theorem nop (b : Base) : Statement (.nop b) := by intro _ _ h g _; cases h; cases g; exact ⟨rfl, rfl⟩
theorem clh (w) : Statement (.clh w) := by intro _ _ h; cases h
theorem bkpt (w) : Statement (.bkpt w) := by intro _ _ h; cases h
theorem yield (b : Base) : Statement (.yield b) := by intro _ _ h g _; cases h; cases g; exact ⟨rfl, rfl⟩
theorem repeatx (b : Base) : Statement (.repeatx b) := by intro _ _ h g _; cases h; cases g; exact ⟨rfl, rfl⟩
theorem bra (b : Base) : Statement (.bra b) := by intro _ _ h g _; cases h; cases g; exact ⟨rfl, rfl⟩
theorem brau (b : Base) : Statement (.brau b) := by intro _ _ h g _; cases h; cases g; exact ⟨rfl, rfl⟩
theorem brx (b : Base) : Statement (.brx b) := by intro _ _ h g _; cases h; cases g; exact ⟨rfl, rfl⟩
theorem brc (b : Base) : Statement (.brc b) := by intro _ _ h g _; cases h; cases g; exact ⟨rfl, rfl⟩
theorem call (b : Base) : Statement (.call b) := by intro _ _ h g _; cases h; cases g; exact ⟨rfl, rfl⟩
theorem callx (b : Base) : Statement (.callx b) := by intro _ _ h g _; cases h; cases g; exact ⟨rfl, rfl⟩
theorem ret (b : Base) : Statement (.ret b) := by intro _ _ h g _; cases h; cases g; exact ⟨rfl, rfl⟩
theorem exit (b : Base) : Statement (.exit b) := by intro _ _ h g _; cases h; cases g; exact ⟨rfl, rfl⟩
theorem add (b : Base) : Statement (.add b) := by intro _ _ h g _; cases h; cases g; exact ⟨rfl, rfl⟩
theorem sub (b : Base) : Statement (.sub b) := by intro _ _ h g _; cases h; cases g; exact ⟨rfl, rfl⟩
theorem mul (b : Base) : Statement (.mul b) := by intro _ _ h g _; cases h; cases g; exact ⟨rfl, rfl⟩
theorem mulh (b : Base) : Statement (.mulh b) := by intro _ _ h g _; cases h; cases g; exact ⟨rfl, rfl⟩
theorem mad (b : Base) : Statement (.mad b) := by intro _ _ h g _; cases h; cases g; exact ⟨rfl, rfl⟩
theorem madw (b : Base) : Statement (.madw b) := by intro _ _ h g _; cases h; cases g; exact ⟨rfl, rfl⟩
theorem div (b : Base) : Statement (.div b) := by intro _ _ h g _; cases h; cases g; exact ⟨rfl, rfl⟩
theorem rem (b : Base) : Statement (.rem b) := by intro _ _ h g _; cases h; cases g; exact ⟨rfl, rfl⟩
theorem min (b : Base) : Statement (.min b) := by intro _ _ h g _; cases h; cases g; exact ⟨rfl, rfl⟩
theorem max (b : Base) : Statement (.max b) := by intro _ _ h g _; cases h; cases g; exact ⟨rfl, rfl⟩
theorem abs (b : Base) : Statement (.abs b) := by intro _ _ h g _; cases h; cases g; exact ⟨rfl, rfl⟩
theorem neg (b : Base) : Statement (.neg b) := by intro _ _ h g _; cases h; cases g; exact ⟨rfl, rfl⟩
theorem and (b : Base) : Statement (.and b) := by intro _ _ h g _; cases h; cases g; exact ⟨rfl, rfl⟩
theorem or (b : Base) : Statement (.or b) := by intro _ _ h g _; cases h; cases g; exact ⟨rfl, rfl⟩
theorem xor (b : Base) : Statement (.xor b) := by intro _ _ h g _; cases h; cases g; exact ⟨rfl, rfl⟩
theorem not (b : Base) : Statement (.not b) := by intro _ _ h g _; cases h; cases g; exact ⟨rfl, rfl⟩
theorem shl (b : Base) : Statement (.shl b) := by intro _ _ h g _; cases h; cases g; exact ⟨rfl, rfl⟩
theorem shr (b : Base) : Statement (.shr b) := by intro _ _ h g _; cases h; cases g; exact ⟨rfl, rfl⟩
theorem rot (b : Base) : Statement (.rot b) := by intro _ _ h g _; cases h; cases g; exact ⟨rfl, rfl⟩
theorem fshf (b : Base) : Statement (.fshf b) := by intro _ _ h g _; cases h; cases g; exact ⟨rfl, rfl⟩
theorem popc (b : Base) : Statement (.popc b) := by intro _ _ h g _; cases h; cases g; exact ⟨rfl, rfl⟩
theorem clz (b : Base) : Statement (.clz b) := by intro _ _ h g _; cases h; cases g; exact ⟨rfl, rfl⟩
theorem brev (b : Base) : Statement (.brev b) := by intro _ _ h g _; cases h; cases g; exact ⟨rfl, rfl⟩
theorem bfe (b : Base) : Statement (.bfe b) := by intro _ _ h g _; cases h; cases g; exact ⟨rfl, rfl⟩
theorem bfi (b : Base) : Statement (.bfi b) := by intro _ _ h g _; cases h; cases g; exact ⟨rfl, rfl⟩
theorem lop3 (b : Base) : Statement (.lop3 b) := by intro _ _ h g _; cases h; cases g; exact ⟨rfl, rfl⟩
theorem sel (b : Base) : Statement (.sel b) := by intro _ _ h g _; cases h; cases g; exact ⟨rfl, rfl⟩
theorem isetp (b : Base) : Statement (.isetp b) := by intro _ _ h g _; cases h; cases g; exact ⟨rfl, rfl⟩
theorem iset (b : Base) : Statement (.iset b) := by intro _ _ h g _; cases h; cases g; exact ⟨rfl, rfl⟩
theorem addx (b : Base) : Statement (.addx b) := by intro _ _ h g _; cases h; cases g; exact ⟨rfl, rfl⟩
theorem subx (b : Base) : Statement (.subx b) := by intro _ _ h g _; cases h; cases g; exact ⟨rfl, rfl⟩
theorem lea (b : Base) : Statement (.lea b) := by intro _ _ h g _; cases h; cases g; exact ⟨rfl, rfl⟩
theorem mov (b : Base) : Statement (.mov b) := by intro _ _ h g _; cases h; cases g; exact ⟨rfl, rfl⟩
theorem movi (b : Base) : Statement (.movi b) := by intro _ _ h g _; cases h; cases g; exact ⟨rfl, rfl⟩
theorem plop (b : Base) : Statement (.plop b) := by intro _ _ h g _; cases h; cases g; exact ⟨rfl, rfl⟩
theorem p2v (b : Base) : Statement (.p2v b) := by intro _ _ h g _; cases h; cases g; exact ⟨rfl, rfl⟩
theorem v2p (b : Base) : Statement (.v2p b) := by intro _ _ h g _; cases h; cases g; exact ⟨rfl, rfl⟩
theorem dp4a (b : Base) : Statement (.dp4a b) := by intro _ _ h g _; cases h; cases g; exact ⟨rfl, rfl⟩
theorem sad (b : Base) : Statement (.sad b) := by intro _ _ h g _; cases h; cases g; exact ⟨rfl, rfl⟩
theorem fadd (b : Base) : Statement (.fadd b) := by intro _ _ h g _; cases h; cases g; exact ⟨rfl, rfl⟩
theorem fsub (b : Base) : Statement (.fsub b) := by intro _ _ h g _; cases h; cases g; exact ⟨rfl, rfl⟩
theorem fmul (b : Base) : Statement (.fmul b) := by intro _ _ h g _; cases h; cases g; exact ⟨rfl, rfl⟩
theorem ffma (b : Base) : Statement (.ffma b) := by intro _ _ h g _; cases h; cases g; exact ⟨rfl, rfl⟩
theorem fmin (b : Base) : Statement (.fmin b) := by intro _ _ h g _; cases h; cases g; exact ⟨rfl, rfl⟩
theorem fmax (b : Base) : Statement (.fmax b) := by intro _ _ h g _; cases h; cases g; exact ⟨rfl, rfl⟩
theorem fabs (b : Base) : Statement (.fabs b) := by intro _ _ h g _; cases h; cases g; exact ⟨rfl, rfl⟩
theorem fneg (b : Base) : Statement (.fneg b) := by intro _ _ h g _; cases h; cases g; exact ⟨rfl, rfl⟩
theorem fsetp (b : Base) : Statement (.fsetp b) := by intro _ _ h g _; cases h; cases g; exact ⟨rfl, rfl⟩
theorem fset (b : Base) : Statement (.fset b) := by intro _ _ h g _; cases h; cases g; exact ⟨rfl, rfl⟩
theorem fclass (b : Base) : Statement (.fclass b) := by intro _ _ h g _; cases h; cases g; exact ⟨rfl, rfl⟩
theorem frcp (b : Base) : Statement (.frcp b) := by intro _ _ h g _; cases h; cases g; exact ⟨rfl, rfl⟩
theorem frsq (b : Base) : Statement (.frsq b) := by intro _ _ h g _; cases h; cases g; exact ⟨rfl, rfl⟩
theorem fsqrt (b : Base) : Statement (.fsqrt b) := by intro _ _ h g _; cases h; cases g; exact ⟨rfl, rfl⟩
theorem fdiv (b : Base) : Statement (.fdiv b) := by intro _ _ h g _; cases h; cases g; exact ⟨rfl, rfl⟩
theorem fex2 (b : Base) : Statement (.fex2 b) := by intro _ _ h g _; cases h; cases g; exact ⟨rfl, rfl⟩
theorem flg2 (b : Base) : Statement (.flg2 b) := by intro _ _ h g _; cases h; cases g; exact ⟨rfl, rfl⟩
theorem fsin (b : Base) : Statement (.fsin b) := by intro _ _ h g _; cases h; cases g; exact ⟨rfl, rfl⟩
theorem fcos (b : Base) : Statement (.fcos b) := by intro _ _ h g _; cases h; cases g; exact ⟨rfl, rfl⟩
theorem ftanh (b : Base) : Statement (.ftanh b) := by intro _ _ h g _; cases h; cases g; exact ⟨rfl, rfl⟩
theorem frnd (b : Base) : Statement (.frnd b) := by intro _ _ h g _; cases h; cases g; exact ⟨rfl, rfl⟩
theorem fscl (b : Base) : Statement (.fscl b) := by intro _ _ h g _; cases h; cases g; exact ⟨rfl, rfl⟩
theorem ffrx (b : Base) : Statement (.ffrx b) := by intro _ _ h g _; cases h; cases g; exact ⟨rfl, rfl⟩
theorem fdot2 (b : Base) : Statement (.fdot2 b) := by intro _ _ h g _; cases h; cases g; exact ⟨rfl, rfl⟩
theorem cvt (b : Base) : Statement (.cvt b) := by intro _ _ h g _; cases h; cases g; exact ⟨rfl, rfl⟩
theorem pack (b : Base) : Statement (.pack b) := by intro _ _ h g _; cases h; cases g; exact ⟨rfl, rfl⟩
theorem unpk (b : Base) : Statement (.unpk b) := by intro _ _ h g _; cases h; cases g; exact ⟨rfl, rfl⟩
theorem qnt (b : Base) : Statement (.qnt b) := by intro _ _ h g _; cases h; cases g; exact ⟨rfl, rfl⟩
theorem dqnt (b : Base) : Statement (.dqnt b) := by intro _ _ h g _; cases h; cases g; exact ⟨rfl, rfl⟩
theorem sclc (b : Base) : Statement (.sclc b) := by intro _ _ h g _; cases h; cases g; exact ⟨rfl, rfl⟩
theorem randNext (b : Base) : Statement (.randNext b) := by
  obtain ⟨_, _, _, _, _, _, _, _, _, _, _, _, _, _⟩ := b
  intro _ _ h g n; cases h; cases g; obtain rfl := n _ rfl; exact ⟨rfl, rfl⟩
theorem randBlk (b : Base) : Statement (.randBlk b) := by
  obtain ⟨_, _, _, _, _, _, _, _, _, _, _, _, _, _⟩ := b
  intro _ _ h g n; cases h; cases g; obtain rfl := n _ rfl; exact ⟨rfl, rfl⟩
theorem randRdpos (b : Base) : Statement (.randRdpos b) := by
  obtain ⟨_, _, _, _, _, _, _, _, _, _, _, _, _, _⟩ := b
  intro _ _ h g n; cases h; cases g; obtain rfl := n _ rfl; exact ⟨rfl, rfl⟩
theorem randWrpos (b : Base) : Statement (.randWrpos b) := by
  obtain ⟨_, _, _, _, _, _, _, _, _, _, _, _, _, _⟩ := b
  intro _ _ h g n; cases h; cases g; obtain rfl := n _ rfl; exact ⟨rfl, rfl⟩
theorem randSkip (b : Base) : Statement (.randSkip b) := by
  obtain ⟨_, _, _, _, _, _, _, _, _, _, _, _, _, _⟩ := b
  intro _ _ h g n; cases h; cases g; obtain rfl := n _ rfl; exact ⟨rfl, rfl⟩
theorem randWrkey (b : Base) : Statement (.randWrkey b) := by
  obtain ⟨_, _, _, _, _, _, _, _, _, _, _, _, _, _⟩ := b
  intro _ _ h g n; cases h; cases g; obtain rfl := n _ rfl; exact ⟨rfl, rfl⟩
theorem shfl (b : Base) : Statement (.shfl b) := by intro _ _ h g _; cases h; cases g; exact ⟨rfl, rfl⟩
theorem vote (b : Base) : Statement (.vote b) := by intro _ _ h g _; cases h; cases g; exact ⟨rfl, rfl⟩
theorem redux (b : Base) : Statement (.redux b) := by intro _ _ h g _; cases h; cases g; exact ⟨rfl, rfl⟩
theorem fredx (b : Base) : Statement (.fredx b) := by intro _ _ h g _; cases h; cases g; exact ⟨rfl, rfl⟩
theorem scanx (b : Base) : Statement (.scanx b) := by intro _ _ h g _; cases h; cases g; exact ⟨rfl, rfl⟩
theorem matchx (b : Base) : Statement (.matchx b) := by intro _ _ h g _; cases h; cases g; exact ⟨rfl, rfl⟩
theorem rdsr (b : Base) : Statement (.rdsr b) := by intro _ _ h g _; cases h; cases g; exact ⟨rfl, rfl⟩
theorem elect (b : Base) : Statement (.elect b) := by intro _ _ h g _; cases h; cases g; exact ⟨rfl, rfl⟩
theorem bcast (b : Base) : Statement (.bcast b) := by intro _ _ h g _; cases h; cases g; exact ⟨rfl, rfl⟩
theorem ld (b : Base) : Statement (.ld b) := by intro _ _ h g _; cases h; cases g; exact ⟨rfl, rfl⟩
theorem st (b : Base) : Statement (.st b) := by intro _ _ h g _; cases h; cases g; exact ⟨rfl, rfl⟩
theorem lds (b : Base) : Statement (.lds b) := by intro _ _ h g _; cases h; cases g; exact ⟨rfl, rfl⟩
theorem sts (b : Base) : Statement (.sts b) := by intro _ _ h g _; cases h; cases g; exact ⟨rfl, rfl⟩
theorem ldc (b : Base) : Statement (.ldc b) := by intro _ _ h g _; cases h; cases g; exact ⟨rfl, rfl⟩
theorem ldf (b : Base) : Statement (.ldf b) := by intro _ _ h g _; cases h; cases g; exact ⟨rfl, rfl⟩
theorem stf (b : Base) : Statement (.stf b) := by intro _ _ h g _; cases h; cases g; exact ⟨rfl, rfl⟩
theorem ldv (b : Base) : Statement (.ldv b) := by intro _ _ h g _; cases h; cases g; exact ⟨rfl, rfl⟩
theorem stta (b : Base) : Statement (.stta b) := by intro _ _ h g _; cases h; cases g; exact ⟨rfl, rfl⟩
theorem gth (b : Base) : Statement (.gth b) := by intro _ _ h g _; cases h; cases g; exact ⟨rfl, rfl⟩
theorem sct (b : Base) : Statement (.sct b) := by intro _ _ h g _; cases h; cases g; exact ⟨rfl, rfl⟩
theorem pft (b : Base) : Statement (.pft b) := by intro _ _ h g _; cases h; cases g; exact ⟨rfl, rfl⟩
theorem ldl (b : Base) : Statement (.ldl b) := by
  obtain ⟨_, _, _, _, _, _, _, _, _, _, _, _, _, _⟩ := b
  intro _ _ h g n; cases h; cases g; obtain rfl := n _ rfl; exact ⟨rfl, rfl⟩
theorem stl (b : Base) : Statement (.stl b) := by
  obtain ⟨_, _, _, _, _, _, _, _, _, _, _, _, _, _⟩ := b
  intro _ _ h g n; cases h; cases g; obtain rfl := n _ rfl; exact ⟨rfl, rfl⟩
theorem cctlPub (b : Base) : Statement (.cctlPub b) := by
  obtain ⟨_, _, _, _, _, _, _, _, _, _, _, _, _, _⟩ := b
  intro _ _ h g n; cases h; cases g; obtain rfl := n _ rfl; exact ⟨rfl, rfl⟩
theorem cctlWb (b : Base) : Statement (.cctlWb b) := by
  obtain ⟨_, _, _, _, _, _, _, _, _, _, _, _, _, _⟩ := b
  intro _ _ h g n; cases h; cases g; obtain rfl := n _ rfl; exact ⟨rfl, rfl⟩
theorem cctlInv (b : Base) : Statement (.cctlInv b) := by
  obtain ⟨_, _, _, _, _, _, _, _, _, _, _, _, _, _⟩ := b
  intro _ _ h g n; cases h; cases g; obtain rfl := n _ rfl; exact ⟨rfl, rfl⟩
theorem cctlIinv (b : Base) : Statement (.cctlIinv b) := by
  obtain ⟨_, _, _, _, _, _, _, _, _, _, _, _, _, _⟩ := b
  intro _ _ h g n; cases h; cases g; obtain rfl := n _ rfl; exact ⟨rfl, rfl⟩
theorem sqld (b : Base) : Statement (.sqld b) := by intro _ _ h g _; cases h; cases g; exact ⟨rfl, rfl⟩
theorem atom (b : Base) : Statement (.atom b) := by intro _ _ h g _; cases h; cases g; exact ⟨rfl, rfl⟩
theorem atomc (b : Base) : Statement (.atomc b) := by intro _ _ h g _; cases h; cases g; exact ⟨rfl, rfl⟩
theorem red (b : Base) : Statement (.red b) := by intro _ _ h g _; cases h; cases g; exact ⟨rfl, rfl⟩
theorem atoms (b : Base) : Statement (.atoms b) := by intro _ _ h g _; cases h; cases g; exact ⟨rfl, rfl⟩
theorem fence (b : Base) : Statement (.fence b) := by intro _ _ h g _; cases h; cases g; exact ⟨rfl, rfl⟩
theorem phase (b : Base) : Statement (.phase b) := by
  obtain ⟨_, _, _, _, _, _, _, _, _, _, _, _, _, _⟩ := b
  intro _ _ h g n; cases h; cases g; obtain rfl := n _ rfl; exact ⟨rfl, rfl⟩
theorem phaseTeam (b : Base) : Statement (.phaseTeam b) := by
  obtain ⟨_, _, _, _, _, _, _, _, _, _, _, _, _, _⟩ := b
  intro _ _ h g n; cases h; cases g; obtain rfl := n _ rfl; exact ⟨rfl, rfl⟩
theorem bara (b : Base) : Statement (.bara b) := by intro _ _ h g _; cases h; cases g; exact ⟨rfl, rfl⟩
theorem bwait (b : Base) : Statement (.bwait b) := by intro _ _ h g _; cases h; cases g; exact ⟨rfl, rfl⟩
theorem binit (b : Base) : Statement (.binit b) := by intro _ _ h g _; cases h; cases g; exact ⟨rfl, rfl⟩
theorem bexp (b : Base) : Statement (.bexp b) := by intro _ _ h g _; cases h; cases g; exact ⟨rfl, rfl⟩
theorem cwait (b : Base) : Statement (.cwait b) := by intro _ _ h g _; cases h; cases g; exact ⟨rfl, rfl⟩
theorem qlock (b : Base) : Statement (.qlock b) := by intro _ _ h g _; cases h; cases g; exact ⟨rfl, rfl⟩
theorem qunlk (b : Base) : Statement (.qunlk b) := by intro _ _ h g _; cases h; cases g; exact ⟨rfl, rfl⟩
theorem wwait (b : Base) : Statement (.wwait b) := by intro _ _ h g _; cases h; cases g; exact ⟨rfl, rfl⟩
theorem wwake (b : Base) : Statement (.wwake b) := by intro _ _ h g _; cases h; cases g; exact ⟨rfl, rfl⟩
theorem cpy (b : Base) : Statement (.cpy b) := by intro _ _ h g _; cases h; cases g; exact ⟨rfl, rfl⟩
theorem spop (b : Base) : Statement (.spop b) := by intro _ _ h g _; cases h; cases g; exact ⟨rfl, rfl⟩
theorem spsh (b : Base) : Statement (.spsh b) := by intro _ _ h g _; cases h; cases g; exact ⟨rfl, rfl⟩
theorem sqry (b : Base) : Statement (.sqry b) := by intro _ _ h g _; cases h; cases g; exact ⟨rfl, rfl⟩
theorem apnd (b : Base) : Statement (.apnd b) := by intro _ _ h g _; cases h; cases g; exact ⟨rfl, rfl⟩
theorem afnc (b : Base) : Statement (.afnc b) := by intro _ _ h g _; cases h; cases g; exact ⟨rfl, rfl⟩
theorem coll (b : Base) : Statement (.coll b) := by intro _ _ h g _; cases h; cases g; exact ⟨rfl, rfl⟩
theorem rblkSeq (b : Base) : Statement (.rblkSeq b) := by
  obtain ⟨_, _, _, _, _, _, _, _, _, _, _, _, _, _⟩ := b
  intro _ _ h g n; cases h; cases g; obtain rfl := n _ rfl; exact ⟨rfl, rfl⟩
theorem rblkGet (b : Base) : Statement (.rblkGet b) := by
  obtain ⟨_, _, _, _, _, _, _, _, _, _, _, _, _, _⟩ := b
  intro _ _ h g n; cases h; cases g; obtain rfl := n _ rfl; exact ⟨rfl, rfl⟩
theorem rblkPut (b : Base) : Statement (.rblkPut b) := by
  obtain ⟨_, _, _, _, _, _, _, _, _, _, _, _, _, _⟩ := b
  intro _ _ h g n; cases h; cases g; obtain rfl := n _ rfl; exact ⟨rfl, rfl⟩
theorem prdl (b : Base) : Statement (.prdl b) := by intro _ _ h g _; cases h; cases g; exact ⟨rfl, rfl⟩
theorem dqpsh (b : Base) : Statement (.dqpsh b) := by intro _ _ h g _; cases h; cases g; exact ⟨rfl, rfl⟩
theorem dqpop (b : Base) : Statement (.dqpop b) := by intro _ _ h g _; cases h; cases g; exact ⟨rfl, rfl⟩
theorem oclm (b : Base) : Statement (.oclm b) := by intro _ _ h g _; cases h; cases g; exact ⟨rfl, rfl⟩
theorem orel (b : Base) : Statement (.orel b) := by intro _ _ h g _; cases h; cases g; exact ⟨rfl, rfl⟩
theorem old (b : Base) : Statement (.old b) := by intro _ _ h g _; cases h; cases g; exact ⟨rfl, rfl⟩
theorem mma (b : Base) : Statement (.mma b) := by intro _ _ h g _; cases h; cases g; exact ⟨rfl, rfl⟩
theorem aclm (b : Base) : Statement (.aclm b) := by
  obtain ⟨_, _, _, _, _, _, _, _, _, _, _, _, _, _⟩ := b
  intro _ _ h g n; cases h; cases g; obtain rfl := n _ rfl; exact ⟨rfl, rfl⟩
theorem arel (b : Base) : Statement (.arel b) := by
  obtain ⟨_, _, _, _, _, _, _, _, _, _, _, _, _, _⟩ := b
  intro _ _ h g n; cases h; cases g; obtain rfl := n _ rfl; exact ⟨rfl, rfl⟩
theorem releaseComplete (camp) (op) : Statement (.releaseComplete camp op) := by intro _ _ h; cases h
theorem acrd (b : Base) : Statement (.acrd b) := by intro _ _ h g _; cases h; cases g; exact ⟨rfl, rfl⟩
theorem acwr (b : Base) : Statement (.acwr b) := by intro _ _ h g _; cases h; cases g; exact ⟨rfl, rfl⟩
theorem attn (b : Base) : Statement (.attn b) := by
  obtain ⟨_, _, _, _, _, _, _, _, _, _, _, _, _, _⟩ := b
  intro _ _ h g n; cases h; cases g; obtain rfl := n _ rfl; exact ⟨rfl, rfl⟩
theorem attnf (b : Base) : Statement (.attnf b) := by
  obtain ⟨_, _, _, _, _, _, _, _, _, _, _, _, _, _⟩ := b
  intro _ _ h g n; cases h; cases g; obtain rfl := n _ rfl; exact ⟨rfl, rfl⟩
theorem sqnew (b : Base) : Statement (.sqnew b) := by intro _ _ h g _; cases h; cases g; exact ⟨rfl, rfl⟩
theorem sqrsv (b : Base) : Statement (.sqrsv b) := by intro _ _ h g _; cases h; cases g; exact ⟨rfl, rfl⟩
theorem sqstPlain (b : Base) : Statement (.sqstPlain b) := by
  obtain ⟨_, _, _, _, _, _, _, _, _, _, _, _, _, _⟩ := b
  intro _ _ h g n; cases h; cases g; obtain rfl := n _ rfl; exact ⟨rfl, rfl⟩
theorem sqstRotary (b : Base) : Statement (.sqstRotary b) := by
  obtain ⟨_, _, _, _, _, _, _, _, _, _, _, _, _, _⟩ := b
  intro _ _ h g n; cases h; cases g; obtain rfl := n _ rfl; exact ⟨rfl, rfl⟩
theorem sqcmt (b : Base) : Statement (.sqcmt b) := by intro _ _ h g _; cases h; cases g; exact ⟨rfl, rfl⟩
theorem sqabn (b : Base) : Statement (.sqabn b) := by intro _ _ h g _; cases h; cases g; exact ⟨rfl, rfl⟩
theorem sqfrk (b : Base) : Statement (.sqfrk b) := by intro _ _ h g _; cases h; cases g; exact ⟨rfl, rfl⟩
theorem sqlen (b : Base) : Statement (.sqlen b) := by intro _ _ h g _; cases h; cases g; exact ⟨rfl, rfl⟩
theorem sqfre (b : Base) : Statement (.sqfre b) := by intro _ _ h g _; cases h; cases g; exact ⟨rfl, rfl⟩
theorem lbndOn (b : Base) : Statement (.lbndOn b) := by
  obtain ⟨_, _, _, _, _, _, _, _, _, _, _, _, _, _⟩ := b
  intro _ _ h g n; cases h; cases g; obtain rfl := n _ rfl; exact ⟨rfl, rfl⟩
theorem lbndOff (b : Base) : Statement (.lbndOff b) := by
  obtain ⟨_, _, _, _, _, _, _, _, _, _, _, _, _, _⟩ := b
  intro _ _ h g n; cases h; cases g; obtain rfl := n _ rfl; exact ⟨rfl, rfl⟩
theorem lbndClr (b : Base) : Statement (.lbndClr b) := by
  obtain ⟨_, _, _, _, _, _, _, _, _, _, _, _, _, _⟩ := b
  intro _ _ h g n; cases h; cases g; obtain rfl := n _ rfl; exact ⟨rfl, rfl⟩
theorem lariAdd (b : Base) : Statement (.lariAdd b) := by
  obtain ⟨_, _, _, _, _, _, _, _, _, _, _, _, _, _⟩ := b
  intro _ _ h g n; cases h; cases g; obtain rfl := n _ rfl; exact ⟨rfl, rfl⟩
theorem lariSub (b : Base) : Statement (.lariSub b) := by
  obtain ⟨_, _, _, _, _, _, _, _, _, _, _, _, _, _⟩ := b
  intro _ _ h g n; cases h; cases g; obtain rfl := n _ rfl; exact ⟨rfl, rfl⟩
theorem lariNeg (b : Base) : Statement (.lariNeg b) := by
  obtain ⟨_, _, _, _, _, _, _, _, _, _, _, _, _, _⟩ := b
  intro _ _ h g n; cases h; cases g; obtain rfl := n _ rfl; exact ⟨rfl, rfl⟩
theorem lariCmp (b : Base) : Statement (.lariCmp b) := by
  obtain ⟨_, _, _, _, _, _, _, _, _, _, _, _, _, _⟩ := b
  intro _ _ h g n; cases h; cases g; obtain rfl := n _ rfl; exact ⟨rfl, rfl⟩
theorem lariAddt (b : Base) : Statement (.lariAddt b) := by
  obtain ⟨_, _, _, _, _, _, _, _, _, _, _, _, _, _⟩ := b
  intro _ _ h g n; cases h; cases g; obtain rfl := n _ rfl; exact ⟨rfl, rfl⟩
theorem lariLacc (b : Base) : Statement (.lariLacc b) := by
  obtain ⟨_, _, _, _, _, _, _, _, _, _, _, _, _, _⟩ := b
  intro _ _ h g n; cases h; cases g; obtain rfl := n _ rfl; exact ⟨rfl, rfl⟩
theorem lariLnrm (b : Base) : Statement (.lariLnrm b) := by
  obtain ⟨_, _, _, _, _, _, _, _, _, _, _, _, _, _⟩ := b
  intro _ _ h g n; cases h; cases g; obtain rfl := n _ rfl; exact ⟨rfl, rfl⟩
theorem lshf (b : Base) : Statement (.lshf b) := by intro _ _ h g _; cases h; cases g; exact ⟨rfl, rfl⟩
theorem lmul (b : Base) : Statement (.lmul b) := by intro _ _ h g _; cases h; cases g; exact ⟨rfl, rfl⟩
theorem sysc (b : Base) : Statement (.sysc b) := by intro _ _ h g _; cases h; cases g; exact ⟨rfl, rfl⟩
theorem eret (b : Base) : Statement (.eret b) := by intro _ _ h g _; cases h; cases g; exact ⟨rfl, rfl⟩
theorem rdpr (b : Base) : Statement (.rdpr b) := by intro _ _ h g _; cases h; cases g; exact ⟨rfl, rfl⟩
theorem wrpr (b : Base) : Statement (.wrpr b) := by intro _ _ h g _; cases h; cases g; exact ⟨rfl, rfl⟩
theorem hvc (b : Base) : Statement (.hvc b) := by intro _ _ h g _; cases h; cases g; exact ⟨rfl, rfl⟩
theorem tlbiPage (b : Base) : Statement (.tlbiPage b) := by
  obtain ⟨_, _, _, _, _, _, _, _, _, _, _, _, _, _⟩ := b
  intro _ _ h g n; cases h; cases g; obtain rfl := n _ rfl; exact ⟨rfl, rfl⟩
theorem tlbiSpace (b : Base) : Statement (.tlbiSpace b) := by
  obtain ⟨_, _, _, _, _, _, _, _, _, _, _, _, _, _⟩ := b
  intro _ _ h g n; cases h; cases g; obtain rfl := n _ rfl; exact ⟨rfl, rfl⟩
theorem tlbiPartition (b : Base) : Statement (.tlbiPartition b) := by
  obtain ⟨_, _, _, _, _, _, _, _, _, _, _, _, _, _⟩ := b
  intro _ _ h g n; cases h; cases g; obtain rfl := n _ rfl; exact ⟨rfl, rfl⟩
theorem tlbiStage2 (b : Base) : Statement (.tlbiStage2 b) := by
  obtain ⟨_, _, _, _, _, _, _, _, _, _, _, _, _, _⟩ := b
  intro _ _ h g n; cases h; cases g; obtain rfl := n _ rfl; exact ⟨rfl, rfl⟩
theorem tlbiAck (tlbi) (core) : Statement (.tlbiAck tlbi core) := by intro _ _ h; cases h
theorem launch (b : Base) : Statement (.launch b) := by intro _ _ h g _; cases h; cases g; exact ⟨rfl, rfl⟩
theorem trace (b : Base) : Statement (.trace b) := by intro _ _ h g _; cases h; cases g; exact ⟨rfl, rfl⟩
theorem traceSample (core) : Statement (.traceSample core) := by intro _ _ h; cases h
theorem issueCycle (core) : Statement (.issueCycle core) := by intro _ _ h; cases h
theorem laneAged (agent) (lane) : Statement (.laneAged agent lane) := by intro _ _ h; cases h
theorem vregRefill (agent) (reg) : Statement (.vregRefill agent reg) := by intro _ _ h; cases h
theorem ropeSwap (core) (slot) : Statement (.ropeSwap core slot) := by intro _ _ h; cases h
theorem timeSlice (core) : Statement (.timeSlice core) := by intro _ _ h; cases h
theorem flagFall (agent) (uid) : Statement (.flagFall agent uid) := by intro _ _ h; cases h
theorem outstandingComplete (agent) (cls) : Statement (.outstandingComplete agent cls) := by intro _ _ h; cases h
theorem transferLands (uid) : Statement (.transferLands uid) := by intro _ _ h; cases h
theorem copyProgress (core) (uid) : Statement (.copyProgress core uid) := by intro _ _ h; cases h
theorem engineFaultDelivery (uid) (lane) : Statement (.engineFaultDelivery uid lane) := by intro _ _ h; cases h
theorem flashLineLands (line) : Statement (.flashLineLands line) := by intro _ _ h; cases h
theorem walkStart (die) : Statement (.walkStart die) := by intro _ _ h; cases h
theorem walkComplete (die) (index) : Statement (.walkComplete die index) := by intro _ _ h; cases h
theorem sramSplitApply (core) : Statement (.sramSplitApply core) := by intro _ _ h; cases h
theorem tasktabWrite (part) (value) : Statement (.tasktabWrite part value) := by intro _ _ h; cases h
theorem compdescWrite (part) (value) : Statement (.compdescWrite part value) := by intro _ _ h; cases h
theorem taskAccept (part) (qidx) : Statement (.taskAccept part qidx) := by intro _ _ h; cases h
theorem placementAttempt  : Statement (.placementAttempt ) := by intro _ _ h; cases h
theorem taskComplete (part) (qidx) (slot) : Statement (.taskComplete part qidx slot) := by intro _ _ h; cases h
theorem completionAppendRetry (part) : Statement (.completionAppendRetry part) := by intro _ _ h; cases h
theorem arbiterCycle (camp) : Statement (.arbiterCycle camp) := by intro _ _ h; cases h
theorem reservationAge (camp) (op) : Statement (.reservationAge camp op) := by intro _ _ h; cases h
theorem passRetire (camp) (op) : Statement (.passRetire camp op) := by intro _ _ h; cases h
theorem attnBlockDone (camp) (op) : Statement (.attnBlockDone camp op) := by intro _ _ h; cases h
theorem appendTransfer (uid) : Statement (.appendTransfer uid) := by intro _ _ h; cases h
theorem dslotAdvance (log) (slots) : Statement (.dslotAdvance log slots) := by intro _ _ h; cases h
theorem preqSave (part) (qidx) (slot) : Statement (.preqSave part qidx slot) := by intro _ _ h; cases h
theorem preqResume (part) (qidx) (slot) : Statement (.preqResume part qidx slot) := by intro _ _ h; cases h
theorem preqAbort (part) (qidx) (slot) : Statement (.preqAbort part qidx slot) := by intro _ _ h; cases h
theorem contextSave (party) : Statement (.contextSave party) := by intro _ _ h; cases h
theorem partyResume (party) (core) : Statement (.partyResume party core) := by intro _ _ h; cases h
theorem dbgreqHalt (core) (value) : Statement (.dbgreqHalt core value) := by intro _ _ h; cases h
theorem dbgreqResume (core) (value) : Statement (.dbgreqResume core value) := by intro _ _ h; cases h
theorem dreqReplay (part) (value) : Statement (.dreqReplay part value) := by intro _ _ h; cases h
theorem replayStop (party) : Statement (.replayStop party) := by intro _ _ h; cases h
theorem dreqEnd (part) : Statement (.dreqEnd part) := by intro _ _ h; cases h
theorem logFull (party) : Statement (.logFull party) := by intro _ _ h; cases h
theorem logFullCompare (pair) : Statement (.logFullCompare pair) := by intro _ _ h; cases h
theorem redundantEffect (pair) : Statement (.redundantEffect pair) := by intro _ _ h; cases h
theorem hartOpComplete (hart) : Statement (.hartOpComplete hart) := by intro _ _ h; cases h
theorem roiloRead (msg) : Statement (.roiloRead msg) := by intro _ _ h; cases h
theorem roiloReadData (msg) : Statement (.roiloReadData msg) := by intro _ _ h; cases h
theorem roiloWrite (msg) : Statement (.roiloWrite msg) := by intro _ _ h; cases h
theorem roiloWriteAck (msg) : Statement (.roiloWriteAck msg) := by intro _ _ h; cases h
theorem roiloRdv (msg) : Statement (.roiloRdv msg) := by intro _ _ h; cases h
theorem roiloCdata (msg) : Statement (.roiloCdata msg) := by intro _ _ h; cases h
theorem roiloNak (msg) : Statement (.roiloNak msg) := by intro _ _ h; cases h
theorem boot (records) : Statement (.boot records) := by intro _ _ h; cases h
theorem cairnReady (cairn) (fail) : Statement (.cairnReady cairn fail) := by intro _ _ h; cases h
theorem operationPerformed (agent) (lanes) : Statement (.operationPerformed agent lanes) := by intro _ _ h; cases h
theorem hartSqnew (hart) (fn) : Statement (.hartSqnew hart fn) := by intro _ _ h; cases h
theorem hartSqrsv (hart) (fn) : Statement (.hartSqrsv hart fn) := by intro _ _ h; cases h
theorem hartSqst (hart) (fn) : Statement (.hartSqst hart fn) := by intro _ _ h; cases h
theorem hartSqcmt (hart) (fn) : Statement (.hartSqcmt hart fn) := by intro _ _ h; cases h
theorem hartSqabn (hart) (fn) : Statement (.hartSqabn hart fn) := by intro _ _ h; cases h
theorem hartSqfrk (hart) (fn) : Statement (.hartSqfrk hart fn) := by intro _ _ h; cases h
theorem hartSqlen (hart) (fn) : Statement (.hartSqlen hart fn) := by intro _ _ h; cases h
theorem hartSqfre (hart) (fn) : Statement (.hartSqfre hart fn) := by intro _ _ h; cases h
theorem hartApnd (hart) (fn) : Statement (.hartApnd hart fn) := by intro _ _ h; cases h
theorem hartAfnc (hart) (fn) : Statement (.hartAfnc hart fn) := by intro _ _ h; cases h
theorem hartLaunch (hart) (fn) : Statement (.hartLaunch hart fn) := by intro _ _ h; cases h
theorem hartQlock (hart) (fn) : Statement (.hartQlock hart fn) := by intro _ _ h; cases h
theorem hartQunlk (hart) (fn) : Statement (.hartQunlk hart fn) := by intro _ _ h; cases h
theorem hartWwait (hart) (fn) : Statement (.hartWwait hart fn) := by intro _ _ h; cases h
theorem hartWwake (hart) (fn) : Statement (.hartWwake hart fn) := by intro _ _ h; cases h
theorem hartLdf (hart) (fn) : Statement (.hartLdf hart fn) := by intro _ _ h; cases h
theorem hartStf (hart) (fn) : Statement (.hartStf hart fn) := by intro _ _ h; cases h
theorem hartCctlIinv (hart) (fn) : Statement (.hartCctlIinv hart fn) := by intro _ _ h; cases h
theorem cancel (hart) : Statement (.cancel hart) := by intro _ _ h; cases h
theorem storageBindRequest (part) (request) : Statement (.storageBindRequest part request) := by intro _ _ h; cases h
theorem flashProgramFail (log) : Statement (.flashProgramFail log) := by intro _ _ h; cases h
theorem blockDemotion (log) (block) : Statement (.blockDemotion log block) := by intro _ _ h; cases h
theorem powerLoss (torn) : Statement (.powerLoss torn) := by intro _ _ h; cases h
theorem securityDigest (part) (request) : Statement (.securityDigest part request) := by intro _ _ h; cases h
theorem securityAttest (part) (request) : Statement (.securityAttest part request) := by intro _ _ h; cases h
theorem throttleDown (die) : Statement (.throttleDown die) := by intro _ _ h; cases h
theorem throttleUp (die) : Statement (.throttleUp die) := by intro _ _ h; cases h
theorem thermalHalt  : Statement (.thermalHalt ) := by intro _ _ h; cases h
theorem softError (target) : Statement (.softError target) := by intro _ _ h; cases h
theorem cpuStore (site) (bytes) : Statement (.cpuStore site bytes) := by intro _ _ h; cases h
theorem backgroundRequantisation (part) (tile) (enc) (data) : Statement (.backgroundRequantisation part tile enc data) := by intro _ _ h; cases h
theorem takeTrap (agent) (lane) (t) : Statement (.takeTrap agent lane t) := by intro _ _ h; cases h
theorem watchdog (agent) (lane) : Statement (.watchdog agent lane) := by intro _ _ h; cases h
theorem transportTimeout (uid) : Statement (.transportTimeout uid) := by intro _ _ h; cases h
theorem sramcfgWrite (core) (value) : Statement (.sramcfgWrite core value) := by intro _ _ h; cases h
theorem writeRegister (site) (value) : Statement (.writeRegister site value) := by intro _ _ h; cases h

end Sys2Proof.Laws.Row
end

