-- ==== Sys2Proof/Tests/Slice0.lean ====
section
/-! SUPPORT. Small machines that meet the hypotheses of the statements, words decoded as spec/05 writes them out, and ill-formed terms refused. -/

namespace Sys2Proof.Tests

set_option Elab.async false

open Sys2Proof.Machine Sys2Proof.Claims

/-! ### A small machine: one party of a rope and a lead on core 0, in one page of plain memory -/

/-- An instruction with A in s8 and s9, B in s18 and s19, and v8 as destination. -/
def ab (t : Ty) : Base := ⟨.w64, 0, 7, false, 8, .vec, t, ⟨.scl, 8⟩, ⟨.scl, 18⟩, ⟨.vec, 0⟩, 0, false, 0, 0⟩
/-- With A alone. -/
def a1 (t : Ty) : Base := { ab t with b := ⟨.vec, 0⟩ }
/-- With C in s20 and s21. -/
def abc (t : Ty) : Base := { ab t with c := ⟨.scl, 20⟩ }
/-- Without a destination. -/
def sink (b : Base) : Base := { b with dst := 0 }
/-- Without operands. -/
def bare : Base := { sink (ab .i8) with a := ⟨.vec, 0⟩, b := ⟨.vec, 0⟩ }
/-- A literal in an operand's place. -/
def lit (n : Nat) : Src := ⟨.lit, BitVec.ofNat 8 n⟩
/-- With an offset word. -/
def wide96 (b : Base) (e1 : Word) : Base := { b with len := .w96, e1 := e1 }
/-- With both extension words. -/
def wide128 (b : Base) (e2 : Word) : Base := { b with len := .w128, e2 := e2 }
/-- In a function code. -/
def fn (b : Base) (n : Nat) : Base := { b with fn := BitVec.ofNat 3 n }
/-- To a scalar destination. -/
def toScl (b : Base) : Base := { b with dk := .scl }
/-- With a literal as C. -/
def cl (b : Base) (n : Nat) : Base := { b with c := lit n }

/-- Memory from address, width and value. -/
def words (l : List (Nat × Nat × Nat)) : Memory := l.foldl (fun m e => m.writeN e.1 (leBytes e.2.1 e.2.2)) []

/-- A page of memory, mapped at its own address with every permission. -/
def page : TlbEntry := ⟨0, 0, 0x10000, 65536, 0x10000, 0x0FF, 0xFFF, 0, none, none, 0x100FF, 0, none, 65536⟩

/-- A lane in the middle of a clause, with a return address and some predicates set. -/
def lane : Lane := { Lane.start 0x11000 with clause := ⟨15, 15, 9, 3⟩, preds := 0x2A, rstack := [0x11100] }

/-- An agent whose operand registers hold three values. -/
def member (rope n : Nat) (a b c : Nat) : Agent :=
  let pair := fun (v : Nat) => [BitVec.ofNat 32 v, BitVec.ofNat 32 (v / 2 ^ 32)]
  { Agent.absent with
    party := 7, rope := rope, lanes := List.replicate n lane, flags := List.replicate 12 0, lfsr := 5
    sregs := List.replicate 8 0 ++ pair a ++ List.replicate 8 0 ++ pair b ++ pair c ++ List.replicate 42 0 }

/-- The party: 128 KiB of scratchpad, its lane stacks at 0x18000 and its constants at 0x10000. -/
def party : Party := { Party.absent with
  nrope := 1, hasLead := true, agents := [0, 65], spadK := 128, nparty := 1, param := 0x10000, lsva := 0x18000, dq := ⟨0, [5, 6]⟩
  barriers := List.replicate 4 ⟨0, 2, 0, 0, 0⟩ ++ List.replicate 16 .reset }

/-- Lanes 0 and 1 of the rope issue, with three operands. -/
def rope (a b c : Nat) : State :=
  let s := State.reset.setParty 7 party
  let s := ((s.setAgent 0 (member 0 32 a b c)).setAgent 64 (member 16 32 a b c)).setAgent 65 (member 17 1 a b c)
  let s := s.setCore 0 { Core.reset with itlb := ⟨[page], []⟩, dtlb := ⟨[page], []⟩, producer := some 7 }
  { s.setDie 0 { Die.reset with ltlb := ⟨[page], []⟩ } with issue := ⟨0, 3, 0x11000, 8, 0⟩, uid := 100 }

/-- No party of it is deterministic. -/
theorem rope_det (a b c : Nat) : ∀ p, ((rope a b c).party p).det = none := by
  intro p
  by_cases h : p = 7
  · subst h; rfl
  · have e : (rope a b c).parties = [(7, party)] := rfl
    simp only [State.party, e, Sparse.getD, Sparse.find?, if_neg (Ne.symm h)]
    rfl

/-- Another agent, or other lanes, issue. -/
def issuedBy (s : State) (k : Nat) (mask : Word) : State := { s with issue := { s.issue with agent := k, lanes := mask } }
/-- All lanes of the rope. -/
def wholeRope (s : State) : State := issuedBy s 0 (BitVec.allOnes 32)
/-- The lead. -/
def lead (s : State) : State := issuedBy s 65 1
/-- With memory. -/
def holding (s : State) (l : List (Nat × Nat × Nat)) : State := { s with mem := words l }
/-- Every lane of the rope changed. -/
def lanes (s : State) (f : Lane → Lane) : State :=
  (List.range 32).foldl (fun s l => s.mapLane 0 l f) s
/-- The rope's agent changed. -/
def agent (s : State) (f : Agent → Agent) : State := s.setAgent 0 (f (s.agent 0))
/-- The party changed. -/
def parties (s : State) (f : Party → Party) : State := s.setParty 7 (f (s.party 7))
/-- Core 0 changed. -/
def core (s : State) (f : Core → Core) : State := s.setCore 0 (f (s.core 0))
/-- In a mode. -/
def inMode (m : Mode) (s : State) : State := lanes s fun x => { x with mode := m }
/-- Bound in groups. -/
def bound (s : State) (n : Nat) : State :=
  wholeRope (agent s fun x => { x with bound := some n, sticky := List.replicate (32 / n) 0 })
/-- With scratchpad. -/
def spad (s : State) (l : List (Nat × Nat × Nat)) : State := parties s fun x => { x with spad := words l }

/-- A sequence of one keyBlock of four slots of 128 bytes at 0x10000, its pool at 0x10080, and its table at 0x10100; `cl` slots are
committed and `rt` reserved. -/
def sequence (cl rt : Nat) (dur : Nat) : List (Nat × Nat × Nat) :=
  [(0x10000, 4, cl), (0x10004, 4, rt), (0x10008, 4, 3 + 2 * 16 + 4 * 512 + dur * 2 ^ 14), (0x10010, 8, 0x10100), (0x10018, 8, 0x10080),
   (0x10080, 4, 1), (0x10084, 4, 4), (0x10088, 8, 0x10200), (0x10090, 4, 9), (0x10100, 8, 0x12000 / 128 * 65536 + 1), (0x10200, 8, 0x13000)]

/-! ### Witnesses: how a statement's hypotheses are met -/

/-- The instruction completes. -/
def Next (i : Instr) (s : State) : Prop := ∃ t, exec i s = .next t

/-- An effect succeeds. -/
def good {ε α : Type} (x : Except ε α) : Bool := match x with | .ok _ => true | .error _ => false

/-- What it gives. -/
def got {ε α : Type} : (x : Except ε α) → good x = true → α
  | .ok p, _ => p

/-- An effect that succeeds, with what it gives. -/
theorem met {ε α β : Type} {x : Except ε (α × β)} (h : good x = true) : x = .ok ((got x h).1, (got x h).2) := by
  cases x with
  | ok p => rfl
  | error e => cases h

/-- The same of an effect that answers nothing of its own. -/
theorem done {ε β : Type} {x : Except ε (Unit × β)} (h : good x = true) : x = .ok ((), (got x h).2) := met h

/-- An effect succeeds and answers nothing. -/
def nothing {α : Type} (x : Except Abort (Option α × State)) : Bool := match x with | .ok (none, _) => true | _ => false

/-- The state it leaves. -/
def left {α : Type} : (x : Except Abort (α × State)) → State
  | .ok p => p.2
  | .error _ => .reset

/-- The same of an effect that answers that there is nothing. -/
theorem answersNone {α : Type} {x : Except Abort (Option α × State)} (h : nothing x = true) : x = .ok (none, left x) := by
  cases x with
  | ok p => obtain ⟨a, t⟩ := p; cases a with
    | none => rfl
    | some _ => cases h
  | error e => cases h

/-- The conditions under which an issued instruction acts at once, and its form. -/
def ready (i : Instr) (b : Base) (s : State) : Bool :=
  let f := formOf i
  i.encoded && i.check.isNone && (s.busy f b).isNone &&
    (decide (s.newRegs f b = []) || s.fileAllows (coreOf s.who) (s.partOf s.who) (s.newRegs f b).length) &&
    (s.guardSplit f b).isNone && (agentFault s.who s.mode f b).isNone && (s.detOf s.who).isNone

/-- An instruction that is ready is well formed. -/
theorem wf {i : Instr} {b : Base} {s : State} (h : ready i b s = true) : i.WellFormed := by
  simp only [ready, Bool.and_eq_true, Option.isNone_iff_eq_none] at h
  exact ⟨h.1.1.1.1.1.1, h.1.1.1.1.1.2⟩

/-- An instruction that is ready acts at once. -/
theorem clear {i : Instr} {b : Base} {s : State} (h : ready i b s = true) : s.Clear (formOf i) b := by
  simp only [ready, Bool.and_eq_true, Option.isNone_iff_eq_none, Bool.or_eq_true, decide_eq_true_eq] at h
  exact ⟨h.1.1.1.1.2, h.1.1.1.2, h.1.1.2, h.1.2, h.2⟩

/-- A next state of a kind is a next state. -/
theorem phased {p : State → Prop} {i : Instr} {s : State} (h : ∃ t, p t ∧ exec i s = .next t) : Next i s := h.imp fun _ k => k.2

/-- A lane that has no range before it. -/
theorem noRange {x : Lane} (h : x.step = none) : ∀ v m, x.step ≠ some (.range v m) := fun v m => by rw [h]; exact nofun

section
variable {i : Instr} {b : Base} {s : State}

/-- How the hypotheses of each kind of completion statement are met. -/
theorem computes {ok ws} (h : ComputesWhen i b ok ws) (r : ready i b s = true) (k : ok s)
    (g : good (doAll (s.doers b) (fun l => do
      let x ← readSrcs (formOf i) b l
      let t ← get
      pure { writes := ws t l x }) s) = true) : Next i s := ⟨_, h s _ _ (wf r) (clear r) k (met g)⟩

theorem crosses {ok ls ws} (h : CompletesCross i b ok ls ws) (r : ready i b s = true) (k : ok s)
    (g : good (readAll (formOf i) b (s.acting b) s) = true) : Next i s := ⟨_, h s _ _ (wf r) (clear r) k (met g)⟩

theorem completes {ok ls act} (h : CompletesIn i b ok ls act) (r : ready i b s = true) (k : ok s)
    (g : good (doAll (ls s) act s) = true) : Next i s := ⟨_, h s _ _ (wf r) (clear r) k (met g)⟩

theorem once {act} (h : CompletesOnce i b act) (r : ready i b s = true) (l : Nat) (k : (s.acting b).head? = some l)
    (g : good (act l s) = true) : Next i s := ⟨_, h s _ l _ (wf r) (clear r) k (met g)⟩

theorem completesHeld {act} (h : CompletesHeld i b act) (r : ready i b s = true) (l : Nat) (k : (s.acting b).head? = some l)
    (g : good (act l s) = true) : Next i s := ⟨_, h s _ l _ _ (wf r) (clear r) k (met g)⟩

theorem groups {act} (h : CompletesGroups i b act) (r : ready i b s = true) (n : Nat) (k : (s.agent s.who).bound = some n)
    (g : good (doAll (((List.range (32 / n)).map (· * n)).filter (s.acting b).contains) (fun base => do
      let ws ← act n base
      pure { writes := ws }) s) = true) : Next i s := ⟨_, h s _ n _ (wf r) (clear r) k (met g)⟩

theorem defers {part} (h : CompletesFar i b part) (r : ready i b s = true) (k : s.acting b ≠ [] ∧ (s.agent s.who).counter .far < 63)
    (g : good (doAll (s.acting b) (part s.uid) (counted s .far ((s.acting b).headD 0))) = true) : Next i s :=
  ⟨_, h s _ _ (wf r) (clear r) k.1 k.2 (met g)⟩

theorem gives {ok t} (h : Gives i b ok t) (r : ready i b s = true) (k : ok s) : Next i s := ⟨_, h s (wf r) (clear r) k⟩

theorem givesFrom {n ok t} (h : GivesFrom i b n ok t) (r : ready i b s = true)
    (g : good (collect (s.acting b) (fun l => do
      let x ← readSrc (formOf i) b n l
      pure (l, x)) s) = true) (k : ok (got _ g).2 (got _ g).1) : Next i s := ⟨_, h s _ _ (wf r) (clear r) (met g) k⟩

theorem traps {bad t} (h : TrapsWhen i b bad t) (r : ready i b s = true) (k : bad s) : Next i s := ⟨_, h s (wf r) (clear r) k⟩

theorem countsOnce {α : Type} {c} {checks : Nat → Operands → M α} {t} (h : OnceThen i b c checks t) (r : ready i b s = true) (l : Nat)
    (k : (s.acting b).head? = some l ∧ (s.agent s.who).counter c < 63)
    (g : good ((do
      let x ← readSrcs (formOf i) b l
      checks l x) s) = true) : Next i s := ⟨_, h s _ l _ (wf r) (clear r) k.1 k.2 (met g)⟩

theorem performs {ok act} (h : Performs i ok act) (k : ok s) (g : good (act s) = true) : Next i s := ⟨_, h s _ k (met g)⟩

theorem happens {ok t} (h : EventGives i ok t) (k : ok s) : Next i s := ⟨_, h s k⟩

/-- The operands that each lane of a list reads, at a misaligned address. -/
theorem misreads {f : Form} {ls : List Nat} {n : Nat} {ea : State → Operands → DWord} {x : Operands}
    (g : (ls.all fun l => (match readSrcs f b l s with | .ok (y, _) => decide (y = x) | .error _ => false) &&
      decide ((ea s x).toNat % n ≠ 0)) = true) :
    ∀ l ∈ ls, (∃ t, readSrcs f b l s = .ok ((fun _ : Nat => x) l, t)) ∧ (ea s ((fun _ : Nat => x) l)).toNat % n ≠ 0 := by
  intro l hl
  have k := List.all_eq_true.1 g l hl
  rw [Bool.and_eq_true] at k
  refine ⟨?_, of_decide_eq_true k.2⟩
  have m := k.1
  split at m
  · rename_i y t e
    exact ⟨t, by rw [e, of_decide_eq_true m]⟩
  · cases m

end

/-- What an effect answers, and where it ends in a trap. -/
theorem answers {α : Type} [DecidableEq α] {x : Except Abort (α × State)} (a : α)
    (h : (match x with | .ok p => decide (p.1 = a) | .error _ => false) = true) : x = .ok (a, left x) := by
  cases x with
  | ok p => obtain ⟨b, t⟩ := p; rw [show b = a from of_decide_eq_true h]; rfl
  | error e => cases h

/-- An effect that ends in a trap. -/
theorem fails {α : Type} {x : Except Abort (α × State)} (t : Trap)
    (h : (match x with | .error (.trap f) => decide (f = t) | _ => false) = true) : x = .error (.trap t) := by
  cases x with
  | ok p => cases h
  | error e => cases e with
    | trap f => rw [show f = t from of_decide_eq_true h]
    | _ => cases h

/-- A lane that does not wait, waits for no TLBI. -/
theorem untlbi {w : Option Wait} (h : w = none) : ∀ n, w ≠ some (.tlbi n) := by rw [h]; exact fun _ => nofun

/-- Every instruction of 07 R160's arithmetic meets the hypotheses. -/
theorem witness_IntegerArithmeticCompletes (h : Obligations.IntegerArithmeticCompletes) :
    Next (.add (ab .n32)) (rope 7 3 2) ∧
    Next (.sub (ab .n32)) (rope 7 3 2) ∧
    Next (.min (ab .n32)) (rope 7 3 2) ∧
    Next (.max (ab .n32)) (rope 7 3 2) ∧
    Next (.abs (a1 .i32)) (rope 7 3 2) ∧
    Next (.neg (a1 .n32)) (rope 7 3 2) ∧
    Next (.mul (ab .n32)) (rope 7 3 2) ∧
    Next (.mulh (ab .n32)) (rope 7 3 2) ∧
    Next (.mad (abc .n32)) (rope 7 3 2) ∧
    Next (.madw (abc .n32)) (rope 7 3 2) :=
  ⟨computes (h.1 _).1 (by decide +kernel) trivial (by decide +kernel),
   computes (h.1 _).2.1 (by decide +kernel) trivial (by decide +kernel),
   computes (h.1 _).2.2.1 (by decide +kernel) trivial (by decide +kernel),
   computes (h.1 _).2.2.2.1 (by decide +kernel) trivial (by decide +kernel),
   computes (h.1 _).2.2.2.2.1 (by decide +kernel) trivial (by decide +kernel),
   computes (h.1 _).2.2.2.2.2 (by decide +kernel) trivial (by decide +kernel),
   computes (h.2 _).1 (by decide +kernel) trivial (by decide +kernel),
   computes (h.2 _).2.1 (by decide +kernel) trivial (by decide +kernel),
   computes (h.2 _).2.2.1 (by decide +kernel) trivial (by decide +kernel),
   computes (h.2 _).2.2.2 (by decide +kernel) trivial (by decide +kernel)⟩

/-- DIV and REM. -/
theorem witness_DivisionCompletes (h : Obligations.DivisionCompletes) :
    Next (.div (ab .n32)) (rope 7 3 2) ∧
    Next (.rem (ab .n32)) (rope 7 3 2) :=
  ⟨computes (h _).2.1 (by decide +kernel) trivial (by decide +kernel),
   computes (h _).2.2 (by decide +kernel) trivial (by decide +kernel)⟩

/-- Logic and shifts. -/
theorem witness_LogicAndShiftsComplete (h : Obligations.LogicAndShiftsComplete) :
    Next (.and (ab .n32)) (rope 7 3 2) ∧
    Next (.or (ab .n32)) (rope 7 3 2) ∧
    Next (.xor (ab .n32)) (rope 7 3 2) ∧
    Next (.not (a1 .n32)) (rope 7 3 2) ∧
    Next (.shl (ab .n32)) (rope 7 3 2) ∧
    Next (.shr (ab .n32)) (rope 7 3 2) ∧
    Next (.rot (ab .n32)) (rope 7 3 2) ∧
    Next (.fshf (abc .n32)) (rope 7 3 2) :=
  ⟨computes (h.1 _).1 (by decide +kernel) trivial (by decide +kernel),
   computes (h.1 _).2.1 (by decide +kernel) trivial (by decide +kernel),
   computes (h.1 _).2.2.1 (by decide +kernel) trivial (by decide +kernel),
   computes (h.1 _).2.2.2 (by decide +kernel) trivial (by decide +kernel),
   computes (h.2 _).1 (by decide +kernel) trivial (by decide +kernel),
   computes (h.2 _).2.1 (by decide +kernel) trivial (by decide +kernel),
   computes (h.2 _).2.2.1 (by decide +kernel) trivial (by decide +kernel),
   computes (h.2 _).2.2.2 (by decide +kernel) trivial (by decide +kernel)⟩

/-- Bit fields. -/
theorem witness_BitFieldsComplete (h : Obligations.BitFieldsComplete) :
    Next (.popc (a1 .n32)) (rope 7 3 2) ∧
    Next (.clz (a1 .n32)) (rope 7 3 2) ∧
    Next (.brev (a1 .n32)) (rope 7 3 2) ∧
    Next (.bfe (ab .n32)) (rope 7 3 2) ∧
    Next (.bfi (abc .n32)) (rope 7 3 2) ∧
    Next (.lop3 (cl (ab .n32) 1)) (rope 7 3 2) :=
  ⟨computes (h _).1 (by decide +kernel) trivial (by decide +kernel),
   computes (h _).2.1 (by decide +kernel) trivial (by decide +kernel),
   computes (h _).2.2.1 (by decide +kernel) trivial (by decide +kernel),
   computes (h _).2.2.2.1 (by decide +kernel) trivial (by decide +kernel),
   computes (h _).2.2.2.2.1 (by decide +kernel) trivial (by decide +kernel),
   computes (h _).2.2.2.2.2 (by decide +kernel) trivial (by decide +kernel)⟩

/-- Moves and byte sums. -/
theorem witness_MovesComplete (h : Obligations.MovesComplete) :
    Next (.mov (a1 .n32)) (rope 7 3 2) ∧
    Next (.sel (cl (ab .n32) 1)) (rope 7 3 2) ∧
    Next (.movi (ab .n32)) (rope 7 3 2) ∧
    Next (.lea (cl (ab .n32) 1)) (rope 7 3 2) ∧
    Next (.dp4a (abc .n32)) (rope 7 3 2) ∧
    Next (.sad (abc .n32)) (rope 7 3 2) :=
  ⟨computes (h.1 _).1 (by decide +kernel) trivial (by decide +kernel),
   computes (h.1 _).2.1 (by decide +kernel) (by unfold LeadOrVector; decide +kernel) (by decide +kernel),
   computes (h.1 _).2.2.1 (by decide +kernel) (by unfold LeadOrVector; decide +kernel) (by decide +kernel),
   computes (h.1 _).2.2.2 (by decide +kernel) trivial (by decide +kernel),
   computes (h.2 _).1 (by decide +kernel) trivial (by decide +kernel),
   computes (h.2 _).2 (by decide +kernel) trivial (by decide +kernel)⟩

/-- Comparisons, into a predicate and into a mask. -/
theorem witness_ComparesComplete (h : Obligations.ComparesComplete) :
    Next (.isetp ({ ab .n32 with dst := 3 })) (rope 7 3 2) ∧
    Next (.fsetp ({ ab .f32 with dst := 3 })) (rope 7 3 2) ∧
    Next (.iset (ab .n32)) (rope 7 3 2) ∧
    Next (.fset (ab .f32)) (rope 7 3 2) ∧
    Next (.isetp (toScl (ab .n32))) (rope 7 3 2) ∧
    Next (.fsetp (toScl (ab .f32))) (rope 7 3 2) :=
  ⟨computes (h.1 _).1 (by decide +kernel) (by decide +kernel) (by decide +kernel),
   computes (h.1 _).2.1 (by decide +kernel) (by decide +kernel) (by decide +kernel),
   computes (h.1 _).2.2.1 (by decide +kernel) trivial (by decide +kernel),
   computes (h.1 _).2.2.2 (by decide +kernel) trivial (by decide +kernel),
   crosses (h.2 _).1 (by decide +kernel) (by decide +kernel) (by decide +kernel),
   crosses (h.2 _).2 (by decide +kernel) (by decide +kernel) (by decide +kernel)⟩

/-- Carries and predicates. -/
theorem witness_PredicatesAndCarriesComplete (h : Obligations.PredicatesAndCarriesComplete) :
    Next (.addx (cl (ab .n32) 1)) (rope 7 3 2) ∧
    Next (.subx (cl (ab .n32) 1)) (rope 7 3 2) ∧
    Next (.plop ({ bare with a := lit 1, b := lit 1 })) (rope 7 3 2) ∧
    Next (.p2v ({ bare with dst := 8 })) (rope 7 3 2) ∧
    Next (.v2p (sink { a1 .i8 with b := lit 1 })) (rope 7 3 2) :=
  ⟨computes (h.1 _).1 (by decide +kernel) (by unfold LeadOrVector; decide +kernel) (by decide +kernel),
   computes (h.1 _).2 (by decide +kernel) (by unfold LeadOrVector; decide +kernel) (by decide +kernel),
   computes (h.2 _).1 (by decide +kernel) trivial (by decide +kernel),
   computes (h.2 _).2.1 (by decide +kernel) trivial (by decide +kernel),
   computes (h.2 _).2.2 (by decide +kernel) trivial (by decide +kernel)⟩

/-- A scalar destination in a rope. -/
theorem witness_ScalarResultOutsideLeadTraps (h : Obligations.ScalarResultOutsideLeadTraps) :
    Next (.sel (toScl (cl (ab .n32) 1))) (rope 7 3 2) ∧
    Next (.movi (toScl (ab .n32))) (rope 7 3 2) ∧
    Next (.addx (toScl (cl (ab .n32) 1))) (rope 7 3 2) ∧
    Next (.subx (toScl (cl (ab .n32) 1))) (rope 7 3 2) ∧
    Next (.qnt (toScl (a1 .e2m1))) (rope 7 3 2) ∧
    Next (.dqnt (toScl (a1 .e2m1))) (rope 7 3 2) ∧
    Next (.randNext (fn (toScl { bare with dst := 8 }) 0)) (rope 7 3 2) ∧
    Next (.randBlk (fn (toScl { bare with dst := 8 }) 1)) (rope 7 3 2) ∧
    Next (.randRdpos (fn (toScl { bare with dst := 8 }) 2)) (rope 7 3 2) ∧
    Next (.rdsr (toScl { bare with dst := 8, a := lit 0 })) (rope 7 3 2) :=
  ⟨traps (h _).1 (by decide +kernel) (by decide +kernel),
   traps (h _).2.1 (by decide +kernel) (by decide +kernel),
   traps (h _).2.2.1 (by decide +kernel) (by decide +kernel),
   traps (h _).2.2.2.1 (by decide +kernel) (by decide +kernel),
   traps (h _).2.2.2.2.1 (by decide +kernel) (by decide +kernel),
   traps (h _).2.2.2.2.2.1 (by decide +kernel) (by decide +kernel),
   traps (h _).2.2.2.2.2.2.1 (by decide +kernel) (by decide +kernel),
   traps (h _).2.2.2.2.2.2.2.1 (by decide +kernel) (by decide +kernel),
   traps (h _).2.2.2.2.2.2.2.2.1 (by decide +kernel) (by decide +kernel),
   traps ((h _).2.2.2.2.2.2.2.2.2 (by decide +kernel)) (by decide +kernel) (by decide +kernel)⟩

/-- Floating point. -/
theorem witness_FloatArithmeticCompletes (h : Obligations.FloatArithmeticCompletes) :
    Next (.fadd (ab .f32)) (rope 7 3 2) ∧
    Next (.fsub (ab .f32)) (rope 7 3 2) ∧
    Next (.fmul (ab .f32)) (rope 7 3 2) ∧
    Next (.ffma (abc .f32)) (rope 7 3 2) ∧
    Next (.fmin (ab .f32)) (rope 7 3 2) ∧
    Next (.fmax (ab .f32)) (rope 7 3 2) ∧
    Next (.fabs (a1 .f32)) (rope 7 3 2) ∧
    Next (.fneg (a1 .f32)) (rope 7 3 2) ∧
    Next (.fclass (a1 .f32)) (rope 7 3 2) ∧
    Next (.frnd (a1 .f32)) (rope 7 3 2) ∧
    Next (.fscl (ab .f32)) (rope 7 3 2) ∧
    Next (.ffrx (a1 .f32)) (rope 7 3 2) ∧
    Next (.fdot2 (abc .pair)) (rope 7 3 2) :=
  ⟨computes (h.1 _).1 (by decide +kernel) trivial (by decide +kernel),
   computes (h.1 _).2.1 (by decide +kernel) trivial (by decide +kernel),
   computes (h.1 _).2.2.1 (by decide +kernel) trivial (by decide +kernel),
   computes (h.1 _).2.2.2 (by decide +kernel) trivial (by decide +kernel),
   computes (h.2.1 _).1 (by decide +kernel) trivial (by decide +kernel),
   computes (h.2.1 _).2.1 (by decide +kernel) trivial (by decide +kernel),
   computes (h.2.1 _).2.2.1 (by decide +kernel) trivial (by decide +kernel),
   computes (h.2.1 _).2.2.2 (by decide +kernel) trivial (by decide +kernel),
   computes (h.2.2 _).1 (by decide +kernel) trivial (by decide +kernel),
   computes (h.2.2 _).2.1 (by decide +kernel) trivial (by decide +kernel),
   computes (h.2.2 _).2.2.1 (by decide +kernel) trivial (by decide +kernel),
   computes (h.2.2 _).2.2.2.1 (by decide +kernel) trivial (by decide +kernel),
   computes (h.2.2 _).2.2.2.2 (by decide +kernel) trivial (by decide +kernel)⟩

/-- The special functions. -/
theorem witness_SpecialFunctionsComplete (h : Obligations.SpecialFunctionsComplete) :
    Next (.frcp (a1 .f32)) (rope 7 3 2) ∧
    Next (.frsq (a1 .f32)) (rope 7 3 2) ∧
    Next (.fsqrt (a1 .f32)) (rope 7 3 2) ∧
    Next (.fex2 (a1 .f32)) (rope 7 3 2) ∧
    Next (.flg2 (a1 .f32)) (rope 7 3 2) ∧
    Next (.fsin (a1 .f32)) (rope 7 3 2) ∧
    Next (.fcos (a1 .f32)) (rope 7 3 2) ∧
    Next (.ftanh (a1 .f32)) (rope 7 3 2) ∧
    Next (.fdiv (ab .f32)) (rope 7 3 2) :=
  ⟨computes (h.1 _).1 (by decide +kernel) trivial (by decide +kernel),
   computes (h.1 _).2.1 (by decide +kernel) trivial (by decide +kernel),
   computes (h.1 _).2.2.1 (by decide +kernel) trivial (by decide +kernel),
   computes (h.1 _).2.2.2.1 (by decide +kernel) trivial (by decide +kernel),
   computes (h.1 _).2.2.2.2.1 (by decide +kernel) trivial (by decide +kernel),
   computes (h.1 _).2.2.2.2.2.1 (by decide +kernel) trivial (by decide +kernel),
   computes (h.1 _).2.2.2.2.2.2.1 (by decide +kernel) trivial (by decide +kernel),
   computes (h.1 _).2.2.2.2.2.2.2.1 (by decide +kernel) trivial (by decide +kernel),
   computes (h.1 _).2.2.2.2.2.2.2.2 (by decide +kernel) trivial (by decide +kernel)⟩

/-- Conversions. -/
theorem witness_ConversionsComplete (h : Obligations.ConversionsComplete) :
    Next (.cvt (wide96 (a1 .n32) 0)) (rope 7 3 2) ∧
    Next (.pack (ab .f16)) (rope 7 3 2) ∧
    Next (.unpk ({ a1 .i8 with b := lit 1 })) (rope 7 3 2) :=
  ⟨completes (h.1 _).1 (by decide +kernel) trivial (by decide +kernel),
   completes (h.1 _).2.1 (by decide +kernel) trivial (by decide +kernel),
   computes (h.1 _).2.2 (by decide +kernel) trivial (by decide +kernel)⟩

/-- Block quantisation. -/
theorem witness_BlockQuantisationCompletes (h : Obligations.BlockQuantisationCompletes) :
    Next (.qnt (a1 .e2m1)) (rope 7 3 2) ∧
    Next (.dqnt (a1 .e2m1)) (rope 7 3 2) ∧
    Next (.sclc (a1 .f32)) (rope 7 3 2) :=
  ⟨⟨_, (h.1 _).1 _ _ _ (wf (b := a1 .e2m1) (s := rope 7 3 2) (by decide +kernel)) (clear (by decide +kernel)) (by unfold LeadOrVector; decide +kernel) (met (by decide +kernel))⟩,
   computes (h.1 _).2.1 (by decide +kernel) (by unfold LeadOrVector; decide +kernel) (by decide +kernel),
   computes (h.1 _).2.2 (by decide +kernel) trivial (by decide +kernel)⟩

/-- The forms of RAND. -/
theorem witness_RandomNumbersComplete (h : Obligations.RandomNumbersComplete) :
    Next (.randNext (fn { bare with dst := 8 } 0)) (rope 7 3 2) ∧
    Next (.randBlk (fn { bare with dst := 8 } 1)) (rope 7 3 2) ∧
    Next (.randRdpos (fn { bare with dst := 8 } 2)) (rope 7 3 2) ∧
    Next (.randWrpos (fn (sink (a1 .i8)) 3)) (rope 7 3 2) ∧
    Next (.randSkip (fn (sink (a1 .i8)) 4)) (rope 7 3 2) ∧
    Next (.randWrkey (fn (sink (a1 .i8)) 5)) (rope 7 3 2) :=
  ⟨completes (h _).1 (by decide +kernel) (by unfold LeadOrVector; decide +kernel) (by decide +kernel),
   completes (h _).2.1 (by decide +kernel) (by unfold LeadOrVector; decide +kernel) (by decide +kernel),
   computes (h _).2.2.1 (by decide +kernel) (by unfold LeadOrVector; decide +kernel) (by decide +kernel),
   completes (h _).2.2.2.1 (by decide +kernel) trivial (by decide +kernel),
   completes (h _).2.2.2.2.1 (by decide +kernel) trivial (by decide +kernel),
   once (h _).2.2.2.2.2 (by decide +kernel) 0 (by decide +kernel) (by decide +kernel)⟩

/-- Lane exchange and votes. -/
theorem witness_LaneExchangeAndVotesComplete (h : Obligations.LaneExchangeAndVotesComplete) :
    Next (.shfl (ab .n32)) (rope 7 3 2) ∧
    Next (.bcast (ab .n32)) (rope 7 3 2) ∧
    Next (.matchx (a1 .n32)) (rope 7 3 2) ∧
    Next (.vote ({ bare with a := lit 1 })) (rope 7 3 2) ∧
    Next (.vote (fn { bare with a := lit 1, dst := 8 } 3)) (rope 7 3 2) ∧
    Next (.elect (bare)) (rope 7 3 2) ∧
    Next (.elect (toScl { bare with dst := 8 })) (rope 7 3 2) :=
  ⟨crosses (h.1 _).1 (by decide +kernel) trivial (by decide +kernel),
   crosses (h.1 _).2.1 (by decide +kernel) trivial (by decide +kernel),
   crosses (h.1 _).2.2 (by decide +kernel) trivial (by decide +kernel),
   ⟨_, (h.2 _).1 _ (wf (b := { bare with a := lit 1 }) (s := rope 7 3 2) (by decide +kernel)) (clear (by decide +kernel)) (by decide +kernel)⟩,
   ⟨_, (h.2 _).2.1 _ (wf (b := fn { bare with a := lit 1, dst := 8 } 3) (s := rope 7 3 2) (by decide +kernel)) (clear (by decide +kernel)) (by decide +kernel)⟩,
   ⟨_, (h.2 _).2.2.1 _ (wf (b := bare) (s := rope 7 3 2) (by decide +kernel)) (clear (by decide +kernel)) (by decide +kernel)⟩,
   ⟨_, (h.2 _).2.2.2 _ (wf (b := toScl { bare with dst := 8 }) (s := rope 7 3 2) (by decide +kernel)) (clear (by decide +kernel)) (by decide +kernel)⟩⟩

/-- Reductions. -/
theorem witness_ReductionsComplete (h : Obligations.ReductionsComplete) :
    Next (.redux (a1 .n32)) (rope 7 3 2) ∧
    Next (.scanx (a1 .n32)) (rope 7 3 2) ∧
    Next (.fredx (a1 .f32)) (rope 7 3 2) :=
  ⟨crosses (h _).1 (by decide +kernel) trivial (by decide +kernel),
   crosses (h _).2.1 (by decide +kernel) trivial (by decide +kernel),
   crosses (h _).2.2 (by decide +kernel) trivial (by decide +kernel)⟩

/-- RDSR, NOP and YIELD; a clause header and a breakpoint. -/
theorem witness_SpecialRegistersAndHeadersComplete (h : Obligations.SpecialRegistersAndHeadersComplete) :
    Next (.rdsr ({ bare with dst := 8, a := lit 0 })) (rope 7 3 2) ∧
    Next (.nop (bare)) (rope 7 3 2) ∧
    Next (.yield (bare)) (rope 7 3 2) ∧
    Next (.clh ⟨5, 5, 2, 9⟩) (rope 0 0 0) ∧
    Next (.clh ⟨0, 5, 2, 9⟩) (rope 0 0 0) ∧
    Next (.bkpt ⟨.w64, 0, 0, 0⟩) (rope 0 0 0) :=
  ⟨computes (h.1 _) (by decide +kernel) (by unfold LeadOrVector; decide +kernel) (by decide +kernel),
   gives (h.2.1 _).1 (by decide +kernel) trivial,
   gives (h.2.1 _).2 (by decide +kernel) (by decide +kernel),
   ⟨_, (h.2.2 _).1 _ (by decide +kernel) (by decide +kernel)⟩,
   ⟨_, (h.2.2 _).2.1 _ .clauseFrame (by decide +kernel)⟩,
   ⟨_, (h.2.2 _).2.2 _ (by decide +kernel) (by decide +kernel)⟩⟩

/-- Branches, calls and returns. -/
theorem witness_ControlTransfersComplete (h : Obligations.ControlTransfersComplete) :
    Next (.bra (wide96 bare 64)) (rope 7 3 2) ∧
    Next (.brau (wide96 bare 64)) (rope 7 3 2) ∧
    Next (.brau ({ wide96 bare 64 with grd := 1 })) ((rope 7 3 2).mapLane 0 0 fun x => { x with preds := 0 }) ∧
    Next (.brx (sink (a1 .i8))) (rope 7 3 2) ∧
    Next (.brc (wide96 (sink (a1 .i8)) 64)) (rope 7 3 2) ∧
    Next (.brc (wide96 (sink (a1 .i8)) 64)) (rope 1 0 0) ∧
    Next (.call (wide96 bare 64)) (rope 7 3 2) ∧
    Next (.callx (sink (a1 .i8))) (rope 7 3 2) ∧
    Next (.ret (bare)) (rope 7 3 2) :=
  ⟨gives (h.1 _).1 (by decide +kernel) trivial,
   gives (h.1 _).2.1 (by decide +kernel) (by decide +kernel),
   gives (h.1 _).2.2.1 (by decide +kernel) (by decide +kernel),
   givesFrom (h.1 _).2.2.2.1 (by decide +kernel) (by decide +kernel) (by intro h; exact absurd h (by decide +kernel)),
   gives (h.1 _).2.2.2.2 (by decide +kernel) trivial,
   gives (h.1 _).2.2.2.2 (by decide +kernel) trivial,
   completes ((h.2 _).1 _) (by decide +kernel) rfl (by decide +kernel),
   ⟨_, (h.2 _).2.1 _ _ _ _ _ (wf (b := sink (a1 .i8)) (s := rope 7 3 2) (by decide +kernel)) (clear (by decide +kernel)) (met (by decide +kernel)) (by intro h; exact absurd h (by decide +kernel)) (met (by decide +kernel))⟩,
   completes ((h.2 _).2.2 _ (by intro h; exact absurd h (by decide +kernel))) (by decide +kernel) rfl (by decide +kernel)⟩

/-- REPEAT. -/
theorem witness_LoopsComplete (h : Obligations.LoopsComplete) : Next (.repeatx (wide96 (sink (a1 .i8)) 64)) (lanes (rope 7 3 2) fun x => { x with clause := ⟨15, 15, 9, 8⟩ }) :=
  givesFrom (h.1 _) (by decide +kernel) (by decide +kernel) ⟨(by intro h; exact absurd h (by decide +kernel)), (by decide +kernel), (by decide +kernel), (by decide +kernel)⟩

/-- Loads. -/
theorem witness_LoadsComplete (h : Obligations.LoadsComplete) :
    Next (.ld (ab .n32)) (rope 0x14000 0 0x55) ∧
    Next (.ldf (ab .n32)) (rope 0x14000 0 0x55) ∧
    Next (.ldl (ab .n32)) (rope 0x40 0 0x55) ∧
    Next (.ldc (ab .n32)) (rope 0x40 0 0x55) ∧
    Next (.lds (ab .n32)) (rope 0x40 0 0x55) :=
  ⟨completes (h _).1 (by decide +kernel) trivial (by decide +kernel),
   completes (h _).2.1 (by decide +kernel) trivial (by decide +kernel),
   completes (h _).2.2.1 (by decide +kernel) trivial (by decide +kernel),
   completes (h _).2.2.2.1 (by decide +kernel) trivial (by decide +kernel),
   completes (h _).2.2.2.2 (by decide +kernel) trivial (by decide +kernel)⟩

/-- Stores. -/
theorem witness_StoresComplete (h : Obligations.StoresComplete) :
    Next (.st (sink (abc .n32))) (rope 0x14000 0 0x55) ∧
    Next (.stl (fn (sink (abc .n32)) 1)) (rope 0x40 0 0x55) ∧
    Next (.sts (sink (abc .n32))) (rope 0x40 0 0x55) ∧
    Next (.stf (sink (abc .n32))) (rope 0x14000 0 0x55) ∧
    Next (.red (sink (abc .n32))) (rope 0x14000 0 0x55) :=
  ⟨completes (h.1 _).1 (by decide +kernel) trivial (by decide +kernel),
   completes (h.1 _).2.1 (by decide +kernel) trivial (by decide +kernel),
   completes (h.1 _).2.2 (by decide +kernel) trivial (by decide +kernel),
   defers (h.2 _).1 (by decide +kernel) (by decide +kernel) (by decide +kernel),
   defers (h.2 _).2 (by decide +kernel) (by decide +kernel) (by decide +kernel)⟩

/-- Atomics. -/
theorem witness_AtomicsComplete (h : Obligations.AtomicsComplete) :
    Next (.atom (abc .n32)) (rope 0x14000 0 0x55) ∧
    Next (.atomc (abc .n32)) (rope 0x14000 0 0x55) ∧
    Next (.atoms (abc .n32)) (rope 0x40 0 0x55) :=
  ⟨completes (h.1 _).1 (by decide +kernel) trivial (by decide +kernel),
   completes (h.1 _).2.1 (by decide +kernel) trivial (by decide +kernel),
   completes (h.1 _).2.2 (by decide +kernel) trivial (by decide +kernel)⟩

/-- Tiles, gathers and scatters. -/
theorem witness_TilesAndGathersComplete (h : Obligations.TilesAndGathersComplete) :
    Next (.ldv (wide128 (toScl { a1 .n32 with c := ⟨.scl, 20⟩ }) 16)) (rope 0x14000 0 0x100) ∧
    Next (.stta (wide128 (sink (abc .n32)) 16)) (rope 0x14000 5 0x100) ∧
    Next (.gth (wide128 (sink (abc .i8)) 0)) (rope 0x14000 0 0x100) ∧
    Next (.sct (wide128 (sink (abc .i8)) 0)) (rope 0x14000 0 0x100) :=
  ⟨once (h.1 _).1 (by decide +kernel) 0 (by decide +kernel) (by decide +kernel),
   ⟨_, (h.1 _).2 _ _ _ _ 0 _ (wf (b := wide128 (sink (abc .n32)) 16) (s := rope 0x14000 5 0x100) (by decide +kernel)) (clear (by decide +kernel)) (by decide +kernel) (met (by decide +kernel)) (answersNone (by decide +kernel)) (met (by decide +kernel))⟩,
   ⟨_, (h.2 _).1 _ _ _ (wf (b := wide128 (sink (abc .i8)) 0) (s := rope 0x14000 0 0x100) (by decide +kernel)) (clear (by decide +kernel)) (by decide +kernel) (by decide +kernel) (met (by decide +kernel))⟩,
   ⟨_, (h.2 _).2 _ _ _ (wf (b := wide128 (sink (abc .i8)) 0) (s := rope 0x14000 0 0x100) (by decide +kernel)) (clear (by decide +kernel)) (by decide +kernel) (by decide +kernel) (met (by decide +kernel))⟩⟩

/-- Prefetch and cache control, with bytes to publish and with none. -/
theorem witness_CachesComplete (h : Obligations.CachesComplete) :
    Next (.pft (sink (ab .i8))) (rope 0x14000 0 0x55) ∧
    Next (.cctlPub (wide96 (fn (sink (ab .i8)) 0) 0)) (rope 0x14000 0x80 0) ∧
    Next (.cctlWb (wide96 (fn (sink (ab .i8)) 1) 0)) (rope 0x14000 0x80 0) ∧
    Next (.cctlInv (wide96 (fn (sink (ab .i8)) 2) 0)) (rope 0x14000 0x80 0) ∧
    Next (.cctlIinv (wide96 (fn (sink (ab .i8)) 3) 0)) (inMode .s (rope 0x14000 0x80 0)) ∧
    Next (.cctlInv (wide96 (fn (sink (ab .i8)) 2) 0)) (rope 0x14000 0 0) ∧
    Next (.cctlPub (wide96 (fn (sink (ab .i8)) 0) 0)) (rope 0x1FF80 0x100 0) ∧
    Next (.cctlPub (wide96 (fn (sink (ab .i8)) 0) 0)) (rope 0x20000 0x100 0) ∧
    Next (.cctlPub (wide96 (fn (sink (ab .i8)) 0) 0)) (lanes (rope 0x14000 0x80 0) fun x => { x with wait := some (.range 0x14000 0x40) }) ∧
    Next (.cctlIinv (wide96 (fn (sink (ab .i8)) 3) 0)) (rope 0x14000 0 0) :=
  ⟨completes (h.1 _) (by decide +kernel) trivial (by decide +kernel),
   ⟨_, ((h.2.1 _).1 (rope 0x14000 0x80 0) _ 0 _ _ (wf (b := wide96 (fn (sink (ab .i8)) 0) 0) (s := rope 0x14000 0x80 0) (by decide +kernel)) (clear (by decide +kernel)) trivial (by decide +kernel) (.inr ⟨noRange (by decide +kernel), _, met (by decide +kernel), rfl, rfl⟩)).2.1 (by decide +kernel) (by decide +kernel)⟩,
   ⟨_, ((h.2.1 _).2.1 (rope 0x14000 0x80 0) _ 0 _ _ (wf (b := wide96 (fn (sink (ab .i8)) 1) 0) (s := rope 0x14000 0x80 0) (by decide +kernel)) (clear (by decide +kernel)) trivial (by decide +kernel) (.inr ⟨noRange (by decide +kernel), _, met (by decide +kernel), rfl, rfl⟩)).2.1 (by decide +kernel) (by decide +kernel)⟩,
   ⟨_, ((h.2.1 _).2.2.1 (rope 0x14000 0x80 0) _ 0 _ _ (wf (b := wide96 (fn (sink (ab .i8)) 2) 0) (s := rope 0x14000 0x80 0) (by decide +kernel)) (clear (by decide +kernel)) trivial (by decide +kernel) (.inr ⟨noRange (by decide +kernel), _, met (by decide +kernel), rfl, rfl⟩)).2.1 (by decide +kernel) (by decide +kernel)⟩,
   ⟨_, ((h.2.1 _).2.2.2.1 (inMode .s (rope 0x14000 0x80 0)) _ 0 _ _ (wf (b := wide96 (fn (sink (ab .i8)) 3) 0) (s := inMode .s (rope 0x14000 0x80 0)) (by decide +kernel)) (clear (by decide +kernel)) (by decide +kernel) (by decide +kernel) (.inr ⟨noRange (by decide +kernel), _, met (by decide +kernel), rfl, rfl⟩)).2.1 (by decide +kernel) (by decide +kernel)⟩,
   ⟨_, ((h.2.1 _).2.2.1 (rope 0x14000 0 0) _ 0 _ _ (wf (b := wide96 (fn (sink (ab .i8)) 2) 0) (s := rope 0x14000 0 0) (by decide +kernel)) (clear (by decide +kernel)) trivial (by decide +kernel) (.inr ⟨noRange (by decide +kernel), _, met (by decide +kernel), rfl, rfl⟩)).1 (by decide +kernel)⟩,
   ⟨_, ((h.2.1 _).1 (rope 0x1FF80 0x100 0) _ 0 _ _ (wf (b := wide96 (fn (sink (ab .i8)) 0) 0) (s := rope 0x1FF80 0x100 0) (by decide +kernel)) (clear (by decide +kernel)) trivial (by decide +kernel) (.inr ⟨noRange (by decide +kernel), _, met (by decide +kernel), rfl, rfl⟩)).2.2.1 (by decide +kernel) (by decide +kernel)⟩,
   ⟨_, ((h.2.1 _).1 (rope 0x20000 0x100 0) _ 0 _ _ (wf (b := wide96 (fn (sink (ab .i8)) 0) 0) (s := rope 0x20000 0x100 0) (by decide +kernel)) (clear (by decide +kernel)) trivial (by decide +kernel) (.inr ⟨noRange (by decide +kernel), _, met (by decide +kernel), rfl, rfl⟩)).2.2.2 (by decide +kernel) (by decide +kernel)⟩,
   ⟨_, ((h.2.1 _).1 (lanes (rope 0x14000 0x80 0) fun x => { x with wait := some (.range 0x14000 0x40) }) _ 0 0x40 0x14000 (wf (b := wide96 (fn (sink (ab .i8)) 0) 0) (s := lanes (rope 0x14000 0x80 0) fun x => { x with wait := some (.range 0x14000 0x40) }) (by decide +kernel)) (clear (by decide +kernel)) trivial (by decide +kernel) (.inl ⟨(by decide +kernel), rfl⟩)).2.1 (by decide +kernel) (by decide +kernel)⟩,
   traps (h.2.1 _).2.2.2.2 (by decide +kernel) (by decide +kernel)⟩

/-- FENCE, PHASE, the four barrier instructions and CWAIT. -/
theorem witness_PhasesAndBarriersComplete (h : Obligations.PhasesAndBarriersComplete) :
    Next (.fence ({ bare with a := lit 1 })) (rope 7 3 2) ∧
    Next (.phase (bare)) (rope 7 3 2) ∧
    Next (.binit ({ sink (ab .i8) with a := lit 5 })) (rope 0 4095 0) ∧
    Next (.bexp ({ sink (ab .i8) with a := lit 1 })) (rope 0 64 0) ∧
    Next (.bara ({ bare with a := lit 1 })) (rope 7 3 2) ∧
    Next (.bara ({ bare with a := lit 1 })) (wholeRope (rope 0 0 0)) ∧
    Next (.bwait ({ sink (ab .i8) with a := lit 1 })) (rope 0 65535 0) ∧
    Next (.bwait ({ sink (ab .i8) with a := lit 1 })) (rope 0 0 0) :=
  ⟨gives (h.1 _).1 (by decide +kernel) trivial,
   phased ((h.1 bare).2 (rope 7 3 2) false (wf (b := bare) (s := rope 7 3 2) (by decide +kernel)) (clear (by decide +kernel)) (rope_det _ _ _)),
   ⟨_, (h.2.2.1 _).1 _ _ _ 0 _ (wf (b := { sink (ab .i8) with a := lit 5 }) (s := rope 0 4095 0) (by decide +kernel)) (clear (by decide +kernel)) (by decide +kernel) (met (by decide +kernel)) (by decide +kernel) rfl⟩,
   ⟨_, (h.2.2.1 _).2.1 _ _ _ 0 _ (wf (b := { sink (ab .i8) with a := lit 1 }) (s := rope 0 64 0) (by decide +kernel)) (clear (by decide +kernel)) (by decide +kernel) (met (by decide +kernel)) (by decide +kernel) rfl⟩,
   ⟨_, ((h.2.2.1 _).2.2.1 _ (wf (b := { bare with a := lit 1 }) (s := rope 7 3 2) (by decide +kernel)) (clear (by decide +kernel)) (by decide +kernel) (by decide +kernel)).1 (by decide +kernel)⟩,
   ⟨_, ((h.2.2.1 _).2.2.1 _ (wf (b := { bare with a := lit 1 }) (s := rope 7 3 2) (by decide +kernel)) (clear (by decide +kernel)) (by decide +kernel) (by decide +kernel)).2 _ (by decide +kernel) (by decide +kernel) rfl⟩,
   ⟨_, ((h.2.2.1 _).2.2.2 _ _ 0 _ (wf (b := { sink (ab .i8) with a := lit 1 }) (s := rope 0 65535 0) (by decide +kernel)) (clear (by decide +kernel)) (by decide +kernel) (met (by decide +kernel)) (by decide +kernel) (by decide +kernel)).1 (by decide +kernel) (by decide +kernel)⟩,
   ⟨_, ((h.2.2.1 _).2.2.2 _ _ 0 _ (wf (b := { sink (ab .i8) with a := lit 1 }) (s := rope 0 65535 0) (by decide +kernel)) (clear (by decide +kernel)) (by decide +kernel) (met (by decide +kernel)) (by decide +kernel) (by decide +kernel)).2 (by decide +kernel)⟩⟩

/-- Locks, waits and wakes. -/
theorem witness_LocksAndWaitsComplete (h : Obligations.LocksAndWaitsComplete) :
    Next (.qlock (sink (ab .n64))) (rope 0x14000 0 0) ∧
    Next (.qunlk (sink (ab .n64))) (issuedBy (holding (rope 0x14000 0 0) [(0x14000, 8, (ownerWords (rope 0 0 0) 0 0).1.toNat), (0x14008, 8, (ownerWords (rope 0 0 0) 0 0).2.toNat)]) 0 1) ∧
    Next (.wwait (abc .n32)) (rope 0x14000 0 5) ∧
    Next (.wwake (sink (abc .n32))) (rope 0x14000 0 0) :=
  ⟨completes (h.1 _).1 (by decide +kernel) trivial (by decide +kernel),
   completes (h.1 _).2 (by decide +kernel) trivial (by decide +kernel),
   ⟨_, (h.2 _).1 _ _ _ (wf (b := abc .n32) (s := rope 0x14000 0 5) (by decide +kernel)) (clear (by decide +kernel)) (met (by decide +kernel))⟩,
   completes (h.2 _).2 (by decide +kernel) trivial (by decide +kernel)⟩

/-- Stream queues and the decision queue. -/
theorem witness_QueuesComplete (h : Obligations.QueuesComplete) :
    Next (.spop ({ bare with dst := 8, a := lit 1 })) (core (rope 0 0 0) fun x => { x with queues := x.queues.set 1 ⟨[[3, 4]]⟩ }) ∧
    Next (.spop ({ bare with dst := 8, a := lit 1 })) (rope 0 0 0) ∧
    Next (.spsh ({ bare with a := lit 1, b := ⟨.vec, 4⟩ })) (issuedBy (rope 0 0 0) 64 3) ∧
    Next (.sqry ({ bare with dst := 8, a := lit 1 })) (core (rope 0 0 0) fun x => { x with queues := x.queues.set 1 ⟨[[3, 4]]⟩ }) ∧
    Next (.prdl (wide96 { sink (ab .i8) with a := lit 0 } 0)) (core (rope 0 0x40 0) fun x => { x with producer := none }) ∧
    Next (.dqpsh (sink (a1 .i8))) (lead (rope 9 0 0)) ∧
    Next (.dqpop ({ bare with dst := 8 })) (rope 7 3 2) ∧
    Next (.dqpop ({ bare with dst := 8 })) (agent (rope 0 0 0) fun x => { x with dqPos := 2 }) :=
  ⟨gives ((h.1 _).1 [3, 4] []) (by decide +kernel) ⟨(by decide +kernel), (by unfold LeadOrVector; decide +kernel), (by decide +kernel), (by decide +kernel)⟩,
   gives (h.1 _).2.1 (by decide +kernel) ⟨(by decide +kernel), (by unfold LeadOrVector; decide +kernel), (by decide +kernel), (by decide +kernel)⟩,
   gives (h.1 _).2.2.1 (by decide +kernel) (by decide +kernel),
   gives (h.1 _).2.2.2.1 (by decide +kernel) (by decide +kernel),
   once (h.1 _).2.2.2.2 (by decide +kernel) 0 (by decide +kernel) (by decide +kernel),
   givesFrom (h.2 _).1 (by decide +kernel) (by decide +kernel) (by decide +kernel),
   gives ((h.2 _).2.1 5) (by decide +kernel) (by decide +kernel),
   gives (h.2 _).2.2 (by decide +kernel) (by decide +kernel)⟩

/-- Sequences. -/
theorem witness_SequencesComplete (h : Obligations.SequencesComplete) :
    Next (.sqnew (wide128 (sink { ab .i8 with c := ⟨.vec, 0⟩ }) 0)) (spad (rope 0x14000 0x40 0) [(0x48, 4, 3 + 2 * 16 + 4 * 512), (0x50, 8, 0x14100), (0x58, 8, 0x10080)]) ∧
    Next (.sqrsv (ab .n32)) (holding (rope 0x10000 1 0) (sequence 2 3 0)) ∧
    Next (.sqstPlain (wide128 (sink (abc .i8)) 2)) (holding (rope 0x10000 2 0x40) (sequence 2 3 0)) ∧
    Next (.sqstRotary (wide128 (fn (sink (abc .i8)) 1) 2)) (holding (rope 0x10000 2 0x40) (sequence 2 3 0 ++ [(0x10008, 4, 3 + 2 * 16 + 4 * 512 + 2 ^ 15 + 4 * 2 ^ 20), (0x10020, 8, 0x14200)])) ∧
    Next (.sqcmt (abc .n32)) (issuedBy (holding (rope 0x10000 2 1) (sequence 2 3 0)) 0 1) ∧
    Next (.sqlen (a1 .n32)) (holding (rope 0x10000 0 0) (sequence 2 3 0)) ∧
    Next (.sqfrk (toScl (abc .n32))) (holding (rope 0x10000 0x14000 1) (sequence 2 3 0 ++ [(0x14008, 4, 3 + 2 * 16 + 4 * 512), (0x14010, 8, 0x14100), (0x14018, 8, 0x10080)])) ∧
    Next (.sqfre (toScl (a1 .n32))) (holding (rope 0x10000 0 0) (sequence 2 3 0)) ∧
    Next (.sqabn (abc .n32)) (issuedBy (holding (rope 0x10000 2 1) (sequence 2 3 0)) 0 1) ∧
    Next (.sqld (wide96 (ab .n32) 0)) (holding (rope 0x10000 1 0) (sequence 2 3 0)) :=
  ⟨completesHeld (h.1 _).1 (by decide +kernel) 0 (by decide +kernel) (by decide +kernel),
   completes (h.1 _).2.1 (by decide +kernel) trivial (by decide +kernel),
   completes (h.1 _).2.2.1 (by decide +kernel) trivial (by decide +kernel),
   completes (h.1 _).2.2.2.1 (by decide +kernel) trivial (by decide +kernel),
   completes (h.1 _).2.2.2.2.1 (by decide +kernel) trivial (by decide +kernel),
   completes (h.1 _).2.2.2.2.2.2.1 (by decide +kernel) trivial (by decide +kernel),
   completesHeld (h.1 _).2.2.2.2.2.1 (by decide +kernel) 0 (by decide +kernel) (by decide +kernel),
   completesHeld (h.1 _).2.2.2.2.2.2.2.1 (by decide +kernel) 0 (by decide +kernel) (by decide +kernel),
   ⟨_, (h.1 _).2.2.2.2.2.2.2.2 _ _ _ (wf (b := abc .n32) (s := issuedBy (holding (rope 0x10000 2 1) (sequence 2 3 0)) 0 1) (by decide +kernel)) (clear (by decide +kernel)) (met (by decide +kernel))⟩,
   completes (h.2.1 _) (by decide +kernel) trivial (by decide +kernel)⟩

/-- Binding, long integers, and what needs a bound rope. -/
theorem witness_LongIntegersComplete (h : Obligations.LongIntegersComplete) :
    Next (.lbndOn ({ bare with a := lit 16 })) (wholeRope (rope 0 0 0)) ∧
    Next (.lbndOn ({ bare with a := lit 16 })) (rope 0 0 0) ∧
    Next (.lbndOff (fn bare 1)) (bound (rope 0 0 0) 16) ∧
    Next (.lbndOff (fn bare 1)) (rope 0 0 0) ∧
    Next (.lbndClr (fn bare 2)) (bound (rope 0 0 0) 16) ∧
    Next (.lbndClr (fn bare 2)) (rope 0 0 0) ∧
    Next (.lariAdd (fn ({ cl (ab .n32) 1 with a := ⟨.vec, 2⟩ }) 0)) (bound (rope 0 3 0) 16) ∧
    Next (.lariSub (fn ({ cl (ab .n32) 1 with a := ⟨.vec, 2⟩ }) 1)) (bound (rope 0 3 0) 16) ∧
    Next (.lariNeg (fn ({ cl (a1 .n32) 1 with a := ⟨.vec, 2⟩ }) 2)) (bound (rope 0 3 0) 16) ∧
    Next (.lariAddt (fn ({ cl (ab .n32) 1 with a := ⟨.vec, 2⟩ }) 4)) (bound (rope 0 3 0) 16) ∧
    Next (.lariCmp (fn (sink { cl (ab .n32) 1 with a := ⟨.vec, 2⟩ }) 3)) (bound (rope 0 3 0) 16) ∧
    Next (.lshf ({ cl (ab .n32) 1 with a := ⟨.vec, 2⟩ })) (bound (rope 0 3 0) 16) ∧
    Next (.lmul ({ ab .n32 with a := ⟨.vec, 2⟩, c := ⟨.vec, 6⟩ })) (bound (rope 0 3 0) 16) ∧
    Next (.lariLacc (fn { a1 .f32 with a := ⟨.vec, 2⟩ } 5)) (bound (rope 0 3 0) 16) ∧
    Next (.lariLnrm (fn { a1 .f32 with a := ⟨.vec, 2⟩ } 6)) (bound (rope 0 3 0) 16) ∧
    Next (.lariAdd (fn ({ cl (ab .n32) 1 with a := ⟨.vec, 2⟩ }) 0)) (rope 0 3 0) :=
  ⟨gives (h.1 _).1.1 (by decide +kernel) (by decide +kernel),
   gives (h.1 _).1.2 (by decide +kernel) (by decide +kernel),
   gives (h.1 _).2.1.1 (by decide +kernel) (by decide +kernel),
   gives (h.1 _).2.1.2 (by decide +kernel) (by decide +kernel),
   gives (h.1 _).2.2.1 (by decide +kernel) (by decide +kernel),
   gives (h.1 _).2.2.2 (by decide +kernel) (by decide +kernel),
   groups (h.2.1 _).1 (by decide +kernel) 16 (by decide +kernel) (by decide +kernel),
   groups (h.2.1 _).2.1 (by decide +kernel) 16 (by decide +kernel) (by decide +kernel),
   groups (h.2.1 _).2.2.1 (by decide +kernel) 16 (by decide +kernel) (by decide +kernel),
   groups (h.2.1 _).2.2.2.1 (by decide +kernel) 16 (by decide +kernel) (by decide +kernel),
   groups (h.2.1 _).2.2.2.2.1 (by decide +kernel) 16 (by decide +kernel) (by decide +kernel),
   groups (h.2.1 _).2.2.2.2.2.1 (by decide +kernel) 16 (by decide +kernel) (by decide +kernel),
   groups (h.2.1 _).2.2.2.2.2.2 (by decide +kernel) 16 (by decide +kernel) (by decide +kernel),
   groups (h.2.2.2 _).1 (by decide +kernel) 16 (by decide +kernel) (by decide +kernel),
   groups (h.2.2.2 _).2 (by decide +kernel) 16 (by decide +kernel) (by decide +kernel),
   gives (h.2.2.1 _ _ (by simp; tauto)) (by decide +kernel) (by decide +kernel)⟩

/-- LAUNCH and TRACE. -/
theorem witness_LaunchAndTraceComplete (h : Obligations.LaunchAndTraceComplete) :
    Next (.launch (wide128 (toScl (ab .i8)) 0)) (spad (holding (rope 0x10000 0x40 0) (sequence 2 3 0)) []) ∧
    Next (.trace (sink (ab .i8))) ({ rope 3 0 0 with parts := [(0, { Partition.reset with trctl := 1 })] }) :=
  ⟨completesHeld (h.1 _) (by decide +kernel) 0 (by decide +kernel) (by decide +kernel),
   once (h.2.1 _) (by decide +kernel) 0 (by decide +kernel) (by decide +kernel)⟩

/-- SYSC, HVC, ERET, RDPR and WRPR. -/
theorem witness_SystemInstructionsComplete (h : Obligations.SystemInstructionsComplete) :
    Next (.sysc (sink (a1 .i8))) (rope 7 3 2) ∧
    Next (.hvc (sink (a1 .i8))) (inMode .s (rope 7 0 0)) ∧
    Next (.hvc (sink (a1 .i8))) (rope 7 0 0) ∧
    Next (.eret (bare)) (inMode .s (rope 0 0 0)) ∧
    Next (.rdpr (a1 .n64)) (inMode .s (rope 4 0 0)) ∧
    Next (.wrpr (sink (ab .n64))) (inMode .h (rope 5 1 0)) :=
  ⟨givesFrom (h.1 _).1 (by decide +kernel) (by decide +kernel) trivial,
   givesFrom (h.1 _).2.1 (by decide +kernel) (by decide +kernel) (by decide +kernel),
   traps (h.1 _).2.2.1 (by decide +kernel) (by decide +kernel),
   gives (h.1 _).2.2.2 (by decide +kernel) (by decide +kernel),
   completes (h.2.1 _).1 (by decide +kernel) trivial (by decide +kernel),
   ⟨_, (h.2.1 _).2 _ _ _ 0 _ _ (wf (b := sink (ab .n64)) (s := inMode .h (rope 5 1 0)) (by decide +kernel)) (clear (by decide +kernel)) (by decide +kernel) (met (by decide +kernel)) (met (by decide +kernel))⟩⟩

/-- APND and AFNC. -/
theorem witness_DurableStreamsComplete (h : Obligations.DurableStreamsComplete) :
    Next (.apnd (wide128 (toScl (abc .i8)) 0)) ({ holding (rope 0x10000 0x14000 16) (sequence 2 3 1) with logs := [⟨0, 0x10000, 0x40000, 0x10000, 0x14800, false, 3⟩] }) ∧
    Next (.afnc (sink (a1 .i8))) ({ holding (rope 0x10000 0 0) (sequence 2 3 1) with logs := [⟨0, 0x10000, 0x40000, 0x10000, 0x14800, false, 3⟩] }) :=
  ⟨completesHeld (h.1 _).1 (by decide +kernel) 0 (by decide +kernel) (by decide +kernel),
   ⟨_, ((h.1 (sink (a1 .i8))).2.1 ({ holding (rope 0x10000 0 0) (sequence 2 3 1) with logs := [⟨0, 0x10000, 0x40000, 0x10000, 0x14800, false, 3⟩] }) _ 0 _ _ (wf (b := sink (a1 .i8)) (s := { holding (rope 0x10000 0 0) (sequence 2 3 1) with logs := [⟨0, 0x10000, 0x40000, 0x10000, 0x14800, false, 3⟩] }) (by decide +kernel)) (clear (by decide +kernel)) (by decide +kernel) (by decide +kernel) (met (by decide +kernel)) _ rfl).1 (by decide +kernel)⟩⟩

/-- Claims, releases, matrix operations and attention. -/
theorem witness_MatrixComplete (h : Obligations.MatrixComplete) :
    Next (.aclm (toScl (a1 .f32))) (rope 3 0 0) ∧
    Next (.oclm (wide128 (toScl (cl (ab .f16) 0)) 0)) (rope 5 0 0) ∧
    Next (.orel (sink (a1 .i8))) (parties (rope 2 0 0) fun x => { x with slots := [(2, ⟨.f16, 0, 0, 0, []⟩), (3, ⟨.f16, 1, 0, 0, []⟩)], tiles := [(1, ⟨.f32, []⟩)] }) ∧
    Next (.arel (fn (sink (a1 .i8)) 1)) (parties (rope 1 0 0) fun x => { x with slots := [(2, ⟨.f16, 0, 0, 0, []⟩), (3, ⟨.f16, 1, 0, 0, []⟩)], tiles := [(1, ⟨.f32, []⟩)] }) ∧
    Next (.old (wide128 (sink (abc .i8)) 0x100000)) (parties (rope 2 0x40 0) fun x => { x with slots := [(2, ⟨.f16, 0, 0, 0, []⟩), (3, ⟨.f16, 1, 0, 0, []⟩)], tiles := [(1, ⟨.f32, []⟩)] }) ∧
    Next (.mma (wide128 (sink (abc .i8)) 0)) (parties (rope 2 3 1) fun x => { x with slots := [(2, ⟨.f16, 0, 0, 0, []⟩), (3, ⟨.f16, 1, 0, 0, []⟩)], tiles := [(1, ⟨.f32, []⟩)] }) ∧
    Next (.attnf (wide128 (fn (sink { bare with c := ⟨.scl, 20⟩ }) 1) 0)) (parties (rope 0 0 1) fun x => { x with slots := [(2, ⟨.f16, 0, 0, 0, []⟩), (3, ⟨.f16, 1, 0, 0, []⟩)], tiles := [(1, ⟨.f32, []⟩)] }) ∧
    Next (.acrd (wide128 (ab .f32) 0)) (parties (rope 1 0 0) fun x => { x with slots := [(2, ⟨.f16, 0, 0, 0, []⟩), (3, ⟨.f16, 1, 0, 0, []⟩)], tiles := [(1, ⟨.f32, []⟩)] }) ∧
    Next (.acwr (wide128 (sink { ab .f32 with c := ⟨.vec, 6⟩ }) 0)) (parties (rope 1 0 0) fun x => { x with slots := [(2, ⟨.f16, 0, 0, 0, []⟩), (3, ⟨.f16, 1, 0, 0, []⟩)], tiles := [(1, ⟨.f32, []⟩)] }) ∧
    Next (.attn (wide128 (sink (abc .i8)) 0)) (spad (holding (parties (rope 0x10000 0x40 1) fun x => { x with slots := [(2, ⟨.f16, 0, 0, 0, []⟩)], tiles := [(1, ⟨.f32, []⟩)] }) (sequence 2 3 0 ++ [(0x10008, 4, 5 + 2 * 16 + 4 * 512)])) [(0x44, 4, 2), (0x54, 4, 2 + 9 * 4096 + 9 * 65536)]) :=
  ⟨completesHeld (h.1 _).1 (by decide +kernel) 0 (by decide +kernel) (by decide +kernel),
   completesHeld (h.1 _).2 (by decide +kernel) 0 (by decide +kernel) (by decide +kernel),
   completesHeld (h.2.1.1 _).1 (by decide +kernel) 0 (by decide +kernel) (by decide +kernel),
   completesHeld (h.2.1.1 _).2 (by decide +kernel) 0 (by decide +kernel) (by decide +kernel),
   countsOnce (h.2.2.1 _).1 (by decide +kernel) 0 (by decide +kernel) (by decide +kernel),
   countsOnce (h.2.2.1 _).2.1 (by decide +kernel) 0 (by decide +kernel) (by decide +kernel),
   countsOnce (h.2.2.1 _).2.2.1 (by decide +kernel) 0 (by decide +kernel) (by decide +kernel),
   countsOnce (h.2.2.1 _).2.2.2.1 (by decide +kernel) 0 (by decide +kernel) (by decide +kernel),
   countsOnce (h.2.2.1 _).2.2.2.2 (by decide +kernel) 0 (by decide +kernel) (by decide +kernel),
   ⟨_, h.2.2.2.1 _ (spad (holding (parties (rope 0x10000 0x40 1) fun x => { x with slots := [(2, ⟨.f16, 0, 0, 0, []⟩)], tiles := [(1, ⟨.f32, []⟩)] }) (sequence 2 3 0 ++ [(0x10008, 4, 5 + 2 * 16 + 4 * 512)])) [(0x44, 4, 2), (0x54, 4, 2 + 9 * 4096 + 9 * 65536)]) _ 0 _ _ _ _ (wf (b := wide128 (sink (abc .i8)) 0) (s := (spad (holding (parties (rope 0x10000 0x40 1) fun x => { x with slots := [(2, ⟨.f16, 0, 0, 0, []⟩)], tiles := [(1, ⟨.f32, []⟩)] }) (sequence 2 3 0 ++ [(0x10008, 4, 5 + 2 * 16 + 4 * 512)])) [(0x44, 4, 2), (0x54, 4, 2 + 9 * 4096 + 9 * 65536)])) (by decide +kernel)) (clear (by decide +kernel)) (by decide +kernel) (by decide +kernel) (met (by decide +kernel))⟩⟩

/-- Block copies and collectives. -/
theorem witness_FabricCompletes (h : Obligations.FabricCompletes) :
    Next (.rblkSeq (wide128 (sink (abc .i8)) 0)) (holding (rope 0x10000 0 0x15000) (sequence 2 3 0)) ∧
    Next (.rblkGet (wide128 (fn (sink (abc .i8)) 1) 0)) (rope 0x14000 0x15000 64) ∧
    Next (.rblkPut (wide128 (fn (sink (abc .i8)) 2) 0)) (rope 0x14000 0x15000 64) ∧
    Next (.coll (wide128 (sink (a1 .i8)) 0)) (holding (spad (rope 0x40 0 0) [(0x40, 8, 0x14000), (0x48, 8, 0x14000), (0x50, 4, 1), (0x54, 4, 2 + 2 * 256), (0x58, 8, 0x14100)]) [(0x14100, 4, 1)]) :=
  ⟨countsOnce (h.1 _).1 (by decide +kernel) 0 (by decide +kernel) (by decide +kernel),
   countsOnce (h.1 _).2.1 (by decide +kernel) 0 (by decide +kernel) (by decide +kernel),
   countsOnce (h.1 _).2.2.1 (by decide +kernel) 0 (by decide +kernel) (by decide +kernel),
   countsOnce (h.1 _).2.2.2 (by decide +kernel) 0 (by decide +kernel) (by decide +kernel)⟩

/-- CPY. -/
theorem witness_CopiesComplete (h : Obligations.CopiesComplete) : Next (.cpy (wide128 (sink (abc .i8)) 0)) (spad (rope 0x14000 0x14800 0x40) [(0x40, 2, 2), (0x7C, 4, 2)]) :=
  once (h.1 _) (by decide +kernel) 0 (by decide +kernel) (by decide +kernel)

/-- An address two bytes from an element. -/
theorem witness_MisalignedAccessesTrap (h : Obligations.MisalignedAccessesTrap) :
    Next (.ld (ab .n32)) (rope 0x14002 0 0x55) ∧
    Next (.ld (ab .n32)) (bound (rope 0x14002 0 0x55) 8) ∧
    Next (.ldf (ab .n32)) (rope 0x14002 0 0x55) ∧
    Next (.lds (ab .n32)) (rope 0x42 0 0x55) ∧
    Next (.ldc (ab .n32)) (rope 0x42 0 0x55) ∧
    Next (.ldl (ab .n32)) (rope 0x42 0 0x55) ∧
    Next (.st (sink (abc .n32))) (rope 0x14002 0 0x55) ∧
    Next (.sts (sink (abc .n32))) (rope 0x42 0 0x55) ∧
    Next (.stl (fn (sink (abc .n32)) 1)) (rope 0x42 0 0x55) ∧
    Next (.atom (abc .n32)) (rope 0x14002 0 0x55) ∧
    Next (.atomc (abc .n32)) (rope 0x14002 0 0x55) ∧
    Next (.atoms (abc .n32)) (rope 0x42 0 0x55) ∧
    Next (.wwait (abc .n32)) (rope 0x14002 0 0x55) ∧
    Next (.wwake (sink (abc .n32))) (rope 0x14002 0 0x55) ∧
    Next (.stf (sink (abc .n32))) (rope 0x14002 0 0x55) ∧
    Next (.stf (sink (abc .n32))) (bound (rope 0x14002 0 0x55) 8) ∧
    Next (.red (sink (abc .n32))) (rope 0x14002 0 0x55) ∧
    Next (.red (sink (abc .n32))) (bound (rope 0x14002 0 0x55) 8) :=
  ⟨⟨_, (h (ab .n32)).1 _ List.mem_cons_self (rope 0x14002 0 0x55) (fun _ => ⟨0x14002, 0, 0⟩) (wf (b := ab .n32) (s := rope 0x14002 0 0x55) (by decide +kernel)) (clear (by decide +kernel)) (misreads (ea := fun _ => globalAt (ab .n32)) (by decide +kernel))⟩,
   ⟨_, (h (ab .n32)).1 _ List.mem_cons_self (bound (rope 0x14002 0 0x55) 8) (fun _ => ⟨0x14002, 0, 0⟩) (wf (b := ab .n32) (s := bound (rope 0x14002 0 0x55) 8) (by decide +kernel)) (clear (by decide +kernel)) (misreads (ea := fun _ => globalAt (ab .n32)) (by decide +kernel))⟩,
   ⟨_, (h (ab .n32)).1 _ (List.mem_cons_of_mem _ List.mem_cons_self) (rope 0x14002 0 0x55) (fun _ => ⟨0x14002, 0, 0⟩) (wf (b := ab .n32) (s := rope 0x14002 0 0x55) (by decide +kernel)) (clear (by decide +kernel)) (misreads (ea := fun _ => globalAt (ab .n32)) (by decide +kernel))⟩,
   ⟨_, (h (ab .n32)).2.1 _ List.mem_cons_self (rope 0x42 0 0x55) (fun _ => ⟨0x42, 0, 0⟩) (wf (b := ab .n32) (s := rope 0x42 0 0x55) (by decide +kernel)) (clear (by decide +kernel)) (misreads (ea := fun _ x => (localAt (ab .n32) x).setWidth 64) (by decide +kernel))⟩,
   ⟨_, (h (ab .n32)).2.1 _ (List.mem_cons_of_mem _ List.mem_cons_self) (rope 0x42 0 0x55) (fun _ => ⟨0x42, 0, 0⟩) (wf (b := ab .n32) (s := rope 0x42 0 0x55) (by decide +kernel)) (clear (by decide +kernel)) (misreads (ea := fun _ x => (localAt (ab .n32) x).setWidth 64) (by decide +kernel))⟩,
   ⟨_, (h (ab .n32)).2.2.1 (rope 0x42 0 0x55) (fun _ => ⟨0x42, 0, 0⟩) (wf (b := ab .n32) (s := rope 0x42 0 0x55) (by decide +kernel)) (clear (by decide +kernel)) (misreads (ea := fun s x => (s.partyOf s.who).lsva + (localAt (ab .n32) x).setWidth 64) (by decide +kernel))⟩,
   ⟨_, (h (sink (abc .n32))).2.2.2.1 (rope 0x14002 0 0x55) (fun _ => ⟨0x14002, 0, 0x55⟩) (wf (b := sink (abc .n32)) (s := rope 0x14002 0 0x55) (by decide +kernel)) (clear (by decide +kernel)) (misreads (ea := fun _ => globalAt (sink (abc .n32))) (by decide +kernel))⟩,
   ⟨_, (h (sink (abc .n32))).2.2.2.2.1 (rope 0x42 0 0x55) (fun _ => ⟨0x42, 0, 0x55⟩) (wf (b := sink (abc .n32)) (s := rope 0x42 0 0x55) (by decide +kernel)) (clear (by decide +kernel)) (misreads (ea := fun _ x => (localAt (sink (abc .n32)) x).setWidth 64) (by decide +kernel))⟩,
   ⟨_, (h (fn (sink (abc .n32)) 1)).2.2.2.2.2.1 (rope 0x42 0 0x55) (fun _ => ⟨0x42, 0, 0x55⟩) (wf (b := fn (sink (abc .n32)) 1) (s := rope 0x42 0 0x55) (by decide +kernel)) (clear (by decide +kernel)) (misreads (ea := fun s x => (s.partyOf s.who).lsva + (localAt (fn (sink (abc .n32)) 1) x).setWidth 64) (by decide +kernel))⟩,
   ⟨_, (h (abc .n32)).2.2.2.2.2.2.1 (rope 0x14002 0 0x55) (fun _ => ⟨0x14002, 0, 0x55⟩) (wf (b := abc .n32) (s := rope 0x14002 0 0x55) (by decide +kernel)) (clear (by decide +kernel)) (misreads (ea := fun _ => globalAt (abc .n32)) (by decide +kernel))⟩,
   ⟨_, (h (abc .n32)).2.2.2.2.2.2.2.1 (rope 0x14002 0 0x55) (fun _ => ⟨0x14002, 0, 0x55⟩) (wf (b := abc .n32) (s := rope 0x14002 0 0x55) (by decide +kernel)) (clear (by decide +kernel)) (misreads (ea := fun _ x => x.a + BitVec.ofInt 64 (abc .n32).offset) (by decide +kernel))⟩,
   ⟨_, (h (abc .n32)).2.2.2.2.2.2.2.2.1 (rope 0x42 0 0x55) (fun _ => ⟨0x42, 0, 0x55⟩) (wf (b := abc .n32) (s := rope 0x42 0 0x55) (by decide +kernel)) (clear (by decide +kernel)) (misreads (ea := fun _ x => if (abc .n32).fn = 7 then ((x.a + BitVec.ofInt 64 (abc .n32).offset).setWidth 32 : Word).setWidth 64 else (localAt (abc .n32) x).setWidth 64) (by decide +kernel))⟩,
   ⟨_, (h (abc .n32)).2.2.2.2.2.2.2.2.2.1 (rope 0x14002 0 0x55) (fun _ => ⟨0x14002, 0, 0x55⟩) (wf (b := abc .n32) (s := rope 0x14002 0 0x55) (by decide +kernel)) (clear (by decide +kernel)) (misreads (ea := fun _ => globalAt (abc .n32)) (by decide +kernel))⟩,
   ⟨_, (h (sink (abc .n32))).2.2.2.2.2.2.2.2.2.2.1 (rope 0x14002 0 0x55) (fun _ => ⟨0x14002, 0, 0x55⟩) (wf (b := sink (abc .n32)) (s := rope 0x14002 0 0x55) (by decide +kernel)) (clear (by decide +kernel)) (misreads (ea := fun _ => globalAt (sink (abc .n32))) (by decide +kernel))⟩,
   ⟨_, (h (sink (abc .n32))).2.2.2.2.2.2.2.2.2.2.2.1 (rope 0x14002 0 0x55) (fun _ => ⟨0x14002, 0, 0x55⟩) (wf (b := sink (abc .n32)) (s := rope 0x14002 0 0x55) (by decide +kernel)) (clear (by decide +kernel)) (by decide +kernel) (by decide +kernel) (misreads (ea := fun _ => globalAt (sink (abc .n32))) (by decide +kernel))⟩,
   ⟨_, (h (sink (abc .n32))).2.2.2.2.2.2.2.2.2.2.2.1 (bound (rope 0x14002 0 0x55) 8) (fun _ => ⟨0x14002, 0, 0x55⟩) (wf (b := sink (abc .n32)) (s := bound (rope 0x14002 0 0x55) 8) (by decide +kernel)) (clear (by decide +kernel)) (by decide +kernel) (by decide +kernel) (misreads (ea := fun _ => globalAt (sink (abc .n32))) (by decide +kernel))⟩,
   ⟨_, (h (sink (abc .n32))).2.2.2.2.2.2.2.2.2.2.2.2.1 (rope 0x14002 0 0x55) (fun _ => ⟨0x14002, 0, 0x55⟩) (wf (b := sink (abc .n32)) (s := rope 0x14002 0 0x55) (by decide +kernel)) (clear (by decide +kernel)) (by decide +kernel) (by decide +kernel) (misreads (ea := fun _ => globalAt (sink (abc .n32))) (by decide +kernel))⟩,
   ⟨_, (h (sink (abc .n32))).2.2.2.2.2.2.2.2.2.2.2.2.1 (bound (rope 0x14002 0 0x55) 8) (fun _ => ⟨0x14002, 0, 0x55⟩) (wf (b := sink (abc .n32)) (s := bound (rope 0x14002 0 0x55) 8) (by decide +kernel)) (clear (by decide +kernel)) (by decide +kernel) (by decide +kernel) (misreads (ea := fun _ => globalAt (sink (abc .n32))) (by decide +kernel))⟩⟩

/-! ### Witnesses for the events -/

/-- A machine with a copy of four words in progress. -/
def copy : Copy := ⟨5, 0, 0, ⟨[4, 1, 1, 1, 1, 1], [4, 0, 0, 0, 0, 0], [4, 0, 0, 0, 0, 0], 4, 0, 0⟩, 0x14000, 0x14800, 31, 0, false, .u, []⟩
/-- The copy on core 0, counted for the rope. -/
def copying : State :=
  core (agent (rope 0 0 0) fun x => { x with ops := [⟨.cpy, 5, false, 0, 0, none⟩] }) fun x => { x with copies := [copy] }
/-- A far store counted and not yet performed. -/
def deferred : State :=
  agent (rope 0 0 0) fun x => { x with ops := [⟨.far, 5, false, 0, 0, none⟩], far := [⟨5, 0, 0x14000, 0x14000, none, [1, 2, 3, 4]⟩] }

/-- The copy engine and the other engines. -/
theorem witness_Engines (h : Obligations.CopiesComplete) :
    Next (.copyProgress 0 5) copying ∧ (∃ t, moveElement copy copying = .ok ((), t)) ∧ Next (.transferLands 5) deferred ∧
    Next (.transferLands 5) copying ∧ Next (.outstandingComplete 0 .far) deferred ∧ Next (.outstandingComplete 0 .cpy) copying :=
  ⟨performs (h.2.1.1 0 5 copy) (by decide +kernel) (by decide +kernel), ⟨_, h.2.1.2.1 copy _ _ _ _ (met (by decide +kernel)) (met (by decide +kernel))⟩,
   happens (h.2.1.2.2.1 5 0).1 (by decide +kernel), performs ((h.2.1.2.2.1 5 0).2 copy) (by decide +kernel) (by decide +kernel),
   happens (h.2.1.2.2.2 0 .far ⟨.far, 5, false, 0, 0, none⟩).1 (by decide +kernel), performs ((h.2.1.2.2.2 0 .cpy ⟨.cpy, 5, false, 0, 0, none⟩).2 copy) (by decide +kernel) (by decide +kernel)⟩

/-- A durable stream with flash behind it, and a record of one slot reserved in it. -/
def flash : TlbEntry := ⟨0, 0, 0x40000, 65536, 0x100000000000, 0x2FF, 0xFFF, 0, none, none, 0x1000000002FF, 0, none, 65536⟩
/-- What the storage processor keeps of the durable stream. -/
def flashLog (err : Bool) (slot : Nat) : FlashLog := ⟨0, 0x10000, 0x40000, 0x10000, 0x14800, err, slot⟩
/-- The stream with so many slots committed, reserved and durable, and record copies in the append engine. -/
def durable (cl rt slot : Nat) (e : List Append) : State :=
  let s := core (holding (rope 0 0 0) (sequence cl rt 1)) fun x => { x with appends := e }
  { s.setDie 0 { Die.reset with ltlb := ⟨[page, flash], []⟩ } with logs := [flashLog false slot] }
/-- A record of 16 bytes on its way into slot 2. -/
def recordCopy : Append := ⟨5, 0, 0, 0x10000, 2, 1, 16, 0, false, 0x14000, [], false, false, .u⟩
/-- A request that binds the stream. -/
def bindRequest : List Byte := leBytes 8 0x10000 ++ leBytes 8 0x40000 ++ leBytes 8 0x10000 ++ leBytes 8 0x14800 ++ List.replicate 32 0
/-- The storage processor is ready, and a bind request stands in its sequence. -/
def asking : State :=
  let s := durable 0 0 0 []
  let seq := [(0x15000, 4, 1), (0x15004, 4, 1), (0x15008, 4, 2 + 2 * 16 + 4 * 512), (0x15010, 8, 0x15100), (0x15018, 8, 0x10080),
    (0x15100, 8, 0x16000 / 128 * 65536 + 1)]
  { s with
    mem := (seq.foldl (fun m e => m.writeN e.1 (leBytes e.2.1 e.2.2)) s.mem).writeN 0x16000 bindRequest
    platform := { s.platform with cairns := [(12, ⟨true, none⟩)], storageSeq := 0x15000 } }
/-- A stream whose flash has failed. -/
def failed : State := { durable 2 3 0 [] with logs := [flashLog true 0] }

/-- The storage processor and the recordCopy engine. -/
theorem witness_Storage (h : Obligations.DurableStreamsComplete) :
    Next (.storageBindRequest 0 0) asking ∧ Next (.dslotAdvance 0 1) (durable 2 3 0 []) ∧ Next (.dslotAdvance 0 1) failed ∧
    Next (.flashProgramFail 0) (durable 2 3 0 []) ∧ Next (.blockDemotion 0 0) (durable 4 4 4 []) ∧
    Next (.appendTransfer 5) (durable 2 3 0 [recordCopy]) ∧ Next (.appendTransfer 6) (durable 2 3 0 [recordCopy]) :=
  ⟨⟨_, h.2.2.1 0 bindRequest _ asking _ _ (by decide +kernel) (answers (some bindRequest) (by decide +kernel)) (met (by decide +kernel))⟩, performs (h.2.2.2.1 0 1 (flashLog false 0)).1 (by decide +kernel) (by decide +kernel),
   happens (h.2.2.2.1 0 1 (flashLog true 0)).2.1 (by decide +kernel), performs (h.2.2.2.2.1 0 (flashLog false 0)) (by decide +kernel) (by decide +kernel), performs (h.2.2.2.2.2.1 0 0 (flashLog false 4)) (by decide +kernel) (by decide +kernel),
   ⟨_, h.2.2.2.2.2.2.1 5 recordCopy (durable 2 3 0 [recordCopy]) _ _ _ (List.replicate 16 0) (by decide +kernel) (by decide +kernel) (by decide +kernel)
     (answers (x := appendSource recordCopy (durable 2 3 0 [recordCopy])) (List.replicate 16 0, none) (by decide +kernel)) (by decide +kernel) (answers true (by decide +kernel)) (done (by decide +kernel))⟩,
   happens (h.2.2.2.2.2.2.2 6) (by decide +kernel)⟩

/-- The durable length goes up. -/
theorem witness_Length (h : Obligations.DurableStreamsComplete) :
    ∃ t g, exec (.dslotAdvance 0 1) (durable 2 3 0 []) = .next t ∧ t.logs[0]? = some g ∧ 0 ≤ g.dslot := by
  obtain ⟨t, e⟩ : Next (.dslotAdvance 0 1) (durable 2 3 0 []) := performs (h.2.2.2.1 0 1 (flashLog false 0)).1 (by decide +kernel) (by decide +kernel)
  obtain ⟨g, k⟩ := (h.2.2.2.1 0 1 (flashLog false 0)).2.2 (durable 2 3 0 []) t (by decide +kernel) e
  exact ⟨t, g, e, k⟩

/-- A camp with one operation of the party, which holds slots 2 and 3 and tile 1. -/
def campOp (kind : CampKind) (phase : CampPhase) : CampOp := ⟨5, 0, 7, 0, .u, 0, kind, phase⟩
/-- The camp, with one operation. -/
def camp (o : CampOp) : State :=
  let s := parties (rope 0 0 0) fun x => { x with slots := [(2, ⟨.f16, 0, 0, 0, []⟩), (3, ⟨.f16, 1, 0, 0, []⟩)], tiles := [(1, ⟨.f32, []⟩)] }
  s.setCamp 0 { Camp.reset with ops := [o] }
/-- The pass of an MMA. -/
def tilePass : CampOp := campOp (.mma 7 2 7 3 1 false 0) (.writing 0 [(0, 1)])
/-- A key block of an ATTN. -/
def keyBlock : CampOp := campOp (.attn 0x10000 (List.replicate 32 0) 1 0 5 none) (.granted 0)

/-- The camp's events. -/
theorem witness_Camp (h : Obligations.MatrixComplete) :
    Next (.releaseComplete 0 5) (camp (campOp (.orel 2) (.arrived 0 0))) ∧ Next (.releaseComplete 0 5) (camp (campOp (.arel 1) (.arrived 0 0))) ∧
    Next (.reservationAge 0 5) (camp (campOp (.mma 7 2 7 3 1 false 0) (.tabled 4 0 1))) ∧ Next (.passRetire 0 5) (camp tilePass) ∧
    Next (.attnBlockDone 0 5) (camp keyBlock) :=
  ⟨happens (h.2.1.2 0 5 (campOp (.orel 2) (.arrived 0 0))) (by decide +kernel), happens (h.2.1.2 0 5 (campOp (.arel 1) (.arrived 0 0))) (by decide +kernel),
   happens (h.2.2.2.2.2.2.2 0 5 tilePass).1 trivial, performs ((h.2.2.2.2.2.2.2 0 5 tilePass).2.1 7 2 7 3 1 false 0 [(0, 1)]) (by decide +kernel) (by decide +kernel),
   performs ((h.2.2.2.2.2.2.2 0 5 keyBlock).2.2 0x10000 (List.replicate 32 0) 1 0 5 none) (by decide +kernel) (by decide +kernel)⟩

/-- A message that has arrived, in a partition whose job is 9, with one operation on the core. -/
def msg (kind : Nat) (addr : DWord) (rank : Nat) (payload : List Byte) : Msg := ⟨kind, 9, 1, 5, addr, if kind = 6 then 0 else 16, 0, rank, payload, none⟩
/-- A machine to which a message came, with operations of its core. -/
def fabric (m : Msg) (es : List ColOp) : State :=
  let s := core (agent (rope 0 0 0) fun x => { x with ops := [⟨.col, 5, false, 0, 0, none⟩] }) fun x => { x with cols := es }
  { s with parts := [(0, { Partition.reset with fabcfg := 9 + 2 ^ 24 })], msgs := [(3, m)], platform := { s.platform with cairns := [(13, ⟨true, none⟩)] } }
/-- A block copy. -/
def blockOp : ColOp := ⟨5, 0, 0, 1, true, 1, 0x14000, 0x14800, 16, 31, [], [], [], 0, [1], [], false, .u⟩
/-- The record of a collective, its group and its ranks. -/
def collRecord : List Byte :=
  leBytes 8 0x14000 ++ leBytes 8 0x14800 ++ leBytes 4 1 ++ [2, 2, 0, 0] ++ leBytes 8 0x14100 ++ leBytes 4 5 ++ List.replicate 28 0
/-- A group of two ranks. -/
def rankList : List Byte := leBytes 4 2 ++ List.replicate 12 0 ++ leBytes 2 0 ++ leBytes 2 1
/-- A collective that has met some ranks. -/
def coll (met : List Nat) : ColOp := ⟨5, 0, 0, 3, true, 0, 0x14000, 0x14800, 4, 31, collRecord, rankList, [], 0, met, [], false, .u⟩
/-- What ranks compare when they meet. -/
def agreed : List Byte := groupKey rankList ++ (collRecord.drop 16).take 8
/-- A message about a collective. -/
def controlMsg (kind : Nat) : Msg := { msg kind 0 0 agreed with addr := 1 }

/-- A saved party. -/
def savedParty : Saved :=
  { party := { party with task := ⟨0, 1, 0, 0⟩, halted := true }, agents := [(0, member 0 32 0 0 0), (65, member 17 1 0 0 0)], team := none
    producer := none, copies := [], gathers := [], appends := [], cols := [], ops := [], frame := some (0, 0) }
/-- A saved party with a collective in progress. -/
def collSaved : Saved := { savedParty with cols := [coll []] }

/-- Messages of the fabric. -/
theorem witness_Messages (h : Obligations.FabricCompletes) :
    Next (.roiloRead 3) (fabric (msg 0 0x14000 0 []) []) ∧ Next (.roiloWrite 3) (fabric (msg 2 0x14000 0 [1, 2, 3, 4]) []) ∧
    Next (.roiloReadData 3) (fabric (msg 1 0 0 (List.replicate 16 7)) [blockOp]) ∧ Next (.roiloReadData 3) (fabric (msg 1 0 0 [7]) []) ∧
    Next (.roiloWriteAck 3) (fabric (msg 3 0 0 []) [{ blockOp with kind := 2 }]) ∧ Next (.roiloWriteAck 3) (fabric (controlMsg 3) [coll []]) ∧
    Next (.roiloRdv 3) (fabric (msg 4 0 1 agreed) [coll []]) ∧ Next (.roiloCdata 3) (fabric (msg 5 0 1 agreed) [coll [1]]) ∧
    Next (.roiloRdv 3) { fabric (msg 4 0 1 agreed) [] with parts := [] } ∧ Next (.roiloCdata 3) { fabric (msg 5 0 1 agreed) [] with parts := [] } ∧
    Next (.roiloNak 3) (fabric (msg 6 0 1 []) [blockOp]) ∧ Next (.roiloNak 3) (fabric (controlMsg 6) [coll []]) ∧
    Next (.roiloNak 3) { fabric (controlMsg 6) [] with saved := [collSaved] } ∧ Next (.roiloWriteAck 3) { fabric (controlMsg 3) [] with saved := [collSaved] } ∧
    Next (.roiloRead 3) { fabric (msg 0 0x14000 0 []) [] with platform := State.reset.platform } ∧
    Next (.transportTimeout 5) (fabric (msg 6 0 1 []) [blockOp]) ∧ Next (.transportTimeout 5) (fabric (msg 6 0 1 []) [coll []]) ∧
    Next (.transportTimeout 5) { fabric (msg 6 0 1 []) [] with remotes := [⟨5, 0, 1, 0x14000, 4, none⟩] } :=
  ⟨performs (h.2 3 (msg 0 0x14000 0 []) blockOp).1 (by decide +kernel) (by decide +kernel), performs (h.2 3 (msg 2 0x14000 0 [1, 2, 3, 4]) blockOp).2.1 (by decide +kernel) (by decide +kernel),
   performs (h.2 3 (msg 1 0 0 (List.replicate 16 7)) blockOp).2.2.2.1 (by decide +kernel) (by decide +kernel), performs (h.2 3 (msg 1 0 0 [7]) blockOp).2.2.2.2.1 (by decide +kernel) (by decide +kernel),
   performs (h.2 3 (msg 3 0 0 []) { blockOp with kind := 2 }).2.2.2.2.2.1 (by decide +kernel) (by decide +kernel), performs (h.2 3 (controlMsg 3) (coll [])).2.2.2.2.2.2.1 (by decide +kernel) (by decide +kernel),
   performs (h.2 3 (msg 4 0 1 agreed) (coll [])).2.2.2.2.2.2.2.1 (by decide +kernel) (by decide +kernel), performs (h.2 3 (msg 5 0 1 agreed) (coll [1])).2.2.2.2.2.2.2.2.1 (by decide +kernel) (by decide +kernel),
   performs ((h.2 3 (msg 4 0 1 agreed) blockOp).2.2.2.2.2.2.2.2.2.1 4 List.mem_cons_self) (by decide +kernel) (by decide +kernel),
   performs ((h.2 3 (msg 5 0 1 agreed) blockOp).2.2.2.2.2.2.2.2.2.1 5 (List.mem_cons_of_mem _ List.mem_cons_self)) (by decide +kernel) (by decide +kernel),
   performs (h.2 3 (msg 6 0 1 []) blockOp).2.2.2.2.2.2.2.2.2.2.1 (by decide +kernel) (by decide +kernel), performs (h.2 3 (controlMsg 6) (coll [])).2.2.2.2.2.2.2.2.2.2.1 (by decide +kernel) (by decide +kernel),
   happens ((h.2 3 (controlMsg 6) blockOp).2.2.2.2.2.2.2.2.2.2.2.1 (.roiloNak 3) (List.mem_cons_of_mem _ List.mem_cons_self)) (by decide +kernel),
   happens ((h.2 3 (controlMsg 3) blockOp).2.2.2.2.2.2.2.2.2.2.2.1 (.roiloWriteAck 3) List.mem_cons_self) (by decide +kernel),
   happens ((h.2 3 (controlMsg 3) blockOp).2.2.2.2.2.2.2.2.2.2.2.2.1 (.roiloRead 3) List.mem_cons_self) (by decide +kernel),
   performs ((h.2 3 (msg 6 0 1 []) blockOp).2.2.2.2.2.2.2.2.2.2.2.2.2.1 5) (by decide +kernel) (by decide +kernel), performs ((h.2 3 (msg 6 0 1 []) (coll [])).2.2.2.2.2.2.2.2.2.2.2.2.2.1 5) (by decide +kernel) (by decide +kernel),
   happens ((h.2 3 (msg 6 0 1 []) blockOp).2.2.2.2.2.2.2.2.2.2.2.2.2.2 5) (by decide +kernel)⟩

/-- A READ served. -/
theorem witness_Served (h : Obligations.FabricCompletes) : ∃ t, serve 3 (msg 0 0x14000 0 []) (fun v => do
    let bs ← viaRead v 0x14000 16 .load
    pure (1, bs)) (fabric (msg 0 0x14000 0 []) []) = .ok ((), t) :=
  ⟨_, (h.2 3 (msg 0 0x14000 0 []) blockOp).2.2.1 (fabric (msg 0 0x14000 0 []) []) _ 0 _ (by decide +kernel) (met (by decide +kernel))⟩

/-- A request to a die, and the machine where it stands in the queue, or in a walk. -/
def request : DieReq := ⟨0, 0, 0, 2, false, 0, none⟩
/-- Die 0 with requests, walks and translations. -/
def dieWith (q : List DieReq) (w : List Walk) (t : List TlbEntry) : State :=
  { (holding (rope 0 0 0) []).setDie 0 { Die.reset with queue := q, walks := w, ltlb := ⟨t, []⟩ } with
    tlbis := [⟨5, 0, 3, 0, 0, 1, 0, 0, [0]⟩], slowFlash := [2] }
/-- Another page. -/
def other : TlbEntry := ⟨0, 0, 0x20000, 65536, 0x20000, 0x0FF, 0xFFF, 0, none, none, 0x200FF, 0, none, 65536⟩

/-- Invalidations, walks and flash lines. -/
theorem witness_Translation (h : Obligations.TranslationCompletes) :
    Next (.tlbiPage (fn (sink { abc .i8 with a := lit 1, b := ⟨.scl, 18⟩ }) 0)) (inMode .h (rope 0 0x10000 0)) ∧
    Next (.tlbiPage (fn (sink { abc .i8 with a := lit 1, b := ⟨.scl, 18⟩ }) 0)) (rope 0 0x10000 0) ∧
    Next (.tlbiPage (fn (sink { abc .i8 with a := lit 1, b := ⟨.scl, 18⟩ }) 0)) (inMode .h (rope 0 0x10000 0x20000)) ∧
    Next (.tlbiSpace (fn (sink { abc .i8 with a := lit 1, b := lit 0 }) 1)) (inMode .h (rope 0 0x10000 0)) ∧
    Next (.tlbiSpace (fn (sink { abc .i8 with a := lit 1, b := lit 0 }) 1)) (rope 0 0x10000 0) ∧
    Next (.tlbiSpace (fn (sink { abc .i8 with a := lit 1, b := lit 0 }) 1)) (inMode .h (rope 0 0x10000 0x20000)) ∧
    Next (.tlbiPartition (fn (sink { abc .i8 with a := lit 1, b := lit 0 }) 2)) (inMode .h (rope 0 0x10000 0)) ∧
    Next (.tlbiPartition (fn (sink { abc .i8 with a := lit 1, b := lit 0 }) 2)) (rope 0 0x10000 0) ∧
    Next (.tlbiPartition (fn (sink { abc .i8 with a := lit 1, b := lit 0 }) 2)) (inMode .h (rope 0 0x10000 0x20000)) ∧
    Next (.tlbiStage2 (fn (sink { abc .i8 with a := lit 1, b := ⟨.scl, 18⟩ }) 3)) (inMode .h (rope 0 0x10000 0)) ∧
    Next (.tlbiStage2 (fn (sink { abc .i8 with a := lit 1, b := ⟨.scl, 18⟩ }) 3)) (rope 0 0x10000 0) ∧
    Next (.tlbiStage2 (fn (sink { abc .i8 with a := lit 1, b := ⟨.scl, 18⟩ }) 3)) (inMode .h (rope 0 0x10000 0x20000)) ∧
    Next (.tlbiPage (fn (sink { abc .i8 with a := lit 1, b := ⟨.scl, 18⟩ }) 0)) (lanes (inMode .h (rope 0 0x10000 0)) fun x => { x with wait := some (.tlbi 5) }) ∧
    Next (.tlbiAck 5 0) (dieWith [] [] []) ∧
    Next (.walkStart 0) (dieWith [request] [] [other]) ∧
    Next (.walkStart 0) (dieWith [request] [] []) ∧
    Next (.walkComplete 0 0) (dieWith [] [⟨[request]⟩] []) ∧
    Next (.flashLineLands 2) (dieWith [] [] []) :=
  ⟨⟨_, (h.1 (fn (sink { abc .i8 with a := lit 1, b := ⟨.scl, 18⟩ }) 0)).2.1 (.tlbiPage (fn (sink { abc .i8 with a := lit 1, b := ⟨.scl, 18⟩ }) 0), 0) List.mem_cons_self (inMode .h (rope 0 0x10000 0)) _ 0 _ (wf (i := .tlbiPage (fn (sink { abc .i8 with a := lit 1, b := ⟨.scl, 18⟩ }) 0)) (b := fn (sink { abc .i8 with a := lit 1, b := ⟨.scl, 18⟩ }) 0) (s := inMode .h (rope 0 0x10000 0)) (by decide +kernel)) (clear (by decide +kernel)) (by decide +kernel) (by decide +kernel) (untlbi (by decide +kernel)) (met (by decide +kernel)) (by decide +kernel) (by decide +kernel)⟩,
   traps (i := .tlbiPage (fn (sink { abc .i8 with a := lit 1, b := ⟨.scl, 18⟩ }) 0)) (s := rope 0 0x10000 0) (((h.1 (fn (sink { abc .i8 with a := lit 1, b := ⟨.scl, 18⟩ }) 0)).1 (.tlbiPage (fn (sink { abc .i8 with a := lit 1, b := ⟨.scl, 18⟩ }) 0), 0) List.mem_cons_self).2) (by decide +kernel) ⟨0, _, _, (by decide +kernel), untlbi (by decide +kernel), met (by decide +kernel), (by decide +kernel), (by decide +kernel)⟩,
   traps (i := .tlbiPage (fn (sink { abc .i8 with a := lit 1, b := ⟨.scl, 18⟩ }) 0)) (s := inMode .h (rope 0 0x10000 0x20000)) (((h.1 (fn (sink { abc .i8 with a := lit 1, b := ⟨.scl, 18⟩ }) 0)).1 (.tlbiPage (fn (sink { abc .i8 with a := lit 1, b := ⟨.scl, 18⟩ }) 0), 0) List.mem_cons_self).1) (by decide +kernel) ⟨0, _, _, (by decide +kernel), untlbi (by decide +kernel), met (by decide +kernel), (by decide +kernel)⟩,
   ⟨_, (h.1 (fn (sink { abc .i8 with a := lit 1, b := lit 0 }) 1)).2.1 (.tlbiSpace (fn (sink { abc .i8 with a := lit 1, b := lit 0 }) 1), 1) (List.mem_cons_of_mem _ List.mem_cons_self) (inMode .h (rope 0 0x10000 0)) _ 0 _ (wf (i := .tlbiSpace (fn (sink { abc .i8 with a := lit 1, b := lit 0 }) 1)) (b := fn (sink { abc .i8 with a := lit 1, b := lit 0 }) 1) (s := inMode .h (rope 0 0x10000 0)) (by decide +kernel)) (clear (by decide +kernel)) (by decide +kernel) (by decide +kernel) (untlbi (by decide +kernel)) (met (by decide +kernel)) (by decide +kernel) (by decide +kernel)⟩,
   traps (i := .tlbiSpace (fn (sink { abc .i8 with a := lit 1, b := lit 0 }) 1)) (s := rope 0 0x10000 0) (((h.1 (fn (sink { abc .i8 with a := lit 1, b := lit 0 }) 1)).1 (.tlbiSpace (fn (sink { abc .i8 with a := lit 1, b := lit 0 }) 1), 1) (List.mem_cons_of_mem _ List.mem_cons_self)).2) (by decide +kernel) ⟨0, _, _, (by decide +kernel), untlbi (by decide +kernel), met (by decide +kernel), (by decide +kernel), (by decide +kernel)⟩,
   traps (i := .tlbiSpace (fn (sink { abc .i8 with a := lit 1, b := lit 0 }) 1)) (s := inMode .h (rope 0 0x10000 0x20000)) (((h.1 (fn (sink { abc .i8 with a := lit 1, b := lit 0 }) 1)).1 (.tlbiSpace (fn (sink { abc .i8 with a := lit 1, b := lit 0 }) 1), 1) (List.mem_cons_of_mem _ List.mem_cons_self)).1) (by decide +kernel) ⟨0, _, _, (by decide +kernel), untlbi (by decide +kernel), met (by decide +kernel), (by decide +kernel)⟩,
   ⟨_, (h.1 (fn (sink { abc .i8 with a := lit 1, b := lit 0 }) 2)).2.1 (.tlbiPartition (fn (sink { abc .i8 with a := lit 1, b := lit 0 }) 2), 2) (List.mem_cons_of_mem _ (List.mem_cons_of_mem _ List.mem_cons_self)) (inMode .h (rope 0 0x10000 0)) _ 0 _ (wf (i := .tlbiPartition (fn (sink { abc .i8 with a := lit 1, b := lit 0 }) 2)) (b := fn (sink { abc .i8 with a := lit 1, b := lit 0 }) 2) (s := inMode .h (rope 0 0x10000 0)) (by decide +kernel)) (clear (by decide +kernel)) (by decide +kernel) (by decide +kernel) (untlbi (by decide +kernel)) (met (by decide +kernel)) (by decide +kernel) (by decide +kernel)⟩,
   traps (i := .tlbiPartition (fn (sink { abc .i8 with a := lit 1, b := lit 0 }) 2)) (s := rope 0 0x10000 0) (((h.1 (fn (sink { abc .i8 with a := lit 1, b := lit 0 }) 2)).1 (.tlbiPartition (fn (sink { abc .i8 with a := lit 1, b := lit 0 }) 2), 2) (List.mem_cons_of_mem _ (List.mem_cons_of_mem _ List.mem_cons_self))).2) (by decide +kernel) ⟨0, _, _, (by decide +kernel), untlbi (by decide +kernel), met (by decide +kernel), (by decide +kernel), (by decide +kernel)⟩,
   traps (i := .tlbiPartition (fn (sink { abc .i8 with a := lit 1, b := lit 0 }) 2)) (s := inMode .h (rope 0 0x10000 0x20000)) (((h.1 (fn (sink { abc .i8 with a := lit 1, b := lit 0 }) 2)).1 (.tlbiPartition (fn (sink { abc .i8 with a := lit 1, b := lit 0 }) 2), 2) (List.mem_cons_of_mem _ (List.mem_cons_of_mem _ List.mem_cons_self))).1) (by decide +kernel) ⟨0, _, _, (by decide +kernel), untlbi (by decide +kernel), met (by decide +kernel), (by decide +kernel)⟩,
   ⟨_, (h.1 (fn (sink { abc .i8 with a := lit 1, b := ⟨.scl, 18⟩ }) 3)).2.1 (.tlbiStage2 (fn (sink { abc .i8 with a := lit 1, b := ⟨.scl, 18⟩ }) 3), 3) (List.mem_cons_of_mem _ (List.mem_cons_of_mem _ (List.mem_cons_of_mem _ List.mem_cons_self))) (inMode .h (rope 0 0x10000 0)) _ 0 _ (wf (i := .tlbiStage2 (fn (sink { abc .i8 with a := lit 1, b := ⟨.scl, 18⟩ }) 3)) (b := fn (sink { abc .i8 with a := lit 1, b := ⟨.scl, 18⟩ }) 3) (s := inMode .h (rope 0 0x10000 0)) (by decide +kernel)) (clear (by decide +kernel)) (by decide +kernel) (by decide +kernel) (untlbi (by decide +kernel)) (met (by decide +kernel)) (by decide +kernel) (by decide +kernel)⟩,
   traps (i := .tlbiStage2 (fn (sink { abc .i8 with a := lit 1, b := ⟨.scl, 18⟩ }) 3)) (s := rope 0 0x10000 0) (((h.1 (fn (sink { abc .i8 with a := lit 1, b := ⟨.scl, 18⟩ }) 3)).1 (.tlbiStage2 (fn (sink { abc .i8 with a := lit 1, b := ⟨.scl, 18⟩ }) 3), 3) (List.mem_cons_of_mem _ (List.mem_cons_of_mem _ (List.mem_cons_of_mem _ List.mem_cons_self)))).2) (by decide +kernel) ⟨0, _, _, (by decide +kernel), untlbi (by decide +kernel), met (by decide +kernel), (by decide +kernel), (by decide +kernel)⟩,
   traps (i := .tlbiStage2 (fn (sink { abc .i8 with a := lit 1, b := ⟨.scl, 18⟩ }) 3)) (s := inMode .h (rope 0 0x10000 0x20000)) (((h.1 (fn (sink { abc .i8 with a := lit 1, b := ⟨.scl, 18⟩ }) 3)).1 (.tlbiStage2 (fn (sink { abc .i8 with a := lit 1, b := ⟨.scl, 18⟩ }) 3), 3) (List.mem_cons_of_mem _ (List.mem_cons_of_mem _ (List.mem_cons_of_mem _ List.mem_cons_self)))).1) (by decide +kernel) ⟨0, _, _, (by decide +kernel), untlbi (by decide +kernel), met (by decide +kernel), (by decide +kernel)⟩,
   ⟨_, (h.1 (fn (sink { abc .i8 with a := lit 1, b := ⟨.scl, 18⟩ }) 0)).2.2.1 (.tlbiPage (fn (sink { abc .i8 with a := lit 1, b := ⟨.scl, 18⟩ }) 0), 0) List.mem_cons_self (lanes (inMode .h (rope 0 0x10000 0)) fun x => { x with wait := some (.tlbi 5) }) 0 5 (wf (i := .tlbiPage (fn (sink { abc .i8 with a := lit 1, b := ⟨.scl, 18⟩ }) 0)) (b := fn (sink { abc .i8 with a := lit 1, b := ⟨.scl, 18⟩ }) 0) (s := lanes (inMode .h (rope 0 0x10000 0)) fun x => { x with wait := some (.tlbi 5) }) (by decide +kernel)) (clear (by decide +kernel)) (by decide +kernel) (by decide +kernel)⟩,
   happens ((h.1 bare).2.2.2 5 0 ⟨5, 0, 3, 0, 0, 1, 0, 0, [0]⟩) (by decide +kernel),
   happens ((h.2 0 0).1 request [] other) (by decide +kernel),
   happens ((h.2 0 0).2.1 request []) (by decide +kernel),
   ⟨_, ((h.2 0 0).2.2.1 ⟨[request]⟩ request _ (by decide +kernel) (by decide +kernel)).1 ⟨.pageAbsent, 0, none, false⟩ (by decide +kernel)⟩,
   happens (h.2 0 2).2.2.2 (by decide +kernel)⟩

/-- A lane that waits since a time, with a fault held for its agent. -/
def waiting (w : Wait) : State :=
  let s := (agent (rope 0 0 0) fun x => { x with faults := [⟨5, 1, ⟨.misaligned, 0, 0x14002, true⟩, none, false⟩] }).mapLane 0 1 fun x => { x with wait := some w }
  (core s fun x => { x with wdog := 1 }).setDie 0 { Die.reset with clock := 65537 }
/-- A debug request. -/
def haltWord (core : Nat) (level : Bool) : DWord := BitVec.ofNat 64 (2 ^ 32 * core + (if level then 2 ^ 39 else 0) + 3)

/-- A machine with a halted lane. -/
def haltedLane : State := (rope 0 0 0).mapLane 0 1 fun x => x.request true

/-- Traps, held faults, the watchdog and debug requests, from outside. -/
theorem witness_Outside (h : Obligations.OutsideTrapsAndHaltsTaken) :
    Next (.takeTrap 0 1 ⟨.breakpoint, 0, 0, false⟩) (waiting .qlock) ∧ Next (.engineFaultDelivery 5 1) (waiting .qlock) ∧
    Next (.watchdog 0 1) (waiting .qlock) ∧
    Next (.dbgreqHalt 0 (haltWord 81 false)) (rope 0 0 0) ∧ Next (.dbgreqHalt 0 (haltWord 80 true)) (rope 0 0 0) ∧
    Next (.dbgreqResume 0 (haltWord 0 true)) (rope 0 0 0) ∧ (lane.request false).halted = true ∧
    ({ lane with mode := .s }.request false).haltPend = true ∧ (lane.request true).resume.halted = false ∧
    ((haltedLane.takeTrap 0 1 ⟨.misaligned, 0, 0, false⟩ 0x11000 .due).lane 0 1).halted = true :=
  ⟨happens (h.1 0 1 ⟨.breakpoint, 0, 0, false⟩).1 (by decide +kernel),
   performs ((h.1 0 1 ⟨.breakpoint, 0, 0, false⟩).2.1 5 ⟨5, 1, ⟨.misaligned, 0, 0x14002, true⟩, none, false⟩ ⟨5, 1, ⟨.misaligned, 0, 0x14002, true⟩, none, false⟩) (by decide +kernel) (by decide +kernel),
   happens (h.1 0 1 ⟨.breakpoint, 0, 0, false⟩).2.2 (by decide +kernel),
   ⟨_, ((h.2 0 (haltWord 81 false) lane _).1 (by decide +kernel)).1⟩, ⟨_, ((h.2 0 (haltWord 80 true) lane _).2.1 (by decide +kernel)).1⟩,
   ⟨_, ((h.2 0 (haltWord 0 true) lane _).2.1 (by decide +kernel)).2⟩, ((h.2 0 0 lane State.reset).2.2.1 (by decide +kernel) false).1 (.inr (by decide +kernel)) |>.1,
   (((h.2 0 0 { lane with mode := .s } State.reset).2.2.1 (by decide +kernel) false).2 rfl (by decide +kernel)).2, ((h.2 0 0 (lane.request true) State.reset).2.2.2.1 (by decide +kernel)).1,
   ((h.2 0 0 lane haltedLane).2.2.2.2 0 1 ⟨.misaligned, 0, 0, false⟩ 0x11000 .due (by decide +kernel) (by decide +kernel) (by decide +kernel)).1⟩

/-- A core with a trace record to write, and without a sink. -/
def traced (l : List (Nat × Nat × Nat)) (sink : DWord) : State :=
  { core (holding (rope 0 0 0) l) fun x => { x with trace := [(0, List.replicate 64 2)] } with
    parts := [(0, { Partition.reset with trctl := sink })] }

/-- A machine with a trace sink. -/
def sunk : State :=
  traced ((sequence 2 2 0).filter (fun e => e.1 != 0x10008) ++ [(0x10008, 4, 2 + 3 * 16 + 4 * 512)]) 0x10001

/-- TRACE_SAMPLE, into a sink. -/
theorem witness_TraceSample (h : Obligations.LaunchAndTraceComplete) : Next (.traceSample 0) sunk := by
  have k := (h.2.2.2 0 0 (List.replicate 64 2) [] sunk (by decide +kernel)).1 _ (done (by decide +kernel))
  exact ⟨_, k⟩

/-- TRACE_SAMPLE, without a sink. -/
theorem witness_TraceDropped (h : Obligations.LaunchAndTraceComplete) : Next (.traceSample 0) (traced [] 1) := by
  have k := (h.2.2.2 0 0 (List.replicate 64 2) [] (traced [] 1) (by decide +kernel)).2 ⟨.illegalOperand, 0, 0, false⟩ (by decide +kernel)
  exact ⟨_, k⟩

/-- A core with two active ropes, of which some are ready, and one pending. -/
def scheduled (f : Nat → Lane → Lane) (p : List Pending) : State :=
  let s := (rope 0 0 0).setAgent 1 (member 1 32 0 0 0)
  let s := (List.range 32).foldl (fun s l => (s.mapLane 0 l (f l)).mapLane 1 l (f (l + 32))) s
  let s := core s fun x => { x with active := [⟨0, 5⟩, ⟨1, 3⟩], pending := p }
  (parties s fun x => { x with nrope := 2, agents := [0, 1, 65] }).setAgent 2 (member 2 32 0 0 0)
/-- A lane asleep. -/
def asleep : Lane → Lane := fun x => { x with wait := some .qlock }
/-- No lane ready, and a rope pending. -/
def swapping : State := scheduled (fun _ => asleep) [⟨2, 2048⟩]
/-- A spilled register. -/
def spilling : State := agent (rope 0 0 0) fun x => { x with spilled := [(5, 3)] }
/-- A result under way. -/
def landing : State := agent (rope 0 0 0) fun x => { x with flights := [⟨5, some 1, [(.vreg 8 0, 7)], true⟩] }

/-- Issue, with no rope ready, one rankList, two ropes, and two groups; the active set; what lands. -/
theorem witness_Scheduling (h : Obligations.SchedulingCompletes) :
    Next (.issueCycle 0) swapping ∧ Next (.laneAged 0 1) (core (rope 0 0 0) fun x => { x with aging := [(0, 1)] }) ∧
    Next (.ropeSwap 0 0) swapping ∧ Next (.timeSlice 0) swapping ∧ Next (.vregRefill 0 5) spilling ∧ Next (.flagFall 0 5) landing ∧
    Next (.operationPerformed 0 3) (waiting .held) :=
  ⟨⟨_, (h.1 0 _).1⟩, happens (h.2 0 0 1 0).1 (by decide +kernel), happens ((h.2 0 0 0 0).2.1 ⟨0, 5⟩ 2) (by decide +kernel),
   happens ((h.2 0 0 0 0).2.2.1 ⟨0, 5⟩ ⟨2, 2048⟩) (by decide +kernel), performs (h.2 0 0 5 0).2.2.2.1 (by decide +kernel) (by decide +kernel), happens (h.2 0 0 5 0).2.2.2.2.1 (by decide +kernel),
   happens (h.2 0 0 5 3).2.2.2.2.2 ⟨(by decide +kernel), fun l hl u => by
    rcases (by decide +kernel : ∀ l ∈ lanesOf 3, ((waiting .held).lane 0 l).wait = none ∨ ((waiting .held).lane 0 l).wait = some .held) l hl with e | e <;>
      (rw [e]; nofun)⟩⟩

/-- A partition whose task sequence 1 is enabled, with a task that has one party. -/
def task (held : Bool) : Task := ⟨⟨0, 1, 0, 0⟩, 0x10000, List.replicate 128 0, 1, 0, [7], held, none, false⟩
/-- Partition 0 changed. -/
def parted (s : State) (f : Partition → Partition) : State := { s with parts := [(0, f Partition.reset)] }
/-- A partition with a task. -/
def tasks : State :=
  parted (holding (rope 0 0 0) (sequence 2 3 0)) fun x => { x with
    seqs := x.seqs.set 1 ⟨0x10000, 0, true, 0, 0, 0⟩, tasks := [task false], pendings := [⟨0, 1, 0, 0⟩] }
/-- A machine whose die is ready, with scratchpad on cores 0 and 1. -/
def awake : State :=
  let c : Core := { Core.reset with spadCur := 4 }
  (((State.reset.setCore 0 c).setCore 1 c).setDie 0 { Die.reset with ready := true })
/-- What a task needs of a core. -/
def demand : Need := ⟨1, true, 128, false⟩

/-- The distributor. -/
theorem witness_Distributor (h : Obligations.DistributionCompletes) :
    Next (.taskAccept 0 1) tasks ∧ Next (.taskAccept 0 0) tasks ∧ Next (.taskComplete 0 1 0) tasks ∧ Next (.completionAppendRetry 0) tasks ∧
    Next (.tasktabWrite 0 0x10000) tasks ∧ Next (.compdescWrite 0 0x10000) tasks ∧ Next .placementAttempt tasks ∧
    Next (.sramcfgWrite 0 5) tasks ∧ Next (.sramSplitApply 1) (tasks.setCore 1 { Core.reset with spadPend := true }) :=
  ⟨performs (h.1 0 1 0 0 0).1 (by decide +kernel) (by decide +kernel), happens (h.1 0 0 0 0 0).2.1 (by decide +kernel), performs (h.1 0 1 0 0 0).2.2.1 (by decide +kernel) (by decide +kernel), performs (h.1 0 0 0 0 0).2.2.2.1 (by decide +kernel) (by decide +kernel),
   performs (h.1 0 0 0 0 0x10000).2.2.2.2.1 trivial (by decide +kernel), performs (h.1 0 0 0 0 0x10000).2.2.2.2.2.1 trivial (by decide +kernel),
   performs (h.1 0 0 0 0 0).2.2.2.2.2.2.1 trivial (by decide +kernel), happens (h.1 0 0 0 0 5).2.2.2.2.2.2.2.1 trivial,
   happens (h.1 0 0 0 1 0).2.2.2.2.2.2.2.2 (by decide +kernel)⟩

/-- A core is chosen, and one team of two. -/
theorem witness_Placement (h : Obligations.DistributionCompletes) : [0].Pairwise (· < ·) ∧ [0, 1].Pairwise (· < ·) :=
  ⟨(h.2 awake 0 1 demand [0] (by decide +kernel)).2.1, (h.2 awake 0 2 demand [0, 1] (by decide +kernel)).2.1⟩

/-- A task whose party is resident, and one request word. -/
def requested (preq : DWord) (t : List Task) : State :=
  parted (parties (rope 0 0 0) fun x => { x with task := ⟨0, 1, 0, 0⟩ }) fun x => { x with preq := preq, tasks := t }
/-- The halted party of a held task, and a frame for it. -/
def halted_ : State :=
  let s := parted (parties (rope 0 0 0) fun x => { x with task := ⟨0, 1, 0, 0⟩, halted := true }) fun x => { x with tasks := [task true] }
  core s fun x => { x with banks := [(0, { Bank.reset 0 with ctxbase := 0x2004800 })] }
/-- The party in its frame, with its task no longer held. -/
def away : State := parted (rope 0 0 0) fun x => { x with partcfg := 1, tasks := [task false] }
/-- A machine with a saved party. -/
def framed : State :=
  { (parted awake fun x => { x with partcfg := 1, tasks := [task false] }) with saved := [savedParty] }

/-- Requests of pre-emption: busy, without a task, and performed. -/
theorem witness_Requests (h : Obligations.PreemptionCompletes) :
    Next (.preqSave 0 1 0) (requested (2 ^ 38) [task false]) ∧ Next (.preqResume 0 1 0) (requested 0 []) ∧
    Next (.preqSave 0 1 0) (requested 0 [task false]) ∧ Next (.preqResume 0 1 0) (requested 0 [task true]) ∧
    Next (.preqAbort 0 1 0) (requested 0 [task false]) :=
  ⟨happens ((h 0 1 0 7 0).1 _ List.mem_cons_self).1 (by decide +kernel), happens ((h 0 1 0 7 0).1 _ (List.mem_cons_of_mem _ List.mem_cons_self)).2 (by decide +kernel),
   happens ((h 0 1 0 7 0).2.1 (task false)) (by decide +kernel), happens ((h 0 1 0 7 0).2.2.1 (task true)) (by decide +kernel), happens ((h 0 1 0 7 0).2.2.2.1 (task false)) (by decide +kernel)⟩

/-- A party goes into a frame, and returns from it. -/
theorem witness_Frames (h : Obligations.PreemptionCompletes) :
    Next (.contextSave 7) halted_ ∧ Next (.partyResume 7 0) framed ∧ Next (.partyResume 7 1) framed :=
  ⟨performs (h 0 1 0 7 0).2.2.2.2.1 ⟨(by decide +kernel), (by decide +kernel), task true, (by decide +kernel)⟩ (by decide +kernel), performs (((h 0 1 0 7 0).2.2.2.2.2 savedParty).2 [0] List.mem_cons_self) (by decide +kernel) (by decide +kernel),
   happens ((h 0 1 0 7 1).2.2.2.2.2 savedParty).1 ⟨rfl, fun cs e => by
     rw [show framed.choose savedParty.party.task.part (framed.resumeGroup savedParty).length savedParty.need [] = some [0] from (by decide +kernel)] at e
     rw [← Option.some.inj e]; decide⟩⟩

/-- EXIT, of some lanes, and of the last ones while a far operation is outstanding. -/
theorem witness_Exit (h : Obligations.ExitCompletes) :
    Next (.exit bare) (rope 0 0 0) ∧ Next (.exit bare) (agent (wholeRope (rope 0 0 0)) fun x => { x with ops := [⟨.far, 1, false, 0, 0, none⟩] }) :=
  ⟨((h bare (rope 0 0 0) (wf (b := bare) (s := rope 0 0 0) (by decide +kernel)) (clear (by decide +kernel)) (by decide +kernel) (by decide +kernel) (by decide +kernel) (by decide +kernel) (by decide +kernel) (by decide +kernel)).1 (by decide +kernel)).imp fun _ k => k.1,
   ⟨_, (h bare (agent (wholeRope (rope 0 0 0)) fun x => { x with ops := [⟨.far, 1, false, 0, 0, none⟩] })
     (wf (b := bare) (s := agent (wholeRope (rope 0 0 0)) fun x => { x with ops := [⟨.far, 1, false, 0, 0, none⟩] }) (by decide +kernel)) (clear (by decide +kernel)) (by decide +kernel) (by decide +kernel) (by decide +kernel) (by decide +kernel) (by decide +kernel) (by decide +kernel)).2 (by decide +kernel) (by decide +kernel)⟩⟩

/-- A lane whose return stack is full. -/
def deep : State :=
  core ((rope 0 0 0).mapLane 0 0 fun x => { x with rstack := [0x11100, 0x11200, 0x11300, 0x11400] }) fun x =>
    { x with banks := [(0, { Bank.reset 0 with lstkbase := 0x20004 })] }

/-- A push and a pop, on a stack of one entry and on a full one; the pop from a full one's frame. -/
theorem witness_Pop (h : Obligations.PopReturnsWhatWasPushed) :
    (∃ t u, pushReturn 0 0 0x12000 (rope 0 0 0) = .ok ((), t) ∧ popReturn 0 0 t = .ok (0x12000, u)) ∧
    (∃ t u, pushReturn 0 0 0x12000 deep = .ok ((), t) ∧ popReturn 0 0 t = .ok (0x12000, u)) ∧
    deep.eccBad (frameAddr deep 0 0 (deep.lane 0 0).rsd) 32 = false :=
  ⟨⟨_, (h (rope 0 0 0) _ 0 0 0x12000 (by decide +kernel) (by decide +kernel) (done (by decide +kernel))).imp fun _ k => ⟨done (by decide +kernel), k.1⟩⟩,
   ⟨_, (h deep _ 0 0 0x12000 (by decide +kernel) (by decide +kernel) (done (by decide +kernel))).imp fun _ k => ⟨done (by decide +kernel), k.1⟩⟩, (by decide +kernel)⟩

/-- A lane at the end of loop bodies. -/
def looping (a b : Word) (inner outer : Bool) : Lane :=
  { lane with lc0 := ⟨inner, .u, 0x10F00, 0x11008, a⟩, lc1 := ⟨outer, .u, 0x10E00, 0x11008, b⟩ }

/-- The loop test: outside a body, in a tilePass, and in the last tilePass of the inner body with each case of the outer one. -/
theorem witness_LoopTest (h : Obligations.LoopsComplete) :
    ((looping 3 2 false false).goOn 8 .due).pc = 0x11008 ∧ ((looping 3 2 true true).goOn 8 .due).pc = 0x10F00 ∧
    ((looping 1 2 true false).goOn 8 .due).pc = 0x11008 ∧ ((looping 1 2 true true).goOn 8 .due).pc = 0x10E00 ∧
    ((looping 1 1 true true).goOn 8 .due).pc = 0x11008 :=
  ⟨((h.2 (looping 3 2 false false) 8 .due).2.1 (by decide +kernel)).1, ((h.2 (looping 3 2 true true) 8 .due).2.2.1 (by decide +kernel) (by decide +kernel)).1,
   ((h.2 (looping 1 2 true false) 8 .due).2.2.2.1 (by decide +kernel) (by decide +kernel) (by decide +kernel)).1, ((h.2 (looping 1 2 true true) 8 .due).2.2.2.2.1 (by decide +kernel) (by decide +kernel) (by decide +kernel) (by decide +kernel)).1,
   ((h.2 (looping 1 1 true true) 8 .due).2.2.2.2.2 (by decide +kernel) (by decide +kernel) (by decide +kernel) (by decide +kernel)).1⟩

/-- The last byte of a line. -/
theorem witness_Phased (h : Obligations.PhasedReadAfterWrite) :
    ∃ t, phasedRead 0 127 127 1 ((rope 0 0 0).phasedWrite 0 127 [7]) = .ok ([7], t) := h (rope 0 0 0) 0 127 127 [7] (by decide +kernel) (by decide +kernel)

/-- Empty memory. -/
theorem witness_Memory (h : Obligations.MemoryReadsWhatWasWritten) : (Memory.writeN [] 5 [1, 2]).readN 5 2 = [1, 2] := (h [] 5 [1, 2] rfl).1

/-- CWAIT with a number past 63, with one that is met, and with one that is not. -/
theorem witness_CounterWait (h : Obligations.PhasesAndBarriersComplete) :
    Next (.cwait { sink (ab .i8) with a := lit 1 }) (rope 0 64 0) ∧ Next (.cwait { sink (ab .i8) with a := lit 1 }) (rope 0 63 0) ∧
    Next (.cwait { sink (ab .i8) with a := lit 0 }) copying :=
  ⟨⟨_, (h.2.2.2.2 _ (rope 0 64 0) _ 0 _ (wf (b := { sink (ab .i8) with a := lit 1 }) (s := rope 0 64 0) (by decide +kernel)) (clear (by decide +kernel)) (by decide +kernel) (met (by decide +kernel))).trans (if_pos (by decide +kernel))⟩,
   ⟨_, ((h.2.2.2.2 _ (rope 0 63 0) _ 0 _ (wf (b := { sink (ab .i8) with a := lit 1 }) (s := rope 0 63 0) (by decide +kernel)) (clear (by decide +kernel)) (by decide +kernel) (met (by decide +kernel))).trans
     (if_neg (by decide +kernel))).trans (if_pos (by decide +kernel))⟩,
   ⟨_, ((h.2.2.2.2 _ copying _ 0 _ (wf (b := { sink (ab .i8) with a := lit 0 }) (s := copying) (by decide +kernel)) (clear (by decide +kernel)) (by decide +kernel) (met (by decide +kernel))).trans
     (if_neg (by decide +kernel))).trans (if_neg (by decide +kernel))⟩⟩

/-- A NaN and a negative operand. -/
theorem witness_SpecialOperands (h : Obligations.SpecialFunctionsComplete) :
    rneF32 (frcpVal (f32Val 0xFFC00001)) = 0x7FC00000 ∧ rneF32 (frsqVal (f32Val 0x80000001)) = 0x7FC00000 :=
  ⟨h.2.1.1 _ (by decide +kernel) _ List.mem_cons_self, h.2.1.2.1 _ (by decide +kernel) (by decide +kernel) _ List.mem_cons_self⟩

/-- The operands 2, 1 and 3. -/
theorem witness_SpecialRoots (h : Obligations.SpecialFunctionsComplete) :
    rneF32 (fsqrtVal (f32Val 0x40000000)) < 0x7F800000 ∧
    rational (f32Val 0x3F800000) ≤ ((rational (f32Val 0x3EAAAAAB) + rational (f32Val 0x3EAAAAAC)) / 2) * rational (f32Val 0x40400000) ∧
    rneF32 (frcpVal (f32Val 0x40400000)) = rneF32 ((f32Val 0x3F800000).div (f32Val 0x40400000)) ∧
    rneF32 (ftanhVal (f32Val (1 ^^^ 0x80000000))) = rneF32 (ftanhVal (f32Val 1)) ^^^ 0x80000000 := by
  have k := (h.2.2.2.1 0x3F800000 0x40400000 (by decide +kernel) (by decide +kernel) (by decide +kernel) (by decide +kernel)
    (by decide +kernel) (by decide +kernel)).2
  rw [show rneF32 ((f32Val 0x3F800000).div (f32Val 0x40400000)) = 0x3EAAAAAB from (by decide +kernel)] at k
  exact ⟨(h.2.2.1 0x40000000 (by decide +kernel) (by decide +kernel)).2.1, k, h.2.2.2.2.1 0x40400000 (by decide +kernel) (by decide +kernel),
    h.2.2.2.2.2.1 1 (by decide +kernel) ftanhVal (List.mem_cons_of_mem _ List.mem_cons_self)⟩

/-- One is kept, and a third is rounded. -/
theorem witness_Rounding (h : Obligations.RoundingIsToTheNearest) :
    Ty.f32.fround (Ty.f32.fval 0x3F800000) .rd = 0x3F800000 ∧
    |((1 : Int) : ℚ) / (3 : Nat) - (11184811 : Int) / (33554432 : Nat)| ≤ |((1 : Int) : ℚ) / (3 : Nat) - (8388608 : Int) / (8388608 : Nat)| :=
  ⟨h.1 .f32 List.mem_cons_self 0x3F800000 .rd (by decide +kernel) (by decide +kernel),
   h.2 .f32 List.mem_cons_self 1 3 0x3F800000 11184811 8388608 33554432 8388608 (by decide +kernel) (by decide +kernel) (.inl (by decide +kernel)) (.inl (by decide +kernel))⟩

/-- The largest rankList whose scale is finite, and one past it. -/
theorem witness_BlockScale (h : Obligations.BlockQuantisationCompletes) : quantScale (.fin 189 1) ≤ 255 ∧ quantScale (.fin 190 1) = 255 := by
  have a := h.2.2.2.2 189 1 (by decide +kernel) (by decide +kernel)
  have b := h.2.2.2.2 190 1 (by decide +kernel) (by decide +kernel)
  rw [if_neg (by decide)] at a
  rw [if_pos (by decide)] at b
  exact ⟨a.1, b⟩

/-- A trap in H, a delegated one in U and in S, and one that is not delegated. -/
theorem witness_TrapEntry (h : Obligations.TrapEntry) :
    let m := fun (n : Mode) => { lane with mode := n }
    let t : Trap := ⟨.syscall, 0, 5, false⟩
    let at_ := fun (n : Mode) (d : DWord) => (m n).trap d (fun _ => 0x20000) false t 0x11000 .due
    (at_ .h 0).halted = true ∧ (at_ .u (BitVec.allOnes 64)).mode = .s ∧ (at_ .s (BitVec.allOnes 64)).mode = .h ∧ (at_ .u 0).mode = .h :=
  ⟨((h { lane with mode := .h } 0 (fun _ => 0x20000) false ⟨.syscall, 0, 5, false⟩ 0x11000 .due).2.1 rfl (by decide +kernel)).2.2.2.1,
   ((h { lane with mode := .u } (BitVec.allOnes 64) (fun _ => 0x20000) false ⟨.syscall, 0, 5, false⟩ 0x11000 .due).2.2.1 (by decide +kernel) (by decide +kernel)).1.1,
   ((h { lane with mode := .s } (BitVec.allOnes 64) (fun _ => 0x20000) false ⟨.syscall, 0, 5, false⟩ 0x11000 .due).2.2.2.1 (by decide +kernel) rfl (by decide +kernel)).2.1,
   ((h { lane with mode := .u } 0 (fun _ => 0x20000) false ⟨.syscall, 0, 5, false⟩ 0x11000 .due).2.2.2.2 (by decide +kernel) (by decide +kernel)).2.1⟩

/-- Registers by number: none, held otherwise than named, from U, one of H from S, with a partition from S, and one that is reached. -/
theorem witness_RegisterAccess (h : Obligations.SystemInstructionsComplete) :
    let any := fun (_ : RegHold) => true
    good (nameReg 0 .h 0xFFF 0 any (rope 0 0 0)) = false ∧ good (nameReg 0 .s 4 0 (fun _ => false) (rope 0 0 0)) = false ∧
    good (nameReg 0 .u 4 0 any (rope 0 0 0)) = false ∧ good (nameReg 0 .s 0x11 0 any (rope 0 0 0)) = false ∧
    good (nameReg 0 .s 0x1004 0 any (rope 0 0 0)) = false ∧ nameReg 0 .s 4 0 any (rope 0 0 0) = .ok ((4, .lane, 0), rope 0 0 0) :=
  ⟨by rw [(h.2.2 (rope 0 0 0) 0 .h 0xFFF 0 _).1 (by decide +kernel)]; rfl, by rw [(h.2.2 (rope 0 0 0) 0 .s 4 0 _).2.1 _ _ rfl rfl]; rfl,
   by rw [(h.2.2 (rope 0 0 0) 0 .u 4 0 _).2.2.1 rfl (by decide +kernel) _ _ rfl rfl]; rfl, by rw [(h.2.2 (rope 0 0 0) 0 .s 0x11 0 _).2.2.2.1 rfl (by decide +kernel) _ rfl rfl]; rfl,
   by rw [(h.2.2 (rope 0 0 0) 0 .s 0x1004 0 _).2.2.2.2.1 (by decide +kernel) (by decide +kernel) (by decide +kernel)]; rfl,
   (h.2.2 (rope 0 0 0) 0 .s 4 0 _).2.2.2.2.2 .lane .s rfl rfl (by decide +kernel) (by decide +kernel) (by decide +kernel)⟩

/-! ### Witnesses for scheduling and the walk -/

/-- The core when the events of a cycle are over. -/
def turn (s : State) : State := (s.tickCore 0).fillPlaces 0 8

/-- The core in a cycle with no rope ready, one group, two ropes, and a rope of two groups. -/
def noneReady : State := scheduled (fun _ => asleep) []
/-- One group. -/
def oneGroup : State := scheduled (fun l x => if l < 32 then x else asleep x) []
/-- Two ropes. -/
def twoRopes : State := scheduled (fun _ x => x) []
/-- Two groups. -/
def twoGroups : State := scheduled (fun l x => if l < 16 then { x with pc := 0x11040 } else x) []

/-- ISSUE_CYCLE with no rope ready, with one rankList, with two ropes, and with a rope of two groups. -/
theorem witness_IssueCycle (h : Obligations.SchedulingCompletes) :
    (turn noneReady).issueRopes 0 = turn noneReady ∧ ((turn oneGroup).issueRopes 0).ports.length = 1 ∧
    ((turn twoRopes).issueRopes 0).ports.length = 2 ∧ ((turn twoGroups).issueRopes 0).ports.length = 2 :=
  ⟨(h.1 0 noneReady).2.1 (by decide +kernel),
   (congrArg List.length (((h.1 0 oneGroup).2.2 0 [] (by decide +kernel)).2.1 (List.range 32) (by decide +kernel) rfl)).trans (by decide +kernel),
   (congrArg List.length (((h.1 0 twoRopes).2.2 0 [1] (by decide +kernel)).2.2.1 (List.range 32) 1 [] (by decide +kernel) rfl)).trans (by decide +kernel),
   (congrArg List.length (((h.1 0 twoGroups).2.2 0 [1] (by decide +kernel)).2.2.2 ((List.range 16).map (· + 16)) (List.range 16) [] (by decide +kernel)).1).trans (by decide +kernel)⟩

/-- The next state of a step. -/
theorem goes {x : Host.Outcome State Fault Refusal} (h : (match x with | .next _ => true | _ => false) = true) : ∃ t, x = .next t := by
  cases x with
  | next t => exact ⟨t, rfl⟩
  | _ => cases h

/-- A root that maps 4 TiB, and a walk for a page of it. -/
def walking : State := { dieWith [] [⟨[request]⟩] [] with mem := words [(0, 8, 0xDF)] }
/-- The same without the walk. -/
def walkingOn : State := walking.setDie 0 { walking.die 0 with walks := [] }

/-- A walk that finds a page. -/
theorem witness_Walk (h : Obligations.TranslationCompletes) : Next (.walkComplete 0 0) walking := by
  have g : good (walk walkingOn false (walkingOn.die 0).ltlb.runs request.space ((walkingOn.die 0).walkFrom request) (2 * 65536)) = true := (by decide +kernel)
  obtain ⟨x, hx⟩ : ∃ x, walk walkingOn false (walkingOn.die 0).ltlb.runs request.space ((walkingOn.die 0).walkFrom request) (2 * 65536) = .ok x :=
    ⟨_, met (β := _ × State) g⟩
  exact ⟨_, ((h.2 0 0).2.2.1 ⟨[request]⟩ request walking (by decide +kernel) (by decide +kernel)).2 x.1 x.2.1 x.2.2 hx⟩

/-! ### Determinism -/

/-- A full flashLog, and a deterministic party. -/
def fullLog : List LogEntry := List.replicate 4096 ⟨3, 31, 0, 0, [], 1, [], none, none, none, 0, 0, 0, 0⟩
/-- A determinism record with a log. -/
def det (trailer : Option Nat) (flashLog : List LogEntry) : Det :=
  startDet 7 trailer |> fun d => { d with log := flashLog }
/-- The log is full. -/
theorem log_full (t : Option Nat) (w : Sparse Byte) : ({ det t fullLog with wrote := w } : Det).isFull = true := by
  simp only [Det.isFull, det, startDet, fullLog, List.length_replicate]; rfl
/-- No copy of an entry is kept where the entry is not. -/
theorem replicate_none (n : Nat) (e : LogEntry) (p : LogEntry → Bool) (h : p e = false) : (List.replicate n e).filter p = [] :=
  List.filter_eq_nil_iff.2 fun x hx => by rw [List.eq_of_mem_replicate hx, h]; decide
/-- No rope has an entry of it ahead. -/
theorem log_consumed (t : Option Nat) (w : Sparse Byte) : ({ det t fullLog with wrote := w } : Det).consumed = true := by
  have k : ∀ r ∈ List.range 18, ∀ en, ({ det t fullLog with wrote := w } : Det).entriesFrom true r en = [] := by
    intro r hr en
    have hne : (31 == r) = false := by have := List.mem_range.1 hr; simp; omega
    unfold Det.entriesFrom Det.ropeEntries
    rw [show ({ det t fullLog with wrote := w } : Det).log = List.replicate 4096 ⟨3, 31, 0, 0, [], 1, [], none, none, none, 0, 0, 0, 0⟩ from rfl,
      replicate_none _ _ _ (by show ((31 == r) && _ && _) = false; rw [hne]; rfl), List.drop_nil]
  unfold Det.consumed
  exact List.all_eq_true.2 fun r hr => by rw [k r hr, k r hr]; rfl

/-- The party is deterministic. -/
def detParty (s : State) (role : DetRole) (d : Det) : State :=
  { s.setParty 7 { s.party 7 with det := some 3, role := role, spadK := 0 } with dets := [(3, d)] }
/-- A pair. -/
def pairOf (d : Det) : State :=
  let s := detParty (rope 0 0 0) .leader d
  s.setParty 8 { s.party 7 with role := .trailer, agents := [], pslot := 1 }
/-- An effect that the leader posted. -/
def posted : Det := { det (some 8) [] with posted := [⟨0, 3, 0, 0xA6, []⟩] }
/-- A replay that is to stop. -/
def stopping : State :=
  parted (detParty (rope 0 0 0) .replay { det none [] with replay := some (0, 0, 0), aside := some savedParty })
    fun x => { x with dreq := 2 ^ 61 }
/-- A replay with the party that it set aside. -/
def asidePart : State :=
  detParty (rope 0 0 0) .replay { det none [] with replay := some (0, 0, 0), aside := some savedParty }

/-- LOG_FULL, LOG_FULL_COMPARE with and without agreement, REDUNDANT_EFFECT, DREQ and REPLAY_STOP. -/
theorem witness_Determinism (h : Obligations.DeterminismEvents) :
    Next (.logFull 7) (detParty (rope 0 0 0) .replay (det none fullLog)) ∧
    Next (.logFullCompare 3) (pairOf (det (some 8) fullLog)) ∧
    Next (.logFullCompare 3) (pairOf { det (some 8) fullLog with wrote := [(5, 1)] }) ∧
    Next (.redundantEffect 3) (lanes (pairOf posted) fun x => { x with wait := some .pair }) ∧
    Next (.dreqReplay 0 5) stopping ∧ Next (.dreqReplay 0 0x14000) (parted (rope 0 0 0) fun x => x) ∧
    Next (.replayStop 7) stopping ∧ Next (.dreqEnd 0) asidePart :=
  ⟨performs (h 0 7 3 0 (det none fullLog)).1 ⟨rfl, rfl, rfl, rfl, log_full _ [], (by decide +kernel)⟩ (by decide +kernel),
   performs ((h 0 7 3 0 (det (some 8) fullLog)).2.2.1 8) ⟨rfl, rfl, rfl, log_full _ [], log_consumed _ [], (by decide +kernel), (by decide +kernel)⟩ (by decide +kernel),
   happens ((h 0 7 3 0 { det (some 8) fullLog with wrote := [(5, 1)] }).2.2.2.1 8) ⟨rfl, rfl, rfl, log_full _ _, log_consumed _ _, (by decide +kernel), (by decide +kernel)⟩,
   happens ((h 0 7 3 0 posted).2.2.2.2.1 0 0 ((List.range 31).map (· + 1))) (by decide +kernel),
   happens (h 0 7 3 5 (det none [])).2.2.2.2.2.1 (by decide +kernel), performs (h 0 7 3 0x14000 (det none [])).2.2.2.2.2.2.1 (by decide +kernel) (by decide +kernel),
   happens (h 0 7 3 0 { det none [] with replay := some (0, 0, 0), aside := some savedParty }).2.2.2.2.2.2.2.1 (by decide +kernel),
   happens ((h 0 7 3 0 { det none [] with replay := some (0, 0, 0), aside := some savedParty }).2.2.2.2.2.2.2.2 savedParty) (by decide +kernel)⟩

/-- A pair that is halted is not compared again. -/
theorem witness_HaltedPair (h : Obligations.DeterminismEvents) :
    Next (.logFullCompare 3) (pairOf { det (some 8) fullLog with halted := some 8 }) :=
  happens (h 0 7 3 0 { det (some 8) fullLog with halted := some 8 }).2.1 ⟨rfl, rfl⟩

/-! ### Harts -/

/-- Hart 2, with operands; with an operation in progress. -/
def hartWith (a b : DWord) : State := (rope 0 0 0).setHart 2 { Hart.reset with args := [a, b, 0, 0, 0], tlb := ⟨[page], []⟩ }
/-- WWAIT of a hart. -/
def hartCall : HartCall := ⟨0xCC, 0, [0x14000, 0, 0, 0, 0], 0, 0, 0, .h⟩
/-- Hart 2 asleep in it, or woken. -/
def hartBusy (woken : Bool) : State :=
  (rope 0 0 0).setHart 2 { Hart.reset with op := some hartCall, wait := some .wwait, woken := woken, tlb := ⟨[page], []⟩ }

/-- A write of OP while one is in progress, with a reserved code, with one the operation does not have; WWAIT done, waiting and
misaligned. -/
theorem witness_HartOperations (h : Obligations.HartOperationsComplete) :
    Next (.hartWwait 2 0) (hartBusy false) ∧ Next (.hartWwait 2 8) (hartWith 0x14000 0) ∧ Next (.hartWwait 2 1) (hartWith 0x14000 0) ∧
    Next (.hartWwait 2 0) (hartWith 0x14000 5) ∧ Next (.hartWwait 2 0) (hartWith 0x14000 0) ∧ Next (.hartWwait 2 0) (hartWith 0x14002 0) :=
  ⟨⟨_, ((h 2 0).1 (.hartWwait 2 0, 0xCC) (by decide +kernel) (hartBusy false)).1 (by decide +kernel)⟩,
   ⟨_, ((h 2 8).1 (.hartWwait 2 8, 0xCC) (by decide +kernel) (hartWith 0x14000 0)).2.1 (by decide +kernel) (by decide +kernel)⟩,
   ⟨_, ((h 2 1).1 (.hartWwait 2 1, 0xCC) (by decide +kernel) (hartWith 0x14000 0)).2.2.1 (by decide +kernel) (by decide +kernel) (by decide +kernel)⟩,
   ⟨_, (((h 2 0).1 (.hartWwait 2 0, 0xCC) (by decide +kernel) (hartWith 0x14000 5)).2.2.2 (by decide +kernel) (by decide +kernel) (by decide +kernel)).1 0 _ (answers (HartEnd.done 0) (by decide +kernel))⟩,
   ⟨_, (((h 2 0).1 (.hartWwait 2 0, 0xCC) (by decide +kernel) (hartWith 0x14000 0)).2.2.2 (by decide +kernel) (by decide +kernel) (by decide +kernel)).2.1 .wwait 0 _ (answers (HartEnd.waits .wwait 0) (by decide +kernel))⟩,
   ⟨_, (((h 2 0).1 (.hartWwait 2 0, 0xCC) (by decide +kernel) (hartWith 0x14002 0)).2.2.2 (by decide +kernel) (by decide +kernel) (by decide +kernel)).2.2 _ (fails ⟨.misaligned, 0, 0x14002, false⟩ (by decide +kernel))⟩⟩

/-- Hart 2 in machine inMode, and where it stores. -/
def machine : HartRun := ⟨.machine, 0, 0⟩

/-- HART_OP_COMPLETE of a woken WWAIT; CANCEL without an operation, of a WWAIT, of a woken one, and with an operand. -/
theorem witness_HartEvents (h : Obligations.HartOperationsComplete) :
    Next (.hartOpComplete 2) (hartBusy true) ∧ Next (.cancel 2) ((rope 0 0 0).setHart 2 Hart.reset) ∧ Next (.cancel 2) (hartBusy false) ∧
    Next (.cancel 2) (hartBusy true) ∧ Next (.cancel 2) (hartWith 1 0) :=
  ⟨⟨_, ((h 2 0).2.1 (hartBusy true) hartCall (by decide +kernel)).1 0 _ (answers (HartEnd.done 0) (by decide +kernel))⟩,
   ⟨_, ((h 2 0).2.2.1 ((rope 0 0 0).setHart 2 Hart.reset) (by decide +kernel)).1 (by decide +kernel)⟩, ⟨_, (((h 2 0).2.2.1 (hartBusy false) (by decide +kernel)).2 hartCall (by decide +kernel)).1 (by decide +kernel)⟩,
   ⟨_, (((h 2 0).2.2.1 (hartBusy true) (by decide +kernel)).2 hartCall (by decide +kernel)).2 (by decide +kernel)⟩, ⟨_, (h 2 0).2.2.2.1 (hartWith 1 0) (by decide +kernel)⟩⟩

/-- A register that a hart may not write there, OP of a window, a register it may, and one that a record writes. -/
theorem witness_RegisterWrites (h : Obligations.HartOperationsComplete) :
    Next (.writeRegister ⟨some (2, machine), 0xF000000000004⟩ 5) (rope 0 0 0) ∧
    (exec (.writeRegister ⟨some (2, machine), (BitVec.ofNat 64 (windowSpace + 0x30))⟩ 0) (rope 0 0 0) =
      writeOp 2 0 0 ((rope 0 0 0).runsAs 2 machine)) ∧
    Next (.writeRegister ⟨some (2, machine), 0xF000000000000⟩ 5) (rope 0 0 0) ∧ Next (.writeRegister ⟨none, 0xF000000000000⟩ 5) (rope 0 0 0) :=
  ⟨⟨_, ((h 2 0).2.2.2.2.1 2 machine 0xF000000000004 5 0xF000000000004 (rope 0 0 0) ((rope 0 0 0).runsAs 2 machine) (rope 0 0 0) rfl (by decide +kernel)).1 (by decide +kernel)⟩,
   (((h 2 0).2.2.2.2.1 2 machine (BitVec.ofNat 64 (windowSpace + 0x30)) 0 (windowSpace + 0x30) (rope 0 0 0) ((rope 0 0 0).runsAs 2 machine) (rope 0 0 0) rfl (by decide +kernel)).2 (by decide +kernel)).1 0 (by decide +kernel),
   ⟨_, (((h 2 0).2.2.2.2.1 2 machine 0xF000000000000 5 0xF000000000000 (rope 0 0 0) ((rope 0 0 0).runsAs 2 machine) _ rfl (by decide +kernel)).2 (by decide +kernel)).2 (by decide +kernel) (done (by decide +kernel))⟩,
   performs ((h 2 0).2.2.2.2.2 0xF000000000000 5) trivial (by decide +kernel)⟩

/-! ### The platform -/

/-- What the platform's part of a machine holds. -/
def platformed (s : State) (f : Platform → Platform) : State := { s with platform := f s.platform }
/-- A machine before boot. -/
def fresh : State := platformed (rope 0 0 0) id
/-- A sequence of one committed request at 0x15000, and the request. -/
def requestAt : List (Nat × Nat × Nat) :=
  [(0x15000, 4, 1), (0x15004, 4, 1), (0x15008, 4, 2 + 2 * 16 + 4 * 512), (0x15010, 8, 0x15100), (0x15018, 8, 0x10080),
    (0x15100, 8, 0x16000 / 128 * 65536 + 1)]
/-- A machine whose security block has a request. -/
def secured (req : List Byte) : State :=
  { platformed (rope 0 0 0) fun x => { x with cairns := [(29, ⟨true, none⟩)], securitySeq := 0x15000 } with
    mem := (words requestAt).writeN 0x16000 req }
/-- A request for a digest, and for a report. -/
def digestRequest : List Byte := leBytes 8 1 ++ leBytes 8 0x14000 ++ leBytes 8 16 ++ leBytes 8 0x14800 ++ List.replicate 32 0
/-- A request for a report. -/
def attestRequest : List Byte := leBytes 8 2 ++ leBytes 8 0 ++ leBytes 8 0 ++ leBytes 8 0x14800 ++ List.replicate 32 9

/-- Boot of a machine that has booted, and of one that has not, whether or not an image fails its check. -/
theorem witness_Boot (h : Obligations.PlatformEvents) :
    Next (.boot []) (platformed fresh fun x => { x with booted := true }) ∧ Next (.boot []) fresh := by
  have k := h 0 0 0 0 0 0 [] []
  refine ⟨happens k.1 (by decide +kernel), ?_⟩
  by_cases g : ∃ i, i < Config.firmwareDigests.length ∧ Config.imageRefused i = true
  · obtain ⟨m, r⟩ := Nat.find_spec g
    refine happens (k.2.2.1 _ m r fun j hj => ?_) (by decide +kernel)
    by_contra e
    exact Nat.find_min g hj ⟨hj.trans m, by simpa using e⟩
  · refine performs k.2.1 ⟨by decide +kernel, fun i hi => ?_⟩ (by decide +kernel)
    by_contra e
    exact g ⟨i, hi, by simpa using e⟩

/-- Readiness, throttling, soft errors and power loss. -/
theorem witness_Platform (h : Obligations.PlatformEvents) :
    Next (.cairnReady 3 (some 5)) fresh ∧
    Next (.cairnReady 1 none) fresh ∧ Next (.cairnReady 31 none) fresh ∧ Next (.throttleDown 0) fresh ∧ Next (.throttleUp 0) fresh ∧
    Next .thermalHalt fresh ∧ Next (.softError .corrected) fresh ∧ Next (.softError (.flashLine 0x100000000000)) fresh ∧
    Next (.softError (.pred 0 1 2)) fresh ∧ Next (.softError (.sector 64)) fresh ∧ Next (.softError (.vreg 0 1 2 3)) fresh ∧
    Next (.powerLoss 0) fresh :=
  have k := fun c d pa => (h d c pa 0 0 0 [] []).2.2.2
  have j := fun d pa => (k 0 d pa).2.2.2.2
  have i := fun pa => (j 0 pa).2.2.2.2.1
  have v := fun pa => (j 0 pa).2.2.2.2.2.1
  ⟨happens ((k 3 0 0).1 (some 5)) (by decide +kernel), happens (k 0 0 0).2.1 (by decide +kernel),
   happens ((k 31 0 0).2.2.1 none) (.inl (by decide +kernel)), happens (j 0 0).1 trivial, happens (j 0 0).2.1 trivial,
   happens (j 0 0).2.2.1 trivial, happens (j 0 0).2.2.2.1 trivial, happens (i 0x100000000000) (by decide +kernel),
   happens ((v 0) 0 1 2) trivial, happens (j 0 64).2.2.2.2.2.2.1 (by decide +kernel), happens ((j 0 0).2.2.2.2.2.2.2.1 0 1 2 3) trivial,
   ((j 0 0).2.2.2.2.2.2.2.2.2.2.2 0 fresh).imp fun _ x => x.1⟩

/-- Requests of the security block. -/
theorem witness_Security (h : Obligations.PlatformEvents) :
    Next (.securityDigest 0 0) (secured digestRequest) ∧ Next (.securityAttest 0 0) (secured attestRequest) :=
  have k := (h 0 0 0 0 0 0 [] []).2.2.2.2.2.2.1
  ⟨⟨_, (k (secured digestRequest) _ _ digestRequest _ (by decide +kernel) (answers (some digestRequest) (by decide +kernel))).1 (by decide +kernel) (met (by decide +kernel))⟩,
   ⟨_, (k (secured attestRequest) _ _ attestRequest _ (by decide +kernel) (answers (some attestRequest) (by decide +kernel))).2 (by decide +kernel) (met (by decide +kernel))⟩⟩

/-- A hart's store: refused, performed, and in machine mode to HBM and to flash; its loads: refused, of a register, of a register that its
access does not reach, of memory, and of a sector that cannot be corrected; and a requantised tile. -/
theorem witness_HartAccesses (h : Obligations.PlatformEvents) :
    Next (.cpuStore ⟨2, ⟨.supervisor, 2, 0⟩, 0x14000, none⟩ [1]) (rope 0 0 0) ∧ Next (.cpuStore ⟨2, machine, 0x14000, none⟩ [1]) (rope 0 0 0) ∧
    Next (.cpuStore ⟨2, machine, 0x100000000000, none⟩ [1]) (rope 0 0 0) ∧
    Next (.cpuStore ⟨2, ⟨.supervisor, 2, 0⟩, 0x14000, some 8⟩ [1]) (rope 0 0 0) ∧
    Next (.cpuStore ⟨2, machine, 0xF000000000000, some 8⟩ [1]) (rope 0 0 0) ∧
    Next (.cpuStore ⟨2, machine, 0xF000000000000, some 4⟩ [1]) (rope 0 0 0) ∧
    Next (.cpuStore ⟨2, machine, 0x14000, some 8⟩ [1]) (rope 0 0 0) ∧
    Next (.cpuStore ⟨2, machine, 0x14000, some 8⟩ [1]) { rope 0 0 0 with badSectors := [0x14000 / 32] } ∧
    Next (.backgroundRequantisation 0 0x14000 5 [1]) (rope 0 0 0) :=
  have j := (h 0 0 0 0 0 0 [1] []).2.2.2.2.2.2.2.2.2.2.2.2.2.2.2
  have k := j.1
  have m := j.2.1
  have r := m 2 8 machine 0xF000000000000 (by decide +kernel)
  have q := m 2 4 machine 0xF000000000000 (by decide +kernel)
  have g := (m 2 8 machine 0x14000 (by decide +kernel)).2.2 rfl (by decide +kernel) (by decide +kernel)
  ⟨happens ((k 2 ⟨.supervisor, 2, 0⟩ 0x14000 (by decide +kernel)).1 .storePage) (by decide +kernel),
   happens ((k 2 machine 0x14000 (by decide +kernel)).2.2 rfl).1 (by decide +kernel), happens ((k 2 machine 0x100000000000 (by decide +kernel)).2.2 rfl).2 (by decide +kernel),
   happens ((m 2 8 ⟨.supervisor, 2, 0⟩ 0x14000 (by decide +kernel)).1 .loadPage) (by decide +kernel),
   ⟨_, (r.2.1 (rope 0 0 0) ((rope 0 0 0).runsAs 2 machine) 0xF000000000000 rfl (by decide +kernel)).1 (by decide +kernel)⟩,
   ⟨_, (q.2.1 (rope 0 0 0) ((rope 0 0 0).runsAs 2 machine) 0xF000000000000 rfl (by decide +kernel)).2 (by decide +kernel)⟩,
   happens g.2 (by decide +kernel), happens g.1 (by decide +kernel),
   performs (h 0 0 0 0 0x14000 5 [1] []).2.2.2.2.2.2.2.2.2.2.2.2.2.2.2.2.2.1 (by decide +kernel) (by decide +kernel)⟩

/-- The store of a hart that translates. -/
theorem witness_HartPuts (h : Obligations.PlatformEvents) : Next (.cpuStore ⟨2, machine, 0x14000, none⟩ [1]) (rope 0 0 0) :=
  ⟨_, ((((h 0 0 0 0 0 0 [1] []).2.2.2.2.2.2.2.2.2.2.2.2.2.2.2.1 2 machine 0x14000 (by decide +kernel)).2.1 (rope 0 0 0) ((rope 0 0 0).runsAs 2 machine) _ 0x14000 rfl (by decide +kernel)).1 rfl)⟩

/-! ### The start of a party -/

/-- Agent 3 starts in party 9, of a partition. -/
def starting (p : Nat) : State :=
  (State.reset.setParty 9 { Party.absent with task := ⟨p, 0, 0, 0⟩ }).setAgent 3 (startRope (task false) [] 9 0 0)
/-- v126 in a partition that has room, and in one that has none. -/
theorem witness_PartyStart (h : Obligations.PartyStart) :
    Sparse.find? (((starting 0).startReg 3 126 (stackTops (task false) 0)).agent 3).vregs (32 * 126 + 5) = some 0 ∧
    (((starting 1).startReg 3 126 (stackTops (task false) 0)).agent 3).owes 126 = true := by
  have k := fun s => (((h s (task false) [] 0 0 0 9 [] none none .none).2.2.2.2 0 (by decide +kernel)).2.2.2.2.2.2 3)
  have k0 := k (starting 0) (by decide +kernel)
  have k1 := k (starting 1) (by decide +kernel)
  rw [if_pos (by decide +kernel)] at k0
  rw [if_neg (by decide +kernel)] at k1
  exact ⟨(k0.1 5 (by decide +kernel)).trans (by decide +kernel), k1.2⟩

/-! ### Steps -/

/-- A machine that has issued a word; the issue in hand, and what the fetches leave. -/
def issuing (w : Nat) : State := { holding (rope 0 0 0) [(0x11000, 8, w)] with ports := [⟨0, 3, 0x11000, 8, 0⟩] }
/-- The issue in hand. -/
def inHand (w : Nat) : State :=
  let s := issuing w
  { s with now := s.now + 1, ports := [], issue := s.trim ⟨0, 3, 0x11000, 8, 0⟩ }
/-- After the fetch of the first word. -/
def fetched (w : Nat) : State := left (fetch (inHand w).who (inHand w).mode 0x11000 8 (inHand w))
/-- With the word in hand. -/
def decoding (w : Nat) : State :=
  { fetched w with issue := { (fetched w).issue with len := 8, word := BitVec.ofNat 64 w } }
/-- After the fetch of all of it. -/
def issuable (w : Nat) : State := left (fetch (decoding w).who (decoding w).mode 0x11000 8 (decoding w))

/-- A step runs a decoded instruction, and an event. -/
theorem witness_Step (h : Obligations.StepRunsDecoded) :
    step (issuing 0xC14000E3D0) = exec (.sysc { sink (a1 .i8) with grd := 7, lu := 0, a := lit 5, b := ⟨.vec, 0⟩ }) (issuable 0xC14000E3D0) ∧
    step { State.reset with agenda := [.issueCycle 0] } = exec (.issueCycle 0) { State.reset with now := 1 } ∧
    step State.reset = exec State.reset.nextEvent { State.reset with now := 1, turn := 1 } :=
  ⟨(h.1 (issuing 0xC14000E3D0) (fetched 0xC14000E3D0) (issuable 0xC14000E3D0) ⟨0, 3, 0x11000, 8, 0⟩ [] (leBytes 8 0xC14000E3D0)
      (leBytes 8 0xC14000E3D0) (.sysc { sink (a1 .i8) with grd := 7, lu := 0, a := lit 5, b := ⟨.vec, 0⟩ }) rfl (by decide +kernel) (by decide +kernel) (by decide +kernel)
      (answers (leBytes 8 0xC14000E3D0) (by decide +kernel)) (by decide +kernel) (by decide +kernel) (answers (leBytes 8 0xC14000E3D0) (by decide +kernel)) (by decide +kernel) (by decide +kernel) (by decide +kernel)).2,
   (h.2 _ (.issueCycle 0) [] rfl rfl).1 rfl, (h.2 _ _ [] rfl (by decide +kernel)).2 rfl rfl⟩

/-- Reset is canonical, and its step goes on. -/
theorem witness_Canonical (h : Obligations.StepKeepsCanonical) (k : Obligations.ResetIsCanonical) :
    ∃ t, step State.reset = .next t ∧ t.Canonical := by
  obtain ⟨t, e⟩ : ∃ t, step State.reset = .next t := by
    show ∃ t, execBoot [] { State.reset with now := 1, turn := 1 } = .next t
    unfold execBoot
    rw [if_neg (by decide +kernel)]
    dsimp only
    split <;> exact ⟨_, rfl⟩
  exact ⟨t, e, h _ t k e⟩

/-- A well-formed instruction, and words that are decoded. -/
theorem witness_Encoding (h : Obligations.DecodeUndoesEncode) :
    (∃ w, encode (.ffma (abc .f32)) = some w) ∧ (Instr.clh ⟨5, 5, 2, 9⟩).WellFormed :=
  ⟨(h.1 (.ffma (abc .f32)) ⟨(by decide +kernel), (by decide +kernel)⟩).imp fun _ k => k.1, (h.2 ⟨0x0000000154802404, 0, 0⟩ (.clh ⟨5, 5, 2, 9⟩) (by decide +kernel)).1⟩

/-! ### Frames -/

/-- How the hypotheses of a frame are met. -/
theorem frames {i : Instr} {b : Base} {s : State} {ok : State → Prop} {ls : State → List Nat} {P : State → State → State → Prop}
    (h : ∀ (s s1 : State) (xs : List (Nat × Operands)), i.WellFormed → s.Clear (formOf i) b → ok s →
      readAll (formOf i) b (ls s) s = .ok (xs, s1) → s1.busy (formOf i) b = none → ∃ t, exec i s = .next t ∧ P s s1 t)
    (r : ready i b s = true) (k : ok s) (g : good (readAll (formOf i) b (ls s) s) = true) (m : ((got _ g).2.busy (formOf i) b).isNone = true) :
    Next i s := (h s _ _ (wf r) (clear r) k (met g) (Option.isNone_iff_eq_none.1 m)).imp fun _ x => x.1

/-- Computing instructions, one with an operand in the constant window, comparisons into a predicate and a mask, and predicate instructions. -/
theorem witness_ComputingFrame (h : Obligations.ComputingFrame) :
    Next (.add (ab .i32)) (rope 7 3 2) ∧
    Next (.add { ab .i32 with a := ⟨.cst, 2⟩ }) (rope 7 3 2) ∧
    Next (.popc (a1 .n32)) (rope 7 3 2) ∧
    Next (.madw (abc .n32)) (rope 7 3 2) ∧
    Next (.sel (cl (ab .n32) 1)) (rope 7 3 2) ∧
    Next (.addx (cl (ab .n32) 1)) (rope 7 3 2) ∧
    Next (.isetp { ab .n32 with dst := 3 }) (rope 7 3 2) ∧
    Next (.isetp (toScl (ab .n32))) (rope 7 3 2) ∧
    Next (.plop { bare with a := lit 1, b := lit 1 }) (rope 7 3 2) ∧
    Next (.p2v { bare with dst := 8 }) (rope 7 3 2) ∧
    Next (.v2p (sink { a1 .i8 with b := lit 1 })) (rope 7 3 2) :=
  ⟨frames ((h.2 (ab .i32)).1 (.add (ab .i32)) (by decide +kernel)) (by decide +kernel) trivial (by decide +kernel) (by decide +kernel),
   frames ((h.2 { ab .i32 with a := ⟨.cst, 2⟩ }).1 (.add { ab .i32 with a := ⟨.cst, 2⟩ }) (by decide +kernel)) (by decide +kernel) trivial (by decide +kernel) (by decide +kernel),
   frames ((h.2 (a1 .n32)).2.1 (.popc (a1 .n32)) (by decide +kernel)) (by decide +kernel) trivial (by decide +kernel) (by decide +kernel),
   frames ((h.2 (abc .n32)).2.2.1 (.madw (abc .n32)) (by decide +kernel)) (by decide +kernel) trivial (by decide +kernel) (by decide +kernel),
   frames ((h.2 (cl (ab .n32) 1)).2.2.2.1 (.sel (cl (ab .n32) 1)) (by decide +kernel)) (by decide +kernel) (by unfold LeadOrVector; decide +kernel) (by decide +kernel) (by decide +kernel),
   frames ((h.2 (cl (ab .n32) 1)).2.2.2.2.1 (.addx (cl (ab .n32) 1)) (by decide +kernel)) (by decide +kernel) (by unfold LeadOrVector; decide +kernel) (by decide +kernel) (by decide +kernel),
   frames (((h.2 { ab .n32 with dst := 3 }).2.2.2.2.2.1 (.isetp { ab .n32 with dst := 3 }) (by decide +kernel)).1) (by decide +kernel) rfl (by decide +kernel) (by decide +kernel),
   frames (((h.2 (toScl (ab .n32))).2.2.2.2.2.1 (.isetp (toScl (ab .n32))) (by decide +kernel)).2) (by decide +kernel) rfl (by decide +kernel) (by decide +kernel),
   frames ((h.2 { bare with a := lit 1, b := lit 1 }).2.2.2.2.2.2.1) (by decide +kernel) trivial (by decide +kernel) (by decide +kernel),
   frames ((h.2 { bare with dst := 8 }).2.2.2.2.2.2.2.1) (by decide +kernel) trivial (by decide +kernel) (by decide +kernel),
   frames ((h.2 (sink { a1 .i8 with b := lit 1 })).2.2.2.2.2.2.2.2) (by decide +kernel) trivial (by decide +kernel) (by decide +kernel)⟩

/-- Operands outside the constant window, and a special function. -/
theorem witness_ResultsFly (h : Obligations.ComputingFrame) (k : Obligations.SpecialFunctionResultsFly) :
    (∃ xs, readAll (formOf (.frcp (a1 .f32))) (a1 .f32) [0, 1] (rope 7 3 2) = .ok (xs, rope 7 3 2)) ∧
    Next (.frcp (a1 .f32)) (rope 7 3 2) ∧ (rope 7 3 2).acting (a1 .f32) ≠ [] :=
  ⟨h.1 _ _ _ _ ⟨(by decide +kernel), (by decide +kernel), (by decide +kernel)⟩,
   (k (a1 .f32) (_, _) List.mem_cons_self (rope 7 3 2) (wf (b := a1 .f32) (s := rope 7 3 2) (by decide +kernel)) (clear (by decide +kernel)) ⟨(by decide +kernel), (by decide +kernel), (by decide +kernel)⟩).imp fun _ x => x.1, (by decide +kernel)⟩

/-- What holds of lane 0 and of lane 1 holds of the lanes that act, where those are the two. -/
theorem both {ls : List Nat} {p : Nat → Prop} (h : ls = [0, 1]) (k : p 0) (m : p 1) : ∀ l ∈ ls, p l := by
  rw [h]; intro l e; rcases List.mem_cons.1 e with rfl | e
  · exact k
  · rw [List.mem_singleton.1 e]; exact m

/-- Scratchpad stores, atomics and loads, whose lanes' addresses are aligned and reach scratchpad. -/
theorem witness_ScratchpadFrames (h : Obligations.MemoryFrames) :
    Next (.sts (sink (abc .i32))) (rope 0x40 0 7) ∧ Next (.atoms (abc .n32)) (rope 0x40 0 7) ∧ Next (.lds (ab .i32)) (rope 0x40 0 7) :=
  ⟨(h.1 (sink (abc .i32)) (rope 0x40 0 7) (wf (b := sink (abc .i32)) (s := rope 0x40 0 7) (by decide +kernel)) (clear (by decide +kernel)) ⟨(by decide +kernel), (by decide +kernel), (by decide +kernel)⟩
      (both (by decide +kernel) ⟨⟨0x40, 0, 7⟩, 7, 0x40, rfl, (by decide +kernel), (by decide +kernel)⟩ ⟨⟨0x40, 0, 7⟩, 7, 0x40, rfl, (by decide +kernel), (by decide +kernel)⟩)).imp fun _ x => x.1,
   (h.2.1 (abc .n32) (rope 0x40 0 7) (wf (b := abc .n32) (s := rope 0x40 0 7) (by decide +kernel)) (clear (by decide +kernel)) ⟨(by decide +kernel), (by decide +kernel), (by decide +kernel)⟩
      (both (by decide +kernel) ⟨⟨0x40, 0, 7⟩, 7, 0x40, rfl, (by decide +kernel), (by decide +kernel)⟩ ⟨⟨0x40, 0, 7⟩, 7, 0x40, rfl, (by decide +kernel), (by decide +kernel)⟩)).imp fun _ x => x.1,
   (h.2.2.2.2.2 (ab .i32) (rope 0x40 0 7) (wf (b := ab .i32) (s := rope 0x40 0 7) (by decide +kernel)) (clear (by decide +kernel)) ⟨(by decide +kernel), (by decide +kernel), (by decide +kernel)⟩
      (both (by decide +kernel) ⟨⟨0x40, 0, 0⟩, 7, 0x40, rfl, (by decide +kernel), (by decide +kernel)⟩ ⟨⟨0x40, 0, 0⟩, 7, 0x40, rfl, (by decide +kernel), (by decide +kernel)⟩)).imp fun _ x => x.1⟩

/-- Stores, deferred stores and atomics, whose lanes' addresses are aligned and reach an ordinary page. -/
theorem witness_GlobalFrames (h : Obligations.MemoryFrames) :
    Next (.st (sink (abc .i32))) (rope 0x14000 0 7) ∧ Next (.stl (fn (sink (abc .n32)) 1)) (rope 0x40 0 7) ∧ Next (.atom (abc .n32)) (rope 0x14000 0 7) ∧ Next (.atomc (abc .n32)) (rope 0x14000 0 7) ∧ Next (.stf (sink (abc .n32))) (rope 0x14000 0 7) ∧ Next (.red (sink (abc .n32))) (rope 0x14000 0 7) :=
  ⟨(h.2.2.1 (sink (abc .i32)) (rope 0x14000 0 7) (_, _) List.mem_cons_self (wf (b := (sink (abc .i32))) (s := rope 0x14000 0 7) (by decide +kernel)) (clear (by decide +kernel)) ⟨(by decide +kernel), (by decide +kernel), (by decide +kernel)⟩ (both (by decide +kernel) ⟨0x14000, ⟨0x14000, 0, 7⟩, ⟨0x14000, false⟩, rfl, (by decide +kernel), ⟨(by decide +kernel), rfl, page, (by decide +kernel), rfl, rfl⟩, rfl, rfl⟩ ⟨0x14000, ⟨0x14000, 0, 7⟩, ⟨0x14000, false⟩, rfl, (by decide +kernel), ⟨(by decide +kernel), rfl, page, (by decide +kernel), rfl, rfl⟩, rfl, rfl⟩) (by decide +kernel) (by decide +kernel)).imp fun _ x => x.1,
   (h.2.2.1 (fn (sink (abc .n32)) 1) (rope 0x40 0 7) (_, _) (List.mem_cons_of_mem _ List.mem_cons_self) (wf (b := (fn (sink (abc .n32)) 1)) (s := rope 0x40 0 7) (by decide +kernel)) (clear (by decide +kernel)) ⟨(by decide +kernel), (by decide +kernel), (by decide +kernel)⟩ (both (by decide +kernel) ⟨0x18040, ⟨0x40, 0, 7⟩, ⟨0x18040, false⟩, rfl, (by decide +kernel), ⟨(by decide +kernel), rfl, page, (by decide +kernel), rfl, rfl⟩, rfl, rfl⟩ ⟨0x18040, ⟨0x40, 0, 7⟩, ⟨0x18040, false⟩, rfl, (by decide +kernel), ⟨(by decide +kernel), rfl, page, (by decide +kernel), rfl, rfl⟩, rfl, rfl⟩) (by decide +kernel) (by decide +kernel)).imp fun _ x => x.1,
   (h.2.2.2.1 (abc .n32) (rope 0x14000 0 7) (_, _) List.mem_cons_self (wf (b := (abc .n32)) (s := rope 0x14000 0 7) (by decide +kernel)) (clear (by decide +kernel)) ⟨(by decide +kernel), (by decide +kernel), (by decide +kernel)⟩ rfl (both (by decide +kernel) ⟨0x14000, ⟨0x14000, 0, 7⟩, ⟨0x14000, false⟩, rfl, (by decide +kernel), ⟨(by decide +kernel), rfl, page, (by decide +kernel), rfl, rfl⟩, (by decide +kernel), (by decide +kernel), rfl⟩ ⟨0x14000, ⟨0x14000, 0, 7⟩, ⟨0x14000, false⟩, rfl, (by decide +kernel), ⟨(by decide +kernel), rfl, page, (by decide +kernel), rfl, rfl⟩, (by decide +kernel), (by decide +kernel), rfl⟩)).imp fun _ x => x.1,
   (h.2.2.2.1 (abc .n32) (rope 0x14000 0 7) (_, _) (List.mem_cons_of_mem _ List.mem_cons_self) (wf (b := (abc .n32)) (s := rope 0x14000 0 7) (by decide +kernel)) (clear (by decide +kernel)) ⟨(by decide +kernel), (by decide +kernel), (by decide +kernel)⟩ rfl (both (by decide +kernel) ⟨0x14000, ⟨0x14000, 0, 7⟩, ⟨0x14000, false⟩, rfl, (by decide +kernel), ⟨(by decide +kernel), rfl, page, (by decide +kernel), rfl, rfl⟩, (by decide +kernel), (by decide +kernel), rfl⟩ ⟨0x14000, ⟨0x14000, 0, 7⟩, ⟨0x14000, false⟩, rfl, (by decide +kernel), ⟨(by decide +kernel), rfl, page, (by decide +kernel), rfl, rfl⟩, (by decide +kernel), (by decide +kernel), rfl⟩)).imp fun _ x => x.1,
   (h.2.2.2.2.1.1 (sink (abc .n32)) (rope 0x14000 0 7) (_, _, _) List.mem_cons_self (wf (b := (sink (abc .n32))) (s := rope 0x14000 0 7) (by decide +kernel)) (clear (by decide +kernel)) ⟨(by decide +kernel), (by decide +kernel), (by decide +kernel)⟩ (by decide +kernel) (by decide +kernel) (both (by decide +kernel) ⟨0x14000, ⟨0x14000, 0, 7⟩, ⟨0x14000, false⟩, rfl, (by decide +kernel), ⟨(by decide +kernel), rfl, page, (by decide +kernel), rfl, rfl⟩, nofun, rfl⟩ ⟨0x14000, ⟨0x14000, 0, 7⟩, ⟨0x14000, false⟩, rfl, (by decide +kernel), ⟨(by decide +kernel), rfl, page, (by decide +kernel), rfl, rfl⟩, nofun, rfl⟩)).imp fun _ x => x.choose_spec.1,
   (h.2.2.2.2.1.1 (sink (abc .n32)) (rope 0x14000 0 7) (_, _, _) (List.mem_cons_of_mem _ List.mem_cons_self) (wf (b := (sink (abc .n32))) (s := rope 0x14000 0 7) (by decide +kernel)) (clear (by decide +kernel)) ⟨(by decide +kernel), (by decide +kernel), (by decide +kernel)⟩ (by decide +kernel) (by decide +kernel) (both (by decide +kernel) ⟨0x14000, ⟨0x14000, 0, 7⟩, ⟨0x14000, false⟩, rfl, (by decide +kernel), ⟨(by decide +kernel), rfl, page, (by decide +kernel), rfl, rfl⟩, fun _ => (by decide +kernel), rfl⟩ ⟨0x14000, ⟨0x14000, 0, 7⟩, ⟨0x14000, false⟩, rfl, (by decide +kernel), ⟨(by decide +kernel), rfl, page, (by decide +kernel), rfl, rfl⟩, fun _ => (by decide +kernel), rfl⟩)).imp fun _ x => x.choose_spec.1⟩

/-- AFNC of slots that are not durable yet, when they are captured and when the captured ones are asked for again. -/
def appending : State := { holding (rope 0x10000 0 0) (sequence 2 3 1) with logs := [flashLog false 1] }
/-- Lanes that captured three slots. -/
def capturing : State := lanes appending fun x => { x with wait := some (.durable 0 3) }
/-- AFNC waits for slots that are not durable. -/
theorem witness_Durable (h : Obligations.DurableStreamsComplete) :
    Next (.afnc (sink (a1 .i8))) appending ∧ Next (.afnc (sink (a1 .i8))) capturing :=
  ⟨⟨_, ((h.1 (sink (a1 .i8))).2.1 appending _ 0 0 3 (wf (b := sink (a1 .i8)) (s := appending) (by decide +kernel)) (clear (by decide +kernel)) (by decide +kernel) (by decide +kernel) (answers (0, 3) (by decide +kernel)) (flashLog false 1) (by decide +kernel)).2 (by decide +kernel) rfl⟩,
   ⟨_, ((h.1 (sink (a1 .i8))).2.2 capturing 0 3 (wf (b := sink (a1 .i8)) (s := capturing) (by decide +kernel)) (clear (by decide +kernel)) (by decide +kernel) (by decide +kernel) (flashLog false 1) rfl).2 (by decide +kernel) rfl⟩⟩

/-! ### Witnesses for what the operations do -/

/-- A gather or scatter of words, with a stride of a word. -/
def gathered : Base := wide128 (sink (abc .i8)) 0x40040

/-- The elements of a gather, two bytes from where they may stand. -/
theorem witness_MisalignedGather (h : Obligations.MisalignedAccessesTrap) : Next (.gth gathered) (rope 0x14000 0 0x102) :=
  ⟨_, (h gathered).2.2.2.2.2.2.2.2.2.2.2.2.2.1 (rope 0x14000 0 0x102) (fun _ => ⟨0x14000, 0, 0x102⟩) (wf (b := gathered) (s := rope 0x14000 0 0x102) (by decide +kernel)) (clear (by decide +kernel)) (by decide +kernel)
    (both (by decide +kernel) ⟨rfl, ⟨(7, 0x102), (by decide +kernel)⟩, (by decide +kernel)⟩ ⟨rfl, ⟨(7, 0x106), (by decide +kernel)⟩, (by decide +kernel)⟩)⟩

/-- The elements of a scatter. -/
theorem witness_MisalignedScatter (h : Obligations.MisalignedAccessesTrap) : Next (.sct gathered) (rope 0x14000 0 0x102) :=
  ⟨_, (h gathered).2.2.2.2.2.2.2.2.2.2.2.2.2.2.1 (rope 0x14000 0 0x102) (fun _ => ⟨0x14000, 0, 0x102⟩) (wf (b := gathered) (s := rope 0x14000 0 0x102) (by decide +kernel)) (clear (by decide +kernel)) (by decide +kernel)
    (both (by decide +kernel) ⟨rfl, ⟨(7, 0x102), (by decide +kernel)⟩, (by decide +kernel)⟩ ⟨rfl, ⟨(7, 0x106), (by decide +kernel)⟩, (by decide +kernel)⟩)⟩

/-- The element of a slot. -/
theorem witness_MisalignedSlot (h : Obligations.MisalignedAccessesTrap) :
    Next (.sqld (wide96 (ab .n32) 2)) (holding (rope 0x10000 1 0) (sequence 2 3 0)) :=
  ⟨_, (h (wide96 (ab .n32) 2)).2.2.2.2.2.2.2.2.2.2.2.2.2.2.2 (holding (rope 0x10000 1 0) (sequence 2 3 0)) (fun _ => 0x12082) (wf (b := wide96 (ab .n32) 2) (s := holding (rope 0x10000 1 0) (sequence 2 3 0)) (by decide +kernel)) (clear (by decide +kernel))
    (both (by decide +kernel) ⟨⟨_, answers 0x12082 (by decide +kernel)⟩, (by decide +kernel)⟩ ⟨⟨_, answers 0x12082 (by decide +kernel)⟩, (by decide +kernel)⟩)⟩

/-- A scalar WWAIT that sleeps, with the other acting lane. -/
theorem witness_Mates (h : Obligations.LocksAndWaitsComplete) : Next (.wwait (toScl (abc .n32))) (rope 0x14000 0 0) :=
  ⟨_, (h.2 _).1 _ _ _ (wf (b := toScl (abc .n32)) (s := rope 0x14000 0 0) (by decide +kernel)) (clear (by decide +kernel)) (met (by decide +kernel))⟩

/-- The rope, each of whose lanes a CCTL.IINV holds, or another operation. -/
def heldBy (w : Wait) : State :=
  agent (rope 0 0 0) fun x => { x with lanes := List.replicate 32 { lane with wait := some w } }

/-- The lanes of an invalidation go on, and those of another operation. -/
theorem witness_InvalidationCounts (h : Obligations.CachesComplete) :
    (∃ t, exec (.operationPerformed 0 (BitVec.allOnes 32)) (heldBy (.cache 9 true)) = .next t ∧ (t.core 0).counters.iiack = 1) ∧
    ∃ t, exec (.operationPerformed 0 (BitVec.allOnes 32)) (heldBy .held) = .next t ∧ (t.core 0).counters.iiack = 0 := by
  have lane : ∀ w l, ((heldBy w).lane 0 l).wait = if l < 32 then some w else none := by
    intro w l
    have e : ((heldBy w).agent 0).lanes = List.replicate 32 { Tests.lane with wait := some w } := rfl
    show (((heldBy w).agent 0).lanes.getD l Lane.absent).wait = _
    rw [e]
    by_cases hl : l < 32
    · rw [if_pos hl, List.getD_eq_getElem _ _ (by simpa using hl), List.getElem_replicate]
    · rw [if_neg hl, List.getD_eq_default _ _ (by simpa using hl)]; rfl
  obtain ⟨t, e⟩ : Next (.operationPerformed 0 (BitVec.allOnes 32)) (heldBy (.cache 9 true)) := goes (by decide +kernel)
  obtain ⟨u, f⟩ : Next (.operationPerformed 0 (BitVec.allOnes 32)) (heldBy .held) := goes (by decide +kernel)
  refine ⟨⟨t, e, ?_⟩, u, f, ?_⟩
  · refine (h.2.2 0 9 _ _ t e).2.2 ⟨0, by decide, by decide +kernel, by decide, lane _ 0⟩ (fun l hl => .inl ?_) (fun l v k => ?_)
    · exact (by decide : ∀ j < 32, (BitVec.allOnes 32).getLsbD j = true) l hl
    · rw [lane] at k
      split at k <;> cases k
      rfl
  · refine (h.2.2 0 9 _ _ u f).2.1 fun l _ v k => ?_
    rw [lane] at k
    split at k <;> cases k

/-- Conversions of a NaN, of infinity, of values beyond a type's range and within it; of an integer, and to a narrower and a wider format. -/
theorem witness_ConversionValues (h : Obligations.ConversionsComplete) :
    convert .i32 .f32 0x7FC00000 .rne false = 0 ∧ Ty.i32.intVal (convert .i32 .f32 0xFF800000 .rne false) = -2 ^ 31 ∧
    Ty.i32.intVal (convert .i32 .f32 0x4F800000 .rne false) = 2 ^ 31 - 1 ∧ Ty.n32.intVal (convert .n32 .f32 0xBF800000 .rne false) = 0 ∧
    Ty.i32.intVal (convert .i32 .f32 0x3FC00000 .rd false) ≤ (rational (Ty.f32.fval 0x3FC00000)) ∧
    convert .i8 .i32 300 .rne false = 44 ∧
    rational (Ty.f32.fval (convert .f32 .i32 5 .rne false)) = 5 ∧ rational (Ty.f32.fval (convert .f32 .i32 5 .ru false)) ≥ 5 ∧
    convert .e4m3 .i32 5000 .rne true = 0x7E ∧
    convert .f16 .f32 0x7FC00001 .rne false = 0x7E00 ∧ (Ty.f32.fval (convert .f32 .f16 0x3C00 .rne false)).isNeg = false ∧
    convert .f16 .f32 0x7F800000 .rne true = 0x7BFF := by
  have k := h.2.1 .i32 (by decide) |>.1 .f32 (by decide)
  have n := h.2.1 .n32 (by decide) |>.1 .f32 (by decide)
  have m := h.2.2 .f32 (by decide)
  refine ⟨(k 0x7FC00000 .rne false).1 (by decide +kernel), (k 0xFF800000 .rne false).2.1 true (by decide +kernel), ?_, ?_, ?_,
    (h.2.1 .i8 (by decide) |>.2 .i32 (by decide) 300 .rne).1, (m.1 .i32 (by decide) 5 .rne false).2.1 (by decide +kernel) |>.2.2,
    (m.1 .i32 (by decide) 5 .ru false).2.2.1 ?_, ((h.2.2 .e4m3 (by decide)).1 .i32 (by decide) 5000 .rne true).2.2.2 ?_ rfl,
    ((h.2.2 .f16 (by decide)).2 .f32 (by decide) 0x7FC00001 .rne false).1 (by decide +kernel),
    ((m.2 .f16 (by decide) 0x3C00 .rne false).2.1 (by decide) (by decide +kernel)).2.trans (by decide +kernel),
    (((h.2.2 .f16 (by decide)).2 .f32 (by decide) 0x7F800000 .rne true).2.2 (by decide)).2 false rfl (.inl (by decide +kernel))⟩
  · exact (k 0x4F800000 .rne false).2.2.1 ⟨by decide +kernel, by decide +kernel⟩ (by decide +kernel)
  · exact (n 0xBF800000 .rne false).2.2.2.1 ⟨by decide +kernel, by decide +kernel⟩ (by decide +kernel)
  · exact ((k 0x3FC00000 .rd false).2.2.2.2.1 ⟨by decide +kernel, by decide +kernel⟩ (by decide +kernel) (by decide +kernel)).1
  · decide +kernel
  · decide +kernel

/-- A barrier at which a member has arrived. -/
def begun : State := parties (rope 0 7 0) fun x => { x with barriers := x.barriers.set 1 { Barrier.reset with memb := 2, arr := 1 } }

/-- Misuses of a barrier. -/
theorem witness_BarrierMisuses (h : Obligations.PhasesAndBarriersComplete) :
    Next (.bwait { sink (ab .i8) with a := lit 1 }) (rope 0 32768 0) ∧ Next (.bwait { sink (ab .i8) with a := lit 5 }) (rope 0 0 0) ∧
    Next (.bexp { sink (ab .i8) with a := lit 5 }) (rope 0 64 0) ∧
    Next (.binit { sink (ab .i8) with a := lit 1 }) begun ∧
    Next (.bara { bare with a := lit 5 }) (rope 0 0 0) :=
  have k := fun b => h.2.2.2.1 b
  ⟨⟨_, (k _).1 (rope 0 32768 0) 32768 (wf (b := { sink (ab .i8) with a := lit 1 }) (s := rope 0 32768 0) (by decide +kernel)) (clear (by decide +kernel)) (by decide +kernel) rfl ⟨(by decide +kernel), .inr (by decide +kernel)⟩⟩,
   ⟨_, (k _).1 (rope 0 0 0) 0 (wf (b := { sink (ab .i8) with a := lit 5 }) (s := rope 0 0 0) (by decide +kernel)) (clear (by decide +kernel)) (by decide +kernel) rfl ⟨(by decide +kernel), .inl (by decide +kernel)⟩⟩,
   ⟨_, (k _).2.1 (rope 0 64 0) 64 (wf (b := { sink (ab .i8) with a := lit 5 }) (s := rope 0 64 0) (by decide +kernel)) (clear (by decide +kernel)) (by decide +kernel) rfl ⟨(by decide +kernel), .inl (by decide +kernel)⟩⟩,
   ⟨_, (k _).2.2.1 begun 7 (wf (b := { sink (ab .i8) with a := lit 1 }) (s := begun) (by decide +kernel)) (clear (by decide +kernel)) (by decide +kernel) rfl
     ⟨(by decide +kernel), (by decide +kernel), (by decide +kernel), .inl (by decide +kernel)⟩⟩,
   traps (k { bare with a := lit 5 }).2.2.2 (by decide +kernel) ⟨(by decide +kernel), (by decide +kernel), (by decide +kernel)⟩⟩

/-- An entry that is not granted yet, and its camp. -/
def tabledOp : CampOp := campOp (.mma 7 2 7 3 1 false 0) (.tabled 4 1 1)

/-- The table's order, its walk and a cycle. -/
theorem witness_Arbiter (h : Obligations.MatrixComplete) :
    tabledOp.ep = 1 ∧ 5 ∈ arbitrate (camp tabledOp) 0 ([] ++ tabledOp :: []) [] [] ∧
    ∃ t, exec (.arbiterCycle 0) (camp tabledOp) = .next t ∧ ∃ x ∈ (t.camp 0).ops, x.uid = 5 := by
  refine ⟨(h.2.2.2.2.1.2 tabledOp 4 1 1 rfl).1, (h.2.2.2.2.2.1 (camp tabledOp) 0 [] [] tabledOp [] (by decide +kernel)).2
    ⟨by decide +kernel, fun a _ => ⟨nofun, nofun⟩⟩, ?_⟩
  obtain ⟨t, e, -, -, -, k⟩ := h.2.2.2.2.2.2.1 (camp tabledOp) 0
  obtain ⟨x, m, u, -⟩ := k (by decide +kernel) (campOp (.mma 7 2 7 3 1 false 0) (.tabled 4 0 1)) (by decide +kernel) 4 0 1 rfl
  exact ⟨t, e, x, m, u⟩

/-- Values of an integer atomic and of an f32 one. -/
theorem witness_AtomicValues (h : Obligations.AtomicsComplete) :
    low .n32 (atomicNew 7 .n32 5 5 9) = 9 ∧ low .f32 (atomicNew 6 .f32 5 5 9) = 9 :=
  ⟨((h.2 .n32 5 5 9).1 (by decide)).2.2.2.2.2.2.2, ((h.2 .f32 5 5 9).2 rfl).2.2.2⟩

/-- A rope with trace records, the first of them open. -/
def recorded (due : Option Nat) : State :=
  agent (rope 0 0 0) fun x => { x with
    samples := [⟨due, 0, List.replicate 64 2⟩, ⟨none, 0, List.replicate 64 3⟩], flights := [⟨5, some 1, [(.vreg 8 0, 7)], true⟩]
    ops := [⟨.far, 5, false, 0, 0, none⟩] }

/-- Trace records wait behind one whose instruction is to complete, and go to the buffer after it. -/
theorem witness_ReleaseSamples (h : Obligations.LaunchAndTraceComplete) :
    ((recorded (some 5)).releaseSamples 0).cores = (recorded (some 5)).cores ∧ (recorded none).releaseSamples 0 ≠ recorded none ∧
    (⟨some 9, 0, List.replicate 64 2⟩ : Sample).settle ((recorded (some 9)).agent 0) 7 ≠ ⟨some 9, 0, List.replicate 64 2⟩ := by
  have k := fun d => h.2.2.1 (recorded d) 0 ⟨d, 0, List.replicate 64 2⟩ [⟨none, 0, List.replicate 64 3⟩] rfl
  refine ⟨((k (some 5)).2.1 (by decide +kernel)).1, ?_, by decide +kernel⟩
  intro e
  have m := (k none).2.2 (by decide +kernel)
  rw [e] at m
  exact absurd (congrArg (fun s : State => (s.core 0).trace.length) m) (by decide +kernel)

/-! ### Witnesses for the sequences' operations -/

/-- A lane of the rope, in U. -/
def via : Via := .lane 0 .u
/-- The descriptor of the sequence, as memory has it. -/
def descOf (s : State) (va : Nat) : Desc := Desc.parse (BitVec.ofNat 64 va) (s.mem.readN va 64)
/-- A machine with the sequence, and words beside it. -/
def sq (cl rt : Nat) (more : List (Nat × Nat × Nat)) : State := holding (rope 0x10000 1 0) (sequence cl rt 0 ++ more)

/-- Reservations: of nothing, past the limit, past the pool, and one that is made. -/
theorem witness_Reservation (h : Obligations.SequencesComplete) :
    let r := fun n limit => reserveSlots via (descOf (sq 2 3 []) 0x10000) n limit (sq 2 3 [])
    (∃ t, r 0 9 = .ok (.ok 3, t)) ∧ (∃ t, r 1 3 = .ok (.error 5, t)) ∧ (∃ t, r 6 64 = .ok (.error 4, t)) ∧ ∃ t, r 2 64 = .ok (.ok 3, t) :=
  have k := fun n limit => h.2.2.1 via (descOf (sq 2 3 []) 0x10000) n limit (sq 2 3 []) _ _ (met (by decide +kernel))
  ⟨⟨_, (k 0 9).1 rfl⟩, ⟨_, (k 1 3).2.1 (by decide +kernel) (by decide +kernel)⟩, ⟨_, (k 6 64).2.2.1 (by decide +kernel) (by decide +kernel) (by decide +kernel)⟩,
   ⟨_, ((k 2 64).2.2.2 (by decide +kernel) (by decide +kernel) (by decide +kernel)).trans (answers (Except.ok 3 : Except Nat Nat) (by decide +kernel))⟩⟩

/-- Commits: of nothing, out of bounds, above CL, and at CL. -/
theorem witness_Commit (h : Obligations.SequencesComplete) :
    let r := fun b c => commitSlots via (descOf (sq 2 5 []) 0x10000) b c (sq 2 5 [])
    r 2 0 = .ok (0, sq 2 5 []) ∧ r 1 1 = outOfBounds 1 ∧ (∃ t, r 3 1 = .ok (0, t)) ∧ ∃ t, r 2 1 = .ok (0, t) := by
  have k := fun b c => h.2.2.2.1 via (descOf (sq 2 5 []) 0x10000) b c (sq 2 5 [])
  have cl : (descOf (sq 2 5 []) 0x10000).cl = 2 := by decide +kernel
  have rt : (descOf (sq 2 5 []) 0x10000).rt = 5 := by decide +kernel
  have pend : (descOf (sq 2 5 []) 0x10000).pend = 0 := by decide +kernel
  have none_ : ∀ i, ¬pending (descOf (sq 2 5 []) 0x10000) i := fun i e => by rw [pending, pend] at e; simp at e
  have fine : ∀ b, 2 ≤ b → b < 5 → ∀ i, ¬((b ≤ i ∧ i < b + 1) ∧
      (i < (descOf (sq 2 5 []) 0x10000).cl ∨ (descOf (sq 2 5 []) 0x10000).rt ≤ i ∨ pending (descOf (sq 2 5 []) 0x10000) i)) := by
    rintro b _ _ i ⟨_, e | e | e⟩
    · rw [cl] at e; omega
    · rw [rt] at e; omega
    · exact none_ i e
  refine ⟨(k 2 0).1 rfl, (k 1 1).2.1 1 ⟨by decide, .inl (by rw [cl]; decide)⟩ (fun j _ e => by omega), ?_, ?_⟩
  · refine ⟨_, ((k 3 1).2.2.1 (by decide) (fine 3 (by decide) (by decide)) (by rw [cl]; decide) 2 fun i hi => ?_).trans (answers 0 (by decide +kernel))⟩
    rw [cl]
    constructor
    · intro e
      exact .inr ((by decide +kernel : ∀ i < 128, (2 : BitVec 128).getLsbD i = true → 3 ≤ 2 + i ∧ 2 + i < 3 + 1) i hi e)
    · rintro (e | e)
      · exact absurd e (none_ _)
      · rw [show i = 1 by omega]; rfl
  · refine ⟨_, ((k 2 1).2.2.2 (by decide) (fine 2 (by decide) (by decide)) (by rw [cl]) 3 0 (by decide) (fun i _ _ => by omega) (none_ 3) fun i _ => ?_).trans
      (answers 0 (by decide +kernel))⟩
    rw [pend]; simp

/-- Abandonments: of nothing, below CL, past RT, in the middle, over a pending slot, and at the tail. -/
theorem witness_Abandonment (h : Obligations.SequencesComplete) :
    let r := fun more b c => abandonSlots via (descOf (sq 2 6 more) 0x10000) b c (sq 2 6 more)
    (∃ t, r [] 2 0 = .ok (0, t)) ∧ r [] 1 1 = outOfBounds 1 ∧ r [] 5 2 = outOfBounds 6 ∧ (∃ t, r [] 3 1 = .ok (2, t)) ∧
    (∃ t, r [(0x10030, 8, 2)] 3 3 = .ok (3, t)) ∧ ∃ t, r [] 4 2 = .ok (0, t) := by
  have k := fun b c => h.2.2.2.2.1 via (descOf (sq 2 6 []) 0x10000) b c (sq 2 6 []) _ _ (met (by decide +kernel))
  have m := h.2.2.2.2.1 via (descOf (sq 2 6 [(0x10030, 8, 2)]) 0x10000) 3 3 (sq 2 6 [(0x10030, 8, 2)]) _ _ (met (by decide +kernel))
  have pend : (descOf (sq 2 6 []) 0x10000).pend = 0 := by decide +kernel
  exact ⟨⟨_, (k 2 0).1 rfl⟩, (k 1 1).2.1 (by decide) (by decide +kernel), (k 5 2).2.2.1 (by decide) (by decide +kernel) (by decide +kernel),
    ⟨_, (k 3 1).2.2.2.1 (by decide) (by decide +kernel) (by decide +kernel)⟩,
    ⟨_, m.2.2.2.2.1 (by decide) (by decide +kernel) (by decide +kernel) ⟨3, by decide, by decide, by rw [pending]; decide +kernel⟩⟩,
    ⟨_, ((k 4 2).2.2.2.2.2 (by decide) (by decide +kernel) (by decide +kernel) (by rintro ⟨i, -, -, e⟩; rw [pending, pend] at e; simp at e)).trans
      (answers 0 (by decide +kernel))⟩⟩

/-- The image of a descriptor, with a CFG. -/
def imageOf (cfg : Nat) : List Byte := leBytes 8 0 ++ leBytes 4 cfg ++ leBytes 4 0 ++ leBytes 8 0x14100 ++ leBytes 8 0x10080 ++ List.replicate 32 0

/-- New sequences: at address 0, at one that is not aligned, of an image that is not sound, and of one that is. -/
theorem witness_NewSequence (h : Obligations.SequencesComplete) :
    let r := fun va cfg => newSequence via va (imageOf cfg) 0x40 (sq 2 3 [])
    good (r 0 0) = false ∧ good (r 0x14004 0) = false ∧ good (r 0x14000 0xFFFFFFFF) = false ∧ good (r 0x14000 (3 + 2 * 16 + 4 * 512)) = true := by
  have k := fun va cfg => h.2.2.2.2.2.1 via va 0x40 (imageOf cfg) (sq 2 3 [])
  refine ⟨?_, ?_, ?_, ?_⟩
  · show good (newSequence via 0 (imageOf 0) 0x40 (sq 2 3 [])) = false
    rw [(k 0 0).1 rfl]; rfl
  · show good (newSequence via 0x14004 (imageOf 0) 0x40 (sq 2 3 [])) = false
    rw [(k 0x14004 0).2.1 (by decide)]; rfl
  · show good (newSequence via 0x14000 (imageOf 0xFFFFFFFF) 0x40 (sq 2 3 [])) = false
    rw [(k 0x14000 0xFFFFFFFF).2.2.1 (by decide) (by decide) (by decide +kernel)]; rfl
  · show good (newSequence via 0x14000 (imageOf (3 + 2 * 16 + 4 * 512)) 0x40 (sq 2 3 [])) = true
    rw [(k 0x14000 (3 + 2 * 16 + 4 * 512)).2.2.2 (by decide) (by decide) (by decide +kernel)]; decide +kernel

/-- A parent of five slots, and a child of the same shape or another. -/
def family (cfg : Nat) : State :=
  sq 5 5 [(0x10110, 8, 0x12200 / 128 * 65536 + 1), (0x14008, 4, cfg), (0x14010, 8, 0x14100), (0x14018, 8, 0x10080)]

/-- Forks: past CL, of a child of another shape, of one whose table is too small, and of one slot. -/
theorem witness_Fork (h : Obligations.SequencesComplete) :
    let r := fun cfg k => forkSequence via 0 0x10000 0x14000 k (family cfg)
    let same := 3 + 2 * 16 + 4 * 512
    r same 6 = outOfBounds 5 ∧ (∃ t, r (4 + 1 * 16 + 4 * 512) 1 = .ok (6, t)) ∧ (∃ t, r (3 + 2 * 16) 5 = .ok (5, t)) ∧ ∃ t, r same 1 = .ok (0, t) :=
  have k := fun cfg n (g : good (openDesc via 0x10000 .load (family cfg)) = true)
      (f : good (openPlain via 0x14000 .atomic (got _ g).2) = true) (e : good (openPool via 0x14000 (got _ f).1 (got _ f).2) = true) =>
    h.2.2.2.2.2.2.1 via 0 n 0x10000 0x14000 (family cfg) _ _ _ _ _ _ (met g) (met f) (met e)
  ⟨((k (3 + 2 * 16 + 4 * 512) 6 (by decide +kernel) (by decide +kernel) (by decide +kernel)).1 (by decide +kernel)).trans
      (congrArg outOfBounds (by decide +kernel)),
   ⟨_, (k (4 + 1 * 16 + 4 * 512) 1 (by decide +kernel) (by decide +kernel) (by decide +kernel)).2.1 (by decide +kernel) (by decide +kernel)⟩,
   ⟨_, (k (3 + 2 * 16) 5 (by decide +kernel) (by decide +kernel) (by decide +kernel)).2.2.1 (by decide +kernel) (by decide +kernel) (by decide +kernel)⟩,
   ⟨_, ((k (3 + 2 * 16 + 4 * 512) 1 (by decide +kernel) (by decide +kernel) (by decide +kernel)).2.2.2 (by decide +kernel) (by decide +kernel) (by decide +kernel)).trans
     (answers 0 (by decide +kernel))⟩⟩

/-- A sequence is freed. -/
theorem witness_Free (h : Obligations.SequencesComplete) : ∃ t, freeSequence via 0x10000 (sq 2 3 []) = .ok (0, t) :=
  ⟨_, (h.2.2.2.2.2.2.2 via 0x10000 (sq 2 3 []) _ _ (met (by decide +kernel))).trans (answers 0 (by decide +kernel))⟩

/-! ### Words of the opcode table, written out from the fields of spec/05 R115 to R122 -/

/-- A word of 64 bits with nothing but a guard of p7. -/
def plainWord : Base := ⟨.w64, 0, 7, false, 0, .vec, .i8, ⟨.vec, 0⟩, ⟨.vec, 0⟩, ⟨.vec, 0⟩, 0, false, 0, 0⟩
/-- A scalar register as a source, and a vector register. -/
def sc (n : BitVec 8) : Src := ⟨.scl, n⟩
/-- A vector register as a source. -/
def ve (n : BitVec 8) : Src := ⟨.vec, n⟩

theorem test_decode_ffma : decode ⟨0x183102016008614C, 0, 0⟩ =
    .ok (.ffma { plainWord with grd := 3, dst := 4, ty := .f32, a := ve 5, b := sc 2, c := ⟨.cst, 12⟩, lu := 1 }) := (by decide +kernel)
theorem test_decode_clh : decode ⟨0x0000000154802404, 0, 0⟩ = .ok (.clh ⟨5, 5, 2, 9⟩) := (by decide +kernel)
theorem test_decode_bra : decode ⟨0x0000000000014021, 0x00FFFFF0, 0⟩ =
    .ok (.bra { plainWord with len := .w96, grd := 2, gneg := true, e1 := 0x00FFFFF0 }) := (by decide +kernel)
theorem test_decode_ld : decode ⟨0x000003411810E281, 0x02000040, 0⟩ =
    .ok (.ld { plainWord with len := .w96, dst := 8, ty := .n32, a := sc 4, b := ve 3, e1 := 0x02000040 }) := (by decide +kernel)
theorem test_decode_lari : decode ⟨0x0C0404009814E3C4, 0, 0⟩ =
    .ok (.lariAdd { plainWord with dst := 10, ty := .n32, a := ve 2, b := ve 4, c := lit 1 }) := (by decide +kernel)
theorem test_decode_lbnd : decode ⟨0x000000C20000E3C0, 0, 0⟩ = .ok (.lbndOn { plainWord with a := lit 8 }) := (by decide +kernel)
theorem test_decode_sysc : decode ⟨0x000000C14000E3D0, 0, 0⟩ = .ok (.sysc { plainWord with a := lit 5 }) := (by decide +kernel)
theorem test_decode_atoms : decode ⟨0x00230002D818FF0C, 0, 0⟩ =
    .ok (.atoms { plainWord with fn := 7, dst := 12, ty := .n32, a := ve 11, b := lit 0, c := ve 8 }) := (by decide +kernel)
theorem test_decode_mma : decode ⟨0x0C0B01C00000E38E, 0, 0⟩ =
    .ok (.mma { plainWord with len := .w128, a := lit 0, b := lit 1, c := lit 2 }) := (by decide +kernel)
theorem test_decode_sqlen : decode ⟨0x000000411A14E3B8, 0, 0⟩ =
    .ok (.sqlen { plainWord with dst := 10, dk := .scl, ty := .n32, a := sc 4 }) := (by decide +kernel)
theorem test_decode_afnc : decode ⟨0x000000410000E358, 0, 0⟩ = .ok (.afnc { plainWord with a := sc 4 }) := (by decide +kernel)
theorem test_decode_launch : decode ⟨0x00010C410214E3EA, 0, 0⟩ =
    .ok (.launch { plainWord with len := .w128, dst := 10, dk := .scl, a := sc 4, b := sc 12 }) := (by decide +kernel)
theorem test_decode_coll : decode ⟨0x000000430000E35E, 0, 1⟩ =
    .ok (.coll { plainWord with len := .w128, a := sc 12, e2 := 1 }) := (by decide +kernel)
theorem test_decode_trace : decode ⟨0x000108C1C000E3EC, 0, 0⟩ = .ok (.trace { plainWord with a := lit 7, b := sc 8 }) := (by decide +kernel)
theorem test_decode_callx : decode ⟨0x000000028000E030, 0, 0⟩ = .ok (.callx { plainWord with a := ve 10 }) := (by decide +kernel)
theorem test_decode_call : decode ⟨0x000000000000E02D, 0x00FFFFF3, 0⟩ =
    .ok (.call { plainWord with len := .w96, e1 := 0x00FFFFF3 }) := (by decide +kernel)
theorem test_decode_madw : decode ⟨0x0C0007018814E094, 0, 0⟩ =
    .ok (.madw { plainWord with dst := 10, ty := .i32, a := ve 6, b := ve 7, c := lit 0 }) := (by decide +kernel)
theorem test_decode_sqabn : decode ⟨0x043D0E451A1AE3B0, 0, 0⟩ =
    .ok (.sqabn { plainWord with dst := 13, dk := .scl, ty := .n32, a := sc 20, b := sc 14, c := sc 15 }) := (by decide +kernel)
/-- Opcode 0xFF and a length code of 3 are no instructions (05 R118, R114). -/
theorem test_decode_none : decode ⟨0x000000000000E3FC, 0, 0⟩ = .error .illegalInstruction ∧
    decode ⟨0x000000000000E003, 0, 0⟩ = .error .illegalInstruction := (by decide +kernel)

/-! ### Ill-formed terms, one for each check (05 R115 to R122) -/

/-- A type or a function that the instruction does not have. -/
theorem test_illegal_instruction : (Instr.add (ab .f16)).check = some .illegalInstruction ∧
    (Instr.add (fn (ab .i32) 4)).check = some .illegalInstruction ∧ (Instr.fadd (fn (ab .f32) 4)).check = some .illegalInstruction := (by decide +kernel)
/-- Fields that must be zero: FS without a flagged result, a negated p7, a guard, a type, a function, sources, destination and extension words
that the instruction does not use, and words beyond its length. -/
theorem test_reserved_field : (Instr.add { ab .i32 with fs := true }).check = some .reservedField ∧
    (Instr.add { ab .i32 with gneg := true }).check = some .reservedField ∧ (Instr.phase { bare with grd := 2 }).check = some .reservedField ∧
    (Instr.brc { bare with ty := .n32, a := sc 4, len := .w96 }).check = some .reservedField ∧
    (Instr.ld (fn (wide96 (ab .n32) 0x01000000) 1)).check = some .reservedField ∧
    (Instr.abs (ab .i32)).check = some .reservedField ∧ (Instr.st (abc .n32)).check = some .reservedField ∧
    (Instr.add (wide96 (ab .i32) 1)).check = some .reservedField ∧ (Instr.add { ab .i32 with e1 := 1 }).check = some .reservedField ∧
    (Instr.bkpt ⟨.w64, 0, 1, 0⟩).check = some .reservedField := (by decide +kernel)
/-- Operands that the instruction does not take: registers past the file, odd registers of pairs, a vector source of a scalar result, a
literal its type cannot hold, and destinations of the wrong kind. -/
theorem test_illegal_operand : (Instr.add { ab .i32 with a := ve 128 }).check = some .illegalOperand ∧
    (Instr.add { ab .i64 with a := sc 9 }).check = some .illegalOperand ∧ (Instr.add { ab .i32 with a := sc 64 }).check = some .illegalOperand ∧
    (Instr.add (toScl { ab .i32 with a := ve 4 })).check = some .illegalOperand ∧
    (Instr.add { ab .i32 with dst := 128 }).check = some .illegalOperand ∧ (Instr.add { ab .i64 with dst := 9 }).check = some .illegalOperand ∧
    (Instr.isetp { ab .i32 with dst := 8 }).check = some .illegalOperand ∧
    (Instr.clh ⟨5, 13, 2, 9⟩).check = some .illegalOperand ∧ (Instr.clh ⟨0, 5, 2, 9⟩).check = some .clauseFrame := (by decide +kernel)
/-- An happens has no words. -/
theorem test_event_has_no_encoding : ¬(Instr.issueCycle 0).WellFormed := fun h => absurd h.1 (by decide +kernel)

end Sys2Proof.Tests
end

/-! PROOFS. Memory reads what was written (spec/03 R45), and a party reads what it stored by the phased path (R50). -/

namespace Sys2Proof.Machine

/-- Settles O55. -/
theorem resetIsCanonical : Obligations.ResetIsCanonical := Memory.wf_nil

/-! ### Bytes of memory -/

theorem Memory.read_writeN_outside (bs : List Byte) (m : Memory) {a x : Nat} (hx : x < a ∨ a + bs.length ≤ x) :
    (m.writeN a bs).read x = m.read x := by
  induction bs generalizing m a with
  | nil => rfl
  | cons b bs ih =>
    rw [List.length_cons] at hx
    exact (ih _ (by omega)).trans (Memory.read_write_other m b (by omega))

theorem Memory.read_writeN_inside (bs : List Byte) (m : Memory) (a : Nat) {i : Nat} (hi : i < bs.length) :
    (m.writeN a bs).read (a + i) = bs[i] := by
  induction bs generalizing m a i with
  | nil => cases hi
  | cons b bs ih =>
    cases i with
    | zero => exact (Memory.read_writeN_outside bs _ (.inl (by omega))).trans (Memory.read_write_same m a b)
    | succ i =>
      rw [← Nat.add_assoc, Nat.add_right_comm]
      exact ih _ _ (Nat.lt_of_succ_lt_succ hi)

theorem Memory.readN_writeN (m : Memory) (a : Nat) (bs : List Byte) : (m.writeN a bs).readN a bs.length = bs :=
  List.ext_getElem (by simp [Memory.readN]) fun i _ hi => by
    simp [Memory.readN, Memory.read_writeN_inside bs m a hi]

/-- Settles O29: by induction on the bytes written, from what one byte's write does to a read. -/
theorem memoryReadsWhatWasWritten : Obligations.MemoryReadsWhatWasWritten := fun m a bs hm =>
  ⟨Memory.readN_writeN m a bs, fun _ hx => Memory.read_writeN_outside bs m hx, Memory.wf_writeN bs m a hm⟩

/-! ### The phased path -/

/-- Updates in a row that each leave a part of the state alone leave it alone together. -/
theorem foldl_same {σ α β : Type} {f : σ → α → σ} (part : σ → β) (hf : ∀ s x, part (f s x) = part s) (l : List α) (s : σ) :
    part (l.foldl f s) = part s := by
  induction l generalizing s with
  | nil => rfl
  | cons x l ih => exact (ih _).trans (hf s x)

theorem State.markStored_cores (s : State) (p line i : Nat) (b : Byte) : (s.markStored p line i b).cores = s.cores := by
  unfold State.markStored
  dsimp only
  split
  · rfl
  · split
    · rfl
    · split <;> rfl

theorem find?_foldl_put {α : Type} (f : Nat → α) (d : Sparse α) (a : Nat) {n i : Nat} (hi : i < n) :
    Sparse.find? ((List.range n).foldl (fun d i => Sparse.put d (a + i) (f i)) d) (a + i) = some (f i) := by
  induction n with
  | zero => cases hi
  | succ n ih =>
    rw [List.range_succ, List.foldl_append]
    by_cases h : i = n
    · subst h
      exact Sparse.find?_put_same ..
    · exact (Sparse.find?_put_other _ _ (by omega)).trans (ih (by omega))

/-- The dirty byte that a store of an agent's party leaves at place `i` of its bytes. -/
def State.storedByte (s : State) (k : Nat) (bs : List Byte) (i : Nat) : DirtyByte :=
  let p := (s.agent k).party
  ⟨bs.getD i 0, p, (s.party p).role == .leader || (s.party p).role == .trailer⟩

/-- What a store by the phased path leaves in the core at its bytes: each is dirty, with the value stored and the party that stored it. -/
theorem State.phasedWrite_dirty (s : State) (k pa : Nat) (bs : List Byte) {i : Nat} (hi : i < bs.length) :
    ∃ d, Sparse.find? ((s.phasedWrite k pa bs).core (coreOf k)).dirty (pa + i) = some d ∧ d.val = bs[i] := by
  have hcores : (s.phasedWrite k pa bs).cores = (s.setCore (coreOf k) { s.core (coreOf k) with
      dirty := (List.range bs.length).foldl (fun m i => Sparse.put m (pa + i) (s.storedByte k bs i)) (s.core (coreOf k)).dirty }).cores :=
    foldl_same State.cores (fun s _ => foldl_same State.cores (fun s _ => State.markStored_cores ..) _ s) _ _
  refine ⟨s.storedByte k bs i, ?_, List.getD_eq_getElem _ _ hi⟩
  rw [State.core, hcores, ← State.core, State.core_setCore_same]
  exact find?_foldl_put (s.storedByte k bs) _ pa hi

theorem State.heldByte_of_dirty {s : State} {c pa : Nat} {d : DirtyByte} (p : Nat) (h : Sparse.find? (s.core c).dirty pa = some d) :
    s.heldByte c p pa = some d.val := by
  simp [State.heldByte, h]

theorem State.heldBad_of_dirty {s : State} {c pa : Nat} {d : DirtyByte} (p : Nat) (h : Sparse.find? (s.core c).dirty pa = some d) :
    s.heldBad c p pa = false := by
  simp [State.heldBad, h]

/-- A read by the phased path of bytes that are all dirty in the core brings them, and asks nothing of the home slice. -/
theorem phasedRead_of_dirty {s : State} {k pa : Nat} {bs : List Byte} (va : DWord)
    (h : ∀ (i : Nat) (_ : i < bs.length), ∃ d, Sparse.find? (s.core (coreOf k)).dirty (pa + i) = some d ∧ d.val = bs[i]) :
    ∃ t, phasedRead k va pa bs.length s = .ok (bs, t) := by
  have hheld : (List.range bs.length).map (fun i => s.heldByte (coreOf k) (s.agent k).party (pa + i)) = bs.map some :=
    List.ext_getElem (by simp) fun i _ hi => by
      obtain ⟨d, hd, hv⟩ := h i (by simpa using hi)
      simp [State.heldByte_of_dirty _ hd, hv]
  have hbad : (!(List.range bs.length).any fun i => s.heldBad (coreOf k) (s.agent k).party (pa + i)) = true := by
    rw [Bool.not_eq_true', List.any_eq_false]
    intro i hi
    obtain ⟨d, hd, -⟩ := h i (List.mem_range.1 hi)
    simp [State.heldBad_of_dirty _ hd]
  have hget : (bs.map some).map (fun b : Option Byte => b.getD 0) = bs := by simp
  refine ⟨(s.markBytesRead (s.agent k).party (pa / 128) (pa % 128) bs), ?_⟩
  unfold phasedRead
  refine (M.bind_run (M.get_run s)).trans ?_
  dsimp only
  refine (M.bind_run ((require_ok ..).2 ⟨hbad, rfl⟩)).trans ?_
  rw [hheld, if_pos (by simp), hget]
  rfl

/-- Settles O28: the bytes stored are dirty in the core, and a dirty byte is what a read brings, before any mark and the home slice. -/
theorem phasedReadAfterWrite : Obligations.PhasedReadAfterWrite := fun s k pa va bs _ _ =>
  phasedRead_of_dirty va fun _ hi => s.phasedWrite_dirty k pa bs hi

end Sys2Proof.Machine

/-! PROOFS. What keeps memory canonical: the rules by which an effect, an update of the state or a step is seen to keep the canonical
form, with nothing about any one instruction. -/

namespace Sys2Proof.Machine

/-- The state in which an effect ends, where it ends normally, has canonical memory. -/
def EndsWf {α : Type} (r : Except Abort (α × State)) : Prop := ∀ (a : α) (t : State), r = .ok (a, t) → Memory.wf t.mem = true

/-- An effect that ends normally leaves memory canonical where it found it so. -/
def Keeps {α : Type} (m : M α) : Prop := ∀ s : State, Memory.wf s.mem = true → EndsWf (m s)

/-- The next state of an outcome, where there is one, has canonical memory. -/
def NextWf (o : Host.Outcome State Fault Refusal) : Prop := ∀ t : State, o = .next t → Memory.wf t.mem = true

/-! ### Updates of the state -/

theorem wf_foldl {σ α : Type} {f : σ → α → σ} (mem : σ → Memory)
    (hf : ∀ s x, Memory.wf (mem s) = true → Memory.wf (mem (f s x)) = true) (l : List α) (s : σ) (hs : Memory.wf (mem s) = true) :
    Memory.wf (mem (l.foldl f s)) = true := by
  induction l generalizing s with
  | nil => exact hs
  | cons x l ih => exact ih _ (hf s x hs)

theorem foldl_mem {α : Type} {f : State → α → State} (hf : ∀ s x, (f s x).mem = s.mem) (l : List α) (s : State) :
    (l.foldl f s).mem = s.mem := foldl_same State.mem hf l s

theorem bind_ok_cases {ε α β : Type} {x : Except ε α} {f : α → Except ε β} {b : β} (h : x >>= f = .ok b) :
    ∃ a, x = .ok a ∧ f a = .ok b := by
  cases x with
  | error => cases h
  | ok a => exact ⟨a, rfl, h⟩

/-- What each step of a fold that may fail keeps, the fold keeps. -/
theorem foldlM_keeps {ε σ α : Type} {P : σ → Prop} {f : σ → α → Except ε σ} (hf : ∀ s x t, P s → f s x = .ok t → P t) (l : List α)
    {s t : σ} (hs : P s) (h : l.foldlM f s = .ok t) : P t := by
  induction l generalizing s with
  | nil => cases h; exact hs
  | cons x l ih =>
    obtain ⟨s', hx, h⟩ := bind_ok_cases (by rwa [List.foldlM_cons] at h)
    exact ih (hf s x s' hs hx) h

theorem wf_ite {c : Prop} [Decidable c] {s t : State} (hs : Memory.wf s.mem = true) (ht : Memory.wf t.mem = true) :
    Memory.wf (if c then s else t).mem = true := by
  split <;> assumption

theorem ite_mem {c : Prop} [Decidable c] {s t : State} {m : Memory} (hs : s.mem = m) (ht : t.mem = m) :
    (if c then s else t).mem = m := by
  split <;> assumption

/-- A fact about a value that a `let` names, and what follows from it. -/
theorem havingShown {P Q : Prop} (hp : P) (hq : P → Q) : Q := hq hp

/-! ### Outcomes -/

namespace NextWf

theorem next {t : State} (ht : Memory.wf t.mem = true) : NextWf (.next t) := fun _ h => by cases h; exact ht

theorem fault (f : Fault) : NextWf (.fault f) := fun _ h => nomatch h

theorem ite {c : Prop} [Decidable c] {o p : Host.Outcome State Fault Refusal} (ho : NextWf o) (hp : NextWf p) :
    NextWf (if c then o else p) := by
  split <;> assumption

end NextWf

/-! ### Effects -/

theorem EndsWf.ok {α : Type} {a : α} {t : State} (ht : Memory.wf t.mem = true) : EndsWf (.ok (a, t)) := fun _ _ h => by cases h; exact ht

theorem EndsWf.ite {α : Type} {c : Prop} [Decidable c] {r q : Except Abort (α × State)} (hr : EndsWf r) (hq : EndsWf q) :
    EndsWf (if c then r else q) := by
  split <;> assumption

theorem EndsWf.error {α : Type} (e : Abort) : EndsWf (.error e : Except Abort (α × State)) := fun _ _ h => nomatch h

namespace Keeps

variable {α β : Type}

theorem run {m : M α} {s : State} (hm : Keeps m) (hs : Memory.wf s.mem = true) : EndsWf (m s) := hm s hs

theorem pure (a : α) : Keeps (Pure.pure a : M α) := fun _ hs => .ok hs

theorem abort (a : Abort) : Keeps (abort a : M α) := fun _ _ => .error a

theorem raise (c : Cause) (v : DWord) : Keeps (raise c v : M α) := abort _

theorem raiseSub (c : Cause) (n : BitVec 4) (v : DWord) : Keeps (raiseSub c n v : M α) := abort _

theorem waitFor (w : Wait) : Keeps (waitFor w : M α) := abort _

theorem bind {m : M α} {f : α → M β} (hm : Keeps m) (hf : ∀ a, Keeps (f a)) : Keeps (m >>= f) := fun s hs b t h => by
  obtain ⟨a, s1, h1, h2⟩ := (M.bind_ok ..).1 h
  exact hf a s1 (hm s hs a s1 h1) b t h2

theorem map {f : α → β} {m : M α} (hm : Keeps m) : Keeps (f <$> m) := by
  rw [map_eq_pure_bind]
  exact bind hm fun _ => pure _

theorem ite {c : Prop} [Decidable c] {m n : M α} (hm : Keeps m) (hn : Keeps n) : Keeps (if c then m else n) := by
  split <;> assumption

/-- What follows a read of the state may rely on the canonical form of what was read. -/
theorem get_bind {f : State → M β} (hf : ∀ s, Memory.wf s.mem = true → Keeps (f s)) : Keeps (MonadState.get >>= f) :=
  fun s hs => hf s hs s hs

theorem set {s : State} (hs : Memory.wf s.mem = true) : Keeps (set s : M PUnit) := fun _ _ => .ok hs

theorem modify {f : State → State} (hf : ∀ s, Memory.wf s.mem = true → Memory.wf (f s).mem = true) : Keeps (modify f : M PUnit) :=
  fun s hs => .ok (hf s hs)

theorem forEach {xs : List α} {f : α → M Unit} (hf : ∀ x, Keeps (f x)) : Keeps (forEach xs f) := by
  induction xs with
  | nil => exact pure _
  | cons x xs ih => exact bind (hf x) fun _ => ih

theorem collect {xs : List α} {f : α → M β} (hf : ∀ x, Keeps (f x)) : Keeps (collect xs f) := by
  induction xs with
  | nil => exact pure _
  | cons x xs ih => exact bind (hf x) fun _ => bind ih fun _ => pure _

theorem attempt {m : M α} (hm : Keeps m) : Keeps (attempt m) := fun s hs r t h => by
  obtain ⟨a, -, h⟩ | ⟨e, -, rfl, -⟩ := (attempt_ok ..).1 h
  · exact hm s hs a t h
  · exact hs

/-! ### Effects of the lanes of a group -/

theorem eachLane {ls : List Nat} {act : Nat → M LaneOut} (h : ∀ l, Keeps (act l)) : Keeps (eachLane ls act) := by
  induction ls with
  | nil => exact pure _
  | cons l ls ih =>
    refine bind (attempt (h l)) fun r => ?_
    split
    · exact bind ih fun _ => pure _
    · refine get_bind fun s _ => ?_
      split
      · exact pure _
      · exact bind ih fun _ => pure _

theorem onceOut {b : Base} {act : Nat → M LaneOut} (h : ∀ l, Keeps (act l)) : Keeps (onceOut b act) := by
  refine get_bind fun s _ => ?_
  split
  · exact pure _
  · refine bind (attempt (h _)) fun r => ?_
    split <;> exact pure _

theorem onceHeld {b : Base} {act : Nat → M (List (Dest × Word) × Option Wait)} (h : ∀ l, Keeps (act l)) : Keeps (onceHeld b act) := by
  refine get_bind fun s _ => ?_
  split
  · exact pure _
  · refine bind (attempt (h _)) fun r => ?_
    split <;> exact pure _

theorem seqLanes {b : Base} {act : Nat → M LaneOut} (h : ∀ l, Keeps (act l)) : Keeps (seqLanes b act) := by
  refine get_bind fun s _ => ?_
  split
  · exact onceOut h
  · exact eachLane h

theorem checkedFirst {ls : List Nat} {act : Nat → M LaneOut} {go : M GroupOut} (h : ∀ l, Keeps (act l)) (hgo : Keeps go) :
    Keeps (checkedFirst ls act go) := by
  refine get_bind fun s hs => ?_
  split
  · exact hgo
  · refine bind (eachLane fun l => bind (attempt (h l)) fun r => ?_) fun pre => bind (set hs) fun _ => ?_
    · split
      · exact pure _
      · split
        · exact abort _
        · exact pure _
    · split
      · exact hgo
      · exact pure _

theorem accessLanes {b : Base} {act : Nat → M LaneOut} (h : ∀ l, Keeps (act l)) : Keeps (accessLanes b act) := by
  refine get_bind fun s _ => ?_
  split
  · exact checkedFirst h (onceOut h)
  · exact checkedFirst h (eachLane h)

theorem boundRule {keep : Bool} {m : M GroupOut} (hm : Keeps m) : Keeps (boundRule keep m) := fun s hs => by
  unfold Machine.boundRule
  split
  · exact .error _
  · next h =>
    have ht := hm s hs _ _ h
    split
    · cases keep
      · exact .ok hs
      · exact .ok ht
    · exact .ok ht

end Keeps

/-- The goal, shown by following the program that it speaks of: binds, branches, folds and values that a `let` names by the rules above,
and each function called by the lemma about it, which `simp` knows. -/
theorem bySteps {P : Prop} (h : P := by
    repeat' first
      | with_reducible assumption
      | with_reducible rfl
      | (with_reducible show State.mem _ = State.mem _
         dsimp only)
      | (set_option linter.tactic.unusedName false in extract_lets +onlyGivenNames -underBinder x
         first
           | (with_reducible refine havingShown (P := ∀ r, Keeps (x r)) (fun _ => ?_) fun _ => ?_
              on_goal 1 => (unfold x; clear x)
              on_goal 2 => clear_value x)
           | (with_reducible refine havingShown (P := Memory.wf x.mem = true) ?_ fun _ => ?_
              on_goal 1 => (unfold x; clear x)
              on_goal 2 => clear_value x)
           | try clear_value x)
      | with_reducible refine Keeps.get_bind fun _ _ => ?_
      | with_reducible refine Keeps.bind ?_ fun _ => ?_
      | with_reducible refine Keeps.map ?_
      | with_reducible refine Keeps.ite ?_ ?_
      | with_reducible exact Keeps.pure _
      | with_reducible exact Keeps.abort _
      | with_reducible exact Keeps.raise _ _
      | with_reducible exact Keeps.raiseSub _ _ _
      | with_reducible exact Keeps.waitFor _
      | with_reducible refine Keeps.set ?_
      | with_reducible refine Keeps.modify fun _ _ => ?_
      | with_reducible refine Keeps.forEach fun _ => ?_
      | with_reducible refine Keeps.collect fun _ => ?_
      | with_reducible refine Keeps.attempt ?_
      | with_reducible refine Keeps.eachLane fun _ => ?_
      | with_reducible refine Keeps.onceOut fun _ => ?_
      | with_reducible refine Keeps.onceHeld fun _ => ?_
      | with_reducible refine Keeps.seqLanes fun _ => ?_
      | with_reducible refine Keeps.checkedFirst (fun _ => ?_) ?_
      | with_reducible refine Keeps.accessLanes fun _ => ?_
      | with_reducible refine Keeps.boundRule ?_
      | with_reducible refine EndsWf.ok ?_
      | with_reducible exact EndsWf.error _
      | with_reducible refine EndsWf.ite ?_ ?_
      | with_reducible refine Keeps.run ?_ ?_
      | with_reducible refine NextWf.next ?_
      | with_reducible exact NextWf.fault _
      | with_reducible refine NextWf.ite ?_ ?_
      | with_reducible refine wf_foldl State.mem (fun _ _ _ => ?_) _ _ ?_
      | with_reducible refine (foldl_mem (fun _ _ => ?_) _ _).trans ?_
      | with_reducible refine wf_ite ?_ ?_
      | with_reducible refine ite_mem ?_ ?_
      | (simp [Memory.wf_writeN, *]; done)
      | split
      | (with_reducible show (_ : Memory) = _
         simp [*])
      | (with_reducible show Memory.wf _ = _
         simp [*])) : P := h

end Sys2Proof.Machine

/-! PROOFS. What each function of the model leaves of memory, in the order of the model's files, and then a step. Of a function `f`,
`f_mem` says that the state it gives has the memory it was given; `f_wf` that its memory is canonical where it was; `f_keeps` the same of
an effect; and `f_next` the same of what may come of a step. -/

namespace Sys2Proof.Machine

-- One proof after another: each reads the tactics of `bySteps`, for which it waits until all before it is checked.
set_option Elab.async false

/-! ### Machine/Ops -/

@[simp] theorem require_keeps (p : Bool) (c : Cause) (val : DWord) : Keeps (require p c val) := by
  unfold require; exact bySteps

@[simp] theorem modCore_keeps (c : Nat) (f : Core → Core) : Keeps (modCore c f) := .modify fun _ hs => hs

@[simp] theorem modAgent_keeps (k : Nat) (f : Agent → Agent) : Keeps (modAgent k f) := .modify fun _ hs => hs

@[simp] theorem modParty_keeps (p : Nat) (f : Party → Party) : Keeps (modParty p f) := .modify fun _ hs => hs

@[simp] theorem modCamp_keeps (c : Nat) (f : Camp → Camp) : Keeps (modCamp c f) := .modify fun _ hs => hs

@[simp] theorem modPart_keeps (p : Nat) (f : Partition → Partition) : Keeps (modPart p f) := .modify fun _ hs => hs

@[simp] theorem modLane_keeps (k l : Nat) (f : Lane → Lane) : Keeps (modLane k l f) := .modify fun _ hs => hs

@[simp] theorem newUid_keeps : Keeps newUid := fun _ hs => .ok hs

@[simp] theorem State.startFlash_mem (s : State) (line : Nat) : (s.startFlash line).mem = s.mem := by
  unfold State.startFlash; split <;> rfl

@[simp] theorem State.queueVersion_mem (s : State) (pa k l : Nat) : (s.queueVersion pa k l).mem = s.mem := by
  unfold State.queueVersion; split <;> rfl

@[simp] theorem physRead_keeps (pa n : Nat) : Keeps (physRead pa n) := fun _ hs _ _ h => by
  obtain ⟨-, -, -, rfl⟩ := (physRead_ok ..).1 h
  exact hs

@[simp] theorem physWrite_keeps (pa : Nat) (bs : List Byte) : Keeps (physWrite pa bs) := fun _ hs _ _ h => physWrite_wf h hs

@[simp] theorem State.tickDie_mem (s : State) (d who : Nat) : (s.tickDie d who).mem = s.mem := rfl

@[simp] theorem State.sleep_mem (s : State) (k : Nat) (ls : List Nat) (w : Wait) : (s.sleep k ls w).mem = s.mem := by
  unfold State.sleep; exact bySteps

@[simp] theorem State.wakeLanes_mem (s : State) (k : Nat) (p : Wait → Bool) : (s.wakeLanes k p).mem = s.mem := rfl

@[simp] theorem State.wakeAll_mem (s : State) (p : Wait → Bool) : (s.wakeAll p).mem = s.mem := rfl

@[simp] theorem State.heatHalts_mem (s : State) (ks : List Nat) : (s.heatHalts ks).mem = s.mem := by
  unfold State.heatHalts; split <;> rfl

@[simp] theorem State.takeTrap_mem (s : State) (k l : Nat) (t : Trap) (pc : DWord) (cl : Clause) :
    (s.takeTrap k l t pc cl).mem = s.mem := by
  unfold State.takeTrap; exact bySteps

/-! ### Machine/Mmu -/

@[simp] theorem State.setPteBits_wf {s : State} (pa : Nat) (bits : DWord) (hs : Memory.wf s.mem = true) :
    Memory.wf (s.setPteBits pa bits).mem = true := by
  unfold State.setPteBits; exact bySteps

/-- A walk sets A at the home slices of the leaves it used. -/
theorem walk_wf {s t : State} {hart : Bool} {runs : List Run} {sp : Space} {start : Option (Nat × Nat)} {va : Nat} {e : TlbEntry}
    {ptrs : List (Nat × Nat)} (hs : Memory.wf s.mem = true) (h : walk s hart runs sp start va = .ok (e, ptrs, t)) :
    Memory.wf t.mem = true := by
  unfold walk at h
  dsimp only at h
  split at h
  · cases h
  · split at h
    · cases h; exact State.setPteBits_wf _ _ hs
    · split at h
      · cases h
      · cases h; exact State.setPteBits_wf _ _ (State.setPteBits_wf _ _ hs)

@[simp] theorem useEntry_keeps (hart : Bool) (e : TlbEntry) (m : Mode) (acc : Access) (va : DWord) :
    Keeps (useEntry hart e m acc va) := by
  unfold useEntry; exact bySteps

@[simp] theorem State.mapTlbs_mem (s : State) (home : TlbHome) (f : Tlb → Tlb) : (s.mapTlbs home f).mem = s.mem := by
  unfold State.mapTlbs; split <;> rfl

@[simp] theorem State.setDirty_wf {s : State} (home : TlbHome) (e : TlbEntry) (hs : Memory.wf s.mem = true) :
    Memory.wf (s.setDirty home e).mem = true := by
  unfold State.setDirty; exact bySteps

@[simp] theorem useTlb_keeps (home : TlbHome) (hart : Bool) (sp : Space) (e : TlbEntry) (m : Mode) (acc : Access) (va : DWord) :
    Keeps (useTlb home hart sp e m acc va) := by
  unfold useTlb
  refine .bind bySteps fun ph => ?_
  split
  · exact .pure _
  · refine .get_bind fun s hs => ?_
    split
    · exact bySteps
    · split
      · exact .abort _
      · next h => have hw := walk_wf hs h; exact bySteps

@[simp] theorem translate_keeps (k : Nat) (m : Mode) (va : DWord) (acc : Access) : Keeps (translate k m va acc) :=
  fun s hs => by unfold translate; exact bySteps

@[simp] theorem translateUnit_keeps (k uid : Nat) (m : Mode) (copy : Bool) (va : DWord) (acc : Access) :
    Keeps (translateUnit k uid m copy va acc) := fun s hs => by unfold translateUnit; exact bySteps

@[simp] theorem translateNow_keeps (d c : Nat) (sp : Space) (m : Mode) (va : DWord) (acc : Access) :
    Keeps (translateNow d c sp m va acc) := fun s hs => by
  unfold translateNow
  dsimp only
  split
  · exact bySteps
  · split
    · exact bySteps
    · split
      · exact .error _
      · next h => have hw := walk_wf hs h; exact bySteps

@[simp] theorem translateHart_keeps (n : Nat) (own : Bool) (sp : Space) (m : Mode) (va : DWord) (acc : Access) :
    Keeps (translateHart n own sp m va acc) := fun s hs => by
  unfold translateHart
  dsimp only
  split
  · exact bySteps
  · split
    · exact bySteps
    · split
      · exact .error _
      · next h => have hw := walk_wf hs h; exact bySteps

@[simp] theorem Via.translate_keeps (v : Via) (va : DWord) (acc : Access) : Keeps (Via.translate v va acc) := by
  unfold Via.translate; exact bySteps

/-! ### Machine/Record -/

@[simp] theorem State.setDet_mem (s : State) (d : Nat) (x : Det) : (s.setDet d x).mem = s.mem := rfl

@[simp] theorem consumeEntry_keeps (k : Nat) (engine : Bool) : Keeps (consumeEntry k engine) := by
  unfold consumeEntry; exact bySteps

@[simp] theorem logEntry_keeps (k : Nat) (kind : Nat) (mask : Word) (payload : List Byte) (opc : BitVec 8)
    (recs : List LaneRec) (op : Option Nat) (col : Option ColOp) (app : Option Append) (done : Word) (group : Word) (lacks : BitVec 4) :
    Keeps (logEntry k kind mask payload opc recs op col app done group lacks) := by
  unfold logEntry; exact bySteps

@[simp] theorem noteLine_keeps (k : Nat) (va : DWord) (paLine : Nat) (bytes : List Byte) (opc : BitVec 8) :
    Keeps (noteLine k va paLine bytes opc) := by
  unfold noteLine; exact bySteps

@[simp] theorem State.unsee_mem (s : State) (c paLine : Nat) : (s.unsee c paLine).mem = s.mem := rfl

@[simp] theorem noteFarLoad_keeps (k l : Nat) (va : DWord) (bs : List Byte) (opc : BitVec 8) :
    Keeps (noteFarLoad k l va bs opc) := by
  unfold noteFarLoad; exact bySteps

@[simp] theorem privateRead_keeps (k l : Nat) (va : DWord) (n : Nat) (opc : BitVec 8) : Keeps (privateRead k l va n opc) := by
  unfold privateRead; exact bySteps

@[simp] theorem takeLine_keeps (k : Nat) (va : DWord) (line : List Byte) (paLine : Option Nat) :
    Keeps (takeLine k va line paLine) := by
  unfold takeLine; exact bySteps

@[simp] theorem privateStore_keeps (k : Nat) (va : DWord) (bs : List Byte) : Keeps (privateStore k va bs) := by
  unfold privateStore; exact bySteps

@[simp] theorem noteStore_keeps (k : Nat) (va : DWord) (bs : List Byte) : Keeps (noteStore k va bs) := by
  unfold noteStore; exact bySteps

@[simp] theorem keepUnit_keeps (k uid : Nat) (u : EngineUnit) : Keeps (keepUnit k uid u) := by
  unfold keepUnit; exact bySteps

@[simp] theorem privateEngineRead_keeps (k uid : Nat) (va : DWord) (n : Nat) : Keeps (privateEngineRead k uid va n) := by
  unfold privateEngineRead; exact bySteps

@[simp] theorem noteUnit_keeps (k uid : Nat) (u : EngineUnit) (opc : BitVec 8) : Keeps (noteUnit k uid u opc) := by
  unfold noteUnit; exact bySteps

@[simp] theorem noteEvent_keeps (k : Nat) (mask : Word) (code value : Nat) : Keeps (noteEvent k mask code value) := by
  unfold noteEvent; exact bySteps

@[simp] theorem noteComplete_keeps (k uid : Nat) : Keeps (noteComplete k uid) := by
  unfold noteComplete; exact bySteps

/-! ### Machine/Access -/

@[simp] theorem homeReady_keeps (va : DWord) (pa : Nat) : Keeps (homeReady va pa) := fun s hs => by unfold homeReady; exact bySteps

@[simp] theorem homeRead_keeps (va : DWord) (pa n : Nat) : Keeps (homeRead va pa n) := by
  unfold homeRead; exact bySteps

@[simp] theorem homeWrite_keeps (pa : Nat) (bs : List Byte) : Keeps (homeWrite pa bs) := by
  unfold homeWrite; exact bySteps

@[simp] theorem State.publish_wf {s : State} (c : Nat) (pick : Nat → Bool) (hs : Memory.wf s.mem = true) :
    Memory.wf (s.publish c pick).mem = true := wf_foldl State.mem (fun _ _ hs => bySteps) _ _ hs

@[simp] theorem State.publishAll_wf {s : State} (c : Nat) (hs : Memory.wf s.mem = true) : Memory.wf (s.publishAll c).mem = true :=
  wf_foldl State.mem (fun _ _ hs => bySteps) _ _ hs

@[simp] theorem State.dropDirty_mem (s : State) (p : Nat) : (s.dropDirty p).mem = s.mem := rfl

@[simp] theorem State.publishHeld_wf {s : State} (p : Nat) (hs : Memory.wf s.mem = true) :
    Memory.wf (s.publishHeld p).mem = true := wf_foldl State.mem (fun _ _ hs => bySteps) _ _ hs

@[simp] theorem spillLine_keeps (va : DWord) (c part line : Nat) (bytes : List Byte) (parties : List Nat) :
    Keeps (spillLine va c part line bytes parties) := by
  unfold spillLine; exact bySteps

@[simp] theorem State.unspill_mem (s : State) (c p line : Nat) : (s.unspill c p line).mem = s.mem := rfl

@[simp] theorem evictLine_keeps (va : DWord) (c line : Nat) : Keeps (evictLine va c line) := by
  unfold evictLine; exact bySteps

@[simp] theorem takeLineIn_keeps (va : DWord) (c line : Nat) : Keeps (takeLineIn va c line) := by
  unfold takeLineIn; exact bySteps

@[simp] theorem State.endMarks_mem (s : State) (p : Nat) : (s.endMarks p).mem = s.mem := rfl

@[simp] theorem State.markBytesRead_mem (s : State) (p line i : Nat) (bs : List Byte) :
    (s.markBytesRead p line i bs).mem = s.mem := rfl

@[simp] theorem State.markStored_wf {s : State} (p line i : Nat) (b : Byte) (hs : Memory.wf s.mem = true) :
    Memory.wf (s.markStored p line i b).mem = true := by
  unfold State.markStored; exact bySteps

@[simp] theorem phasedRead_keeps (k : Nat) (va : DWord) (pa n : Nat) : Keeps (phasedRead k va pa n) := by
  unfold phasedRead; exact bySteps

@[simp] theorem State.phasedWrite_wf {s : State} (k pa : Nat) (bs : List Byte) (hs : Memory.wf s.mem = true) :
    Memory.wf (s.phasedWrite k pa bs).mem = true := wf_foldl State.mem (fun _ _ hs => bySteps) _ _ hs

@[simp] theorem State.performFar_wf {s : State} (op : FarOp) (hs : Memory.wf s.mem = true) :
    Memory.wf (s.performFar op).mem = true := by
  unfold State.performFar; exact bySteps

@[simp] theorem State.drainFar_wf {s : State} (k : Nat) (pick : FarOp → Bool) (hs : Memory.wf s.mem = true) :
    Memory.wf (s.drainFar k pick).mem = true := wf_foldl State.mem (fun _ _ hs => bySteps) _ _ hs

@[simp] theorem State.drainAll_wf {s : State} (k : Nat) (hs : Memory.wf s.mem = true) : Memory.wf (s.drainAll k).mem = true :=
  wf_foldl State.mem (fun _ _ hs => bySteps) _ _ hs

@[simp] theorem drainOverlap_keeps (k pa n : Nat) : Keeps (drainOverlap k pa n) := by
  unfold drainOverlap; exact bySteps

@[simp] theorem farRead_keeps (k : Nat) (va : DWord) (pa n : Nat) : Keeps (farRead k va pa n) := by
  unfold farRead; exact bySteps

@[simp] theorem farWrite_keeps (k pa : Nat) (bs : List Byte) : Keeps (farWrite k pa bs) := by
  unfold farWrite; exact bySteps

@[simp] theorem leaderLoad_keeps (k : Nat) (m : Mode) (va : DWord) (n : Nat) (line : List Byte) (fresh : Bool) :
    Keeps (leaderLoad k m va n line fresh) := by
  unfold leaderLoad; exact bySteps

@[simp] theorem loadBytes_keeps (k l : Nat) (m : Mode) (va : DWord) (n : Nat) (opc : BitVec 8) :
    Keeps (loadBytes k l m va n opc) := by
  unfold loadBytes; exact bySteps

@[simp] theorem storeBytes_keeps (k : Nat) (m : Mode) (va : DWord) (bs : List Byte) : Keeps (storeBytes k m va bs) := by
  unfold storeBytes; exact bySteps

@[simp] theorem engineRead_keeps (k uid : Nat) (m : Mode) (copy : Bool) (va : DWord) (n : Nat) (opc : BitVec 8) :
    Keeps (engineRead k uid m copy va n opc) := by
  unfold engineRead; exact bySteps

@[simp] theorem State.dropClean_mem (s : State) (p line : Nat) : (s.dropClean p line).mem = s.mem := by
  unfold State.dropClean; exact bySteps

@[simp] theorem engineWrite_keeps (k uid : Nat) (m : Mode) (copy : Bool) (va : DWord) (bs : List Byte) :
    Keeps (engineWrite k uid m copy va bs) := by
  unfold engineWrite; exact bySteps

@[simp] theorem liftCheck_keeps {α : Type} (x : Except Trap α) : Keeps (liftCheck x) := by
  unfold liftCheck; exact bySteps

@[simp] theorem spadRead_keeps (k : Nat) (addr : Word) (n : Nat) : Keeps (spadRead k addr n) := by
  unfold spadRead; exact bySteps

@[simp] theorem spadWrite_keeps (k : Nat) (addr : Word) (bs : List Byte) (copy : Bool) : Keeps (spadWrite k addr bs copy) := by
  unfold spadWrite; exact bySteps

@[simp] theorem constRead_keeps (k l : Nat) (m : Mode) (off n : Nat) : Keeps (constRead k l m off n) := by
  unfold constRead; exact bySteps

@[simp] theorem fetchLine_keeps (c : Nat) (va : DWord) (line : Nat) : Keeps (fetchLine c va line) := by
  unfold fetchLine; exact bySteps

@[simp] theorem fetch_keeps (k : Nat) (m : Mode) (pc : DWord) (n : Nat) : Keeps (fetch k m pc n) := by
  unfold fetch; exact bySteps

/-! ### Machine/Wake -/

@[simp] theorem State.wakeWaiter_mem (s : State) (w : Waiter) : (s.wakeWaiter w).mem = s.mem := by
  unfold State.wakeWaiter; split <;> rfl

@[simp] theorem State.grantWaiter_mem (s : State) (w : Waiter) : (s.grantWaiter w).mem = s.mem := by
  unfold State.grantWaiter; split <;> rfl

@[simp] theorem State.wake_mem (s : State) (slice part asid : Nat) (va : DWord) (n : Nat) :
    (s.wake slice part asid va n).mem = s.mem := by
  unfold State.wake; exact bySteps

@[simp] theorem State.performed_mem (s : State) (k : Nat) (lanes : List Nat) : (s.performed k lanes).mem = s.mem := by
  unfold State.performed; exact bySteps

@[simp] theorem State.withdraw_mem (s : State) (k l : Nat) : (s.withdraw k l).mem = s.mem := rfl

@[simp] theorem State.notifyStop_wf {s : State} (k : Nat) (hs : Memory.wf s.mem = true) : Memory.wf (s.notifyStop k).mem = true := by
  unfold State.notifyStop
  dsimp only
  split
  · exact hs
  · split
    · exact hs
    · next h => have hw := translateNow_keeps _ _ _ _ _ _ s hs _ _ h; exact bySteps

/-! ### Machine/Context -/

@[simp] theorem State.refill_mem (s : State) (k reg : Nat) : (s.refill k reg).mem = s.mem := by
  unfold State.refill; exact bySteps

@[simp] theorem State.removeParty_mem (s : State) (p : Nat) : (s.removeParty p).mem = s.mem := by
  unfold State.removeParty; exact bySteps

@[simp] theorem writeRegion_keeps (pa size : Nat) (cells : List (Nat × Byte)) : Keeps (writeRegion pa size cells) := fun s hs => by
  unfold writeRegion
  split
  · exact .ok (wf_foldl id (fun m e hm => Memory.wf_write m _ _ hm) cells _ (Memory.wf_clear _ pa size hs))
  · exact .error _

@[simp] theorem writeVectors_keeps (pa : Nat) (a : Agent) : Keeps (writeVectors pa a) := by
  unfold writeVectors; exact bySteps

@[simp] theorem copyFrames_keeps (src dst n : Nat) : Keeps (copyFrames src dst n) := by
  unfold copyFrames; exact bySteps

@[simp] theorem writeFrame_keeps (base : Nat) (sv : Saved) : Keeps (writeFrame base sv) := by
  unfold writeFrame; exact bySteps

@[simp] theorem State.install_mem (s : State) (p : Nat) (sv : Saved) (c : Nat) (keys : List (Nat × Nat)) :
    (s.install p sv c keys).mem = s.mem := by
  unfold State.install; exact bySteps

@[simp] theorem State.landAll_wf {s : State} (p : Nat) (hs : Memory.wf s.mem = true) : Memory.wf (s.landAll p).mem = true :=
  wf_foldl State.mem (fun _ _ hs => bySteps) _ _ hs

@[simp] theorem startInterval_keeps (n : Nat) : Keeps (startInterval n) := by
  unfold startInterval; exact bySteps

@[simp] theorem State.withdrawOps_mem (s : State) (p : Nat) : (s.withdrawOps p).mem = s.mem := rfl

@[simp] theorem State.haltParty_mem (s : State) (p : Nat) : (s.haltParty p).mem = s.mem := by
  unfold State.haltParty; exact bySteps

@[simp] theorem State.drainParty_wf {s : State} (p : Nat) (hs : Memory.wf s.mem = true) : Memory.wf (s.drainParty p).mem = true :=
  wf_foldl State.mem (fun _ _ hs => bySteps) _ _ hs

@[simp] theorem State.rollBack_wf {s : State} (p : Nat) (sv : Option Saved) (hs : Memory.wf s.mem = true) :
    Memory.wf (s.rollBack p sv).mem = true := by
  unfold State.rollBack; exact bySteps

@[simp] theorem State.writeLog_wf {s : State} (d : Det) (hs : Memory.wf s.mem = true) : Memory.wf (s.writeLog d).mem = true := by
  unfold State.writeLog; exact bySteps

@[simp] theorem State.reexecute_wf {s : State} (n : Nat) (rope : Option Nat) (hs : Memory.wf s.mem = true) :
    Memory.wf (s.reexecute n rope).mem = true := by
  unfold State.reexecute; exact bySteps

@[simp] theorem State.trapLane_wf {s : State} (k l : Nat) (t : Trap) (pc : DWord) (cl : Clause) (hs : Memory.wf s.mem = true) :
    Memory.wf (s.trapLane k l t pc cl).mem = true := by
  unfold State.trapLane; exact bySteps

@[simp] theorem State.trapAgent_wf {s : State} (k : Nat) (t : Trap) (hs : Memory.wf s.mem = true) :
    Memory.wf (s.trapAgent k t).mem = true := wf_foldl State.mem (fun _ _ hs => bySteps) _ _ hs

@[simp] theorem State.unhaltParty_mem (s : State) (p : Nat) : (s.unhaltParty p).mem = s.mem := rfl

@[simp] theorem State.pairMismatch_wf {s : State} (n code : Nat) (rope : Option Nat) (hs : Memory.wf s.mem = true) :
    Memory.wf (s.pairMismatch n code rope).mem = true := by
  unfold State.pairMismatch; exact bySteps

@[simp] theorem State.noteMismatch_wf {s : State} (k code : Nat) (hs : Memory.wf s.mem = true) :
    Memory.wf (s.noteMismatch k code).mem = true := by
  unfold State.noteMismatch; exact bySteps

/-! ### Machine/Operands -/

@[simp] theorem readSrc_keeps (f : Form) (b : Base) (i l : Nat) : Keeps (readSrc f b i l) := fun s hs => by
  unfold readSrc
  dsimp only
  split
  · exact .ok hs
  · exact .ok hs
  · exact .ok hs
  · split
    · next h => exact .ok (constRead_keeps _ _ _ _ _ s hs _ _ h)
    · exact .error _

@[simp] theorem readSrcs_keeps (f : Form) (b : Base) (l : Nat) : Keeps (readSrcs f b l) := by
  unfold readSrcs; exact bySteps

@[simp] theorem State.takeTraps_wf {s : State} (k : Nat) (ts : List (Nat × Trap)) (hs : Memory.wf s.mem = true) :
    Memory.wf (s.takeTraps k ts).mem = true := wf_foldl State.mem (fun _ _ hs => bySteps) _ _ hs

@[simp] theorem State.sleepHere_mem (s : State) (k : Nat) (lanes : List Nat) (w : Wait) : (s.sleepHere k lanes w).mem = s.mem := by
  unfold State.sleepHere; exact bySteps

@[simp] theorem State.sleepOuts_mem (s : State) (k : Nat) (outs : List (Nat × LaneOut)) (w : LaneOut → Option Wait) :
    (s.sleepOuts k outs w).mem = s.mem := by
  unfold State.sleepOuts; exact bySteps

@[simp] theorem State.launchFlight_mem (s : State) (k : Nat) (flag : Option Nat) (held : Bool) (lanes : List Nat) (ws : List
    (Dest × Word)) : (s.launchFlight k flag held lanes ws).mem = s.mem := by
  unfold State.launchFlight; exact bySteps

@[simp] theorem State.bufferTrace_mem (s : State) (k : Nat) (bytes : List Byte) : (s.bufferTrace k bytes).mem = s.mem := by
  unfold State.bufferTrace; exact bySteps

@[simp] theorem State.releaseSamples_mem (s : State) (k : Nat) : (s.releaseSamples k).mem = s.mem := by
  unfold State.releaseSamples; exact bySteps

@[simp] theorem State.queueTrace_mem (s : State) (k : Nat) (e : Sample) : (s.queueTrace k e).mem = s.mem := rfl

@[simp] theorem State.holdSample_mem (s : State) (due : Option Nat) (held : Word) (bytes : List Byte) :
    (s.holdSample due held bytes).mem = s.mem := by
  unfold State.holdSample; split <;> rfl

@[simp] theorem State.countMem_mem (s : State) (f : Form) (b : Base) (all : GroupOut) (due : Option Nat) :
    (s.countMem f b all due).mem = s.mem := by
  unfold State.countMem; exact bySteps

@[simp] theorem State.dropAnswers_mem (s : State) (who : Nat) : (s.dropAnswers who).mem = s.mem := rfl

@[simp] theorem State.useAnswers_mem (s : State) (k : Nat) (lanes : List Nat) : (s.useAnswers k lanes).mem = s.mem := rfl

@[simp] theorem State.retire_wf {s : State} (f : Form) (b : Base) (g : GroupOut) (hs : Memory.wf s.mem = true) :
    Memory.wf (s.retire f b g).mem = true := by
  unfold State.retire; exact bySteps

theorem State.takeSlot_mem {s t : State} {r : DieReq} (h : s.takeSlot r = some t) : t.mem = s.mem := by
  unfold State.takeSlot at h
  dsimp only at h
  split at h
  · cases h; exact bySteps
  · split at h <;> cases h
    rfl

@[simp] theorem State.fillCore_mem (s : State) (c : Nat) (fetch : Bool) (e : TlbEntry) : (s.fillCore c fetch e).mem = s.mem := rfl

@[simp] theorem State.requestWalk_mem (s : State) (r : DieReq) : (s.requestWalk r).1.mem = s.mem := by
  unfold State.requestWalk
  dsimp only
  split
  · exact bySteps
  · split
    · next h =>
      split at h
      · exact State.takeSlot_mem h
      · cases h
    · rfl

theorem State.coreMiss_mem {s : State} {c : Nat} {sp : Space} {fetch : Bool} {va : Nat} {waiters : List (Nat × Word)} {e : State × Bool}
    (h : s.coreMiss c sp fetch va waiters = some e) : e.1.mem = s.mem := by
  unfold State.coreMiss at h
  dsimp only at h
  split at h
  · cases h; rfl
  · split at h
    · cases h
    · split at h <;> cases h
      · exact State.requestWalk_mem ..
      · exact State.requestWalk_mem ..

@[simp] theorem State.noteMiss_mem (s : State) (k : Nat) (lanes : List Nat) (fetch : Bool) (g : Nat) :
    (s.noteMiss k lanes fetch g).mem = s.mem := by
  unfold State.noteMiss
  dsimp only
  split
  · next h => exact (State.sleep_mem ..).trans (State.coreMiss_mem h)
  · next h => exact State.coreMiss_mem h
  · exact bySteps

@[simp] theorem State.unitStuck_mem (s : State) (k uid : Nat) (full : Bool) : (s.unitStuck k uid full).mem = s.mem := by
  unfold State.unitStuck; exact bySteps

@[simp] theorem State.noteUnitMiss_mem (s : State) (k uid : Nat) (copy : Bool) (m : Mode) (va : Nat) :
    (s.noteUnitMiss k uid copy m va).mem = s.mem := by
  unfold State.noteUnitMiss
  dsimp only
  split
  · split
    · next h => exact (State.unitStuck_mem ..).trans (State.coreMiss_mem h)
    · exact bySteps
  · exact bySteps

@[simp] theorem State.noteWait_mem (s : State) (k : Nat) (lanes : List Nat) (w : Wait) : (s.noteWait k lanes w).mem = s.mem := by
  unfold State.noteWait; exact bySteps

@[simp] theorem State.send_mem (s : State) (dest : Nat) (m : Msg) : (s.send dest m).mem = s.mem := by
  unfold State.send; split <;> rfl

@[simp] theorem State.askRemote_mem (s : State) (k p chip : Nat) (va : DWord) (n : Nat) :
    (s.askRemote k p chip va n).1.mem = s.mem := by
  unfold State.askRemote; exact bySteps

@[simp] theorem State.noteRemote_mem (s : State) (k p chip : Nat) (va : DWord) (n : Nat) : (s.noteRemote k p chip va n).mem = s.mem :=
  (State.noteWait_mem ..).trans (State.askRemote_mem ..)

/-- A wait, a miss, a request or a trap changes no more of memory than the effect that meets it. -/
theorem runM_next {m : M Unit} (hm : Keeps m) {s : State} (hs : Memory.wf s.mem = true) : NextWf (runM m s) := by
  unfold runM
  split
  · next h => exact .next (hm s hs _ _ h)
  all_goals exact bySteps

@[simp] theorem trapActing_keeps (b : Base) (t : Trap) : Keeps (trapActing b t) := by
  unfold trapActing; exact bySteps

@[simp] theorem splitAfter_keeps (f : Form) (b : Base) (check : Nat → M Unit) (act : M GroupOut) (h : ∀ x, Keeps (check x))
    (hact : Keeps act) : Keeps (splitAfter f b check act) := by
  unfold splitAfter; exact bySteps

@[simp] theorem State.giveOwed_mem (s : State) (k reg : Nat) : (s.giveOwed k reg).mem = s.mem := rfl

@[simp] theorem State.startReg_mem (s : State) (k reg : Nat) (ws : List (Nat × Word)) : (s.startReg k reg ws).mem = s.mem := by
  unfold State.startReg; exact bySteps

@[simp] theorem spillReg_keeps (k reg : Nat) : Keeps (spillReg k reg) := by
  unfold spillReg; exact bySteps

@[simp] theorem makeRoom_keeps (k : Nat) (named : List Nat) (n fuel : Nat) : Keeps (makeRoom k named n fuel) := by
  induction fuel with
  | zero => exact .pure _
  | succ fuel ih => unfold makeRoom; exact bySteps

@[simp] theorem allocate_keeps (f : Form) (b : Base) : Keeps (allocate f b) := by
  unfold allocate; exact bySteps

@[simp] theorem State.useRegs_mem (s : State) (f : Form) (b : Base) : (s.useRegs f b).mem = s.mem := by
  unfold State.useRegs; exact bySteps

@[simp] theorem effectData_keeps (f : Form) (b : Base) (l : Nat) (x : Operands) : Keeps (effectData f b l x) := by
  unfold effectData; exact bySteps

@[simp] theorem effectsOf_keeps (f : Form) (b : Base) : Keeps (effectsOf f b) := by
  unfold effectsOf; exact bySteps

@[simp] theorem withoutLanes_keeps (mask : Word) (act : M GroupOut) (h : Keeps act) : Keeps (withoutLanes mask act) := fun s hs => by
  unfold withoutLanes
  split
  · next hm => have ht := h _ (by exact hs) _ _ hm; exact .ok ht
  · exact .error _

@[simp] theorem beginAgain_keeps (k l : Nat) (e : LogEntry) : Keeps (beginAgain k l e) := by
  unfold beginAgain; exact bySteps

@[simp] theorem issueAgain_keeps (e : LogEntry) (act : M GroupOut) (h : Keeps act) : Keeps (issueAgain e act) := by
  unfold issueAgain; exact bySteps

@[simp] theorem besideLogged_keeps (es : List LogEntry) (act : M GroupOut) (h : Keeps act) : Keeps (besideLogged es act) := by
  unfold besideLogged; exact bySteps

@[simp] theorem consumeAll_keeps (k : Nat) (es : List LogEntry) : Keeps (consumeAll k es) := by
  induction es with
  | nil => exact .pure _
  | cons e es ih => unfold consumeAll; exact bySteps

@[simp] theorem postEffects_keeps (ys : List Effect) : Keeps (postEffects ys) := by
  unfold postEffects; exact bySteps

@[simp] theorem takeLines_keeps (f : Form) (b : Base) (act : M GroupOut) (h : Keeps act) : Keeps (takeLines f b act) := by
  unfold takeLines; exact bySteps

@[simp] theorem writeTiles_keeps (k : Nat) (e : LogEntry) : Keeps (writeTiles k e) := by
  unfold writeTiles; exact bySteps

@[simp] theorem takeOutside_keeps (f : Form) (b : Base) (c : OutClass) (act : M GroupOut) (h : Keeps act) :
    Keeps (takeOutside f b c act) := by
  unfold takeOutside; exact bySteps

@[simp] theorem takeWait_keeps (f : Form) (b : Base) (act : M GroupOut) (h : Keeps act) : Keeps (takeWait f b act) := by
  unfold takeWait; exact bySteps

@[simp] theorem takeClass_keeps (f : Form) (b : Base) (c : OutClass) (act : M GroupOut) (h : Keeps act) :
    Keeps (takeClass f b c act) := by
  unfold takeClass; exact bySteps

@[simp] theorem takeLogged_keeps (f : Form) (b : Base) (c : OutClass) (act : M GroupOut) (h : Keeps act) :
    Keeps (takeLogged f b c act) := by
  unfold takeLogged; exact bySteps

@[simp] theorem meetTrailer_keeps (ys : List Effect) (act : M GroupOut) (h : Keeps act) : Keeps (meetTrailer ys act) := by
  unfold meetTrailer; exact bySteps

@[simp] theorem rendezvous_keeps (f : Form) (b : Base) (act : M GroupOut) (h : Keeps act) : Keeps (rendezvous f b act) := by
  unfold rendezvous; exact bySteps

@[simp] theorem leaderStore_keeps (f : Form) (b : Base) (act : M GroupOut) (h : Keeps act) : Keeps (leaderStore f b act) := by
  unfold leaderStore; exact bySteps

@[simp] theorem logOutcome_keeps (f : Form) (b : Base) (c : OutClass) (uid : Nat) (g : GroupOut) :
    Keeps (logOutcome f b c uid g) := by
  unfold logOutcome; exact bySteps

@[simp] theorem deterministic_keeps (f : Form) (b : Base) (act : M GroupOut) (h : Keeps act) : Keeps (deterministic f b act) := by
  unfold deterministic; exact bySteps

@[simp] theorem caught_keeps (b : Base) (act : M GroupOut) (h : Keeps act) : Keeps (caught b act) := by
  unfold caught; exact bySteps

/-- An instruction whose effect keeps memory canonical: what the group does around the effect keeps it too. -/
theorem runGroup_next {f : Form} {b : Base} {keep : Bool} {act : M GroupOut} (h : Keeps act) {s : State}
    (hs : Memory.wf s.mem = true) : NextWf (runGroup f b keep act s) := runM_next bySteps hs

theorem runLanes_next {f : Form} {b : Base} {act : Nat → M LaneOut} (h : ∀ l, Keeps (act l)) {s : State} (hs : Memory.wf s.mem = true) :
    NextWf (runLanes f b act s) := runGroup_next bySteps hs

theorem runOnce_next {f : Form} {b : Base} {act : Nat → M LaneOut} (h : ∀ l, Keeps (act l)) {s : State} (hs : Memory.wf s.mem = true) :
    NextWf (runOnce f b act s) := runGroup_next bySteps hs

theorem runAlu_next (f : Form) (b : Base) (only : Bool) (g : State → Nat → Operands → List (Dest × Word))
    {s : State} (hs : Memory.wf s.mem = true) :
    NextWf (runAlu f b only g s) := runGroup_next bySteps hs

theorem runResult_next (f : Form) (b : Base) (t : Ty) (g : Operands → DWord) {s : State} (hs : Memory.wf s.mem = true) :
    NextWf (runResult f b t g s) := runAlu_next _ _ _ _ hs

/-! ### Machine/Barrier -/

@[simp] theorem State.setBarrier_mem (s : State) (p b : Nat) (x : Barrier) : (s.setBarrier p b x).mem = s.mem := by
  unfold State.setBarrier; exact bySteps

@[simp] theorem issuingB_keeps (f : Form) (b : Base) (act : Nat → Word → M GroupOut) (h : ∀ x y, Keeps (act x y)) :
    Keeps (issuingB f b act) := by
  unfold issuingB; exact bySteps

theorem execBinit_next (b : Base) {s : State} (hs : Memory.wf s.mem = true) : NextWf (execBinit b s) :=
  runGroup_next (issuingB_keeps _ _ _ fun _ _ => bySteps) hs

theorem execBexp_next (b : Base) {s : State} (hs : Memory.wf s.mem = true) : NextWf (execBexp b s) :=
  runGroup_next (issuingB_keeps _ _ _ fun _ _ => bySteps) hs

theorem execBwait_next (b : Base) {s : State} (hs : Memory.wf s.mem = true) : NextWf (execBwait b s) :=
  runGroup_next (issuingB_keeps _ _ _ fun _ _ => bySteps) hs

@[simp] theorem State.baraArrive_mem (s : State) (k b : Nat) : (s.baraArrive k b).1.mem = s.mem := by
  unfold State.baraArrive; exact bySteps

theorem wf_of_baraArrive {s t : State} {k b : Nat} {r : Bool} (h : s.baraArrive k b = (t, r)) (hs : Memory.wf s.mem = true) :
    Memory.wf t.mem = true := by
  have hmem := State.baraArrive_mem s k b
  rw [h] at hmem
  exact hmem ▸ hs

theorem execBara_next (b : Base) {s : State} (hs : Memory.wf s.mem = true) : NextWf (execBara b s) := by
  refine runGroup_next (.get_bind fun t ht => .ite bySteps (.ite bySteps ?_)) hs
  dsimp only
  split
  · next h => have ht' := wf_of_baraArrive h ht; exact bySteps
  · exact bySteps

@[simp] theorem roomFor_keeps (c : EngClass) : Keeps (roomFor c) := by
  unfold roomFor; exact bySteps

@[simp] theorem countOp_keeps (k l : Nat) (c : EngClass) : Keeps (countOp k l c) := by
  unfold countOp; exact bySteps

@[simp] theorem State.finishOp_mem (s : State) (k uid : Nat) : (s.finishOp k uid).mem = s.mem := rfl

@[simp] theorem State.holdFault_mem (s : State) (k uid lane : Nat) (t : Trap) (ends : Bool) :
    (s.holdFault k uid lane t ends).mem = s.mem := rfl

@[simp] theorem State.land_mem (s : State) (k uid lane bar bytes : Nat) : (s.land k uid lane bar bytes).mem = s.mem := by
  unfold State.land; exact bySteps

/-! ### Machine/Memory -/

@[simp] theorem checkAlign_keeps (addr : DWord) (n : Nat) : Keeps (checkAlign addr n) := by
  unfold checkAlign; exact bySteps

@[simp] theorem loadLane_keeps (f : Form) (b : Base) (l : Nat) (ea : Operands → DWord) (read : DWord → Nat → M (List Byte))
    (h : ∀ x y, Keeps (read x y)) : Keeps (loadLane f b l ea read) := by
  unfold loadLane; exact bySteps

@[simp] theorem storeLane_keeps (f : Form) (b : Base) (l : Nat) (ea : Operands → DWord) (write : DWord → List Byte → M Bool)
    (h : ∀ x y, Keeps (write x y)) : Keeps (storeLane f b l ea write) := by
  unfold storeLane; exact bySteps

theorem runLoad_next {f : Form} {b : Base} {act : Nat → M LaneOut} (h : ∀ l, Keeps (act l)) {s : State} (hs : Memory.wf s.mem = true) :
    NextWf (runLoad f b act s) := runGroup_next bySteps hs

theorem runStore_next {f : Form} {b : Base} {act : Nat → M LaneOut} (h : ∀ l, Keeps (act l)) {s : State} (hs : Memory.wf s.mem = true) :
    NextWf (runStore f b act s) := runGroup_next bySteps hs

@[simp] theorem phasedLoad_keeps (l : Nat) (opc : BitVec 8) (va : DWord) (n : Nat) : Keeps (phasedLoad l opc va n) := by
  unfold phasedLoad; exact bySteps

@[simp] theorem phasedStore_keeps (va : DWord) (bs : List Byte) : Keeps (phasedStore va bs) := by
  unfold phasedStore; exact bySteps

@[simp] theorem farLoad_keeps (va : DWord) (n : Nat) : Keeps (farLoad va n) := by
  unfold farLoad; exact bySteps

theorem execLd_next (b : Base) {s : State} (hs : Memory.wf s.mem = true) : NextWf (execLd b s) :=
  runLoad_next (fun _ => bySteps) hs

theorem execSt_next (b : Base) {s : State} (hs : Memory.wf s.mem = true) : NextWf (execSt b s) :=
  runStore_next (fun _ => bySteps) hs

@[simp] theorem spadTouch_keeps (addr : Word) (n : Nat) (dest : Bool) : Keeps (spadTouch addr n dest) := by
  unfold spadTouch; exact bySteps

theorem execLds_next (b : Base) {s : State} (hs : Memory.wf s.mem = true) : NextWf (execLds b s) :=
  runLoad_next (fun _ => bySteps) hs

theorem execSts_next (b : Base) {s : State} (hs : Memory.wf s.mem = true) : NextWf (execSts b s) :=
  runLanes_next (fun _ => bySteps) hs

theorem execLdc_next (b : Base) {s : State} (hs : Memory.wf s.mem = true) : NextWf (execLdc b s) :=
  runLoad_next (fun _ => bySteps) hs

theorem execLdf_next (b : Base) {s : State} (hs : Memory.wf s.mem = true) : NextWf (execLdf b s) :=
  runLoad_next (fun _ => bySteps) hs

@[simp] theorem deferFar_keeps (uid l : Nat) (va : DWord) (pa : Nat) (red : Option (BitVec 3 × Ty)) (bs : List Byte) :
    Keeps (deferFar uid l va pa red bs) := .modify fun _ hs => hs

theorem runFar_next {f : Form} {b : Base} {keep : Bool} {act : Nat → Nat → M LaneOut} (h : ∀ u l, Keeps (act u l)) {s : State}
    (hs : Memory.wf s.mem = true) : NextWf (runFar f b keep act s) := runGroup_next bySteps hs

theorem execStf_next (b : Base) {s : State} (hs : Memory.wf s.mem = true) : NextWf (execStf b s) :=
  runFar_next (fun _ _ => storeLane_keeps _ _ _ _ _ fun _ _ => bySteps) hs

theorem execLdl_next (b : Base) {s : State} (hs : Memory.wf s.mem = true) : NextWf (execLdl b s) :=
  runLoad_next (fun _ => bySteps) hs

theorem execStl_next (b : Base) {s : State} (hs : Memory.wf s.mem = true) : NextWf (execStl b s) :=
  runStore_next (fun _ => bySteps) hs

@[simp] theorem farRange_keeps (va : DWord) (n : Nat) : Keeps (farRange va n) := by
  unfold farRange; exact bySteps

@[simp] theorem retryTile_keeps (l : Nat) (t : DWord) : Keeps (retryTile l t) := by
  unfold retryTile; exact bySteps

theorem execLdv_next (b : Base) {s : State} (hs : Memory.wf s.mem = true) : NextWf (execLdv b s) :=
  runOnce_next (fun _ => bySteps) hs

@[simp] theorem farWrites_keeps (ws : List (DWord × List Byte)) : Keeps (farWrites ws) := by
  induction ws with
  | nil => exact .pure _
  | cons x ws ih => unfold farWrites; exact bySteps

@[simp] theorem openTile_keeps (f : Form) (b : Base) (l : Nat) : Keeps (openTile f b l) := by
  unfold openTile; exact bySteps

theorem execStta_next (b : Base) {s : State} (hs : Memory.wf s.mem = true) : NextWf (execStta b s) := runGroup_next bySteps hs

@[simp] theorem gatherElem_keeps (f : Form) (b : Base) (scatter : Bool) (l : Nat) : Keeps (gatherElem f b scatter l) := by
  unfold gatherElem; exact bySteps

@[simp] theorem gatherTraps_keeps (f : Form) (b : Base) (t : Trap) : Keeps (gatherTraps f b t) := by
  unfold gatherTraps; exact bySteps

@[simp] theorem issueGather_keeps (f : Form) (b : Base) (scatter : Bool) : Keeps (issueGather f b scatter) := by
  unfold issueGather; exact bySteps

theorem execGth_next (b : Base) {s : State} (hs : Memory.wf s.mem = true) : NextWf (execGth b s) := runGroup_next bySteps hs

theorem execSct_next (b : Base) {s : State} (hs : Memory.wf s.mem = true) : NextWf (execSct b s) := runGroup_next bySteps hs

theorem execPft_next (b : Base) {s : State} (hs : Memory.wf s.mem = true) : NextWf (execPft b s) :=
  runLanes_next (fun _ => bySteps) hs

@[simp] theorem State.dropLines_mem (s : State) (c : Nat) (rs : List (Nat × Nat)) : (s.dropLines c rs).mem = s.mem := rfl

@[simp] theorem State.dropFetched_mem (s : State) (c scope : Nat) (rs : List (Nat × Nat)) :
    (s.dropFetched c scope rs).mem = s.mem := rfl

@[simp] theorem cctlRange_keeps (f : Form) (b : Base) (l : Nat) : Keeps (cctlRange f b l) := by
  unfold cctlRange; exact bySteps

theorem runCctl_next {f : Form} {b : Base} {iinv : Bool} {act : State → List (Nat × Nat) → State}
    (h : ∀ s rs, Memory.wf s.mem = true → Memory.wf (act s rs).mem = true) {s : State} (hs : Memory.wf s.mem = true) :
    NextWf (runCctl f b iinv act s) := runGroup_next bySteps hs

theorem execCctlPub_next (b : Base) {s : State} (hs : Memory.wf s.mem = true) : NextWf (execCctlPub b s) :=
  runCctl_next (fun _ _ _ => bySteps) hs

theorem execCctlWb_next (b : Base) {s : State} (hs : Memory.wf s.mem = true) : NextWf (execCctlWb b s) :=
  runCctl_next (fun _ _ _ => bySteps) hs

theorem execCctlInv_next (b : Base) {s : State} (hs : Memory.wf s.mem = true) : NextWf (execCctlInv b s) :=
  runCctl_next (fun _ _ _ => bySteps) hs

theorem execCctlIinv_next (b : Base) {s : State} (hs : Memory.wf s.mem = true) : NextWf (execCctlIinv b s) :=
  .ite (runGroup_next bySteps hs) (runCctl_next (fun _ _ _ => bySteps) hs)

@[simp] theorem atomLane_keeps (b : Base) (l : Nat) (fn : BitVec 3) (ea cmp c : DWord) : Keeps (atomLane b l fn ea cmp c) := by
  unfold atomLane; exact bySteps

theorem runAtomic_next {f : Form} {b : Base} {act : Nat → Operands → M LaneOut} (h : ∀ l x, Keeps (act l x)) {s : State}
    (hs : Memory.wf s.mem = true) : NextWf (runAtomic f b act s) := runGroup_next bySteps hs

theorem execAtom_next (b : Base) {s : State} (hs : Memory.wf s.mem = true) : NextWf (execAtom b s) :=
  runAtomic_next (fun _ _ => bySteps) hs

theorem execAtomc_next (b : Base) {s : State} (hs : Memory.wf s.mem = true) : NextWf (execAtomc b s) :=
  runAtomic_next (fun _ _ => bySteps) hs

theorem execRed_next (b : Base) {s : State} (hs : Memory.wf s.mem = true) : NextWf (execRed b s) :=
  runFar_next (fun _ _ => bySteps) hs

theorem execAtoms_next (b : Base) {s : State} (hs : Memory.wf s.mem = true) : NextWf (execAtoms b s) := by
  unfold execAtoms
  exact runGroup_next (.get_bind fun t ht => .ite (.onceOut fun _ => bySteps) (.eachLane fun _ => bySteps)) hs

/-! ### Machine/Sync -/

theorem execFence_next (b : Base) {s : State} (hs : Memory.wf s.mem = true) : NextWf (execFence b s) := runGroup_next bySteps hs

@[simp] theorem State.passPhase_mem (s : State) (k : Nat) : (s.passPhase k).mem = s.mem := by
  unfold State.passPhase; exact bySteps

@[simp] theorem State.completePhase_wf {s : State} (ps : List Nat) (hs : Memory.wf s.mem = true) :
    Memory.wf (s.completePhase ps).mem = true := by
  unfold State.completePhase; exact bySteps

@[simp] theorem startIntervals_keeps (ns : List Nat) : Keeps (startIntervals ns) := by
  unfold startIntervals; exact bySteps

@[simp] theorem collective_keeps (p : Nat) (team : Bool) : Keeps (collective p team) := by
  unfold collective; exact bySteps

theorem runPhase_next (f : Form) (b : Base) (team : Bool) {s : State} (hs : Memory.wf s.mem = true) : NextWf (runPhase f b team s) := by
  unfold runPhase
  dsimp only
  split
  · next h => exact runM_next bySteps (runGroup_next bySteps hs _ h)
  · exact runGroup_next bySteps hs

theorem execCwait_next (b : Base) {s : State} (hs : Memory.wf s.mem = true) : NextWf (execCwait b s) :=
  runGroup_next (issuingB_keeps _ _ _ fun _ _ => bySteps) hs

@[simp] theorem lockAcquire_keeps (pa : Nat) (who : Waiter) (id : DWord × DWord) : Keeps (lockAcquire pa who id) := by
  unfold lockAcquire; exact bySteps

@[simp] theorem lockRelease_keeps (pa : Nat) (id : DWord × DWord) : Keeps (lockRelease pa id) := by
  unfold lockRelease; exact bySteps

@[simp] theorem lockPlace_keeps (va : DWord) : Keeps (lockPlace va) := by
  unfold lockPlace; exact bySteps

theorem execQlock_next (b : Base) {s : State} (hs : Memory.wf s.mem = true) : NextWf (execQlock b s) :=
  runLanes_next (fun _ => bySteps) hs

theorem execQunlk_next (b : Base) {s : State} (hs : Memory.wf s.mem = true) : NextWf (execQunlk b s) :=
  runLanes_next (fun _ => bySteps) hs

@[simp] theorem State.arm_mem (s : State) (part asid : Nat) (va : DWord) (slice : Nat) (who : Waiter) :
    (s.arm part asid va slice who).mem = s.mem := rfl

@[simp] theorem wwaitLane_keeps (f : Form) (b : Base) (l : Nat) : Keeps (wwaitLane f b l) := by
  unfold wwaitLane; exact bySteps

theorem execWwait_next (b : Base) {s : State} (hs : Memory.wf s.mem = true) : NextWf (execWwait b s) := runGroup_next bySteps hs

theorem execWwake_next (b : Base) {s : State} (hs : Memory.wf s.mem = true) : NextWf (execWwake b s) :=
  runLanes_next (fun _ => bySteps) hs

/-! ### Machine/Stream -/

@[simp] theorem trapIssuing_keeps (b : Base) (t : Trap) : Keeps (trapIssuing b t) := by
  unfold trapIssuing; exact bySteps

theorem execSpop_next (b : Base) {s : State} (hs : Memory.wf s.mem = true) : NextWf (execSpop b s) := runGroup_next bySteps hs

theorem execSpsh_next (b : Base) {s : State} (hs : Memory.wf s.mem = true) : NextWf (execSpsh b s) := runGroup_next bySteps hs

theorem execSqry_next (b : Base) {s : State} (hs : Memory.wf s.mem = true) : NextWf (execSqry b s) := runGroup_next bySteps hs

@[simp] theorem State.startProducer_mem (s : State) (c p : Nat) (entry : DWord) (params : List Word) :
    (s.startProducer c p entry params).mem = s.mem := by
  unfold State.startProducer; exact bySteps

theorem execPrdl_next (b : Base) {s : State} (hs : Memory.wf s.mem = true) : NextWf (execPrdl b s) :=
  runOnce_next (fun _ => bySteps) hs

@[simp] theorem State.closeQueues_mem (s : State) (c : Nat) : (s.closeQueues c).mem = s.mem := rfl

@[simp] theorem State.freeDecisions_mem (s : State) (p : Nat) : (s.freeDecisions p).mem = s.mem := rfl

theorem execDqpsh_next (b : Base) {s : State} (hs : Memory.wf s.mem = true) : NextWf (execDqpsh b s) := runGroup_next bySteps hs

theorem execDqpop_next (b : Base) {s : State} (hs : Memory.wf s.mem = true) : NextWf (execDqpop b s) := runGroup_next bySteps hs

/-! ### Machine/Copy -/

@[simp] theorem constRecord_keeps (k l : Nat) (m : Mode) (off : Nat) : Keeps (constRecord k l m off) := by
  unfold constRecord; exact bySteps

@[simp] theorem copyRecord_keeps (b : Base) (l : Nat) (ra : Word) : Keeps (copyRecord b l ra) := by
  unfold copyRecord; exact bySteps

@[simp] theorem issueCopy_keeps (f : Form) (b : Base) (l : Nat) : Keeps (issueCopy f b l) := by
  unfold issueCopy; exact bySteps

theorem execCpy_next (b : Base) {s : State} (hs : Memory.wf s.mem = true) : NextWf (execCpy b s) :=
  runOnce_next (fun _ => bySteps) hs

@[simp] theorem slotFault_keeps {α : Type} (tile : Bool) (reason ref : Nat) : Keeps (slotFault tile reason ref : M α) := .raise _ _

@[simp] theorem slotWrite_keeps (p n off : Nat) (bs : List Byte) : Keeps (slotWrite p n off bs) := .modify fun _ hs => hs

@[simp] theorem readElement_keeps (e : Copy) (addr : DWord) : Keeps (readElement e addr) := by
  unfold readElement; exact bySteps

@[simp] theorem modCopy_keeps (c uid : Nat) (f : Copy → Copy) : Keeps (modCopy c uid f) := .modify fun _ hs => hs

@[simp] theorem State.flushSlots_mem (s : State) (e : Copy) : (s.flushSlots e).mem = s.mem := rfl

@[simp] theorem flushCopy_keeps (c uid : Nat) : Keeps (flushCopy c uid) := by
  unfold flushCopy; exact bySteps

@[simp] theorem writeElement_keeps (e : Copy) (addr : DWord) (bs : List Byte) : Keeps (writeElement e addr bs) := by
  unfold writeElement; exact bySteps

@[simp] theorem moveElement_keeps (e : Copy) : Keeps (moveElement e) := by
  unfold moveElement; exact bySteps

@[simp] theorem landTransfer_keeps (k uid lane bar bytes : Nat) : Keeps (landTransfer k uid lane bar bytes) := by
  unfold landTransfer; exact bySteps

@[simp] theorem endCopy_keeps (c uid : Nat) : Keeps (endCopy c uid) := by
  unfold endCopy; exact bySteps

@[simp] theorem moveElements_keeps (c uid n : Nat) : Keeps (moveElements c uid n) := by
  induction n with
  | zero => exact endCopy_keeps c uid
  | succ n ih => unfold moveElements; exact bySteps

@[simp] theorem runEvent_next (k : Nat) {m : M Unit} (hm : Keeps m) {s : State} (hs : Memory.wf s.mem = true) :
    NextWf (runEvent k m s) := by
  unfold runEvent
  split
  · next h => exact .next (hm s hs _ _ h)
  all_goals exact bySteps

theorem execCopyProgress_next (core uid : Nat) {s : State} (hs : Memory.wf s.mem = true) :
    NextWf (execCopyProgress core uid s) := by
  unfold execCopyProgress; exact bySteps

@[simp] theorem checkElement_keeps (g : Gather) (e : Nat × DWord × Word × Bool) : Keeps (checkElement g e) := by
  unfold checkElement; exact bySteps

@[simp] theorem checkElements_keeps (g : Gather) (es : List (Nat × DWord × Word × Bool)) : Keeps (checkElements g es) := by
  induction es with
  | nil => exact .pure _
  | cons x es ih => unfold checkElements; exact bySteps

@[simp] theorem placeElement_keeps (g : Gather) (e : (Nat × DWord × Word × Bool) × Except Trap (List Byte)) :
    Keeps (placeElement g e) := by
  unfold placeElement; exact bySteps

@[simp] theorem moveGather_keeps (g : Gather) : Keeps (moveGather g) := by
  unfold moveGather; exact bySteps

/-! ### Machine/Camp -/

@[simp] theorem slotRef_keeps (v : Word) : Keeps (slotRef v) := by
  unfold slotRef; exact bySteps

@[simp] theorem tileRef_keeps (v : Word) : Keeps (tileRef v) := by
  unfold tileRef; exact bySteps

@[simp] theorem ownSlot_keeps (v : Word) : Keeps (ownSlot v) := by
  unfold ownSlot; exact bySteps

@[simp] theorem ownTile_keeps (v : Word) : Keeps (ownTile v) := by
  unfold ownTile; exact bySteps

@[simp] theorem modOp_keeps (c uid : Nat) (f : CampOp → CampOp) : Keeps (modOp c uid f) := .modify fun _ hs => hs

@[simp] theorem dropOp_keeps (c uid : Nat) : Keeps (dropOp c uid) := .modify fun _ hs => hs

@[simp] theorem arriveOp_keeps (uid lane : Nat) (kind : CampKind) (phase : CampPhase) : Keeps (arriveOp uid lane kind phase) :=
  .modify fun _ hs => hs

@[simp] theorem arrivedNow_keeps : Keeps (arrivedNow) := by
  unfold arrivedNow; exact bySteps

@[simp] theorem arriveCounted_keeps (lane : Nat) (kind : CampKind) (phase : CampPhase) : Keeps (arriveCounted lane kind phase) := by
  unfold arriveCounted; exact bySteps

@[simp] theorem claimAny_keeps (tile : Bool) (n : Nat) (held : Nat → Bool) : Keeps (claimAny tile n held) := by
  unfold claimAny; exact bySteps

@[simp] theorem metaOf_keeps (b : Base) (role : Nat) (c : Word) : Keeps (metaOf b role c) := by
  unfold metaOf; exact bySteps

theorem execOclm_next (b : Base) {s : State} (hs : Memory.wf s.mem = true) : NextWf (execOclm b s) := runGroup_next bySteps hs

theorem execAclm_next (b : Base) {s : State} (hs : Memory.wf s.mem = true) : NextWf (execAclm b s) := runGroup_next bySteps hs

theorem execOrel_next (b : Base) {s : State} (hs : Memory.wf s.mem = true) : NextWf (execOrel b s) := runGroup_next bySteps hs

theorem execArel_next (b : Base) {s : State} (hs : Memory.wf s.mem = true) : NextWf (execArel b s) := runGroup_next bySteps hs

theorem execReleaseComplete_next (camp op : Nat) {s : State} (hs : Memory.wf s.mem = true) :
    NextWf (execReleaseComplete camp op s) := by
  unfold execReleaseComplete
  split
  · exact .next hs
  · exact .ite (.next hs) (runEvent_next _ bySteps hs)

theorem execOld_next (b : Base) {s : State} (hs : Memory.wf s.mem = true) : NextWf (execOld b s) :=
  runOnce_next (fun _ => bySteps) hs

@[simp] theorem needSlot_keeps (p n : Nat) : Keeps (needSlot p n) := by
  unfold needSlot; exact bySteps

@[simp] theorem mmaOperand_keeps (v : Word) (isB : Bool) : Keeps (mmaOperand v isB) := by
  unfold mmaOperand; exact bySteps

@[simp] theorem tablePlace_keeps (l : Nat) : Keeps (tablePlace l) := by
  unfold tablePlace; exact bySteps

theorem execMma_next (b : Base) {s : State} (hs : Memory.wf s.mem = true) : NextWf (execMma b s) :=
  runOnce_next (fun _ => bySteps) hs

@[simp] theorem tileOperand_keeps (b : Base) (x : Operands) : Keeps (tileOperand b x) := by
  unfold tileOperand; exact bySteps

@[simp] theorem tileSpad_keeps (b : Base) (x : Operands) (dest : Bool) : Keeps (tileSpad b x dest) := by
  unfold tileSpad; exact bySteps

theorem execAcrd_next (b : Base) {s : State} (hs : Memory.wf s.mem = true) : NextWf (execAcrd b s) :=
  runOnce_next (fun _ => bySteps) hs

theorem execAcwr_next (b : Base) {s : State} (hs : Memory.wf s.mem = true) : NextWf (execAcwr b s) :=
  runOnce_next (fun _ => bySteps) hs

theorem execAttnf_next (b : Base) {s : State} (hs : Memory.wf s.mem = true) : NextWf (execAttnf b s) :=
  runOnce_next (fun _ => bySteps) hs

@[simp] theorem tileWrite_keeps (p t : Nat) (ws : List (Nat × Word)) : Keeps (tileWrite p t ws) := .modify fun _ hs => hs

@[simp] theorem fillFlight_keeps (k uid p t index : Nat) : Keeps (fillFlight k uid p t index) := .modify fun _ hs => hs

@[simp] theorem campEffect_keeps (o : CampOp) : Keeps (campEffect o) := by
  unfold campEffect; exact bySteps

@[simp] theorem performCamp_keeps (c : Nat) (o : CampOp) : Keeps (performCamp c o) := by
  unfold performCamp; exact bySteps

@[simp] theorem landRead_keeps (k uid : Nat) : Keeps (landRead k uid) := by
  unfold landRead; exact bySteps

@[simp] theorem State.enterTable_mem (s : State) (c n : Nat) : (s.enterTable c n).mem = s.mem := by
  induction n generalizing s with
  | zero => rfl
  | succ n ih => unfold State.enterTable; exact bySteps

@[simp] theorem State.grant_mem (s : State) (c : Nat) (won : List Nat) : (s.grant c won).mem = s.mem := by
  unfold State.grant; exact bySteps

theorem execArbiterCycle_next (camp : Nat) {s : State} (hs : Memory.wf s.mem = true) : NextWf (execArbiterCycle camp s) := by
  unfold execArbiterCycle; exact bySteps

theorem execReservationAge_next (camp op : Nat) {s : State} (hs : Memory.wf s.mem = true) :
    NextWf (execReservationAge camp op s) := by
  unfold execReservationAge; exact bySteps

theorem execPassRetire_next (camp op : Nat) {s : State} (hs : Memory.wf s.mem = true) : NextWf (execPassRetire camp op s) := by
  unfold execPassRetire
  split
  · exact .next hs
  · split
    · exact runEvent_next _ bySteps hs
    · exact .next hs

/-! ### Machine/Sequence -/

@[simp] theorem Via.drain_keeps (v : Via) (pa n : Nat) : Keeps (Via.drain v pa n) := by
  unfold Via.drain; exact bySteps

@[simp] theorem viaRead_keeps (v : Via) (va : DWord) (n : Nat) (acc : Access) : Keeps (viaRead v va n acc) := by
  unfold viaRead; exact bySteps

@[simp] theorem viaWrite_keeps (v : Via) (va : DWord) (bs : List Byte) : Keeps (viaWrite v va bs) := by
  unfold viaWrite; exact bySteps

@[simp] theorem viaWake_keeps (v : Via) (va : DWord) : Keeps (viaWake v va) := by
  unfold viaWake; exact bySteps

@[simp] theorem readDesc_keeps (v : Via) (va : DWord) (acc : Access) : Keeps (readDesc v va acc) := by
  unfold readDesc; exact bySteps

@[simp] theorem openDesc_keeps (v : Via) (va : DWord) (acc : Access) : Keeps (openDesc v va acc) := by
  unfold openDesc; exact bySteps

@[simp] theorem openPlain_keeps (v : Via) (va : DWord) (acc : Access) : Keeps (openPlain v va acc) := by
  unfold openPlain; exact bySteps

@[simp] theorem writeWord_keeps (v : Via) (va : DWord) (off x : Nat) : Keeps (writeWord v va off x) := by
  unfold writeWord; exact bySteps

@[simp] theorem openPool_keeps (v : Via) (named : DWord) (d : Desc) : Keeps (openPool v named d) := by
  unfold openPool; exact bySteps

@[simp] theorem popBlock_keeps (v : Via) (p : Pool) : Keeps (popBlock v p) := by
  unfold popBlock; exact bySteps

@[simp] theorem pushBlock_keeps (v : Via) (p : Pool) (a : DWord) : Keeps (pushBlock v p a) := by
  unfold pushBlock; exact bySteps

@[simp] theorem readEntry_keeps (v : Via) (bt1 : DWord) (b : Nat) (acc : Access) : Keeps (readEntry v bt1 b acc) := by
  unfold readEntry; exact bySteps

@[simp] theorem writeEntry_keeps (v : Via) (bt1 : DWord) (b : Nat) (e : Entry) : Keeps (writeEntry v bt1 b e) := by
  unfold writeEntry; exact bySteps

@[simp] theorem originOf_keeps (v : Via) (d : Desc) (b : Nat) (acc : Access) : Keeps (originOf v d b acc) := by
  unfold originOf; exact bySteps

@[simp] theorem locate_keeps (v : Via) (d : Desc) (i : Nat) : Keeps (locate v d i) := by
  unfold locate; exact bySteps

@[simp] theorem locatedRead_keeps (v : Via) (who chip : Nat) (va : DWord) (n : Nat) (lost : DWord) :
    Keeps (locatedRead v who chip va n lost) := by
  unfold locatedRead; exact bySteps

@[simp] theorem addBlocks_keeps (v : Via) (d : Desc) (p : Pool) (bs : List Nat) : Keeps (addBlocks v d p bs) := by
  induction bs with
  | nil => exact .pure _
  | cons x bs ih => unfold addBlocks; exact bySteps

@[simp] theorem reserveSlots_keeps (v : Via) (d : Desc) (n limit : Nat) : Keeps (reserveSlots v d n limit) := by
  unfold reserveSlots; exact bySteps

@[simp] theorem unpin_keeps (v : Via) (bt1 : DWord) (bs : List Nat) : Keeps (unpin v bt1 bs) := by
  induction bs with
  | nil => exact .pure _
  | cons x bs ih => unfold unpin; exact bySteps

@[simp] theorem commitSlots_keeps (v : Via) (d : Desc) (b c : Nat) : Keeps (commitSlots v d b c) := by
  unfold commitSlots; exact bySteps

@[simp] theorem returnBlocks_keeps (v : Via) (bt1 : DWord) (p : Pool) (bs : List Nat) : Keeps (returnBlocks v bt1 p bs) := by
  induction bs with
  | nil => exact .pure _
  | cons x bs ih => unfold returnBlocks; exact bySteps

@[simp] theorem abandonSlots_keeps (v : Via) (d : Desc) (b c : Nat) : Keeps (abandonSlots v d b c) := by
  unfold abandonSlots; exact bySteps

@[simp] theorem newSequence_keeps (v : Via) (va : DWord) (bs : List Byte) (src : DWord) : Keeps (newSequence v va bs src) := by
  unfold newSequence; exact bySteps

@[simp] theorem shareBlocks_keeps (v : Via) (parent child : Desc) (bs : List Nat) : Keeps (shareBlocks v parent child bs) := by
  induction bs with
  | nil => exact .pure _
  | cons x bs ih => unfold shareBlocks; exact bySteps

@[simp] theorem copySlots_keeps (v : Via) (who : Nat) (parent : Desc) (dst : DWord) (first : Nat) (is : List Nat) :
    Keeps (copySlots v who parent dst first is) := by
  induction is with
  | nil => exact .pure _
  | cons x is ih => unfold copySlots; exact bySteps

@[simp] theorem forkSequence_keeps (v : Via) (who : Nat) (a b : DWord) (k : Nat) : Keeps (forkSequence v who a b k) := by
  unfold forkSequence; exact bySteps

@[simp] theorem poolTier_keeps (v : Via) (named : DWord) (d : Desc) : Keeps (poolTier v named d) := by
  unfold poolTier; exact bySteps

@[simp] theorem dropRefs_keeps (v : Via) (d : Desc) (bs : List Nat) : Keeps (dropRefs v d bs) := by
  induction bs with
  | nil => exact .pure _
  | cons x bs ih => unfold dropRefs; exact bySteps

@[simp] theorem freeSequence_keeps (v : Via) (va : DWord) : Keeps (freeSequence v va) := by
  unfold freeSequence; exact bySteps

@[simp] theorem lengthField_keeps (v : Via) (va : DWord) (fn : BitVec 3) : Keeps (lengthField v va fn) := by
  unfold lengthField; exact bySteps

@[simp] theorem commitOne_keeps (v : Via) (va : DWord) (slot : Nat) : Keeps (commitOne v va slot) := by
  unfold commitOne; exact bySteps

@[simp] theorem faultParked_keeps (p : Parked) : Keeps (faultParked p) := by
  unfold faultParked; exact bySteps

@[simp] theorem retryParked_keeps (ps : List Parked) : Keeps (retryParked ps) := by
  induction ps with
  | nil => exact .pure _
  | cons x ps ih => unfold retryParked; exact bySteps

@[simp] theorem settle_keeps (n : Nat) : Keeps (settle n) := by
  induction n with
  | zero => exact .pure _
  | succ n ih => unfold settle; exact bySteps

@[simp] theorem settleParked_keeps : Keeps (settleParked) := by
  unfold settleParked; exact bySteps

@[simp] theorem commitOrPark_keeps (uid : Nat) (v : Via) (va : DWord) (slot : Nat) : Keeps (commitOrPark uid v va slot) := by
  unfold commitOrPark; exact bySteps

@[simp] theorem rotateSlot_keeps (v : Via) (d : Desc) (slot : Nat) (bs : List Byte) (is : List Nat) :
    Keeps (rotateSlot v d slot bs is) := by
  induction is generalizing bs with
  | nil => exact .pure _
  | cons x is ih => unfold rotateSlot; exact bySteps

@[simp] theorem storeSlot_keeps (v : Via) (va : DWord) (i : Nat) (off : Int) (bs : List Byte) (rotary : Bool) (word : DWord) :
    Keeps (storeSlot v va i off bs rotary word) := by
  unfold storeSlot; exact bySteps

@[simp] theorem laneVia_keeps : Keeps (laneVia) := by
  unfold laneVia; exact bySteps

theorem execSqnew_next (b : Base) {s : State} (hs : Memory.wf s.mem = true) : NextWf (execSqnew b s) := runGroup_next bySteps hs

theorem execSqrsv_next (b : Base) {s : State} (hs : Memory.wf s.mem = true) : NextWf (execSqrsv b s) := runGroup_next bySteps hs

theorem runSqst_next (f : Form) (b : Base) (rotary : Bool) {s : State} (hs : Memory.wf s.mem = true) :
    NextWf (runSqst f b rotary s) := runLanes_next (fun _ => bySteps) hs

theorem execSqcmt_next (b : Base) {s : State} (hs : Memory.wf s.mem = true) : NextWf (execSqcmt b s) := runGroup_next bySteps hs

theorem execSqabn_next (b : Base) {s : State} (hs : Memory.wf s.mem = true) : NextWf (execSqabn b s) := by
  unfold execSqabn
  exact runGroup_next (.get_bind fun t ht => .ite (.onceOut fun _ => bySteps) (.bind (.eachLane fun _ => bySteps) fun _ => .pure _)) hs

theorem execSqfrk_next (b : Base) {s : State} (hs : Memory.wf s.mem = true) : NextWf (execSqfrk b s) := runGroup_next bySteps hs

theorem execSqlen_next (b : Base) {s : State} (hs : Memory.wf s.mem = true) : NextWf (execSqlen b s) := runGroup_next bySteps hs

theorem execSqfre_next (b : Base) {s : State} (hs : Memory.wf s.mem = true) : NextWf (execSqfre b s) := runGroup_next bySteps hs

theorem execSqld_next (b : Base) {s : State} (hs : Memory.wf s.mem = true) : NextWf (execSqld b s) :=
  runLoad_next (fun _ => bySteps) hs

/-! ### Machine/Attention -/

@[simp] theorem attnRecord_keeps (b : Base) (l : Nat) (ra : Word) : Keeps (attnRecord b l ra) := by
  unfold attnRecord; exact bySteps

@[simp] theorem attnDescriptor_keeps (l : Nat) (va : DWord) : Keeps (attnDescriptor l va) := by
  unfold attnDescriptor; exact bySteps

theorem execAttn_next (b : Base) {s : State} (hs : Memory.wf s.mem = true) : NextWf (execAttn b s) :=
  runOnce_next (fun _ => bySteps) hs

@[simp] theorem attnRange_keeps (k uid : Nat) (m : Mode) (va : DWord) (n : Nat) : Keeps (attnRange k uid m va n) := by
  unfold attnRange; exact bySteps

@[simp] theorem attnEntry_keeps (k uid : Nat) (m : Mode) (bt1 : DWord) (b : Nat) : Keeps (attnEntry k uid m bt1 b) := by
  unfold attnEntry; exact bySteps

@[simp] theorem attnPlace_keeps (k uid : Nat) (m : Mode) (d : Desc) (i : Nat) : Keeps (attnPlace k uid m d i) := by
  unfold attnPlace; exact bySteps

@[simp] theorem attnRead_keeps (k uid : Nat) (m : Mode) (d : Desc) (i : Nat) (place : Nat × DWord) (off n : Nat) :
    Keeps (attnRead k uid m d i place off n) := by
  unfold attnRead; exact bySteps

@[simp] theorem attnKeys_keeps (k uid : Nat) (m : Mode) (d : Desc) (bs : List Byte) (is : List Nat) :
    Keeps (attnKeys k uid m d bs is) := by
  induction is with
  | nil => exact .pure _
  | cons x is ih => unfold attnKeys; exact bySteps

@[simp] theorem attnBlock_keeps (o : CampOp) (desc : DWord) (bs : List Byte) (t t0 parent : Nat) (query : Option SlotClaim) :
    Keeps (attnBlock o desc bs t t0 parent query) := by
  unfold attnBlock; exact bySteps

@[simp] theorem attnEmpty_keeps (o : CampOp) (bs : List Byte) (t : Nat) : Keeps (attnEmpty o bs t) := .modify fun _ hs => hs

@[simp] theorem execAttnBlockDone_next (camp op : Nat) {s : State} (hs : Memory.wf s.mem = true) :
    NextWf (execAttnBlockDone camp op s) := by
  unfold execAttnBlockDone
  split
  · exact .next hs
  · split
    · exact runEvent_next _ bySteps hs
    · exact .ite (runEvent_next _ bySteps hs) (.next hs)
    · exact .next hs

/-! ### Machine/Append -/

@[simp] theorem modLog_keeps (n : Nat) (f : FlashLog → FlashLog) : Keeps (modLog n f) := .modify fun _ hs => hs

@[simp] theorem openDurable_keeps (v : Via) (va : DWord) : Keeps (openDurable v va) := by
  unfold openDurable; exact bySteps

@[simp] theorem reserveRecord_keeps (v : Via) (va : DWord) (len : Nat) : Keeps (reserveRecord v va len) := by
  unfold reserveRecord; exact bySteps

theorem execApnd_next (b : Base) {s : State} (hs : Memory.wf s.mem = true) : NextWf (execApnd b s) := runGroup_next bySteps hs

@[simp] theorem goodBytes_keeps (e : Append) (va : DWord) (n : Nat) : Keeps (goodBytes e va n) := by
  unfold goodBytes; exact bySteps

@[simp] theorem readSource_keeps (e : Append) (cs : List (Nat × Nat)) (got : List Byte) : Keeps (readSource e cs got) := by
  induction cs generalizing got with
  | nil => exact .pure _
  | cons x cs ih => unfold readSource; exact bySteps

@[simp] theorem appendSource_keeps (e : Append) : Keeps (appendSource e) := by
  unfold appendSource; exact bySteps

@[simp] theorem writeSlots_keeps (v : Via) (d : Desc) (is : List Nat) (bs : List Byte) : Keeps (writeSlots v d is bs) := by
  induction is generalizing bs with
  | nil => exact .pure _
  | cons x is ih => unfold writeSlots; exact bySteps

@[simp] theorem writeRecord_keeps (v : Via) (desc : DWord) (tag seq ns : Nat) (payload : List Byte) :
    Keeps (writeRecord v desc tag seq ns payload) := by
  unfold writeRecord; exact bySteps

@[simp] theorem commitRecord_keeps (v : Via) (desc : DWord) (seq ns : Nat) : Keeps (commitRecord v desc seq ns) := by
  unfold commitRecord; exact bySteps

@[simp] theorem modAppend_keeps (c uid : Nat) (f : Append → Append) : Keeps (modAppend c uid f) := .modify fun _ hs => hs

@[simp] theorem holdAppend_keeps (e : Append) (got : List Byte) (t : Trap) : Keeps (holdAppend e got t) := .modify fun _ hs => hs

@[simp] theorem finishAppend_keeps (e : Append) (payload : List Byte) : Keeps (finishAppend e payload) := by
  unfold finishAppend; exact bySteps

@[simp] theorem runAppend_keeps (e : Append) : Keeps (runAppend e) := by
  unfold runAppend; exact bySteps

theorem execAppendTransfer_next (uid : Nat) {s : State} (hs : Memory.wf s.mem = true) :
    NextWf (execAppendTransfer uid s) := by
  unfold execAppendTransfer; exact bySteps

@[simp] theorem captureTail_keeps (b : Base) (l : Nat) : Keeps (captureTail b l) := by
  unfold captureTail; exact bySteps

theorem execAfnc_next (b : Base) {s : State} (hs : Memory.wf s.mem = true) : NextWf (execAfnc b s) := runGroup_next bySteps hs

@[simp] theorem writeLength_keeps (n : Nat) : Keeps (writeLength n) := by
  unfold writeLength; exact bySteps

@[simp] theorem flashMapped_keeps (v : Via) (base : DWord) (is : List Nat) : Keeps (flashMapped v base is) := by
  induction is with
  | nil => exact .pure _
  | cons x is ih => unfold flashMapped; exact bySteps

@[simp] theorem bindStream_keeps (part : Nat) (req : List Byte) : Keeps (bindStream part req) := by
  unfold bindStream; exact bySteps

@[simp] theorem runService_next {m : M Unit} (hm : Keeps m) {s : State} (hs : Memory.wf s.mem = true) : NextWf (runService m s) := by
  unfold runService
  split
  · next h => exact .next ((Keeps.attempt hm) s hs _ _ h)
  all_goals exact bySteps

@[simp] theorem nextRequest_keeps (part pa served : Nat) : Keeps (nextRequest part pa served) := by
  unfold nextRequest; exact bySteps

@[simp] theorem serveBind_keeps (part request : Nat) : Keeps (serveBind part request) := by
  unfold serveBind; exact bySteps

theorem execStorageBindRequest_next (part request : Nat) {s : State} (hs : Memory.wf s.mem = true) :
    NextWf (execStorageBindRequest part request s) := runService_next bySteps hs

@[simp] theorem programSlots_keeps (v : Via) (d : Desc) (g : FlashLog) (is : List Nat) : Keeps (programSlots v d g is) := by
  induction is with
  | nil => exact .pure _
  | cons x is ih => unfold programSlots; exact bySteps

@[simp] theorem recordEnd_keeps (v : Via) (d : Desc) (bound n at_ : Nat) : Keeps (recordEnd v d bound n at_) := by
  induction n generalizing at_ with
  | zero => exact .pure _
  | succ n ih => unfold recordEnd; exact bySteps

@[simp] theorem advanceLog_keeps (n slots : Nat) : Keeps (advanceLog n slots) := by
  unfold advanceLog; exact bySteps

theorem execDslotAdvance_next (log slots : Nat) {s : State} (hs : Memory.wf s.mem = true) :
    NextWf (execDslotAdvance log slots s) := runService_next bySteps hs

theorem execFlashProgramFail_next (log : Nat) {s : State} (hs : Memory.wf s.mem = true) :
    NextWf (execFlashProgramFail log s) := runService_next bySteps hs

@[simp] theorem demoteBlock_keeps (n b : Nat) : Keeps (demoteBlock n b) := by
  unfold demoteBlock; exact bySteps

theorem execBlockDemotion_next (log block : Nat) {s : State} (hs : Memory.wf s.mem = true) :
    NextWf (execBlockDemotion log block s) := runService_next bySteps hs

theorem State.recoverLog_wf {s : State} (torn : Nat) (g : FlashLog) (hs : Memory.wf s.mem = true) :
    Memory.wf (s.recoverLog torn g).1 = true := by
  unfold State.recoverLog
  dsimp only
  split
  · refine wf_foldl id (fun m a hm => Memory.wf_write m _ _ hm) _ _ ?_
    split
    · next h => exact programSlots_keeps _ _ _ _ s hs _ _ h
    · exact hs
  · exact hs

theorem execPowerLoss_next (torn : Nat) {s : State} (hs : Memory.wf s.mem = true) : NextWf (execPowerLoss torn s) := by
  unfold execPowerLoss
  dsimp only
  refine .next (wf_foldl id (fun m w hm => Memory.wf_writeN _ m _ hm) _ _ (Memory.wf_filter _ _ ?_))
  exact wf_foldl (fun acc : State × List PhysWrite × List FlashLog => acc.1.mem) (fun _ g h => State.recoverLog_wf torn g h) _ _ hs

/-! ### Machine/Fetch -/

@[simp] theorem State.faultAll_wf {s : State} (c : Cause) (val : DWord) (hs : Memory.wf s.mem = true) :
    Memory.wf (s.faultAll c val).mem = true := wf_foldl State.mem (fun _ _ hs => bySteps) _ _ hs

@[simp] theorem State.decodeFault_wf {s : State} (ws : Words) (c : Cause) (val : DWord) (hs : Memory.wf s.mem = true) :
    Memory.wf (s.decodeFault ws c val).mem = true := by
  unfold State.decodeFault; exact bySteps

/-! ### Machine/Integer -/

@[simp] theorem maskOut_keeps (f : Form) (b : Base) (test : Operands → Bool) : Keeps (maskOut f b test) := by
  unfold maskOut; exact bySteps

theorem runCompare_next (f : Form) (b : Base) (test : Operands → Bool) {s : State} (hs : Memory.wf s.mem = true) :
    NextWf (runCompare f b test s) := runGroup_next bySteps hs

theorem execPlop_next (b : Base) {s : State} (hs : Memory.wf s.mem = true) : NextWf (execPlop b s) :=
  runLanes_next (fun _ => bySteps) hs

theorem execP2v_next (b : Base) {s : State} (hs : Memory.wf s.mem = true) : NextWf (execP2v b s) :=
  runLanes_next (fun _ => bySteps) hs

theorem execV2p_next (b : Base) {s : State} (hs : Memory.wf s.mem = true) : NextWf (execV2p b s) :=
  runLanes_next (fun _ => bySteps) hs

/-! ### Machine/Convert -/

@[simp] theorem nextWord_keeps (k l : Nat) : Keeps (nextWord k l) := by
  unfold nextWord; exact bySteps

@[simp] theorem drawFor_keeps (fn : BitVec 3) (l : Nat) : Keeps (drawFor fn l) := by
  unfold drawFor; exact bySteps

theorem runConvert_next (f : Form) (b : Base) (t : Ty) (draws : Nat) (g : List Nat → Operands → DWord)
    {s : State} (hs : Memory.wf s.mem = true) :
    NextWf (runConvert f b t draws g s) := by
  unfold runConvert
  split
  · exact runOnce_next (fun _ => bySteps) hs
  · exact runLanes_next (fun _ => bySteps) hs

@[simp] theorem qntGroup_keeps (f : Form) (b : Base) : Keeps (qntGroup f b) := by
  unfold qntGroup; exact bySteps

theorem execQnt_next (b : Base) {s : State} (hs : Memory.wf s.mem = true) : NextWf (execQnt b s) := runGroup_next bySteps hs

theorem runRand_next {f : Form} {b : Base} {act : Nat → M LaneOut} (h : ∀ l, Keeps (act l)) {s : State} (hs : Memory.wf s.mem = true) :
    NextWf (runRand f b act s) := runGroup_next bySteps hs

theorem execRandNext_next (b : Base) {s : State} (hs : Memory.wf s.mem = true) : NextWf (execRandNext b s) :=
  runRand_next (fun _ => bySteps) hs

theorem execRandBlk_next (b : Base) {s : State} (hs : Memory.wf s.mem = true) : NextWf (execRandBlk b s) :=
  runRand_next (fun _ => bySteps) hs

theorem execRandRdpos_next (b : Base) {s : State} (hs : Memory.wf s.mem = true) : NextWf (execRandRdpos b s) :=
  runRand_next (fun _ => bySteps) hs

theorem execRandWrpos_next (b : Base) {s : State} (hs : Memory.wf s.mem = true) : NextWf (execRandWrpos b s) :=
  runLanes_next (fun _ => bySteps) hs

theorem execRandSkip_next (b : Base) {s : State} (hs : Memory.wf s.mem = true) : NextWf (execRandSkip b s) :=
  runLanes_next (fun _ => bySteps) hs

theorem execRandWrkey_next (b : Base) {s : State} (hs : Memory.wf s.mem = true) : NextWf (execRandWrkey b s) :=
  runOnce_next (fun _ => bySteps) hs

/-! ### Machine/CrossLane -/

@[simp] theorem participants_keeps (f : Form) (b : Base) (k : List (Nat × Operands) → M GroupOut) (h : ∀ x, Keeps (k x)) :
    Keeps (participants f b k) := by
  unfold participants; exact bySteps

theorem runCross_next (f : Form) (b : Base) (g : List (Nat × Operands) → Nat → List (Dest × Word))
    {s : State} (hs : Memory.wf s.mem = true) :
    NextWf (runCross f b g s) :=
  runGroup_next (participants_keeps _ _ _ fun _ => bySteps) hs

theorem execShfl_next (b : Base) {s : State} (hs : Memory.wf s.mem = true) : NextWf (execShfl b s) := by
  unfold execShfl
  exact runCross_next _ _ _ hs

theorem execVote_next (b : Base) {s : State} (hs : Memory.wf s.mem = true) : NextWf (execVote b s) := runGroup_next bySteps hs

theorem execMatchx_next (b : Base) {s : State} (hs : Memory.wf s.mem = true) : NextWf (execMatchx b s) := by
  unfold execMatchx
  exact runCross_next _ _ _ hs

theorem execElect_next (b : Base) {s : State} (hs : Memory.wf s.mem = true) : NextWf (execElect b s) := runGroup_next bySteps hs

theorem execRedux_next (b : Base) {s : State} (hs : Memory.wf s.mem = true) : NextWf (execRedux b s) := by
  unfold execRedux
  exact runCross_next _ _ _ hs

theorem execScanx_next (b : Base) {s : State} (hs : Memory.wf s.mem = true) : NextWf (execScanx b s) := by
  unfold execScanx
  exact runCross_next _ _ _ hs

theorem execFredx_next (b : Base) {s : State} (hs : Memory.wf s.mem = true) : NextWf (execFredx b s) := by
  unfold execFredx
  exact runCross_next _ _ _ hs

theorem execBcast_next (b : Base) {s : State} (hs : Memory.wf s.mem = true) : NextWf (execBcast b s) := by
  unfold execBcast
  exact runCross_next _ _ _ hs

/-! ### Machine/Long -/

theorem runLbnd_next (f : Form) (b : Base) (ok : State → Bool) (change : Agent → Agent) {s : State} (hs : Memory.wf s.mem = true) :
    NextWf (runLbnd f b ok change s) := runGroup_next bySteps hs

@[simp] theorem longB_keeps (f : Form) (b : Base) (k base n : Nat) : Keeps (longB f b k base n) := by
  unfold longB; exact bySteps

@[simp] theorem shortB_keeps (f : Form) (b : Base) (base : Nat) : Keeps (shortB f b base) := by
  unfold shortB; exact bySteps

theorem runLong_next {f : Form} {b : Base} {act : Nat → Nat → M LaneOut} (h : ∀ n l, Keeps (act n l)) {s : State}
    (hs : Memory.wf s.mem = true) : NextWf (runLong f b act s) := runGroup_next bySteps hs

theorem runLari_next (f : Form) (b : Base) (g : Nat → Nat → Nat → Nat × Bool × Bool) {s : State} (hs : Memory.wf s.mem = true) :
    NextWf (runLari f b g s) := runGroup_next bySteps hs

theorem execLariAdd_next (b : Base) {s : State} (hs : Memory.wf s.mem = true) : NextWf (execLariAdd b s) := by
  unfold execLariAdd
  exact runLari_next _ _ _ hs

theorem execLariSub_next (b : Base) {s : State} (hs : Memory.wf s.mem = true) : NextWf (execLariSub b s) := by
  unfold execLariSub
  exact runLari_next _ _ _ hs

theorem execLariNeg_next (b : Base) {s : State} (hs : Memory.wf s.mem = true) : NextWf (execLariNeg b s) := by
  unfold execLariNeg
  exact runLari_next _ _ _ hs

theorem execLariAddt_next (b : Base) {s : State} (hs : Memory.wf s.mem = true) : NextWf (execLariAddt b s) := by
  unfold execLariAddt
  exact runLari_next _ _ _ hs

theorem execLariCmp_next (b : Base) {s : State} (hs : Memory.wf s.mem = true) : NextWf (execLariCmp b s) :=
  runLong_next (fun _ _ => bySteps) hs

theorem execLshf_next (b : Base) {s : State} (hs : Memory.wf s.mem = true) : NextWf (execLshf b s) :=
  runLong_next (fun _ _ => bySteps) hs

theorem execLmul_next (b : Base) {s : State} (hs : Memory.wf s.mem = true) : NextWf (execLmul b s) :=
  runLong_next (fun _ _ => bySteps) hs

theorem runAccum_next {f : Form} {b : Base} {act : Nat → M LaneOut} (h : ∀ l, Keeps (act l)) {s : State} (hs : Memory.wf s.mem = true) :
    NextWf (runAccum f b act s) := runGroup_next bySteps hs

theorem execLariLacc_next (b : Base) {s : State} (hs : Memory.wf s.mem = true) : NextWf (execLariLacc b s) :=
  runAccum_next (fun _ => bySteps) hs

theorem execLariLnrm_next (b : Base) {s : State} (hs : Memory.wf s.mem = true) : NextWf (execLariLnrm b s) :=
  runAccum_next (fun _ => bySteps) hs

/-! ### Machine/Distributor -/

@[simp] theorem shapedDesc_keeps (v : Via) (va : DWord) (slog : Nat) : Keeps (shapedDesc v va slog) := by
  unfold shapedDesc; exact bySteps

@[simp] theorem readTaskSeq_keeps (v : Via) (base : DWord) (old : TaskSeq) (q : Nat) : Keeps (readTaskSeq v base old q) := by
  unfold readTaskSeq; exact bySteps

@[simp] theorem readTable_keeps (v : Via) (base : DWord) (old : List TaskSeq) : Keeps (readTable v base old) := by
  unfold readTable; exact bySteps

@[simp] theorem acceptTasks_keeps (part q : Nat) : Keeps (acceptTasks part q) := by
  unfold acceptTasks; exact bySteps

@[simp] theorem State.endTask_mem (s : State) (id : TaskId) (status : Nat) : (s.endTask id status).mem = s.mem := rfl

@[simp] theorem State.endMalformed_mem (s : State) (part : Nat) : (s.endMalformed part).mem = s.mem := by
  unfold State.endMalformed; exact bySteps

theorem execTaskAccept_next (part qidx : Nat) {s : State} (hs : Memory.wf s.mem = true) :
    NextWf (execTaskAccept part qidx s) := runService_next bySteps hs

@[simp] theorem modTask_keeps (id : TaskId) (f : Task → Task) : Keeps (modTask id f) := .modify fun _ hs => hs

@[simp] theorem markComplete_keeps (id : TaskId) : Keeps (markComplete id) := by
  unfold markComplete; exact bySteps

@[simp] theorem appendCompletion_keeps (t : Task) : Keeps (appendCompletion t) := by
  unfold appendCompletion; exact bySteps

@[simp] theorem armCompletion_keeps (part : Nat) : Keeps (armCompletion part) := by
  unfold armCompletion; exact bySteps

@[simp] theorem State.dropCompWait_mem (s : State) (part : Nat) : (s.dropCompWait part).mem = s.mem := rfl

@[simp] theorem flushCompletions_keeps (part n : Nat) : Keeps (flushCompletions part n) := by
  induction n with
  | zero => exact .pure _
  | succ n ih => unfold flushCompletions; exact bySteps

@[simp] theorem reapAppended_keeps (part : Nat) : Keeps (reapAppended part) := by
  unfold reapAppended; exact bySteps

@[simp] theorem runCompletions_keeps (part : Nat) : Keeps (runCompletions part) := by
  unfold runCompletions; exact bySteps

theorem execTaskComplete_next (part qidx slot : Nat) {s : State} (hs : Memory.wf s.mem = true) :
    NextWf (execTaskComplete part qidx slot s) := by
  unfold execTaskComplete; exact bySteps

theorem execCompletionAppendRetry_next (part : Nat) {s : State} (hs : Memory.wf s.mem = true) :
    NextWf (execCompletionAppendRetry part s) := by
  unfold execCompletionAppendRetry; exact bySteps

@[simp] theorem State.renewPrios_mem (s : State) (part : Nat) : (s.renewPrios part).mem = s.mem := rfl

@[simp] theorem writeTasktab_keeps (part : Nat) (value : DWord) : Keeps (writeTasktab part value) := by
  unfold writeTasktab; exact bySteps

theorem execTasktabWrite_next (part : Nat) (value : DWord) {s : State} (hs : Memory.wf s.mem = true) :
    NextWf (execTasktabWrite part value s) := runService_next bySteps hs

@[simp] theorem writeCompdesc_keeps (part : Nat) (value : DWord) : Keeps (writeCompdesc part value) := by
  unfold writeCompdesc; exact bySteps

theorem execCompdescWrite_next (part : Nat) (value : DWord) {s : State} (hs : Memory.wf s.mem = true) :
    NextWf (execCompdescWrite part value s) := runService_next bySteps hs

@[simp] theorem launchRecord_keeps (v : Via) (va : DWord) (rec_ : List Byte) : Keeps (launchRecord v va rec_) := by
  unfold launchRecord; exact bySteps

theorem execLaunch_next (b : Base) {s : State} (hs : Memory.wf s.mem = true) :
    NextWf (execLaunch b s) := runGroup_next bySteps hs

@[simp] theorem State.placeParty_mem (s : State) (t : Task) (scl : List Word) (key core partyId rank : Nat)
    (team : Option Nat) (role : DetRole) (det : Option Nat) :
    (s.placeParty t scl key core partyId rank team role det).mem = s.mem := by
  unfold State.placeParty; exact bySteps

@[simp] theorem placeTeam_keeps (t : Task) (scl : List Word) (cores : List Nat) (role : DetRole) (dets : List Nat) :
    Keeps (placeTeam t scl cores role dets) := by
  unfold placeTeam; exact bySteps

@[simp] theorem newDets_keeps (n : Nat) : Keeps (newDets n) := by
  unfold newDets; exact bySteps

@[simp] theorem recordVa_keeps (t : Task) : Keeps (recordVa t) := by
  unfold recordVa; exact bySteps

@[simp] theorem placeNext_keeps (t : Task) : Keeps (placeNext t) := by
  unfold placeNext; exact bySteps

@[simp] theorem placeTask_keeps (id : TaskId) (n : Nat) : Keeps (placeTask id n) := by
  induction n with
  | zero => exact .pure _
  | succ n ih => unfold placeTask; exact bySteps

@[simp] theorem compFit_keeps (part : Nat) : Keeps (compFit part) := by
  unfold compFit; exact bySteps

@[simp] theorem placeable_keeps (part : Nat) : Keeps (placeable part) := by
  unfold placeable; exact bySteps

@[simp] theorem State.writeSram_mem (s : State) (c : Nat) (value : DWord) : (s.writeSram c value).mem = s.mem := rfl

theorem execSramcfgWrite_next (core : Nat) (value : DWord) {s : State} (hs : Memory.wf s.mem = true) :
    NextWf (execSramcfgWrite core value s) := by
  unfold execSramcfgWrite; exact bySteps

theorem execSramSplitApply_next (core : Nat) {s : State} (hs : Memory.wf s.mem = true) :
    NextWf (execSramSplitApply core s) := by
  unfold execSramSplitApply; exact bySteps

/-! ### Machine/Exit -/

@[simp] theorem State.endParty_wf {s : State} (p : Nat) (hs : Memory.wf s.mem = true) : Memory.wf (s.endParty p).mem = true := by
  unfold State.endParty; exact bySteps

@[simp] theorem State.exitAll_mem (s : State) (p : Nat) : (s.exitAll p).mem = s.mem := by
  unfold State.exitAll; exact bySteps

@[simp] theorem State.endPair_wf {s : State} (n : Nat) (hs : Memory.wf s.mem = true) : Memory.wf (s.endPair n).mem = true := by
  unfold State.endPair; exact bySteps

@[simp] theorem State.exitArrivals_wf
    {s : State} (k : Nat) (hs : Memory.wf s.mem = true) : Memory.wf (s.exitArrivals k).mem = true := by
  refine wf_foldl State.mem (fun s b hs => ?_) _ _ hs
  split
  · next h => exact wf_of_baraArrive h hs
  · exact bySteps

@[simp] theorem afterExit_keeps (k : Nat) : Keeps (afterExit k) := by
  unfold afterExit; exact bySteps

theorem execExit_next (b : Base) {s : State} (hs : Memory.wf s.mem = true) : NextWf (execExit b s) := by
  unfold execExit
  split
  · next h => have ht := runGroup_next bySteps hs _ h; exact .ite (.next ht) (runM_next bySteps ht)
  · exact runGroup_next bySteps hs

/-! ### Machine/Control -/

theorem execNop_next (b : Base) {s : State} (hs : Memory.wf s.mem = true) : NextWf (execNop b s) := runGroup_next bySteps hs

theorem execClh_next (w : ClhWord) {s : State} (hs : Memory.wf s.mem = true) : NextWf (execClh w s) := by
  unfold execClh
  split
  · exact bySteps
  · exact .ite bySteps (runM_next bySteps hs)

theorem execBkpt_next (w : BkptWord) {s : State} (hs : Memory.wf s.mem = true) : NextWf (execBkpt w s) := by
  unfold execBkpt; exact bySteps

theorem execYield_next (b : Base) {s : State} (hs : Memory.wf s.mem = true) : NextWf (execYield b s) := runGroup_next bySteps hs

@[simp] theorem transfer_keeps (b : Base) (targets : List (Nat × DWord)) (go : Lane → DWord → Lane) :
    Keeps (transfer b targets go) := by
  unfold transfer; exact bySteps

theorem execBra_next (b : Base) {s : State} (hs : Memory.wf s.mem = true) : NextWf (execBra b s) := runGroup_next bySteps hs

theorem execBrau_next (b : Base) {s : State} (hs : Memory.wf s.mem = true) : NextWf (execBrau b s) := runGroup_next bySteps hs

@[simp] theorem registerTargets_keeps (f : Form) (b : Base) : Keeps (registerTargets f b) := by
  unfold registerTargets; exact bySteps

theorem execBrx_next (b : Base) {s : State} (hs : Memory.wf s.mem = true) : NextWf (execBrx b s) := runGroup_next bySteps hs

theorem execBrc_next (b : Base) {s : State} (hs : Memory.wf s.mem = true) : NextWf (execBrc b s) := runGroup_next bySteps hs

@[simp] theorem pushReturn_keeps (k l : Nat) (ra : DWord) : Keeps (pushReturn k l ra) := by
  unfold pushReturn; exact bySteps

@[simp] theorem popReturn_keeps (k l : Nat) : Keeps (popReturn k l) := by
  unfold popReturn; exact bySteps

@[simp] theorem callLanes_keeps (b : Base) (targets : List (Nat × DWord)) : Keeps (callLanes b targets) := by
  unfold callLanes; exact bySteps

theorem execCall_next (b : Base) {s : State} (hs : Memory.wf s.mem = true) : NextWf (execCall b s) := runGroup_next bySteps hs

theorem execCallx_next (b : Base) {s : State} (hs : Memory.wf s.mem = true) : NextWf (execCallx b s) := runGroup_next bySteps hs

@[simp] theorem peekReturns_keeps (b : Base) : Keeps (peekReturns b) := fun _ hs => .ok hs

theorem execRet_next (b : Base) {s : State} (hs : Memory.wf s.mem = true) : NextWf (execRet b s) := runGroup_next bySteps hs

@[simp] theorem repeatLane_keeps (k l : Nat) (start fin : DWord) (n : Word) (word : DWord) :
    Keeps (repeatLane k l start fin n word) := by
  unfold repeatLane; exact bySteps

theorem execRepeatx_next (b : Base) {s : State} (hs : Memory.wf s.mem = true) : NextWf (execRepeatx b s) :=
  runGroup_next bySteps hs

/-! ### Machine/Schedule -/

@[simp] theorem State.withIssue_mem (s : State) (k : Nat) (g : List Nat) (n : Nat) (w : BitVec 64) :
    (s.withIssue k g n w).mem = s.mem := rfl

@[simp] theorem State.noteLocks_wf {s : State} (k : Nat) (hs : Memory.wf s.mem = true) : Memory.wf (s.noteLocks k).mem = true :=
  wf_foldl State.mem (fun _ _ hs => bySteps) _ _ hs

@[simp] theorem State.fillPlaces_mem (s : State) (c n : Nat) : (s.fillPlaces c n).mem = s.mem := by
  induction n generalizing s with
  | zero => rfl
  | succ n ih => unfold State.fillPlaces; exact bySteps

theorem execRopeSwap_next (core slot : Nat) {s : State} (hs : Memory.wf s.mem = true) :
    NextWf (execRopeSwap core slot s) := by
  unfold execRopeSwap; exact bySteps

theorem execTimeSlice_next (core : Nat) {s : State} (hs : Memory.wf s.mem = true) : NextWf (execTimeSlice core s) := by
  unfold execTimeSlice; exact bySteps

@[simp] theorem State.countOpportunity_mem (s : State) (r : Nat) (groups : List (List Nat)) (issued : List Nat) :
    (s.countOpportunity r groups issued).mem = s.mem := by
  unfold State.countOpportunity; exact bySteps

@[simp] theorem State.ageLane_mem (s : State) (k l : Nat) : (s.ageLane k l).mem = s.mem := by
  unfold State.ageLane; exact bySteps

@[simp] theorem State.issueRopes_wf {s : State} (c : Nat) (hs : Memory.wf s.mem = true) : Memory.wf (s.issueRopes c).mem = true := by
  unfold State.issueRopes; exact bySteps

@[simp] theorem State.issueLead_wf {s : State} (c : Nat) (hs : Memory.wf s.mem = true) : Memory.wf (s.issueLead c).mem = true := by
  unfold State.issueLead; exact bySteps

@[simp] theorem State.tickCore_wf {s : State} (c : Nat) (hs : Memory.wf s.mem = true) : Memory.wf (s.tickCore c).mem = true := by
  unfold State.tickCore; exact bySteps

theorem execIssueCycle_next (core : Nat) {s : State} (hs : Memory.wf s.mem = true) : NextWf (execIssueCycle core s) :=
  .next (State.issueLead_wf _ (State.issueRopes_wf _ (by simp [hs])))

theorem execLaneAged_next (agent lane : Nat) {s : State} (hs : Memory.wf s.mem = true) :
    NextWf (execLaneAged agent lane s) := by
  unfold execLaneAged; exact bySteps

@[simp] theorem refillReg_keeps (k reg : Nat) : Keeps (refillReg k reg) := by
  unfold refillReg; exact bySteps

theorem execVregRefill_next (agent reg : Nat) {s : State} (hs : Memory.wf s.mem = true) :
    NextWf (execVregRefill agent reg s) := runEvent_next _ bySteps hs

theorem execFlagFall_next (agent uid : Nat) {s : State} (hs : Memory.wf s.mem = true) :
    NextWf (execFlagFall agent uid s) := by
  unfold execFlagFall; exact bySteps

theorem execOperationPerformed_next (agent : Nat) (lanes : Word) {s : State} (hs : Memory.wf s.mem = true) :
    NextWf (execOperationPerformed agent lanes s) := by
  unfold execOperationPerformed; exact bySteps

/-! ### Machine/Preempt -/

@[simp] theorem State.settleSave_mem (s : State) (id : TaskId) : (s.settleSave id).mem = s.mem := by
  unfold State.settleSave; exact bySteps

@[simp] theorem State.dropParty_wf {s : State} (p : Nat) (hs : Memory.wf s.mem = true) : Memory.wf (s.dropParty p).mem = true := by
  unfold State.dropParty; exact bySteps

@[simp] theorem State.freeFrame_mem (s : State) (v : Saved) : (s.freeFrame v).mem = s.mem := by
  unfold State.freeFrame; split <;> rfl

@[simp] theorem State.abortTask_wf {s : State} (id : TaskId) (hs : Memory.wf s.mem = true) :
    Memory.wf (s.abortTask id).mem = true := by
  unfold State.abortTask; exact bySteps

@[simp] theorem State.setPreq_mem (s : State) (id : TaskId) (busy : Bool) (res : Nat) : (s.setPreq id busy res).mem = s.mem := rfl

@[simp] theorem State.preqSave_mem (s : State) (id : TaskId) : (s.preqSave id).mem = s.mem := by
  unfold State.preqSave; exact bySteps

@[simp] theorem State.preqResume_mem (s : State) (id : TaskId) : (s.preqResume id).mem = s.mem := by
  unfold State.preqResume; split <;> rfl

@[simp] theorem State.preqAbort_wf {s : State} (id : TaskId) (hs : Memory.wf s.mem = true) :
    Memory.wf (s.preqAbort id).mem = true := by
  unfold State.preqAbort; exact bySteps

theorem runPreq_next {part qidx slot : Nat} {act : State → TaskId → State} (h : ∀ s id, Memory.wf s.mem = true → Memory.wf (act s id).mem = true)
    {s : State}
    (hs : Memory.wf s.mem = true) : NextWf (runPreq part qidx slot act s) := by
  unfold runPreq; exact bySteps

theorem execPreqSave_next (part qidx slot : Nat) {s : State} (hs : Memory.wf s.mem = true) :
    NextWf (execPreqSave part qidx slot s) :=
  runPreq_next (fun _ _ => bySteps) hs

theorem execPreqResume_next (part qidx slot : Nat) {s : State} (hs : Memory.wf s.mem = true) :
    NextWf (execPreqResume part qidx slot s) :=
  runPreq_next (fun _ _ => bySteps) hs

theorem execPreqAbort_next (part qidx slot : Nat) {s : State} (hs : Memory.wf s.mem = true) :
    NextWf (execPreqAbort part qidx slot s) :=
  runPreq_next (fun _ id => State.preqAbort_wf id) hs

@[simp] theorem State.restartInterval_mem (s : State) (p : Nat) : (s.restartInterval p).mem = s.mem := by
  unfold State.restartInterval; exact bySteps

@[simp] theorem saveParty_keeps (p j : Nat) : Keeps (saveParty p j) := by
  unfold saveParty; exact bySteps

@[simp] theorem saveParties_keeps (ps : List Nat) : Keeps (saveParties ps) := by
  induction ps with
  | nil => exact .pure _
  | cons x ps ih => unfold saveParties; exact bySteps

theorem execContextSave_next (party : Nat) {s : State} (hs : Memory.wf s.mem = true) : NextWf (execContextSave party s) := by
  unfold execContextSave
  dsimp only
  refine .ite (.next hs) (.ite bySteps (runEvent_next _ bySteps hs))

@[simp] theorem placeMarks_keeps (p c : Nat) : Keeps (placeMarks p c) := by
  unfold placeMarks; exact bySteps

@[simp] theorem placeVectors_keeps (c p : Nat) (es : List (Nat × Nat)) : Keeps (placeVectors c p es) := by
  induction es with
  | nil => exact .pure _
  | cons x es ih => unfold placeVectors; exact bySteps

@[simp] theorem State.arriveAgain_mem (s : State) (p : Nat) : (s.arriveAgain p).mem = s.mem := rfl

@[simp] theorem moveDet_keeps (p c : Nat) (keys : List (Nat × Nat)) : Keeps (moveDet p c keys) := by
  unfold moveDet; exact bySteps

@[simp] theorem resumeParty_keeps (v : Saved) (c : Nat) : Keeps (resumeParty v c) := by
  unfold resumeParty; exact bySteps

@[simp] theorem State.restoreTeam_mem (s : State) (vs : List Saved) : (s.restoreTeam vs).mem = s.mem := by
  unfold State.restoreTeam; exact bySteps

@[simp] theorem resumeGroup_keeps (vs : List Saved) (cores : List Nat) : Keeps (resumeGroup vs cores) := by
  unfold resumeGroup; exact bySteps

@[simp] theorem resumeNext_keeps (v : Saved) : Keeps (resumeNext v) := by
  unfold resumeNext; exact bySteps

theorem execPartyResume_next (party core : Nat) {s : State} (hs : Memory.wf s.mem = true) :
    NextWf (execPartyResume party core s) := by
  unfold execPartyResume
  split
  · exact .next hs
  · exact .ite (runEvent_next _ bySteps hs) (.next hs)

@[simp] theorem resumeTask_keeps (id : TaskId) (n : Nat) : Keeps (resumeTask id n) := by
  induction n with
  | zero => exact .pure _
  | succ n ih => unfold resumeTask; exact bySteps

@[simp] theorem attemptTask_keeps (id : TaskId) : Keeps (attemptTask id) := by
  unfold attemptTask; exact bySteps

@[simp] theorem placeableParts_keeps (ps : List Nat) : Keeps (placeableParts ps) := by
  induction ps with
  | nil => exact .pure _
  | cons x ps ih => unfold placeableParts; exact bySteps

theorem execPlacementAttempt_next {s : State} (hs : Memory.wf s.mem = true) : NextWf (execPlacementAttempt s) :=
  runService_next bySteps hs

/-! ### Machine/Determinism -/

@[simp] theorem State.setDreq_mem (s : State) (part : Nat) (busy : Bool) (res : Nat) : (s.setDreq part busy res).mem = s.mem := rfl

@[simp] theorem State.haltLanes_mem (s : State) (p : Nat) : (s.haltLanes p).mem = s.mem := by
  unfold State.haltLanes; exact bySteps

@[simp] theorem State.startReplay_wf {s : State} (p n : Nat) (d : Det) (hs : Memory.wf s.mem = true) :
    Memory.wf (s.startReplay p n d).mem = true := by
  unfold State.startReplay; exact bySteps

@[simp] theorem beginReplay_keeps (p n : Nat) : Keeps (beginReplay p n) := by
  unfold beginReplay; exact bySteps

@[simp] theorem requestReplay_keeps (part : Nat) (value : DWord) : Keeps (requestReplay part value) := by
  unfold requestReplay; exact bySteps

theorem execDreqReplay_next (part : Nat) (value : DWord) {s : State} (hs : Memory.wf s.mem = true) :
    NextWf (execDreqReplay part value s) := by
  unfold execDreqReplay; exact bySteps

theorem execReplayStop_next (party : Nat) {s : State} (hs : Memory.wf s.mem = true) : NextWf (execReplayStop party s) := by
  unfold execReplayStop; exact bySteps

@[simp] theorem State.endReplay_wf {s : State} (part : Nat) (hs : Memory.wf s.mem = true) :
    Memory.wf (s.endReplay part).mem = true := by
  unfold State.endReplay; exact bySteps

theorem execDreqEnd_next (part : Nat) {s : State} (hs : Memory.wf s.mem = true) : NextWf (execDreqEnd part s) := by
  unfold execDreqEnd; exact bySteps

theorem execLogFull_next (party : Nat) {s : State} (hs : Memory.wf s.mem = true) : NextWf (execLogFull party s) := by
  unfold execLogFull
  dsimp only
  split
  · exact .ite (.next hs) (.ite (runEvent_next _ bySteps bySteps) bySteps)
  · exact .next hs

theorem execLogFullCompare_next (pair : Nat) {s : State} (hs : Memory.wf s.mem = true) :
    NextWf (execLogFullCompare pair s) := by
  unfold execLogFullCompare
  split
  · exact .next hs
  · split
    · exact .next hs
    · exact .ite (.next hs) (.ite bySteps (runEvent_next _ bySteps hs))

theorem execRedundantEffect_next (pair : Nat) {s : State} (hs : Memory.wf s.mem = true) :
    NextWf (execRedundantEffect pair s) := by
  unfold execRedundantEffect; exact bySteps

theorem execTrace_next (b : Base) {s : State} (hs : Memory.wf s.mem = true) : NextWf (execTrace b s) :=
  runOnce_next (fun _ => bySteps) hs

@[simp] theorem appendTrace_keeps (v : Via) (va : DWord) (bytes : List Byte) : Keeps (appendTrace v va bytes) := by
  unfold appendTrace; exact bySteps

@[simp] theorem flushTrace_keeps (c : Nat) : Keeps (flushTrace c) := by
  unfold flushTrace; exact bySteps

theorem execTraceSample_next (core : Nat) {s : State} (hs : Memory.wf s.mem = true) : NextWf (execTraceSample core s) :=
  runService_next bySteps hs

/-! ### Machine/Registers -/

@[simp] theorem modBank_keeps (c p : Nat) (f : Bank → Bank) : Keeps (modBank c p f) := .modify fun _ hs => hs

@[simp] theorem State.debugRequest_mem (s : State) (c : Nat) (w : DWord) (resume : Bool) :
    (s.debugRequest c w resume).mem = s.mem := by
  unfold State.debugRequest; exact bySteps

theorem execDbgreqHalt_next (core : Nat) (value : DWord) {s : State} (hs : Memory.wf s.mem = true) :
    NextWf (execDbgreqHalt core value s) := by
  unfold execDbgreqHalt; exact bySteps

theorem execDbgreqResume_next (core : Nat) (value : DWord) {s : State} (hs : Memory.wf s.mem = true) :
    NextWf (execDbgreqResume core value s) := by
  unfold execDbgreqResume; exact bySteps

@[simp] theorem writePreq_keeps (p : Nat) (w : DWord) : Keeps (writePreq p w) := by
  unfold writePreq; exact bySteps

@[simp] theorem writeDreq_keeps (p : Nat) (w : DWord) : Keeps (writeDreq p w) := by
  unfold writeDreq; exact bySteps

@[simp] theorem writeReg_keeps (c p reg : Nat) (w : DWord) : Keeps (writeReg c p reg w) := by
  unfold writeReg; exact bySteps

@[simp] theorem nameReg_keeps (k : Nat) (m : Mode) (n word : DWord) (may : RegHold → Bool) : Keeps (nameReg k m n word may) := by
  unfold nameReg; exact bySteps

@[simp] theorem readLane_keeps (f : Form) (b : Base) (l : Nat) : Keeps (readLane f b l) := by
  unfold readLane; exact bySteps

@[simp] theorem checkReg_keeps (f : Form) (b : Base) (may : State → RegHold → Bool) (l : Nat) : Keeps (checkReg f b may l) := by
  unfold checkReg; exact bySteps

theorem execRdpr_next (b : Base) {s : State} (hs : Memory.wf s.mem = true) : NextWf (execRdpr b s) :=
  runGroup_next (splitAfter_keeps _ _ _ _ (checkReg_keeps _ _ _) bySteps) hs

@[simp] theorem writeLane_keeps (f : Form) (b : Base) (l : Nat) : Keeps (writeLane f b l) := by
  unfold writeLane; exact bySteps

theorem execWrpr_next (b : Base) {s : State} (hs : Memory.wf s.mem = true) : NextWf (execWrpr b s) :=
  runGroup_next (splitAfter_keeps _ _ _ _ (checkReg_keeps _ _ _) bySteps) hs

@[simp] theorem writeSpace_keeps (writer : Mode) (pa : Nat) (value : DWord) : Keeps (writeSpace writer pa value) := by
  unfold writeSpace; exact bySteps

@[simp] theorem writeDefault_keeps (w : Nat × DWord) : Keeps (writeDefault w) := by
  unfold writeDefault; exact bySteps

/-! ### Machine/System -/

@[simp] theorem callOut_keeps (f : Form) (b : Base) (c : Cause) : Keeps (callOut f b c) := by
  unfold callOut; exact bySteps

theorem execSysc_next (b : Base) {s : State} (hs : Memory.wf s.mem = true) : NextWf (execSysc b s) := runGroup_next bySteps hs

theorem execHvc_next (b : Base) {s : State} (hs : Memory.wf s.mem = true) : NextWf (execHvc b s) := runGroup_next bySteps hs

@[simp] theorem State.release_mem (s : State) (k : Nat) (f : HeldFault) : (s.release k f).mem = s.mem := rfl

@[simp] theorem State.returned_mem (s : State) (k l : Nat) : (s.returned k l).mem = s.mem := by
  unfold State.returned; exact bySteps

@[simp] theorem State.clearMismatch_mem (s : State) (k : Nat) : (s.clearMismatch k).mem = s.mem := by
  unfold State.clearMismatch; exact bySteps

@[simp] theorem eretLane_keeps (k l : Nat) (word : DWord) : Keeps (eretLane k l word) := by
  unfold eretLane; exact bySteps

theorem execEret_next (b : Base) {s : State} (hs : Memory.wf s.mem = true) : NextWf (execEret b s) := runGroup_next bySteps hs

@[simp] theorem State.interrupt_wf {s : State} (k l : Nat) (t : Trap) (hs : Memory.wf s.mem = true) :
    Memory.wf (s.interrupt k l t).mem = true := wf_foldl State.mem (fun _ _ hs => bySteps) _ _ hs

theorem execTakeTrap_next (agent lane : Nat) (t : Trap) {s : State} (hs : Memory.wf s.mem = true) :
    NextWf (execTakeTrap agent lane t s) := by
  unfold execTakeTrap; exact bySteps

theorem execEngineFaultDelivery_next (uid lane : Nat) {s : State} (hs : Memory.wf s.mem = true) :
    NextWf (execEngineFaultDelivery uid lane s) := by
  unfold execEngineFaultDelivery
  split
  · exact .next hs
  · exact .ite (.next hs) (runEvent_next _ bySteps hs)

theorem execWatchdog_next (agent lane : Nat) {s : State} (hs : Memory.wf s.mem = true) :
    NextWf (execWatchdog agent lane s) := by
  unfold execWatchdog; exact bySteps

theorem execFlashLineLands_next (line : Nat) {s : State} (hs : Memory.wf s.mem = true) :
    NextWf (execFlashLineLands line s) := by
  unfold execFlashLineLands; exact bySteps

@[simp] theorem State.answerMiss_mem (s : State) (r : DieReq) : (s.answerMiss r).1.mem = s.mem := by
  unfold State.answerMiss; exact bySteps

@[simp] theorem State.fillTlb_mem (s : State) (r : DieReq) (e : TlbEntry) : (s.fillTlb r e).mem = s.mem := by
  unfold State.fillTlb; exact bySteps

theorem execWalkStart_next (die : Nat) {s : State} (hs : Memory.wf s.mem = true) : NextWf (execWalkStart die s) := by
  unfold execWalkStart
  dsimp only
  split
  · exact .next hs
  · split
    · exact bySteps
    · refine .next ?_
      cases h : State.takeSlot _ _ with
      | none => exact hs
      | some t => exact State.takeSlot_mem h ▸ hs

@[simp] theorem State.answerLanes_mem (s : State) (k : Nat) (lanes : Word) (g : Nat) (f : WalkFault) :
    (s.answerLanes k lanes g f).mem = s.mem := rfl

@[simp] theorem State.answerFault_mem (s : State) (f : WalkFault) (r : DieReq) : (s.answerFault f r).mem = s.mem := by
  unfold State.answerFault; exact bySteps

theorem execWalkComplete_next (die index : Nat) {s : State} (hs : Memory.wf s.mem = true) :
    NextWf (execWalkComplete die index s) := by
  unfold execWalkComplete
  dsimp only
  split
  · split
    · exact bySteps
    · next h => have hw := walk_wf bySteps h; exact bySteps
  · exact .next hs

@[simp] theorem State.dropTranslations_wf {s : State} (t : TlbInv) (m : Nat) (hs : Memory.wf s.mem = true) :
    Memory.wf (s.dropTranslations t m).mem = true := by
  unfold State.dropTranslations; exact bySteps

theorem execTlbiAck_next (tlbi core : Nat) {s : State} (hs : Memory.wf s.mem = true) : NextWf (execTlbiAck tlbi core s) := by
  unfold execTlbiAck; exact bySteps

@[simp] theorem tlbiOperands_keeps (f : Form) (b : Base) (target l : Nat) : Keeps (tlbiOperands f b target l) := by
  unfold tlbiOperands; exact bySteps

@[simp] theorem issueTlbi_keeps (f : Form) (b : Base) (target l : Nat) : Keeps (issueTlbi f b target l) := by
  unfold issueTlbi; exact bySteps

theorem runTlbi_next (f : Form) (b : Base) (target : Nat) {s : State} (hs : Memory.wf s.mem = true) : NextWf (runTlbi f b target s) :=
  runGroup_next (splitAfter_keeps _ _ _ _ (fun _ => bySteps) bySteps) hs

/-! ### Machine/Fabric -/

@[simp] theorem startCol_keeps (l kind chip : Nat) (src dst : DWord) (bytes bar : Nat) (record group : List Byte) :
    Keeps (startCol l kind chip src dst bytes bar record group) := .modify fun _ hs => hs

theorem execRblkSeq_next (b : Base) {s : State} (hs : Memory.wf s.mem = true) : NextWf (execRblkSeq b s) :=
  runOnce_next (fun _ => bySteps) hs

theorem runRblk_next (f : Form) (b : Base) (put : Bool) {s : State} (hs : Memory.wf s.mem = true) :
    NextWf (runRblk f b put s) := runGroup_next bySteps hs

@[simp] theorem collRecord_keeps (b : Base) (l : Nat) (ra : Word) : Keeps (collRecord b l ra) := by
  unfold collRecord; exact bySteps

theorem execColl_next (b : Base) {s : State} (hs : Memory.wf s.mem = true) : NextWf (execColl b s) :=
  runOnce_next (fun _ => bySteps) hs

@[simp] theorem modCol_keeps (c uid : Nat) (f : ColOp → ColOp) : Keeps (modCol c uid f) := .modify fun _ hs => hs

@[simp] theorem dropCol_keeps (e : ColOp) : Keeps (dropCol e) := .modify fun _ hs => hs

@[simp] theorem landCol_keeps (e : ColOp) : Keeps (landCol e) := by
  unfold landCol; exact bySteps

@[simp] theorem failCol_keeps (e : ColOp) (t : Trap) : Keeps (failCol e t) := .modify fun _ hs => hs

@[simp] theorem holdCol_keeps (e : ColOp) (t : Trap) : Keeps (holdCol e t) := .modify fun _ hs => hs

@[simp] theorem engineRange_keeps (k uid : Nat) (m : Mode) (va : DWord) (n : Nat) (opc : BitVec 8) :
    Keeps (engineRange k uid m va n opc) := by
  unfold engineRange; exact bySteps

@[simp] theorem engineStore_keeps (k uid : Nat) (m : Mode) (va : DWord) (bs : List Byte) : Keeps (engineStore k uid m va bs) := by
  unfold engineStore; exact bySteps

@[simp] theorem ColOp.read_keeps (e : ColOp) : Keeps (ColOp.read e) := by
  unfold ColOp.read; exact bySteps

@[simp] theorem ColOp.sendAll_mem (e : ColOp) (s : State) (msgs : Nat → List Msg) : (ColOp.sendAll e s msgs).mem = s.mem := by
  unfold ColOp.sendAll; exact bySteps

@[simp] theorem endColl_keeps (e : ColOp) : Keeps (endColl e) := by
  unfold endColl; exact bySteps

@[simp] theorem moveColl_keeps (e : ColOp) : Keeps (moveColl e) := by
  unfold moveColl; exact bySteps

@[simp] theorem moveDry_keeps (e : ColOp) : Keeps (moveDry e) := by
  unfold moveDry; exact bySteps

@[simp] theorem moveLocal_keeps (e : ColOp) : Keeps (moveLocal e) := by
  unfold moveLocal; exact bySteps

@[simp] theorem moveRemote_keeps (e : ColOp) : Keeps (moveRemote e) := by
  unfold moveRemote; exact bySteps

@[simp] theorem moveCol_keeps (e : ColOp) : Keeps (moveCol e) := by
  unfold moveCol; exact bySteps

@[simp] theorem dropMsg_keeps (msg : Nat) : Keeps (dropMsg msg) := .modify fun _ hs => hs

@[simp] theorem serve_keeps (msg : Nat) (m : Msg) (act : Via → M (Nat × List Byte)) (h : ∀ x, Keeps (act x)) :
    Keeps (serve msg m act) := by
  unfold serve; exact bySteps

theorem execRoiloRead_next (msg : Nat) {s : State} (hs : Memory.wf s.mem = true) : NextWf (execRoiloRead msg s) := by
  unfold execRoiloRead
  split
  · exact .next hs
  · exact runEvent_next _ (serve_keeps _ _ _ fun _ => bySteps) hs

theorem execRoiloWrite_next (msg : Nat) {s : State} (hs : Memory.wf s.mem = true) : NextWf (execRoiloWrite msg s) := by
  unfold execRoiloWrite
  split
  · exact .next hs
  · exact runEvent_next _ (serve_keeps _ _ _ fun _ => bySteps) hs

@[simp] theorem State.answerRemote_mem (s : State) (uid : Nat) (a : Except (Cause × BitVec 4) (List Byte)) :
    (s.answerRemote uid a).mem = s.mem := rfl

@[simp] theorem landData_keeps (msg : Nat) (m : Msg) (e : ColOp) : Keeps (landData msg m e) := by
  unfold landData; exact bySteps

theorem execRoiloReadData_next (msg : Nat) {s : State} (hs : Memory.wf s.mem = true) : NextWf (execRoiloReadData msg s) := by
  unfold execRoiloReadData
  split
  · exact .next hs
  · split
    · exact runEvent_next _ bySteps hs
    · exact .ite (.next hs) (runEvent_next _ bySteps hs)

theorem execRoiloWriteAck_next (msg : Nat) {s : State} (hs : Memory.wf s.mem = true) : NextWf (execRoiloWriteAck msg s) := by
  unfold execRoiloWriteAck
  split
  · exact .next hs
  · refine .ite ?_ ?_
    all_goals
      split
      · exact runEvent_next _ bySteps hs
      · exact .ite (.next hs) (runEvent_next _ bySteps hs)

@[simp] theorem meetRank_keeps (m : Msg) (e : ColOp) : Keeps (meetRank m e) := by
  unfold meetRank; exact bySteps

@[simp] theorem refuseColl_next (msg : Nat) (m : Msg) {s : State} (hs : Memory.wf s.mem = true) : NextWf (refuseColl msg m s) :=
  .ite (.next hs) (runEvent_next _ bySteps hs)

theorem execRoiloRdv_next (msg : Nat) {s : State} (hs : Memory.wf s.mem = true) : NextWf (execRoiloRdv msg s) := by
  unfold execRoiloRdv
  split
  · exact .next hs
  · split
    · exact .ite (.next hs) (runEvent_next _ bySteps hs)
    · exact refuseColl_next _ _ hs

theorem execRoiloCdata_next (msg : Nat) {s : State} (hs : Memory.wf s.mem = true) : NextWf (execRoiloCdata msg s) := by
  unfold execRoiloCdata
  split
  · exact .next hs
  · split
    · exact refuseColl_next _ _ hs
    · exact .ite (.next hs) (runEvent_next _ bySteps hs)

theorem execRoiloNak_next (msg : Nat) {s : State} (hs : Memory.wf s.mem = true) : NextWf (execRoiloNak msg s) := by
  unfold execRoiloNak
  split
  · exact .next hs
  · refine .ite ?_ ?_
    all_goals
      split
      · exact runEvent_next _ bySteps hs
      · exact .ite (.next hs) (runEvent_next _ bySteps hs)

theorem execTransportTimeout_next (uid : Nat) {s : State} (hs : Memory.wf s.mem = true) :
    NextWf (execTransportTimeout uid s) := by
  unfold execTransportTimeout; exact bySteps

/-! ### Machine/Complete -/

@[simp] theorem landCopy_keeps (e : Copy) : Keeps (landCopy e) := by
  unfold landCopy; exact bySteps

@[simp] theorem completeCamp_next (c uid : Nat) {s : State} (hs : Memory.wf s.mem = true) : NextWf (completeCamp c uid s) := by
  unfold completeCamp; exact bySteps

@[simp] theorem completeOp_next (k uid : Nat) {s : State} (hs : Memory.wf s.mem = true) : NextWf (completeOp k uid s) := by
  unfold completeOp; exact bySteps

theorem execOutstandingComplete_next (agent : Nat) (cls : EngClass) {s : State} (hs : Memory.wf s.mem = true) :
    NextWf (execOutstandingComplete agent cls s) := by
  unfold execOutstandingComplete; exact bySteps

theorem execTransferLands_next (uid : Nat) {s : State} (hs : Memory.wf s.mem = true) : NextWf (execTransferLands uid s) := by
  unfold execTransferLands; exact bySteps

/-! ### Machine/Hart -/

@[simp] theorem hartVia_keeps (n : Nat) (h : Hart) : Keeps (hartVia n h) := by
  unfold hartVia; exact bySteps

@[simp] theorem doneNat_keeps (n : Nat) : Keeps (doneNat n) := by
  unfold doneNat; exact bySteps

@[simp] theorem hartNew_keeps (v : Via) (h : Hart) : Keeps (hartNew v h) := by
  unfold hartNew; exact bySteps

@[simp] theorem hartReserve_keeps (v : Via) (h : Hart) : Keeps (hartReserve v h) := by
  unfold hartReserve; exact bySteps

@[simp] theorem hartStore_keeps (v : Via) (h : Hart) (fn : Nat) : Keeps (hartStore v h fn) := by
  unfold hartStore; exact bySteps

@[simp] theorem hartCommit_keeps (v : Via) (h : Hart) : Keeps (hartCommit v h) := by
  unfold hartCommit; exact bySteps

@[simp] theorem hartAbandon_keeps (v : Via) (h : Hart) : Keeps (hartAbandon v h) := by
  unfold hartAbandon; exact bySteps

@[simp] theorem hartFork_keeps (v : Via) (n : Nat) (h : Hart) : Keeps (hartFork v n h) := by
  unfold hartFork; exact bySteps

@[simp] theorem hartLength_keeps (v : Via) (h : Hart) (fn : Nat) : Keeps (hartLength v h fn) := by
  unfold hartLength; exact bySteps

@[simp] theorem hartFree_keeps (v : Via) (h : Hart) : Keeps (hartFree v h) := by
  unfold hartFree; exact bySteps

@[simp] theorem hartSettle_keeps (v : Via) (h : Hart) (seq : Nat) : Keeps (hartSettle v h seq) := by
  unfold hartSettle; exact bySteps

@[simp] theorem hartAppend_keeps (v : Via) (h : Hart) : Keeps (hartAppend v h) := by
  unfold hartAppend; exact bySteps

@[simp] theorem hartDurable_keeps (i upto_ : Nat) : Keeps (hartDurable i upto_) := by
  unfold hartDurable; exact bySteps

@[simp] theorem hartFence_keeps (v : Via) (h : Hart) : Keeps (hartFence v h) := by
  unfold hartFence; exact bySteps

@[simp] theorem hartRecord_keeps (v : Via) (h : Hart) : Keeps (hartRecord v h) := by
  unfold hartRecord; exact bySteps

@[simp] theorem hartPlace_keeps (v : Via) (h : Hart) (n : Nat) (acc : Access) : Keeps (hartPlace v h n acc) := by
  unfold hartPlace; exact bySteps

@[simp] theorem hartLock_keeps (v : Via) (n : Nat) (h : Hart) : Keeps (hartLock v n h) := by
  unfold hartLock; exact bySteps

@[simp] theorem hartUnlock_keeps (v : Via) (n : Nat) (h : Hart) : Keeps (hartUnlock v n h) := by
  unfold hartUnlock; exact bySteps

@[simp] theorem hartWord_keeps (v : Via) (h : Hart) : Keeps (hartWord v h) := by
  unfold hartWord; exact bySteps

@[simp] theorem hartWait_keeps (v : Via) (n : Nat) (h : Hart) : Keeps (hartWait v n h) := by
  unfold hartWait; exact bySteps

@[simp] theorem hartWake_keeps (v : Via) (h : Hart) : Keeps (hartWake v h) := by
  unfold hartWake; exact bySteps

@[simp] theorem hartLoad_keeps (v : Via) (h : Hart) : Keeps (hartLoad v h) := by
  unfold hartLoad; exact bySteps

@[simp] theorem hartPut_keeps (v : Via) (h : Hart) : Keeps (hartPut v h) := by
  unfold hartPut; exact bySteps

@[simp] theorem hartInvalidate_keeps (n : Nat) (h : Hart) : Keeps (hartInvalidate n h) := by
  unfold hartInvalidate; exact bySteps

@[simp] theorem hartEffect_keeps (n : Nat) (h : Hart) (code fn : Nat) : Keeps (hartEffect n h code fn) := by
  unfold hartEffect; exact bySteps

@[simp] theorem State.hartEnds_mem (s : State) (n : Nat) (res sts : DWord) : (s.hartEnds n res sts).mem = s.mem := rfl

@[simp] theorem runHart_next (n : Nat) {m : M HartEnd} (hm : Keeps m) {s : State} (hs : Memory.wf s.mem = true) :
    NextWf (runHart n m s) := by
  unfold runHart
  split
  case h_1 h | h_2 h => have ht := hm s hs _ _ h; exact bySteps
  all_goals exact bySteps

@[simp] theorem startHart_next (by_ n code fn : Nat) {s : State} (hs : Memory.wf s.mem = true) :
    NextWf (startHart by_ n code fn s) := by
  unfold startHart; exact bySteps

@[simp] theorem hartGoesOn_keeps (n : Nat) (h : Hart) (op : HartCall) : Keeps (hartGoesOn n h op) := by
  unfold hartGoesOn; exact bySteps

theorem execHartOpComplete_next (hart : Nat) {s : State} (hs : Memory.wf s.mem = true) :
    NextWf (execHartOpComplete hart s) := by
  unfold execHartOpComplete; exact bySteps

@[simp] theorem cancelHart_next (n fn : Nat) {s : State} (hs : Memory.wf s.mem = true) : NextWf (cancelHart n fn s) := by
  unfold cancelHart
  dsimp only
  exact bySteps

theorem execCancel_next (hart : Nat) {s : State} (hs : Memory.wf s.mem = true) : NextWf (execCancel hart s) := by
  unfold execCancel; exact bySteps

@[simp] theorem State.runsAs_mem (s : State) (n : Nat) (r : HartRun) : (s.runsAs n r).mem = s.mem := rfl

theorem State.hartPlace_wf {s t : State} {n pa : Nat} {va : DWord} {acc : Access} (hs : Memory.wf s.mem = true)
    (h : s.hartPlace n va acc = .ok (pa, t)) : Memory.wf t.mem = true := by
  unfold State.hartPlace at h
  dsimp only at h
  split at h
  · cases h; exact hs
  · split at h
    · next ht => cases h; exact translateHart_keeps _ _ _ _ _ _ s hs _ _ ht
    · split at h <;> cases h
    · cases h

@[simp] theorem State.hartTraps_mem (s : State) (n : Nat) (f : HartFault) (va : DWord) : (s.hartTraps n f va).mem = s.mem := rfl

theorem State.hartPuts_wf {s t : State} {n : Nat} {va : DWord} {bs : List Byte} (hs : Memory.wf s.mem = true)
    (h : s.hartPuts n va bs = .ok t) : Memory.wf t.mem = true := by
  unfold State.hartPuts at h
  refine foldlM_keeps (P := fun s => Memory.wf s.mem = true) (fun s c t hs h => ?_) _ hs h
  obtain ⟨⟨pa, s1⟩, h1, h⟩ := bind_ok_cases h
  dsimp only at h
  split at h <;> cases h
  have := State.hartPlace_wf hs h1
  exact bySteps

theorem State.hartGets_wf {s t : State} {n len : Nat} {va : DWord} {bs : List Byte} (hs : Memory.wf s.mem = true)
    (h : s.hartGets n va len = .ok (bs, t)) : Memory.wf t.mem = true := by
  unfold State.hartGets at h
  refine foldlM_keeps (P := fun x => Memory.wf x.2.mem = true) (fun x c y hs h => ?_) _ hs h
  obtain ⟨⟨pa, s1⟩, h1, h⟩ := bind_ok_cases h
  dsimp only at h
  split at h <;> cases h
  exact State.hartPlace_wf hs h1

theorem State.hartLoads_wf {s t : State} {n len : Nat} {va : DWord} {bs : List Byte} (hs : Memory.wf s.mem = true)
    (h : s.hartLoads n va len = .ok (bs, t)) : Memory.wf t.mem = true := by
  obtain ⟨⟨pa, s1⟩, h1, h⟩ := bind_ok_cases h
  dsimp only at h
  split at h
  · split at h <;> cases h
    exact State.hartPlace_wf hs h1
  · exact State.hartGets_wf hs h

@[simp] theorem hartReads_next (n : Nat) (va : DWord) (len : Nat) {s : State} (hs : Memory.wf s.mem = true) :
    NextWf (hartReads n va len s) := by
  unfold hartReads
  split
  · exact bySteps
  · next h => have ht := State.hartLoads_wf hs h; exact bySteps

@[simp] theorem writeOp_next (by_ n : Nat) (w : DWord) {s : State} (hs : Memory.wf s.mem = true) : NextWf (writeOp by_ n w s) := by
  unfold writeOp; exact bySteps

@[simp] theorem spaceStore_next (n pa : Nat) (value : DWord) {s : State} (hs : Memory.wf s.mem = true) :
    NextWf (spaceStore n pa value s) := by
  unfold spaceStore; exact bySteps

@[simp] theorem hartStores_next (n : Nat) (va : DWord) (bs : List Byte) {s : State} (hs : Memory.wf s.mem = true) :
    NextWf (hartStores n va bs s) := by
  unfold hartStores
  split
  · exact bySteps
  · next h =>
    have ht := State.hartPlace_wf hs h
    refine .ite bySteps ?_
    split
    · exact bySteps
    · next hput => exact .next (State.hartPuts_wf ht hput)

theorem execCpuStore_next (site : HartSite) (bytes : List Byte) {s : State} (hs : Memory.wf s.mem = true) :
    NextWf (execCpuStore site bytes s) := by
  unfold execCpuStore; exact bySteps

theorem execWriteRegister_next (site : RegisterSite) (value : DWord) {s : State} (hs : Memory.wf s.mem = true) :
    NextWf (execWriteRegister site value s) := by
  unfold execWriteRegister; exact bySteps

/-! ### Machine/Platform -/

@[simp] theorem applyRecord_keeps (r : ConfigRecord) : Keeps (applyRecord r) := by
  unfold applyRecord; exact bySteps

theorem execBoot_next (records : List ConfigRecord) {s : State} (hs : Memory.wf s.mem = true) :
    NextWf (execBoot records s) := by
  unfold execBoot
  dsimp only
  refine .ite (.next hs) ?_
  split
  · exact .next hs
  · exact runService_next bySteps hs

theorem execCairnReady_next (cairn : Nat) (fail : Option DWord) {s : State} (hs : Memory.wf s.mem = true) :
    NextWf (execCairnReady cairn fail s) := by
  unfold execCairnReady; exact bySteps

@[simp] theorem answerRequest_keeps (v : Via) (va : DWord) (n : Nat) (act : M (List Byte)) (h : Keeps act) :
    Keeps (answerRequest v va n act) := by
  unfold answerRequest; exact bySteps

@[simp] theorem serveSecurity_keeps (part request : Nat) (pick : Nat → Bool) (act : List Byte → M Unit) (h : ∀ x, Keeps (act x)) :
    Keeps (serveSecurity part request pick act) := by
  unfold serveSecurity; exact bySteps

theorem execSecurityDigest_next (part request : Nat) {s : State} (hs : Memory.wf s.mem = true) :
    NextWf (execSecurityDigest part request s) :=
  runService_next (serveSecurity_keeps _ _ _ _ fun _ => answerRequest_keeps _ _ _ _ bySteps) hs

theorem execSecurityAttest_next (part request : Nat) {s : State} (hs : Memory.wf s.mem = true) :
    NextWf (execSecurityAttest part request s) :=
  runService_next (serveSecurity_keeps _ _ _ _ fun _ => answerRequest_keeps _ _ _ _ bySteps) hs

theorem execThrottleDown_next (die : Nat) {s : State} (hs : Memory.wf s.mem = true) : NextWf (execThrottleDown die s) := by
  unfold execThrottleDown; exact bySteps

theorem execThrottleUp_next (die : Nat) {s : State} (hs : Memory.wf s.mem = true) : NextWf (execThrottleUp die s) := by
  unfold execThrottleUp; exact bySteps

theorem execThermalHalt_next {s : State} (hs : Memory.wf s.mem = true) : NextWf (execThermalHalt s) := by
  unfold execThermalHalt; exact bySteps

theorem execSoftError_next (target : SoftTarget) {s : State} (hs : Memory.wf s.mem = true) :
    NextWf (execSoftError target s) := by
  unfold execSoftError; exact bySteps

@[simp] theorem requantise_keeps (v : Via) (t : DWord) (enc : Word) (data : List Byte) : Keeps (requantise v t enc data) := by
  unfold requantise; exact bySteps

theorem execBackgroundRequantisation_next (part : Nat) (tile : DWord) (enc : Word) (data : List Byte) {s : State}
    (hs : Memory.wf s.mem = true) : NextWf (execBackgroundRequantisation part tile enc data s) := runService_next bySteps hs

/-! ### Machine/Run -/

@[simp] theorem State.regroup_mem (s : State) : s.regroup.mem = s.mem := by
  unfold State.regroup; exact bySteps

/-! ### Machine/Step -/

/-- The states in which the preparation of an issue may end have canonical memory. -/
def Prepared.Wf : Prepared → Prop
  | .run _ s | .done s => Memory.wf s.mem = true
  | .fault _ => True

theorem State.prepare_wf {s : State} (hs : Memory.wf s.mem = true) : s.prepare.Wf := by
  unfold State.prepare
  dsimp only
  split
  · exact State.faultAll_wf _ _ hs
  · split
    case h_8 bs s1 h1 =>
      have ht := fetch_keeps _ _ _ _ s hs _ _ h1
      split
      · exact State.faultAll_wf _ _ ht
      · split
        · exact State.faultAll_wf _ _ ht
        · split
          · exact ht
          · next h2 =>
            have ht2 := fetch_keeps _ _ _ _ _ (by exact ht) _ _ h2
            split
            · exact State.decodeFault_wf _ _ _ ht2
            · split
              · exact ht2
              · exact State.decodeFault_wf _ _ _ ht2
    all_goals simp [Prepared.Wf, hs]

/-- Every instruction and every event keeps memory canonical: those whose function is one call of a shared combinator by the lemma about
it, every other by its own. -/
theorem exec_next (i : Instr) {s : State} (hs : Memory.wf s.mem = true) : NextWf (exec i s) := by
  cases i with
  | add _ | sub _ | mul _ | mulh _ | mad _ | madw _ | div _ | rem _ | min _ | max _ | abs _ | neg _ | and _ | or _ | xor _
  | not _ | shl _ | shr _ | rot _ | fshf _ | popc _ | clz _ | brev _ | bfe _ | bfi _ | iset _ | lea _ | mov _ | dp4a _ | sad _
  | fadd _ | fsub _ | fmul _ | ffma _ | fmin _ | fmax _ | fabs _ | fneg _ | fset _ | fclass _ | frcp _ | frsq _ | fsqrt _
  | fdiv _ | fex2 _ | flg2 _ | fsin _ | fcos _ | ftanh _ | frnd _ | fscl _ | fdot2 _ | unpk _ | sclc _ =>
    exact runResult_next _ _ _ _ hs
  | lop3 _ | sel _ | addx _ | subx _ | movi _ | ffrx _ | dqnt _ | rdsr _ => exact runAlu_next _ _ _ _ hs
  | isetp _ | fsetp _ => exact runCompare_next _ _ _ hs
  | cvt _ | pack _ => exact runConvert_next _ _ _ _ _ hs
  | phase _ | phaseTeam _ => exact runPhase_next _ _ _ hs
  | rblkGet _ | rblkPut _ => exact runRblk_next _ _ _ hs
  | sqstPlain _ | sqstRotary _ => exact runSqst_next _ _ _ hs
  | lbndOn _ | lbndOff _ | lbndClr _ => exact runLbnd_next _ _ _ _ hs
  | tlbiPage _ | tlbiSpace _ | tlbiPartition _ | tlbiStage2 _ => exact runTlbi_next _ _ _ hs
  | hartSqnew _ _ | hartSqrsv _ _ | hartSqst _ _ | hartSqcmt _ _ | hartSqabn _ _ | hartSqfrk _ _ | hartSqlen _ _ | hartSqfre _ _
  | hartApnd _ _ | hartAfnc _ _ | hartLaunch _ _ | hartQlock _ _ | hartQunlk _ _ | hartWwait _ _ | hartWwake _ _ | hartLdf _ _
  | hartStf _ _ | hartCctlIinv _ _ => exact startHart_next _ _ _ _ hs
  | nop _ => exact execNop_next _ hs
  | clh _ => exact execClh_next _ hs
  | bkpt _ => exact execBkpt_next _ hs
  | yield _ => exact execYield_next _ hs
  | repeatx _ => exact execRepeatx_next _ hs
  | bra _ => exact execBra_next _ hs
  | brau _ => exact execBrau_next _ hs
  | brx _ => exact execBrx_next _ hs
  | brc _ => exact execBrc_next _ hs
  | call _ => exact execCall_next _ hs
  | callx _ => exact execCallx_next _ hs
  | ret _ => exact execRet_next _ hs
  | exit _ => exact execExit_next _ hs
  | plop _ => exact execPlop_next _ hs
  | p2v _ => exact execP2v_next _ hs
  | v2p _ => exact execV2p_next _ hs
  | qnt _ => exact execQnt_next _ hs
  | randNext _ => exact execRandNext_next _ hs
  | randBlk _ => exact execRandBlk_next _ hs
  | randRdpos _ => exact execRandRdpos_next _ hs
  | randWrpos _ => exact execRandWrpos_next _ hs
  | randSkip _ => exact execRandSkip_next _ hs
  | randWrkey _ => exact execRandWrkey_next _ hs
  | shfl _ => exact execShfl_next _ hs
  | vote _ => exact execVote_next _ hs
  | redux _ => exact execRedux_next _ hs
  | fredx _ => exact execFredx_next _ hs
  | scanx _ => exact execScanx_next _ hs
  | matchx _ => exact execMatchx_next _ hs
  | elect _ => exact execElect_next _ hs
  | bcast _ => exact execBcast_next _ hs
  | ld _ => exact execLd_next _ hs
  | st _ => exact execSt_next _ hs
  | lds _ => exact execLds_next _ hs
  | sts _ => exact execSts_next _ hs
  | ldc _ => exact execLdc_next _ hs
  | ldf _ => exact execLdf_next _ hs
  | stf _ => exact execStf_next _ hs
  | ldv _ => exact execLdv_next _ hs
  | stta _ => exact execStta_next _ hs
  | gth _ => exact execGth_next _ hs
  | sct _ => exact execSct_next _ hs
  | pft _ => exact execPft_next _ hs
  | ldl _ => exact execLdl_next _ hs
  | stl _ => exact execStl_next _ hs
  | cctlPub _ => exact execCctlPub_next _ hs
  | cctlWb _ => exact execCctlWb_next _ hs
  | cctlInv _ => exact execCctlInv_next _ hs
  | cctlIinv _ => exact execCctlIinv_next _ hs
  | sqld _ => exact execSqld_next _ hs
  | atom _ => exact execAtom_next _ hs
  | atomc _ => exact execAtomc_next _ hs
  | red _ => exact execRed_next _ hs
  | atoms _ => exact execAtoms_next _ hs
  | fence _ => exact execFence_next _ hs
  | bara _ => exact execBara_next _ hs
  | bwait _ => exact execBwait_next _ hs
  | binit _ => exact execBinit_next _ hs
  | bexp _ => exact execBexp_next _ hs
  | cwait _ => exact execCwait_next _ hs
  | qlock _ => exact execQlock_next _ hs
  | qunlk _ => exact execQunlk_next _ hs
  | wwait _ => exact execWwait_next _ hs
  | wwake _ => exact execWwake_next _ hs
  | cpy _ => exact execCpy_next _ hs
  | spop _ => exact execSpop_next _ hs
  | spsh _ => exact execSpsh_next _ hs
  | sqry _ => exact execSqry_next _ hs
  | apnd _ => exact execApnd_next _ hs
  | afnc _ => exact execAfnc_next _ hs
  | coll _ => exact execColl_next _ hs
  | rblkSeq _ => exact execRblkSeq_next _ hs
  | prdl _ => exact execPrdl_next _ hs
  | dqpsh _ => exact execDqpsh_next _ hs
  | dqpop _ => exact execDqpop_next _ hs
  | oclm _ => exact execOclm_next _ hs
  | orel _ => exact execOrel_next _ hs
  | old _ => exact execOld_next _ hs
  | mma _ => exact execMma_next _ hs
  | aclm _ => exact execAclm_next _ hs
  | arel _ => exact execArel_next _ hs
  | releaseComplete _ _ => exact execReleaseComplete_next _ _ hs
  | acrd _ => exact execAcrd_next _ hs
  | acwr _ => exact execAcwr_next _ hs
  | attn _ => exact execAttn_next _ hs
  | attnf _ => exact execAttnf_next _ hs
  | sqnew _ => exact execSqnew_next _ hs
  | sqrsv _ => exact execSqrsv_next _ hs
  | sqcmt _ => exact execSqcmt_next _ hs
  | sqabn _ => exact execSqabn_next _ hs
  | sqfrk _ => exact execSqfrk_next _ hs
  | sqlen _ => exact execSqlen_next _ hs
  | sqfre _ => exact execSqfre_next _ hs
  | lariAdd _ => exact execLariAdd_next _ hs
  | lariSub _ => exact execLariSub_next _ hs
  | lariNeg _ => exact execLariNeg_next _ hs
  | lariCmp _ => exact execLariCmp_next _ hs
  | lariAddt _ => exact execLariAddt_next _ hs
  | lariLacc _ => exact execLariLacc_next _ hs
  | lariLnrm _ => exact execLariLnrm_next _ hs
  | lshf _ => exact execLshf_next _ hs
  | lmul _ => exact execLmul_next _ hs
  | sysc _ => exact execSysc_next _ hs
  | eret _ => exact execEret_next _ hs
  | rdpr _ => exact execRdpr_next _ hs
  | wrpr _ => exact execWrpr_next _ hs
  | hvc _ => exact execHvc_next _ hs
  | tlbiAck _ _ => exact execTlbiAck_next _ _ hs
  | launch _ => exact execLaunch_next _ hs
  | trace _ => exact execTrace_next _ hs
  | traceSample _ => exact execTraceSample_next _ hs
  | issueCycle _ => exact execIssueCycle_next _ hs
  | laneAged _ _ => exact execLaneAged_next _ _ hs
  | vregRefill _ _ => exact execVregRefill_next _ _ hs
  | ropeSwap _ _ => exact execRopeSwap_next _ _ hs
  | timeSlice _ => exact execTimeSlice_next _ hs
  | flagFall _ _ => exact execFlagFall_next _ _ hs
  | outstandingComplete _ _ => exact execOutstandingComplete_next _ _ hs
  | transferLands _ => exact execTransferLands_next _ hs
  | copyProgress _ _ => exact execCopyProgress_next _ _ hs
  | engineFaultDelivery _ _ => exact execEngineFaultDelivery_next _ _ hs
  | flashLineLands _ => exact execFlashLineLands_next _ hs
  | walkStart _ => exact execWalkStart_next _ hs
  | walkComplete _ _ => exact execWalkComplete_next _ _ hs
  | sramSplitApply _ => exact execSramSplitApply_next _ hs
  | tasktabWrite _ _ => exact execTasktabWrite_next _ _ hs
  | compdescWrite _ _ => exact execCompdescWrite_next _ _ hs
  | taskAccept _ _ => exact execTaskAccept_next _ _ hs
  | placementAttempt => exact execPlacementAttempt_next hs
  | taskComplete _ _ _ => exact execTaskComplete_next _ _ _ hs
  | completionAppendRetry _ => exact execCompletionAppendRetry_next _ hs
  | arbiterCycle _ => exact execArbiterCycle_next _ hs
  | reservationAge _ _ => exact execReservationAge_next _ _ hs
  | passRetire _ _ => exact execPassRetire_next _ _ hs
  | attnBlockDone _ _ => exact execAttnBlockDone_next _ _ hs
  | appendTransfer _ => exact execAppendTransfer_next _ hs
  | dslotAdvance _ _ => exact execDslotAdvance_next _ _ hs
  | preqSave _ _ _ => exact execPreqSave_next _ _ _ hs
  | preqResume _ _ _ => exact execPreqResume_next _ _ _ hs
  | preqAbort _ _ _ => exact execPreqAbort_next _ _ _ hs
  | contextSave _ => exact execContextSave_next _ hs
  | partyResume _ _ => exact execPartyResume_next _ _ hs
  | dbgreqHalt _ _ => exact execDbgreqHalt_next _ _ hs
  | dbgreqResume _ _ => exact execDbgreqResume_next _ _ hs
  | dreqReplay _ _ => exact execDreqReplay_next _ _ hs
  | replayStop _ => exact execReplayStop_next _ hs
  | dreqEnd _ => exact execDreqEnd_next _ hs
  | logFull _ => exact execLogFull_next _ hs
  | logFullCompare _ => exact execLogFullCompare_next _ hs
  | redundantEffect _ => exact execRedundantEffect_next _ hs
  | hartOpComplete _ => exact execHartOpComplete_next _ hs
  | roiloRead _ => exact execRoiloRead_next _ hs
  | roiloReadData _ => exact execRoiloReadData_next _ hs
  | roiloWrite _ => exact execRoiloWrite_next _ hs
  | roiloWriteAck _ => exact execRoiloWriteAck_next _ hs
  | roiloRdv _ => exact execRoiloRdv_next _ hs
  | roiloCdata _ => exact execRoiloCdata_next _ hs
  | roiloNak _ => exact execRoiloNak_next _ hs
  | boot _ => exact execBoot_next _ hs
  | cairnReady _ _ => exact execCairnReady_next _ _ hs
  | operationPerformed _ _ => exact execOperationPerformed_next _ _ hs
  | cancel _ => exact execCancel_next _ hs
  | storageBindRequest _ _ => exact execStorageBindRequest_next _ _ hs
  | flashProgramFail _ => exact execFlashProgramFail_next _ hs
  | blockDemotion _ _ => exact execBlockDemotion_next _ _ hs
  | powerLoss _ => exact execPowerLoss_next _ hs
  | securityDigest _ _ => exact execSecurityDigest_next _ _ hs
  | securityAttest _ _ => exact execSecurityAttest_next _ _ hs
  | throttleDown _ => exact execThrottleDown_next _ hs
  | throttleUp _ => exact execThrottleUp_next _ hs
  | thermalHalt => exact execThermalHalt_next hs
  | softError _ => exact execSoftError_next _ hs
  | cpuStore _ _ => exact execCpuStore_next _ _ hs
  | backgroundRequantisation _ _ _ _ => exact execBackgroundRequantisation_next _ _ _ _ hs
  | takeTrap _ _ _ => exact execTakeTrap_next _ _ _ hs
  | watchdog _ _ => exact execWatchdog_next _ _ hs
  | transportTimeout _ => exact execTransportTimeout_next _ hs
  | sramcfgWrite _ _ => exact execSramcfgWrite_next _ _ hs
  | writeRegister _ _ => exact execWriteRegister_next _ _ hs

theorem stepIssue_next {s : State} (hs : Memory.wf s.mem = true) : NextWf (stepIssue s) := by
  have hprep := State.prepare_wf hs
  unfold stepIssue
  refine .ite (.next hs) ?_
  split
  case h_1 h =>
    rw [h] at hprep
    have hr := (congrArg Memory.wf (State.regroup_mem _)).trans hprep
    exact .ite (.next hr) (exec_next _ hr)
  case h_2 h =>
    rw [h] at hprep
    exact .next hprep
  case h_3 => exact .fault _

theorem stepEvent_next (i : Instr) {s : State} (hs : Memory.wf s.mem = true) : NextWf (stepEvent i s) :=
  .ite (.next hs) (exec_next i hs)

theorem step_next {s : State} (hs : Memory.wf s.mem = true) : NextWf (step s) := by
  unfold step
  split
  · exact stepIssue_next hs
  · split
    · exact stepEvent_next _ hs
    · exact stepEvent_next _ hs

/-- Settles O56: every effect keeps memory canonical, so every instruction and event does, and so a step. -/
theorem stepKeepsCanonical : Obligations.StepKeepsCanonical := fun _ t hs h => step_next hs t h

end Sys2Proof.Machine

/-! PROOFS. Effects that leave a part of the state as it was: the rules, and that reading a source operand leaves what an instruction of the
decision queue goes by. -/

namespace Sys2Proof.Machine

/-- An effect that ends normally leaves a part of the state as it found it. -/
def Leaves {α β : Type} (part : State → β) (m : M α) : Prop :=
  ∀ (s : State) (a : α) (t : State), m s = .ok (a, t) → part t = part s

namespace Leaves

variable {α β γ : Type} {part : State → γ}

theorem pure {a : α} : Leaves part (Pure.pure a : M α) := fun _ _ _ h => by cases h; rfl

theorem abort {e : Abort} : Leaves part (abort e : M α) := fun _ _ _ h => nomatch h

theorem abort_bind {e : Abort} {f : α → M β} : Leaves part (Machine.abort e >>= f) := fun _ _ _ h => nomatch h

theorem bind {m : M α} {f : α → M β} (hm : Leaves part m) (hf : ∀ a, Leaves part (f a)) : Leaves part (m >>= f) := fun s b t h => by
  obtain ⟨a, s1, h1, h2⟩ := (M.bind_ok ..).1 h
  exact (hf a s1 b t h2).trans (hm s a s1 h1)

theorem get_bind {f : State → M β} (hf : ∀ s, Leaves part (f s)) : Leaves part (MonadState.get >>= f) := fun s => hf s s

theorem ite {c : Prop} [Decidable c] {m n : M α} (hm : Leaves part m) (hn : Leaves part n) : Leaves part (if c then m else n) := by
  split <;> assumption

theorem modify {f : State → State} (hf : ∀ s, part (f s) = part s) : Leaves part (modify f : M PUnit) := fun s _ _ h => by
  cases h; exact hf s

theorem forEach {xs : List α} {f : α → M Unit} (hf : ∀ x, Leaves part (f x)) : Leaves part (forEach xs f) := by
  induction xs with
  | nil => exact pure
  | cons x xs ih => exact bind (hf x) fun _ => ih

theorem attempt {m : M α} (hm : Leaves part m) : Leaves part (attempt m) := fun s _ t h => by
  obtain ⟨a, -, h⟩ | ⟨-, -, rfl, -⟩ := (attempt_ok ..).1 h
  · exact hm s a t h
  · rfl

/-! ### Reads that change nothing -/

theorem require {p : Bool} {c : Cause} {v : DWord} : Leaves part (require p c v) := ite pure abort

theorem homeReady {va : DWord} {pa : Nat} : Leaves part (homeReady va pa) := fun s _ _ h => by
  unfold Machine.homeReady at h
  split_ifs at h
  · cases h
  · cases h
  · cases h; rfl

theorem homeRead {va : DWord} {pa n : Nat} : Leaves part (homeRead va pa n) :=
  bind homeReady fun _ => get_bind fun _ => bind require fun _ => pure

theorem useEntry {hart : Bool} {e : TlbEntry} {m : Mode} {acc : Access} {va : DWord} : Leaves part (useEntry hart e m acc va) := by
  unfold Machine.useEntry
  dsimp only
  split
  · exact abort
  · exact abort
  · exact pure

/-- A load that hits the TLB sets no bit of an entry. -/
theorem translate_load {k : Nat} {m : Mode} {va : DWord} : Leaves part (translate k m va .load) := fun s a t h => by
  unfold translate at h
  dsimp only at h
  split at h
  · cases h
  · split at h
    · exact bind useEntry (fun _ => pure) s a t h
    · split at h <;> cases h

theorem spadRead {k : Nat} {addr : Word} {n : Nat} : Leaves part (spadRead k addr n) := by
  refine get_bind fun s => bind ?_ fun _ => pure
  unfold liftCheck
  split
  · exact pure
  · exact abort

end Leaves

/-! ### What names a decision queue -/

/-- The issue, the party of every agent and the decision queue of every party: what an instruction of the decision queue goes by. -/
def State.decisions (s : State) : Issue × (Nat → Nat) × (Nat → Decisions) :=
  (s.issue, fun k => (s.agent k).party, fun p => (s.party p).dq)

theorem State.setAgent_decisions {s : State} {k : Nat} {a : Agent} (h : a.party = (s.agent k).party) :
    (s.setAgent k a).decisions = s.decisions := by
  have hp : (fun j => ((s.setAgent k a).agent j).party) = fun j => (s.agent j).party := funext fun j => by
    by_cases hj : j = k
    · rw [hj, State.agent_setAgent_same, h]
    · rw [State.agent_setAgent_other s a hj]
  exact Prod.ext rfl (Prod.ext hp rfl)

theorem State.setParty_decisions {s : State} {p : Nat} {x : Party} (h : x.dq = (s.party p).dq) :
    (s.setParty p x).decisions = s.decisions := by
  have hq : (fun q => ((s.setParty p x).party q).dq) = fun q => (s.party q).dq := funext fun q => by
    by_cases hqp : q = p
    · rw [hqp, State.party_setParty_same, h]
    · rw [State.party_setParty_other s x hqp]
  exact Prod.ext rfl (Prod.ext rfl hq)

theorem State.of_decisions_eq {s t : State} (h : t.decisions = s.decisions) :
    s.who = t.who ∧ (∀ k, (s.agent k).party = (t.agent k).party) ∧ ∀ p, (s.party p).dq = (t.party p).dq := by
  obtain ⟨hissue, h⟩ := Prod.mk.inj h
  obtain ⟨hparty, hdq⟩ := Prod.mk.inj h
  exact ⟨congrArg Issue.agent hissue.symm, fun k => (congrFun hparty k).symm, fun p => (congrFun hdq p).symm⟩

theorem State.performFar_decisions (s : State) (o : FarOp) : (s.performFar o).decisions = s.decisions := by
  unfold State.performFar; split <;> rfl

theorem State.drainFar_decisions (s : State) (k : Nat) (pick : FarOp → Bool) : (s.drainFar k pick).decisions = s.decisions := by
  unfold State.drainFar
  refine (State.setAgent_decisions ?_).trans (foldl_same State.decisions State.performFar_decisions _ s)
  exact foldl_same Agent.party (f := Agent.finish) (fun _ _ => rfl) _ _

theorem State.publish_decisions (s : State) (c : Nat) (pick : Nat → Bool) : (s.publish c pick).decisions = s.decisions := by
  have step : ∀ (s : State) (e : Nat × DirtyByte), (s.writeHome e.1 [e.2.val]).decisions = s.decisions := fun _ _ => rfl
  exact foldl_same State.decisions step _ s

/-- A phased read ends with the marks of what was read. -/
theorem markRead_decisions {p line i : Nat} {bs : List Byte} : Leaves State.decisions (do
    modify fun s => s.markBytesRead p line i bs
    pure bs : M (List Byte)) :=
  .bind (.modify fun _ => State.setParty_decisions rfl) fun _ => .pure

namespace Leaves

theorem physWrite_decisions {pa : Nat} {bs : List Byte} : Leaves State.decisions (physWrite pa bs) := fun _ _ _ h => by
  obtain ⟨-, -, rfl⟩ := (physWrite_ok ..).1 h
  rfl

theorem modCore_decisions {c : Nat} {f : Core → Core} : Leaves State.decisions (modCore c f) := modify fun _ => rfl

theorem spillLine_decisions {va : DWord} {c part line : Nat} {bytes : List Byte} {parties : List Nat} :
    Leaves State.decisions (spillLine va c part line bytes parties) := by
  refine get_bind fun s => ?_
  split
  · exact abort
  · exact bind physWrite_decisions fun _ => bind modCore_decisions fun _ => pure

theorem evictLine_decisions {va : DWord} {c line : Nat} : Leaves State.decisions (evictLine va c line) := by
  refine get_bind fun s => bind (forEach fun q => forEach fun g => ?_) fun _ => modify fun s =>
    s.publish_decisions c fun a => a / 128 == line
  exact bind (modify fun s => foldl_same State.decisions (f := fun s p => s.unspill c p line) (fun _ _ => rfl) _ s) fun _ =>
    bind spillLine_decisions fun _ => forEach fun p => modify fun _ => State.setParty_decisions rfl

theorem takeLineIn_decisions {va : DWord} {c line : Nat} : Leaves State.decisions (takeLineIn va c line) := by
  refine get_bind fun s => bind (modify fun _ => rfl) fun _ => bind (forEach fun _ => evictLine_decisions) fun _ =>
    get_bind fun s => ite pure ?_
  split
  · exact evictLine_decisions
  · exact pure

theorem phasedRead_decisions {k : Nat} {va : DWord} {pa n : Nat} : Leaves State.decisions (phasedRead k va pa n) := by
  refine get_bind fun s => bind require fun _ => ite (bind pure fun _ => markRead_decisions) ?_
  dsimp only
  split
  · exact bind pure fun _ => bind (modify fun _ => rfl) fun _ => bind pure fun _ => markRead_decisions
  · exact bind homeReady fun _ => bind require fun _ => bind takeLineIn_decisions fun _ => get_bind fun _ =>
      bind modCore_decisions fun _ => bind pure fun _ => bind (modify fun _ => rfl) fun _ => bind pure fun _ => markRead_decisions

theorem farRead_decisions {k : Nat} {va : DWord} {pa n : Nat} : Leaves State.decisions (farRead k va pa n) :=
  bind (modify fun s => s.drainFar_decisions k _) fun _ => homeRead

/-! ### The log of a deterministic party -/

theorem consumeEntry_decisions {k : Nat} {engine : Bool} : Leaves State.decisions (consumeEntry k engine) := modify fun s => by
  split
  · rfl
  · dsimp only
    split <;> rfl

theorem logEntry_decisions {k kind : Nat} {mask : Word} {payload : List Byte} {opc : BitVec 8} {recs : List LaneRec}
    {op : Option Nat} {col : Option ColOp} {app : Option Append} {done group : Word} {lacks : BitVec 4} :
    Leaves State.decisions (logEntry k kind mask payload opc recs op col app done group lacks) := by
  refine get_bind fun s => ?_
  split
  · exact pure
  · refine ite abort_bind (bind physWrite_decisions fun _ => modify fun s => ?_)
    split <;> rfl

theorem noteLine_decisions {k : Nat} {va : DWord} {paLine : Nat} {bytes : List Byte} {opc : BitVec 8} :
    Leaves State.decisions (noteLine k va paLine bytes opc) := by
  refine get_bind fun s => ?_
  split
  · exact pure
  · refine ite pure (bind logEntry_decisions fun _ => modify fun s => ?_)
    split <;> rfl

theorem noteFarLoad_decisions {k l : Nat} {va : DWord} {bs : List Byte} {opc : BitVec 8} :
    Leaves State.decisions (noteFarLoad k l va bs opc) :=
  get_bind fun _ => ite logEntry_decisions pure

theorem takeLine_decisions {k : Nat} {va : DWord} {line : List Byte} {paLine : Option Nat} :
    Leaves State.decisions (takeLine k va line paLine) := by
  refine bind consumeEntry_decisions fun _ => modify fun s => ?_
  split <;> rfl

theorem leaderLoad_decisions {k : Nat} {m : Mode} {va : DWord} {n : Nat} {line : List Byte} {fresh : Bool} :
    Leaves State.decisions (leaderLoad k m va n line fresh) :=
  ite (bind (attempt translate_load) fun _ => bind takeLine_decisions fun _ => get_bind fun _ => pure) (get_bind fun _ => pure)

theorem privateRead_decisions {k l : Nat} {va : DWord} {n : Nat} {opc : BitVec 8} :
    Leaves State.decisions (privateRead k l va n opc) := by
  refine get_bind fun s => ?_
  split
  · exact pure
  · dsimp only
    split
    · refine ite (bind (modify fun _ => rfl) fun _ => bind consumeEntry_decisions fun _ => pure) ?_
      split
      · exact bind consumeEntry_decisions fun _ => pure
      · exact pure
      · exact ite abort abort
    · refine ite abort ?_
      split
      · exact pure
      · exact abort

theorem loadBytes_decisions {k l : Nat} {m : Mode} {va : DWord} {n : Nat} {opc : BitVec 8} :
    Leaves State.decisions (loadBytes k l m va n opc) := by
  refine get_bind fun s => ite privateRead_decisions ?_
  split
  · exact leaderLoad_decisions
  · exact bind consumeEntry_decisions fun _ => pure
  · refine bind translate_load fun ph => ite ?_ ?_
    · exact bind farRead_decisions fun _ => bind noteFarLoad_decisions fun _ => pure
    · exact bind phasedRead_decisions fun _ => get_bind fun _ => ite (bind noteLine_decisions fun _ => pure) pure

/-! ### A source operand -/

theorem constRead_decisions {k l : Nat} {m : Mode} {off n : Nat} : Leaves State.decisions (constRead k l m off n) :=
  get_bind fun _ => loadBytes_decisions

theorem readSrc_decisions {f : Form} {b : Base} {i l : Nat} : Leaves State.decisions (readSrc f b i l) := fun s x t h => by
  unfold readSrc at h
  dsimp only at h
  split at h
  · cases h; rfl
  · cases h; rfl
  · cases h; rfl
  · split at h
    · next hc => cases h; exact constRead_decisions s _ _ hc
    · cases h

end Leaves

end Sys2Proof.Machine

/-! PROOFS. The stream queues, the producer slot and the decision queue (spec/04 R98 to R102, spec/08 R209 to R211). -/

namespace Sys2Proof.Machine

/-! ### The effect monad -/

theorem M.bind_error {α β : Type} {x : M α} {f : α → M β} {s : State} {e : Abort} (h : x s = .error e) : (x >>= f) s = .error e := by
  simp only [bind, StateT.bind, Except.bind, h]

/-- What follows an effect matters only where the effect ends normally. -/
theorem M.bind_congr_run {α β : Type} {x : M α} {f g : α → M β} {s : State} (h : ∀ a t, x s = .ok (a, t) → f a t = g a t) :
    (x >>= f) s = (x >>= g) s := by
  simp only [bind, StateT.bind, Except.bind]
  cases hx : x s with
  | error e => rfl
  | ok r => exact h r.1 r.2 hx

/-- Values collected under their lanes name the lanes. -/
theorem keys_collect {α : Type} {g : Nat → M α} : ∀ {ls : List Nat} {s t : State} {xs : List (Nat × α)},
    collect ls (fun l => do
      let x ← g l
      pure (l, x)) s = .ok (xs, t) → xs.map (·.1) = ls
  | [], _, _, _, h => by cases h; rfl
  | l :: ls, _, _, _, h => by
    obtain ⟨y, s1, hy, h⟩ := (M.bind_ok ..).1 h
    obtain ⟨ys, s2, hys, h⟩ := (M.bind_ok ..).1 h
    obtain ⟨x, s3, -, hx⟩ := (M.bind_ok ..).1 hy
    cases hx
    cases h
    exact congrArg (l :: ·) (keys_collect hys)

theorem collect_single {α : Type} {g : Nat → M α} {l : Nat} {s t : State} {xs : List (Nat × α)}
    (h : collect [l] (fun l => do
      let x ← g l
      pure (l, x)) s = .ok (xs, t)) : ∃ x, xs = [(l, x)] ∧ g l s = .ok (x, t) := by
  obtain ⟨y, s1, hy, h⟩ := (M.bind_ok ..).1 h
  obtain ⟨x, s3, hg, hx⟩ := (M.bind_ok ..).1 hy
  cases hx
  cases h
  exact ⟨x, rfl, hg⟩

/-! ### A group that waits -/

/-- A group whose effect meets a wait in a state where it acts at once waits, and nothing else happens. -/
theorem runGroup_waits {s : State} {f : Form} {b : Base} {keep : Bool} {act : M GroupOut} {w : Wait} (h : s.Clear f b)
    (ha : act s = .error (.wait w)) : runGroup f b keep act s = .next (s.noteWait s.who s.issued w) := by
  have hc : caught b act s = .error (.wait w) := by
    unfold caught
    exact M.bind_error (by unfold attempt; rw [ha])
  have hd : deterministic f b (caught b act) s = .error (.wait w) := by
    unfold deterministic
    rw [M.bind_run (M.get_run s)]
    simp [h.free, hc]
  have hb : boundRule keep (deterministic f b (caught b act)) s = .error (.wait w) := by
    unfold boundRule; rw [hd]
  unfold runGroup runM
  rw [M.bind_run (M.get_run s)]
  simp only [h.ready, h.whole, h.allowed, ite_self]
  cases s.decodeBarred f b
  · simp only [Bool.not_false, if_true]
    rw [M.bind_run (allocate_room h.room), M.bind_error hb]
  · simp only [Bool.not_true, Bool.false_eq_true, if_false]
    rw [M.bind_error hb]

/-! ### Stream queues -/

theorem State.ownsQueues_of_producer {s : State} (h : (s.core (coreOf s.who)).producer = some (s.agent s.who).party) :
    s.ownsQueues = true := by
  simp [State.ownsQueues, h]

theorem LeadOrVector.scalar_eq_false {b : Base} {s : State} (h : LeadOrVector b s) : (b.dk == .scl && !isLead s.who) = false := by
  rw [Bool.and_eq_false_imp]
  intro hk
  simp [h (eq_of_beq hk)]

/-- The state with other entries in a stream queue of the issue's core. -/
def State.putQueue (s : State) (q : Nat) (es : List (List Word)) : State :=
  s.setCore (coreOf s.who) { s.core (coreOf s.who) with queues := (s.core (coreOf s.who)).queues.set q ⟨es⟩ }

section

variable {b : Base} {s : State}

/-- SPOP takes the oldest entry, each acting lane its word (04 R101, 08 R209). -/
theorem exec_spop_takes {e : List Word} {rest : List (List Word)} (hc : s.Clear (formOf (.spop b)) b) (hown : s.ownsQueues = true)
    (hact : s.acting b ≠ []) (hdst : LeadOrVector b s)
    (he : ((s.core (coreOf s.who)).queue (queueNumber b)).entries = e :: rest) (hfirst : s.streamAhead (queueNumber b) = false) :
    exec (.spop b) s = .next ((s.putQueue (queueNumber b) rest).retired (formOf (.spop b)) b
      { outs := (s.acting b).map fun l => (l, { writes := regWrites b l b.dst.toNat false ((e.getD l 0).setWidth 64) }) }) := by
  refine runGroup_completes hc ((M.bind_run (M.get_run s)).trans ?_) rfl
  simp only [hdst.scalar_eq_false, List.isEmpty_eq_false_iff.2 hact, hown, he, hfirst, Bool.not_true, Bool.false_eq_true, if_false]
  rfl

/-- SPOP of an empty queue that is open waits (04 R101). -/
theorem exec_spop_waits (hc : s.Clear (formOf (.spop b)) b) (hown : s.ownsQueues = true) (hact : s.acting b ≠ [])
    (hdst : LeadOrVector b s) (he : ((s.core (coreOf s.who)).queue (queueNumber b)).entries = [])
    (hopen : (s.core (coreOf s.who)).queuesClosed = false) :
    exec (.spop b) s = .next (s.noteWait s.who s.issued (.stream (queueNumber b))) := by
  refine runGroup_waits hc ((M.bind_run (M.get_run s)).trans ?_)
  simp only [hdst.scalar_eq_false, List.isEmpty_eq_false_iff.2 hact, hown, he, hopen, Bool.not_true, Bool.false_eq_true, if_false]
  rfl

/-- SPSH adds an entry of 32 lanes, with 0 for those that do not act (04 R101, 08 R209). -/
theorem exec_spsh_adds (hc : s.Clear (formOf (.spsh b)) b) (hprod : isProducer s.who = true) (hact : s.acting b ≠ [])
    (hroom : ((s.core (coreOf s.who)).queue (queueNumber b)).entries.length < queueDepth) :
    exec (.spsh b) s = .next ((s.putQueue (queueNumber b) (((s.core (coreOf s.who)).queue (queueNumber b)).entries ++
      [(List.range 32).map fun l => if (s.acting b).contains l then s.readV s.who b.b.field.toNat l else 0])).retired
        (formOf (.spsh b)) b {}) := by
  refine runGroup_completes hc ((M.bind_run (M.get_run s)).trans ?_) rfl
  simp only [hprod, List.isEmpty_eq_false_iff.2 hact, Nat.not_le.2 hroom, Bool.not_true, Bool.false_eq_true, if_false]
  rfl

/-- SQRY gives every acting lane the word of 04 R100. -/
theorem exec_sqry_tells (hc : s.Clear (formOf (.sqry b)) b) (hown : s.ownsQueues = true) (hact : s.acting b ≠ []) :
    exec (.sqry b) s = .next (s.retired (formOf (.sqry b)) b { outs := (s.acting b).map fun l =>
      (l, { writes := dstWrites b l .n32 (BitVec.ofNat 64 (queueWord (s.core (coreOf s.who)) (queueNumber b))) }) }) := by
  refine runGroup_completes hc ((M.bind_run (M.get_run s)).trans ?_) rfl
  simp only [List.isEmpty_eq_false_iff.2 hact, hown, Bool.not_true, Bool.false_eq_true, if_false]
  rfl

/-- What goes to a 32-bit register is the low word of the result. -/
theorem dstWrites_n32_ofNat (b : Base) (l n : Nat) :
    dstWrites b l .n32 (BitVec.ofNat 64 n) = regWrites b l b.dst.toNat false ((BitVec.ofNat 32 n).setWidth 64) := by
  have h : loWord (BitVec.ofNat 64 n) = loWord ((BitVec.ofNat 32 n).setWidth 64) := by simp [loWord]
  show [(_, loWord (BitVec.ofNat 64 n))] = [(_, loWord _)]
  rw [h]

end

/-! ### The producer slot -/

theorem checkAlign_setWidth (addr : Word) (n : Nat) :
    checkAlign (addr.setWidth 64) n = require (addr.toNat % n == 0) .misaligned (addr.setWidth 64) := by
  unfold checkAlign
  rw [BitVec.toNat_setWidth_of_le (by decide)]

theorem loWord_dwordOf (bs : List Byte) : loWord (dwordOf bs) = BitVec.ofNat 32 (leNat bs) := BitVec.setWidth_ofNat_of_le (by decide) _

/-- PRDL's check of the slot (04 R98, 08 R210): it is barred unless no party has the slot, or the party itself has it and its producer has
ended. -/
theorem producer_barred_iff (own : Option Nat) (p : Nat) (ended : Bool) :
    (own.any (fun q => q != p) || (own == some p && !ended)) = true ↔ ¬(own = none ∨ (own = some p ∧ ended = true)) := by
  cases own with
  | none => simp
  | some q => by_cases h : q = p <;> simp [h]

/-! ### The decision queue -/

section

variable {b : Base} {s : State}

/-- DQPSH reads its source, and then adds the entry to the queue of its party (08 R211). -/
theorem exec_dqpsh_adds {s1 : State} {x : DWord} (hc : s.Clear (formOf (.dqpsh b)) b) (hact : s.acting b = [0])
    (hx : readSrc (formOf (.dqpsh b)) b 0 0 s = .ok (x, s1)) (hlead : isLead s1.who = true)
    (hroom : (s1.partyOf s1.who).dq.entries.length < decisionDepth) :
    exec (.dqpsh b) s = .next (((s1.setParty (s1.agent s1.who).party { s1.partyOf s1.who with
      dq := { (s1.partyOf s1.who).dq with entries := (s1.partyOf s1.who).dq.entries ++ [x] } }).freeDecisions
        (s1.agent s1.who).party).retired (formOf (.dqpsh b)) b {}) := by
  obtain ⟨hwho, hparty, hdq⟩ := State.of_decisions_eq (Leaves.readSrc_decisions s x s1 hx)
  refine runGroup_completes hc ((M.bind_run (M.get_run s)).trans ?_) rfl
  simp only [State.partyOf] at hroom
  simp only [hwho, hparty, hdq, hlead, hact, Nat.not_le.2 hroom, Bool.not_true, Bool.false_eq_true, if_false, List.isEmpty_cons]
  rw [M.bind_run hx]
  rfl

/-- DQPOP takes the entry at its rope's place and moves that on (08 R211). -/
theorem exec_dqpop_takes {x : DWord} (hc : s.Clear (formOf (.dqpop b)) b) (hrope : isLead s.who = false) (hact : s.acting b ≠ [])
    (hx : (s.partyOf s.who).dq.entries[(s.agent s.who).dqPos - (s.partyOf s.who).dq.base]? = some x) :
    exec (.dqpop b) s = .next (((s.setAgent s.who { s.agent s.who with dqPos := (s.agent s.who).dqPos + 1 }).freeDecisions
      (s.agent s.who).party).retired (formOf (.dqpop b)) b
        { outs := (s.acting b).map fun l => (l, { writes := regWrites b l b.dst.toNat true x }) }) := by
  refine runGroup_completes hc ((M.bind_run (M.get_run s)).trans ?_) rfl
  simp only [State.partyOf] at hx
  simp only [hrope, List.isEmpty_eq_false_iff.2 hact, hx, Bool.false_eq_true, if_false]
  rfl

/-- DQPOP waits where its rope has taken every entry and the lead may still add one (08 R211). -/
theorem exec_dqpop_waits (hc : s.Clear (formOf (.dqpop b)) b) (hrope : isLead s.who = false) (hact : s.acting b ≠ [])
    (hlead : s.leadLives (s.agent s.who).party = true)
    (hx : (s.partyOf s.who).dq.entries[(s.agent s.who).dqPos - (s.partyOf s.who).dq.base]? = none) :
    exec (.dqpop b) s = .next (s.noteWait s.who s.issued .decision) := by
  refine runGroup_waits hc ((M.bind_run (M.get_run s)).trans ?_)
  simp only [State.partyOf] at hx
  simp only [hrope, List.isEmpty_eq_false_iff.2 hact, hx, hlead, Bool.false_eq_true, if_false, if_true]
  rfl

end

/-! ### The statement -/

/-- SPOP, SPSH, SQRY and PRDL, each by what it does in a state where it acts at once; PRDL's effect and the statement's agree check by
check, since the reads between them leave the state as it was. -/
theorem streamQueuesComplete : Claims.StreamQueuesComplete := by
  intro b
  refine ⟨fun e rest s _ hc ⟨⟨hprod, hact⟩, hdst, he, hfirst⟩ => ?_, fun s _ hc ⟨⟨hprod, hact⟩, hdst, he, hopen⟩ => ?_,
    fun s _ hc ⟨hprod, hact, hroom⟩ => ?_, fun s _ hc ⟨hprod, hact⟩ => ?_, fun s s1 l o _ hc hl ha => ?_⟩
  · exact exec_spop_takes hc (s.ownsQueues_of_producer hprod) hact hdst he hfirst
  · exact exec_spop_waits hc (s.ownsQueues_of_producer hprod) hact hdst he hopen
  · exact exec_spsh_adds hc hprod hact hroom
  · rw [exec_sqry_tells hc (s.ownsQueues_of_producer hprod) hact]
    simp only [dstWrites_n32_ofNat]
    rfl
  · refine runOnce_completes hc hl (Eq.trans (M.bind_congr_run fun x t _ => ?_) ha)
    rw [M.bind_run (M.get_run t), M.bind_run (M.get_run t)]
    simp only [producer_barred_iff, checkAlign_setWidth, loWord_dwordOf]
    by_cases h : (t.core (coreOf t.who)).producer = none ∨
      ((t.core (coreOf t.who)).producer = some (t.agent t.who).party ∧ (t.agent (128 * coreOf t.who + 64)).ended = true)
    · rw [if_neg (not_not_intro h), if_pos h]
      refine M.bind_congr_run fun _ _ hr => ?_
      obtain ⟨-, rfl⟩ := (require_ok ..).1 hr
      refine M.bind_congr_run fun bs u hs => ?_
      have hu : u = _ := Leaves.spadRead (part := id) _ _ _ hs
      subst hu
      rw [M.bind_run (M.modify_run ..), M.bind_run (M.modify_run ..)]
    · rw [if_pos h, if_neg h]
      exact (M.bind_error (abort_run ..)).trans (M.bind_error (abort_run ..)).symm

/-- DQPSH and DQPOP; the value that DQPSH adds is read first, which leaves the queue that it goes to. -/
theorem decisionQueueCompletes : Claims.DecisionQueueCompletes := by
  intro b
  refine ⟨fun s s1 xs _ hc hxs ⟨hlead, hroom, hkeys⟩ => ?_, fun x s _ hc ⟨hrope, hact, hx⟩ => ?_,
    fun s _ hc ⟨hrope, hact, hlead, hx⟩ => ?_⟩
  · have hact : s.acting b = [0] := (keys_collect hxs).symm.trans hkeys
    rw [hact] at hxs
    obtain ⟨x, rfl, hx⟩ := collect_single hxs
    exact exec_dqpsh_adds hc hact hx hlead hroom
  · exact exec_dqpop_takes hc hrope hact hx
  · exact exec_dqpop_waits hc hrope hact hlead hx

/-- Settles O33: each instruction's effect, run where the statement lets it act, gives the outcome that the statement names. -/
theorem queuesComplete : Obligations.QueuesComplete := ⟨streamQueuesComplete, decisionQueueCompletes⟩

end Sys2Proof.Machine

/-! PROOFS. Rounding keeps the values of a format, and to nearest goes to the nearest (spec/06 R141). An encoding without its sign counts the
grid's magnitudes in order; both claims are about these magnitudes. -/

namespace Sys2Proof

/-! ### Magnitudes -/

/-- The least exponent of a format's spacing, the one of its subnormal values (06 R135). -/
def Fmt.minExp (f : Fmt) : Int := 1 - (f.bias : Int) - f.mbits

/-- The integer significand of an encoding without its sign. -/
def Fmt.sig (f : Fmt) (k : Nat) : Nat := if k < 2 ^ f.mbits then k else 2 ^ f.mbits + k % 2 ^ f.mbits

/-- The exponent of the grid's spacing at an encoding without its sign. -/
def Fmt.exp (f : Fmt) (k : Nat) : Int := max (k / 2 ^ f.mbits : Nat) 1 - (f.bias : Int) - f.mbits

/-- The magnitude that an encoding without its sign denotes, past the largest finite one too: the grid of 06 R141. -/
def Fmt.magnitude (f : Fmt) (k : Nat) : ℚ := f.sig k * 2 ^ f.exp k

/-- The grid's spacing at a magnitude is 2^q: the magnitude is less than 2^(mbits + 1) spacings, and at least 2^mbits of them where the
spacing is not the least. -/
structure Fmt.Spaced (f : Fmt) (x : ℚ) (q : Int) : Prop where
  minExp_le : f.minExp ≤ q
  lt : x < 2 ^ (f.mbits + 1) * 2 ^ q
  le : f.minExp < q → 2 ^ f.mbits * 2 ^ q ≤ x

theorem two_zpow_pos (q : Int) : (0 : ℚ) < 2 ^ q := zpow_pos two_pos q

section
variable (f : Fmt) (k : Nat)

theorem Fmt.sig_of_lt {k : Nat} (h : k < 2 ^ f.mbits) : f.sig k = k := if_pos h

theorem Fmt.sig_of_le {k : Nat} (h : 2 ^ f.mbits ≤ k) : f.sig k = 2 ^ f.mbits + k % 2 ^ f.mbits := if_neg (Nat.not_lt.2 h)

theorem Fmt.exp_of_lt {k : Nat} (h : k < 2 ^ f.mbits) : f.exp k = f.minExp := by
  simp [exp, minExp, Nat.div_eq_of_lt h]

theorem Fmt.exp_of_le {k : Nat} (h : 2 ^ f.mbits ≤ k) : f.exp k = (k / 2 ^ f.mbits : Nat) - (f.bias : Int) - f.mbits := by
  have : 1 ≤ k / 2 ^ f.mbits := (Nat.one_le_div_iff (Nat.two_pow_pos _)).2 h
  rw [exp, max_eq_left (by exact_mod_cast this)]

theorem Fmt.minExp_le_exp : f.minExp ≤ f.exp k := by
  unfold minExp exp
  omega

theorem Fmt.sig_lt : f.sig k < 2 ^ (f.mbits + 1) := by
  have := Nat.mod_lt k (Nat.two_pow_pos f.mbits)
  unfold sig
  split <;> omega

theorem Fmt.sig_eq_zero : f.sig k = 0 ↔ k = 0 := by
  have := Nat.two_pow_pos f.mbits
  unfold sig
  split <;> omega

theorem Fmt.magnitude_nonneg : 0 ≤ f.magnitude k := mul_nonneg (Nat.cast_nonneg _) (two_zpow_pos _).le

/-- Each encoding has its own spacing. -/
theorem Fmt.spaced_magnitude : f.Spaced (f.magnitude k) (f.exp k) := by
  refine ⟨f.minExp_le_exp k, ?_, fun h => ?_⟩
  · exact mul_lt_mul_of_pos_right (by exact_mod_cast f.sig_lt k) (two_zpow_pos _)
  · have hk : 2 ^ f.mbits ≤ k := by
      by_contra hk
      exact h.ne (f.exp_of_lt (not_le.1 hk)).symm
    refine mul_le_mul_of_nonneg_right ?_ (two_zpow_pos _).le
    rw [f.sig_of_le hk]
    exact_mod_cast Nat.le_add_right _ _

/-- A spacing finer than another lies below it: what is spaced by 2^p is less than 2^mbits spacings of 2^q. -/
theorem Fmt.Spaced.lt_of_lt {f : Fmt} {x : ℚ} {p q : Int} (h : f.Spaced x p) (hpq : p < q) : x < 2 ^ f.mbits * 2 ^ q :=
  calc x < 2 ^ (f.mbits + 1) * 2 ^ p := h.lt
    _ = 2 ^ f.mbits * 2 ^ (p + 1) := by rw [zpow_add_one₀ two_ne_zero, pow_succ]; ring
    _ ≤ 2 ^ f.mbits * 2 ^ q := by gcongr; exacts [one_le_two, hpq]

theorem Fmt.Spaced.unique {f : Fmt} {x : ℚ} {p q : Int} (hp : f.Spaced x p) (hq : f.Spaced x q) : p = q := by
  rcases lt_trichotomy p q with h | h | h
  · exact absurd (hq.le (hp.minExp_le.trans_lt h)) (hp.lt_of_lt h).not_ge
  · exact h
  · exact absurd (hp.le (hq.minExp_le.trans_lt h)) (hq.lt_of_lt h).not_ge

/-- The least spacing reaches to the first significand past the subnormal ones. -/
theorem Fmt.magnitude_of_le {k : Nat} (h : k ≤ 2 ^ f.mbits) : f.magnitude k = k * 2 ^ f.minExp := by
  rcases h.lt_or_eq with h | rfl
  · rw [magnitude, f.sig_of_lt h, f.exp_of_lt h]
  · rw [magnitude, f.sig_of_le le_rfl, f.exp_of_le le_rfl, Nat.mod_self, Nat.div_self (Nat.two_pow_pos _)]
    rfl

/-- An exponent field `e` and a mantissa `r`, which may run one past its last value: the next exponent's first significand. -/
theorem Fmt.magnitude_mul_add {e r : Nat} (he : 1 ≤ e) (hr : r ≤ 2 ^ f.mbits) :
    f.magnitude (e * 2 ^ f.mbits + r) = (2 ^ f.mbits + r) * 2 ^ ((e : Int) - f.bias - f.mbits) := by
  have hle (r : Nat) : 2 ^ f.mbits ≤ e * 2 ^ f.mbits + r := (Nat.le_mul_of_pos_left _ he).trans (Nat.le_add_right _ _)
  rcases hr.lt_or_eq with hr | rfl
  · rw [magnitude, f.sig_of_le (hle r), f.exp_of_le (hle r), Nat.mul_comm, Nat.mul_add_mod, Nat.mod_eq_of_lt hr,
      Nat.mul_add_div (Nat.two_pow_pos _), Nat.div_eq_of_lt hr]
    push_cast
    rfl
  · rw [magnitude, f.sig_of_le (hle _), f.exp_of_le (hle _), ← Nat.succ_mul, Nat.mul_mod_left, Nat.mul_div_cancel _ (Nat.two_pow_pos _),
      show ((e.succ : Nat) : Int) - f.bias - f.mbits = (e : Int) - f.bias - f.mbits + 1 by push_cast; ring, zpow_add_one₀ two_ne_zero]
    push_cast
    ring

/-- The next magnitude is one spacing above. -/
theorem Fmt.magnitude_succ : f.magnitude (k + 1) = f.magnitude k + 2 ^ f.exp k := by
  rcases Nat.lt_or_ge k (2 ^ f.mbits) with h | h
  · rw [f.magnitude_of_le h, f.magnitude_of_le h.le, f.exp_of_lt h]
    push_cast
    ring
  · have he : 1 ≤ k / 2 ^ f.mbits := (Nat.one_le_div_iff (Nat.two_pow_pos _)).2 h
    have hr := Nat.mod_lt k (Nat.two_pow_pos f.mbits)
    rw [f.exp_of_le h]
    conv_lhs => rw [← Nat.div_add_mod' k (2 ^ f.mbits), Nat.add_assoc, f.magnitude_mul_add he hr]
    conv_rhs => enter [1]; rw [← Nat.div_add_mod' k (2 ^ f.mbits), f.magnitude_mul_add he hr.le]
    push_cast
    ring

theorem Fmt.magnitude_strictMono : StrictMono f.magnitude := strictMono_nat_of_lt_succ fun k => by
  rw [magnitude_succ]
  exact lt_add_of_pos_right _ (two_zpow_pos _)

end

/-! ### The exponent of a quotient -/

theorem pow_toNat_eq_zpow {q : Int} (h : 0 ≤ q) : (2 : ℚ) ^ q.toNat = 2 ^ q := by
  rw [← zpow_natCast, Int.toNat_of_nonneg h]

/-- The quotient `a / d` in units of 2^q, as rounding scales it without fractions. -/
def scaleQuot (a d : Nat) (q : Int) : Nat × Nat := if 0 ≤ q then (a, d * 2 ^ q.toNat) else (a * 2 ^ (-q).toNat, d)

theorem scaleQuot_pos (a : Nat) {d : Nat} (hd : 0 < d) (q : Int) : 0 < (scaleQuot a d q).2 := by
  unfold scaleQuot
  split <;> positivity

theorem scaleQuot_div (a d : Nat) (q : Int) : ((scaleQuot a d q).1 : ℚ) / (scaleQuot a d q).2 = a / d / 2 ^ q := by
  unfold scaleQuot
  split
  case isTrue h => push_cast; rw [pow_toNat_eq_zpow h, div_div]
  case isFalse h => push_cast; rw [pow_toNat_eq_zpow (by omega), zpow_neg]; ring

/-- The comparison without fractions that picks between the two candidates for the logarithm. -/
theorem two_zpow_le_div_iff (a : Nat) {d : Nat} (hd : 0 < d) (e : Int) :
    (if 0 ≤ e then d * 2 ^ e.toNat ≤ a else d ≤ a * 2 ^ (-e).toNat) ↔ (2 : ℚ) ^ e ≤ a / d := by
  rw [le_div_iff₀ (by exact_mod_cast hd)]
  split
  case isTrue h => rw [← pow_toNat_eq_zpow h, mul_comm]; exact_mod_cast Iff.rfl
  case isFalse h =>
    rw [← neg_neg e, zpow_neg, neg_neg, inv_mul_le_iff₀ (two_zpow_pos _), ← pow_toNat_eq_zpow (by omega), mul_comm]
    exact_mod_cast Iff.rfl

/-- The floor of the logarithm: 2^e is at most the quotient, and 2^(e + 1) is more. -/
theorem log2Quot_spec {a d : Nat} (ha : 0 < a) (hd : 0 < d) :
    (2 : ℚ) ^ log2Quot a d ≤ a / d ∧ (a / d : ℚ) < 2 ^ (log2Quot a d + 1) := by
  have hd' : (0 : ℚ) < d := by exact_mod_cast hd
  have hla := Nat.log2_self_le ha.ne'
  have hua : a < 2 ^ (a.log2 + 1) := Nat.lt_log2_self
  have hld := Nat.log2_self_le hd.ne'
  have hud : d < 2 ^ (d.log2 + 1) := Nat.lt_log2_self
  set e : Int := (a.log2 : Int) - d.log2
  have hlo : (2 : ℚ) ^ (e - 1) ≤ a / d := by
    rw [le_div_iff₀ hd', show e - 1 = (a.log2 : Int) - (d.log2 + 1 : Nat) by push_cast; omega, zpow_sub₀ two_ne_zero, zpow_natCast,
      zpow_natCast, div_mul_eq_mul_div, div_le_iff₀ (by positivity)]
    exact_mod_cast Nat.mul_le_mul hla hud.le
  have hhi : (a / d : ℚ) < 2 ^ (e + 1) := by
    rw [div_lt_iff₀ hd', show e + 1 = (a.log2 + 1 : Nat) - (d.log2 : Int) by push_cast; omega, zpow_sub₀ two_ne_zero, zpow_natCast,
      zpow_natCast, div_mul_eq_mul_div, lt_div_iff₀ (by positivity)]
    exact_mod_cast Nat.mul_lt_mul_of_lt_of_le hua hld (by positivity)
  rw [show log2Quot a d = if (if 0 ≤ e then d * 2 ^ e.toNat ≤ a else d ≤ a * 2 ^ (-e).toNat) then e else e - 1 from rfl]
  by_cases h : if 0 ≤ e then d * 2 ^ e.toNat ≤ a else d ≤ a * 2 ^ (-e).toNat
  · rw [if_pos h]
    exact ⟨(two_zpow_le_div_iff a hd e).1 h, hhi⟩
  · rw [if_neg h, sub_add_cancel]
    exact ⟨hlo, not_le.1 (mt (two_zpow_le_div_iff a hd e).2 h)⟩

/-! ### A rounding step -/

/-- A rounding step leaves an integer alone (06 R141 step 2). -/
@[simp] theorem roundStep_zero (mode : RMode) (neg : Bool) (n d : Nat) : roundStep mode neg n 0 d = n := if_pos rfl

theorem roundStep_rne (neg : Bool) (n r d : Nat) : roundStep .rne neg n r d =
    if r = 0 then n else if 2 * r < d then n else if d < 2 * r then n + 1 else n + n % 2 := rfl

theorem roundStep_le (mode : RMode) (neg : Bool) (n r d : Nat) : n ≤ roundStep mode neg n r d ∧ roundStep mode neg n r d ≤ n + 1 := by
  unfold roundStep
  cases mode <;> grind

/-- To nearest, the lower neighbour where the rest is at most a half, the upper one where it is at least a half (06 R141 step 3). -/
theorem roundStep_rne_or (neg : Bool) (n r d : Nat) :
    roundStep .rne neg n r d = n ∧ 2 * r ≤ d ∨ roundStep .rne neg n r d = n + 1 ∧ d ≤ 2 * r := by
  rw [roundStep_rne]
  split_ifs <;> omega

/-- No integer is nearer than the one that rounding to nearest gives. -/
theorem roundStep_rne_nearest (neg : Bool) (n : Nat) {r d : Nat} (hr : r < d) (j : Nat) :
    |(n + r / d : ℚ) - roundStep .rne neg n r d| ≤ |(n + r / d : ℚ) - j| := by
  have hd : (0 : ℚ) < d := by exact_mod_cast (Nat.zero_le r).trans_lt hr
  have h0 : (0 : ℚ) ≤ r / d := by positivity
  have h1 : (r / d : ℚ) < 1 := (div_lt_one hd).2 (by exact_mod_cast hr)
  have hj : (j : ℚ) ≤ n ∨ (n : ℚ) + 1 ≤ j := by exact_mod_cast (Nat.lt_or_ge n j).symm
  have far : min (r / d : ℚ) (1 - r / d) ≤ |(n + r / d : ℚ) - j| := by
    rcases hj with hj | hj
    · exact (min_le_left _ _).trans ((by linarith : (r / d : ℚ) ≤ n + r / d - j).trans (le_abs_self _))
    · exact (min_le_right _ _).trans ((by linarith : 1 - (r / d : ℚ) ≤ -(n + r / d - j)).trans (neg_le_abs _))
  refine le_trans (le_of_eq ?_) far
  rcases roundStep_rne_or neg n r d with ⟨h, hle⟩ | ⟨h, hle⟩
  · have hhalf : (r / d : ℚ) * 2 ≤ 1 := by
      rw [div_mul_eq_mul_div, div_le_one hd]
      exact_mod_cast (Nat.mul_comm r 2).trans_le hle
    rw [h, add_sub_cancel_left, abs_of_nonneg h0, min_eq_left (by linarith)]
  · have hhalf : 1 ≤ (r / d : ℚ) * 2 := by
      rw [div_mul_eq_mul_div, one_le_div hd]
      exact_mod_cast hle.trans_eq (Nat.mul_comm 2 r)
    rw [h, Nat.cast_add_one, add_sub_add_left_eq_sub, abs_of_nonpos (by linarith), min_eq_right (by linarith), neg_sub]

/-! ### The encoding of a magnitude -/

/-- A significand at its spacing, a full one included, has an encoding, which `encMag` gives where it is finite. -/
theorem Fmt.encMag_spec (f : Fmt) {n : Nat} {q : Int} (hn : n ≤ 2 ^ (f.mbits + 1)) (hq : f.minExp ≤ q)
    (hmin : n < 2 ^ f.mbits → q = f.minExp) :
    ∃ k, f.magnitude k = n * 2 ^ q ∧ f.encMag n q = if k ≤ f.maxEnc then some k else none := by
  have hpow : 2 ^ (f.mbits + 1) = 2 ^ f.mbits + 2 ^ f.mbits := by rw [pow_succ]; omega
  have hpos := Nat.two_pow_pos f.mbits
  rcases Nat.lt_or_ge n (2 ^ f.mbits) with h | h
  · refine ⟨n, by rw [f.magnitude_of_le h.le, hmin h], ?_⟩
    simp only [encMag, if_neg (show n ≠ 2 ^ (f.mbits + 1) by omega), if_pos h]
  · unfold minExp at hq
    obtain ⟨e, he, hqe⟩ : ∃ e : Nat, 1 ≤ e ∧ q + f.mbits + f.bias = e := ⟨(q + f.mbits + f.bias).toNat, by omega, by omega⟩
    refine ⟨e * 2 ^ f.mbits + (n - 2 ^ f.mbits), ?_, ?_⟩
    · rw [f.magnitude_mul_add he (by omega), show (e : Int) - f.bias - f.mbits = q by omega, Nat.cast_sub h]
      push_cast
      ring
    · rcases hn.lt_or_eq with hn | rfl
      · simp only [encMag, if_neg hn.ne, if_neg h.not_gt, hqe, Int.toNat_natCast]
      · have hq1 : q + 1 + f.mbits + f.bias = (e + 1 : Nat) := by push_cast; omega
        simp only [encMag, if_true, lt_irrefl, if_false, hq1, Int.toNat_natCast, Nat.succ_mul, hpow, Nat.add_sub_cancel_left, Nat.sub_self,
          Nat.add_zero]

/-! ### Rounding a quotient -/

/-- The exponent that rounding scales by is the grid's spacing at the value. -/
theorem Fmt.spaced_log2Quot (f : Fmt) {a d : Nat} (ha : 0 < a) (hd : 0 < d) :
    f.Spaced (a / d) (max (log2Quot a d - f.mbits) f.minExp) := by
  obtain ⟨hlo, hhi⟩ := log2Quot_spec ha hd
  have hadd (i : Nat) (q : Int) : (2 : ℚ) ^ i * 2 ^ q = 2 ^ (i + q) := by rw [zpow_add₀ two_ne_zero, zpow_natCast]
  refine ⟨le_max_right _ _, ?_, fun h => ?_⟩
  · rw [hadd]
    exact hhi.trans_le (zpow_le_zpow_right₀ one_le_two (by push_cast; omega))
  · rw [hadd]
    exact (zpow_le_zpow_right₀ one_le_two (by omega)).trans hlo

/-- The whole number of spacings in a magnitude is a significand at that spacing. -/
theorem Fmt.Spaced.floor {f : Fmt} {x t : ℚ} {q : Int} {n : Nat} (hs : f.Spaced x q) (hx : x = (n + t) * 2 ^ q) (h0 : 0 ≤ t) (h1 : t < 1) :
    n < 2 ^ (f.mbits + 1) ∧ (n < 2 ^ f.mbits → q = f.minExp) := by
  subst hx
  constructor
  · have := lt_of_mul_lt_mul_right hs.lt (two_zpow_pos q).le
    exact_mod_cast (by linarith : (n : ℚ) < 2 ^ (f.mbits + 1))
  · intro hn
    refine (hs.minExp_le.eq_or_lt.resolve_right fun hlt => ?_).symm
    have hle := le_of_mul_le_mul_right (hs.le hlt) (two_zpow_pos q)
    have : (n + 1 : ℚ) ≤ 2 ^ f.mbits := by exact_mod_cast hn
    linarith

/-- Rounding scales the magnitude to `n + r / d` spacings, takes a step, and gives the encoding of what the step chose, where that is
finite. -/
theorem Fmt.round_fin (f : Fmt) {num : Int} {den : Nat} (hn : num ≠ 0) (hd : 0 < den) (mode : RMode) :
    ∃ (q : Int) (n r d k : Nat), r < d ∧ f.Spaced (num.natAbs / den) q ∧ (num.natAbs / den : ℚ) = (n + r / d) * 2 ^ q ∧
      f.magnitude k = roundStep mode (decide (num < 0)) n r d * 2 ^ q ∧
      f.round (.fin num den) mode =
        if k ≤ f.maxEnc then f.signBit (decide (num < 0)) + k else f.overflow mode false (decide (num < 0)) := by
  have hs := f.spaced_log2Quot (Int.natAbs_pos.2 hn) hd
  set q := max (log2Quot num.natAbs den - f.mbits) f.minExp
  have hround : f.round (.fin num den) mode =
      match scaleQuot num.natAbs den q with
      | (a, d) => match f.encMag (roundStep mode (decide (num < 0)) (a / d) (a % d) d) q with
        | some e => f.signBit (decide (num < 0)) + e
        | none => f.overflow mode false (decide (num < 0)) := rfl
  have hd' := scaleQuot_pos num.natAbs hd q
  have hdiv := scaleQuot_div num.natAbs den q
  generalize scaleQuot num.natAbs den q = p at hround hd' hdiv
  obtain ⟨a, d⟩ := p
  have hr := Nat.mod_lt a hd'
  have hx : (num.natAbs / den : ℚ) = ((a / d : Nat) + (a % d : Nat) / d) * 2 ^ q := by
    have hd0 : (d : ℚ) ≠ 0 := by exact_mod_cast hd'.ne'
    rw [← div_eq_iff (two_zpow_pos q).ne', ← hdiv, div_eq_iff hd0, add_mul, div_mul_cancel₀ _ hd0]
    exact_mod_cast (Nat.div_add_mod' a d).symm
  obtain ⟨hlo, hhi⟩ := roundStep_le mode (decide (num < 0)) (a / d) (a % d) d
  obtain ⟨hlt, hmin⟩ := hs.floor hx (by positivity) ((div_lt_one (by exact_mod_cast hd')).2 (by exact_mod_cast hr))
  obtain ⟨k, hk, henc⟩ := f.encMag_spec (Nat.le_trans hhi hlt) hs.minExp_le fun h => hmin (hlo.trans_lt h)
  refine ⟨q, a / d, a % d, d, k, hr, hs, hx, hk, ?_⟩
  simp only [hround, henc]
  split_ifs <;> rfl

/-- Where no multiple of the spacing is nearer, no value of the grid is: a finer one lies below the multiple `2^mbits`. -/
theorem Fmt.Spaced.nearest {f : Fmt} {x : ℚ} {q : Int} {m : Nat} (hx : f.Spaced x q)
    (h : ∀ j : Nat, |x - m * 2 ^ q| ≤ |x - j * 2 ^ q|) (k : Nat) : |x - m * 2 ^ q| ≤ |x - f.magnitude k| := by
  rcases le_or_gt q (f.exp k) with hq | hq
  · refine (h (f.sig k * 2 ^ (f.exp k - q).toNat)).trans_eq ?_
    push_cast
    rw [pow_toNat_eq_zpow (sub_nonneg.2 hq), mul_assoc, ← zpow_add₀ two_ne_zero, sub_add_cancel, magnitude]
  · have hk := (f.spaced_magnitude k).lt_of_lt hq
    have hle := hx.le ((f.minExp_le_exp k).trans_lt hq)
    refine (h (2 ^ f.mbits)).trans ?_
    push_cast
    rw [abs_of_nonneg (by linarith), abs_of_nonneg (by linarith)]
    linarith

/-! ### Encodings -/

section
variable (f : Fmt)

/-- The largest exponent's encodings are the last `2^mbits`. -/
theorem Fmt.two_pow_fields (he : 0 < f.ebits) : 2 ^ (f.ebits + f.mbits) = (2 ^ f.ebits - 1) * 2 ^ f.mbits + 2 ^ f.mbits ∧
    2 ^ f.mbits ≤ (2 ^ f.ebits - 1) * 2 ^ f.mbits := by
  have he2 : 2 ≤ 2 ^ f.ebits := Nat.le_self_pow he.ne' 2
  refine ⟨?_, Nat.le_mul_of_pos_left _ (by omega)⟩
  rw [pow_add, ← Nat.succ_mul, Nat.succ_eq_add_one, Nat.sub_add_cancel (by omega)]

theorem Fmt.maxEnc_lt : f.maxEnc < 2 ^ (f.ebits + f.mbits) := by
  have hm := Nat.two_pow_pos f.mbits
  have : (2 ^ f.ebits - 1) * 2 ^ f.mbits ≤ 2 ^ (f.ebits + f.mbits) := by
    rw [pow_add]; exact Nat.mul_le_mul_right _ (Nat.sub_le _ _)
  have := Nat.two_pow_pos (f.ebits + f.mbits)
  unfold maxEnc
  split <;> omega

/-- The finite encodings: those not at the largest exponent, but in e4m3 all except the last, and in e2m1 all. -/
theorem Fmt.le_maxEnc_iff (he : 0 < f.ebits) {k : Nat} (hk : k < 2 ^ (f.ebits + f.mbits)) : k ≤ f.maxEnc ↔
    (f.special = .ieee → k / 2 ^ f.mbits ≠ 2 ^ f.ebits - 1) ∧
    (f.special = .nanOnly → k / 2 ^ f.mbits = 2 ^ f.ebits - 1 → k % 2 ^ f.mbits ≠ 2 ^ f.mbits - 1) := by
  have hm := Nat.two_pow_pos f.mbits
  have hdiv := Nat.div_add_mod' k (2 ^ f.mbits)
  have hmod := Nat.mod_lt k hm
  have hk2 : k / 2 ^ f.mbits < 2 ^ f.ebits := Nat.div_lt_of_lt_mul (by rwa [Nat.mul_comm, ← pow_add])
  obtain ⟨htop, hmul⟩ := f.two_pow_fields he
  have hlt := Nat.div_lt_iff_lt_mul hm (x := k) (y := 2 ^ f.ebits - 1)
  unfold maxEnc
  cases f.special with
  | ieee =>
    simp only [reduceCtorEq, forall_const, false_imp_iff, and_true]
    omega
  | nanOnly =>
    simp only [reduceCtorEq, forall_const, false_imp_iff, true_and]
    by_cases heq : k / 2 ^ f.mbits = 2 ^ f.ebits - 1
    · rw [heq] at hdiv ⊢
      omega
    · omega
  | none =>
    simp only [reduceCtorEq, false_imp_iff, and_true, iff_true]
    omega

/-- The three fields of an encoding. -/
theorem Fmt.fields_signBit_add (s : Bool) {k : Nat} (hk : k < 2 ^ (f.ebits + f.mbits)) :
    ((f.signBit s + k) / 2 ^ (f.ebits + f.mbits) % 2 == 1) = s ∧
    (f.signBit s + k) / 2 ^ f.mbits % 2 ^ f.ebits = k / 2 ^ f.mbits ∧ (f.signBit s + k) % 2 ^ f.mbits = k % 2 ^ f.mbits := by
  have hk2 : k / 2 ^ f.mbits < 2 ^ f.ebits := Nat.div_lt_of_lt_mul (by rwa [Nat.mul_comm, ← pow_add])
  cases s with
  | false => simp [signBit, Nat.div_eq_of_lt hk, Nat.mod_eq_of_lt hk2]
  | true =>
    refine ⟨?_, ?_, ?_⟩
    · simp [signBit, Nat.add_div_left, Nat.div_eq_of_lt hk]
    · rw [signBit, if_pos rfl, pow_add, Nat.mul_comm, Nat.mul_add_div (Nat.two_pow_pos _), Nat.add_mod_left, Nat.mod_eq_of_lt hk2]
    · simp [signBit, pow_add]

theorem Fmt.exists_signBit_add {x : Nat} (hx : x < 2 ^ f.bits) : ∃ s k, k < 2 ^ (f.ebits + f.mbits) ∧ x = f.signBit s + k := by
  rw [bits, Nat.add_assoc, Nat.add_comm, pow_succ] at hx
  rcases Nat.lt_or_ge x (2 ^ (f.ebits + f.mbits)) with h | h
  · exact ⟨false, x, h, (Nat.zero_add x).symm⟩
  · exact ⟨true, x - 2 ^ (f.ebits + f.mbits), by omega, (Nat.add_sub_cancel' h).symm⟩

theorem Fmt.signBit_add_lt (s : Bool) {k : Nat} (hk : k < 2 ^ (f.ebits + f.mbits)) : f.signBit s + k < 2 ^ f.bits := by
  rw [bits, Nat.add_assoc, Nat.add_comm 1, pow_succ]
  cases s <;> simp [signBit] <;> omega

/-- The encoding with sign `s` and the rest `k` has the value of `k`'s magnitude, or is past the finite ones (06 R135, R136). -/
theorem Fmt.decode_signBit_add (he : 0 < f.ebits) (s : Bool) {k : Nat} (hk : k < 2 ^ (f.ebits + f.mbits)) :
    f.decode (f.signBit s + k) = if k ≤ f.maxEnc then dyadic s (f.sig k) (f.exp k)
      else if f.special = .ieee ∧ k % 2 ^ f.mbits = 0 then .inf s else .nan := by
  obtain ⟨hs, hexp, hman⟩ := f.fields_signBit_add s hk
  have hdy : (if k / 2 ^ f.mbits = 0 then dyadic s (k % 2 ^ f.mbits) (1 - (f.bias : Int) - f.mbits)
      else dyadic s (2 ^ f.mbits + k % 2 ^ f.mbits) ((k / 2 ^ f.mbits : Nat) - f.bias - f.mbits)) = dyadic s (f.sig k) (f.exp k) := by
    rcases Nat.lt_or_ge k (2 ^ f.mbits) with h | h
    · rw [if_pos (Nat.div_eq_of_lt h), f.sig_of_lt h, f.exp_of_lt h, Nat.mod_eq_of_lt h, minExp]
    · rw [if_neg (by rw [Nat.div_eq_zero_iff]; omega), f.sig_of_le h, f.exp_of_le h]
  have hfin := f.le_maxEnc_iff he hk
  rw [← hdy]
  simp only [decode, hs, hexp, hman]
  cases hsp : f.special with
  | ieee => grind
  | nanOnly => grind
  | none => grind

end

/-! ### Values with a sign -/

/-- A magnitude with a sign. -/
def signed (s : Bool) (x : ℚ) : ℚ := if s then -x else x

theorem signed_natAbs_div (p : Int) (e : Nat) : signed (decide (p < 0)) (p.natAbs / e) = p / e := by
  rw [signed, Nat.cast_natAbs]
  rcases lt_or_ge p 0 with h | h
  · rw [if_pos (decide_eq_true h), abs_of_neg h, Int.cast_neg, neg_div, neg_neg]
  · rw [if_neg (by simpa using h), abs_of_nonneg h]

theorem abs_signed_sub (s : Bool) (x y : ℚ) : |signed s x - signed s y| = |x - y| := by
  cases s
  · rfl
  · exact (congrArg _ (neg_sub_neg x y)).trans (abs_sub_comm y x)

/-- A value of the other sign is no nearer than the one of the same magnitude and the same sign. -/
theorem abs_sub_le_abs_signed_sub (s t : Bool) {x y : ℚ} (hx : 0 ≤ x) (hy : 0 ≤ y) : |x - y| ≤ |signed s x - signed t y| := by
  have h : |x - y| ≤ |x + y| := abs_le_abs (by linarith) (by linarith)
  cases s <;> cases t
  · exact le_rfl
  · exact h.trans_eq (congrArg _ (sub_neg_eq_add x y).symm)
  · exact h.trans_eq ((abs_neg _).symm.trans (congrArg _ (neg_add' x y)))
  · exact (abs_signed_sub true x y).ge

/-- The value is `p / e`, a zero as 0/1. -/
def FVal.Denotes (v : FVal) (p : Int) (e : Nat) : Prop := v = .fin p e ∨ (p = 0 ∧ e = 1 ∧ ∃ s, v = .zero s)

theorem dyadic_zero (s : Bool) (e : Int) : dyadic s 0 e = .zero s := rfl

theorem dyadic_fin (s : Bool) {n : Nat} (hn : n ≠ 0) (e : Int) :
    ∃ num den, dyadic s n e = .fin num den ∧ num ≠ 0 ∧ 0 < den ∧ (num.natAbs / den : ℚ) = n * 2 ^ e ∧ decide (num < 0) = s := by
  obtain ⟨m, hm, hm0, hneg⟩ : ∃ m : Int, (if s then -(n : Int) else n) = m ∧ m.natAbs = n ∧ decide (m < 0) = s := by
    cases s
    · exact ⟨n, rfl, Int.natAbs_natCast n, decide_eq_false (by omega)⟩
    · exact ⟨-n, rfl, (Int.natAbs_neg _).trans (Int.natAbs_natCast n), decide_eq_true (by omega)⟩
  have hm1 : m ≠ 0 := Int.natAbs_ne_zero.1 (hm0 ▸ hn)
  rcases lt_or_ge e 0 with he | he
  · refine ⟨m, 2 ^ (-e).toNat, ?_, hm1, Nat.two_pow_pos _, ?_, hneg⟩
    · simp only [dyadic, hm, if_neg hn, if_neg he.not_ge]
    · rw [hm0, Nat.cast_pow, Nat.cast_two, pow_toNat_eq_zpow (by omega), zpow_neg, div_inv_eq_mul]
  · refine ⟨m * 2 ^ e.toNat, 1, ?_, mul_ne_zero hm1 (by positivity), one_pos, ?_, ?_⟩
    · simp only [dyadic, hm, if_neg hn, if_pos he]
    · rw [Int.natAbs_mul, hm0, Int.natAbs_pow]
      push_cast
      rw [div_one, pow_toNat_eq_zpow he]
    · rw [← hneg, decide_eq_decide]
      have h2 : (0 : Int) < 2 ^ e.toNat := by positivity
      simp [mul_neg_iff, h2, h2.le.not_gt]

theorem dyadic_denotes {s : Bool} {n : Nat} {e p : Int} {d : Nat} (h : (dyadic s n e).Denotes p d) : (p / d : ℚ) = signed s (n * 2 ^ e) := by
  rcases eq_or_ne n 0 with rfl | hn
  · rw [dyadic_zero] at h
    obtain h | ⟨rfl, rfl, -⟩ := h
    · cases h
    · cases s <;> simp [signed]
  · obtain ⟨num, den, hd, -, -, hq, hs⟩ := dyadic_fin s hn e
    rw [hd] at h
    obtain h | ⟨-, -, t, h⟩ := h
    · cases h
      rw [← hq, ← hs, signed_natAbs_div]
    · cases h

/-- An encoding with a finite value is at most the largest of them, and its value is its magnitude with its sign. -/
theorem Fmt.decode_denotes (f : Fmt) (he : 0 < f.ebits) {s : Bool} {k : Nat} (hk : k < 2 ^ (f.ebits + f.mbits)) {p : Int} {e : Nat}
    (h : (f.decode (f.signBit s + k)).Denotes p e) : k ≤ f.maxEnc ∧ (p / e : ℚ) = signed s (f.magnitude k) := by
  rw [f.decode_signBit_add he s hk] at h
  split_ifs at h with hmax
  · exact ⟨hmax, dyadic_denotes h⟩
  · obtain h | ⟨-, -, t, h⟩ := h <;> cases h
  · obtain h | ⟨-, -, t, h⟩ := h <;> cases h

/-! ### Rounding keeps the grid -/

/-- A value of the format is a whole number of its spacings, so every mode's step leaves it alone. -/
theorem Fmt.round_dyadic (f : Fmt) (s : Bool) {k : Nat} (hk : k ≤ f.maxEnc) (mode : RMode) :
    f.round (dyadic s (f.sig k) (f.exp k)) mode = f.signBit s + k := by
  rcases eq_or_ne k 0 with rfl | hk0
  · rw [(f.sig_eq_zero 0).2 rfl, dyadic_zero]
    rfl
  obtain ⟨num, den, hdy, hnum, hden, hmag, hs⟩ := dyadic_fin s (mt (f.sig_eq_zero k).1 hk0) (f.exp k)
  obtain ⟨q, n, r, d, j, hr, hsp, hx, hj, hround⟩ := f.round_fin hnum hden mode
  obtain rfl : q = f.exp k := hsp.unique (hmag ▸ f.spaced_magnitude k)
  have hd : (0 : ℚ) < d := by exact_mod_cast (Nat.zero_le r).trans_lt hr
  have hsum : (f.sig k : ℚ) = n + r / d := mul_right_cancel₀ (two_zpow_pos _).ne' (hmag.symm.trans hx)
  have hr1 : (r / d : ℚ) < 1 := (div_lt_one hd).2 (by exact_mod_cast hr)
  have hn : f.sig k = n := by
    refine le_antisymm (Nat.lt_succ_iff.1 ?_) ?_
    · exact_mod_cast (by linarith : (f.sig k : ℚ) < n + 1)
    · exact_mod_cast (by linarith [show (0 : ℚ) ≤ r / d by positivity] : (n : ℚ) ≤ f.sig k)
  obtain rfl : r = 0 := by
    have : (r / d : ℚ) = 0 := by rw [hn] at hsum; linarith
    exact_mod_cast (div_eq_zero_iff.1 this).resolve_right hd.ne'
  obtain rfl : j = k := f.magnitude_strictMono.injective (by rw [hj, roundStep_zero, ← hn, magnitude])
  rw [hdy, hround, if_pos hk, hs]

/-- An encoding of a finite value comes back as itself. -/
theorem Fmt.round_decode (f : Fmt) (he : 0 < f.ebits) {x : Nat} (hx : x < 2 ^ f.bits) (mode : RMode)
    (hnan : (f.decode x).isNan = false) (hinf : ∀ s, f.decode x ≠ .inf s) : f.round (f.decode x) mode = x := by
  obtain ⟨s, k, hk, rfl⟩ := f.exists_signBit_add hx
  have hdec := f.decode_signBit_add he s hk
  split_ifs at hdec with hmax
  · rw [hdec, f.round_dyadic s hmax]
  · exact absurd hdec (hinf s)
  · rw [hdec] at hnan
    cases hnan

/-! ### Rounding to nearest -/

/-- What stands for an infinite result is not finite, or is the largest finite value with its sign (06 R141 step 5). -/
theorem Fmt.infEnc_spec (f : Fmt) (he : 0 < f.ebits) (s : Bool) :
    ∃ t k, k < 2 ^ (f.ebits + f.mbits) ∧ f.infEnc s = f.signBit t + k ∧ (k ≤ f.maxEnc → t = s ∧ k = f.maxEnc) := by
  have hm := Nat.two_pow_pos f.mbits
  obtain ⟨htop, hmul⟩ := f.two_pow_fields he
  have hmax := f.maxEnc_lt
  cases hsp : f.special with
  | ieee =>
    refine ⟨s, (2 ^ f.ebits - 1) * 2 ^ f.mbits, by omega, by simp [infEnc, hsp], fun h => ?_⟩
    simp only [maxEnc, hsp] at h
    omega
  | nanOnly =>
    refine ⟨false, 2 ^ (f.ebits + f.mbits) - 1, by omega, by simp [infEnc, nanEnc, signBit, hsp], fun h => ?_⟩
    simp only [maxEnc, hsp] at h
    omega
  | none => exact ⟨s, f.maxEnc, hmax, by simp [infEnc, hsp], fun _ => ⟨rfl, rfl⟩⟩

/-- Rounding to nearest gives the sign of the value and a magnitude than which no finite one is nearer, or an encoding that is not finite. -/
theorem Fmt.round_rne_nearest (f : Fmt) (he : 0 < f.ebits) {num : Int} {den : Nat} (hn : num ≠ 0) (hd : 0 < den) :
    ∃ s k, k < 2 ^ (f.ebits + f.mbits) ∧ f.round (.fin num den) .rne = f.signBit s + k ∧ (k ≤ f.maxEnc → s = decide (num < 0) ∧
      ∀ j ≤ f.maxEnc, |(num.natAbs / den : ℚ) - f.magnitude k| ≤ |(num.natAbs / den : ℚ) - f.magnitude j|) := by
  obtain ⟨q, n, r, d, k, hr, hsp, hx, hk, hround⟩ := f.round_fin hn hd .rne
  set x : ℚ := num.natAbs / den
  have hstep (j : Nat) : |x - roundStep .rne (decide (num < 0)) n r d * 2 ^ q| ≤ |x - j * 2 ^ q| := by
    rw [hx, ← sub_mul, ← sub_mul, abs_mul, abs_mul]
    exact mul_le_mul_of_nonneg_right (roundStep_rne_nearest _ n hr j) (abs_nonneg _)
  have hnear (j : Nat) : |x - f.magnitude k| ≤ |x - f.magnitude j| := hk ▸ hsp.nearest hstep j
  rcases le_or_gt k f.maxEnc with h | h
  · exact ⟨_, k, h.trans_lt f.maxEnc_lt, by rw [hround, if_pos h], fun _ => ⟨rfl, fun j _ => hnear j⟩⟩
  · obtain ⟨t, i, hi, hinf, hfin⟩ := f.infEnc_spec he (decide (num < 0))
    refine ⟨t, i, hi, by rw [hround, if_neg h.not_ge, ← hinf]; rfl, fun hle => ?_⟩
    obtain ⟨rfl, rfl⟩ := hfin hle
    refine ⟨rfl, fun j hj => ?_⟩
    have hj := f.magnitude_strictMono.monotone hj
    have hk := f.magnitude_strictMono h
    rcases le_or_gt (f.magnitude f.maxEnc) x with hmax | hmax
    · rw [abs_of_nonneg (sub_nonneg.2 hmax), abs_of_nonneg (sub_nonneg.2 (hj.trans hmax))]
      exact sub_le_sub_left hj x
    · refine le_trans ?_ (hnear j)
      rw [abs_sub_comm x, abs_sub_comm x, abs_of_pos (sub_pos.2 hmax), abs_of_pos (sub_pos.2 (hmax.trans hk))]
      exact sub_le_sub_right hk.le x

/-! ### The statement -/

/-- The floating types that the statement names have an exponent field and fill their width, which an operand holds. -/
theorem fmt_of_floating : ∀ t ∈ [Ty.f32, .f16, .bf16, .e4m3, .e5m2, .e2m1], 0 < t.fmt.ebits ∧ t.fmt.bits = t.bits ∧ t.bits ≤ 64 := by decide

/-- The rounded bits are decoded whole, since they fit in the type's width. -/
theorem Ty.fval_ofNat {t : Ty} (h64 : t.fmt.bits ≤ 64) {x : Nat} (hx : x < 2 ^ t.fmt.bits) : t.fval (BitVec.ofNat 64 x) = t.fmt.decode x := by
  rw [fval, BitVec.toNat_ofNat, Nat.mod_eq_of_lt (hx.trans_le (Nat.pow_le_pow_right two_pos h64)), Nat.mod_eq_of_lt hx]

theorem roundingKeepsTheGrid : Claims.RoundingKeepsTheGrid := fun t ht x m hnan hinf => by
  obtain ⟨he, hbits, h64⟩ := fmt_of_floating t ht
  have hx : x.toNat < 2 ^ t.fmt.bits := by rw [hbits]; exact x.isLt
  rw [← BitVec.ofNat_toNat 64 x, Ty.fval_ofNat (hbits.trans_le h64) hx] at hnan hinf ⊢
  rw [Ty.fround, t.fmt.round_decode he hx m hnan hinf]

theorem roundingIsNearest : Claims.RoundingIsNearest := fun t ht n d x p q e g hn hd => by
  obtain ⟨he, hbits, h64⟩ := fmt_of_floating t ht
  obtain ⟨s, k, hk, hround, hnear⟩ := t.fmt.round_rne_nearest he hn hd
  obtain ⟨s', j, hj, hxj⟩ := t.fmt.exists_signBit_add (Nat.mod_lt x.toNat (Nat.two_pow_pos t.fmt.bits))
  intro near hp hq
  rw [Ty.fround, hround, Ty.fval_ofNat (hbits.trans_le h64) (t.fmt.signBit_add_lt s hk)] at hp
  rw [Ty.fval, hxj] at hq
  obtain ⟨hkmax, hp⟩ := t.fmt.decode_denotes he hk hp
  obtain ⟨hjmax, hq⟩ := t.fmt.decode_denotes he hj hq
  obtain ⟨rfl, hle⟩ := hnear hkmax
  simp only [near]
  rw [hp, hq, ← signed_natAbs_div n d, abs_signed_sub]
  exact (hle j hjmax).trans (abs_sub_le_abs_signed_sub _ _ (by positivity) (t.fmt.magnitude_nonneg j))

/-- Settles O11: both claims from what rounding does with the grid's magnitudes, which the encodings count in order. -/
theorem roundingIsToTheNearest : Obligations.RoundingIsToTheNearest := ⟨roundingKeepsTheGrid, roundingIsNearest⟩

end Sys2Proof

/-! PROOFS. When an issue group that acts at once completes or traps, for each way in which an instruction runs its lanes (spec/07 R152,
R153), and what a well-formed instruction's form says of its fields (spec/05 R121). -/

namespace Sys2Proof.Machine

open Sys2Proof

/-! ### What well-formedness says -/

/-- The form of a well-formed instruction finds no decode fault; the first hypothesis names the form. -/
theorem Form.check_of_wellFormed {i : Instr} {b : Base} {f : Form} (hw : i.WellFormed)
    (hi : i.check = if !b.lenWords then some .reservedField else f.check b) : f.check b = none := by
  obtain ⟨-, hc⟩ := hw
  rw [hi] at hc
  split_ifs at hc
  exact hc

/-- The three groups of checks that an instruction without a decode fault passes. -/
theorem Form.check_eq_none {f : Form} {b : Base} (h : f.check b = none) :
    f.illegalInstruction b = false ∧ f.reservedField b = false ∧ f.illegalOperand b = false := by
  unfold Form.check at h
  split_ifs at h with h1 h2 h3
  simp_all

theorem Form.tyFn_of_check {f : Form} {b : Base} (h : f.check b = none) : f.tyFn b = true := by
  have hi := (Form.check_eq_none h).1
  simp only [Form.illegalInstruction, Bool.or_eq_false_iff, Bool.not_eq_false'] at hi
  exact hi.1.2

/-- The types and function codes that a well-formed instruction's form accepts. -/
theorem Form.tyFn_of_wellFormed {i : Instr} {b : Base} {f : Form} (hw : i.WellFormed)
    (hi : i.check = if !b.lenWords then some .reservedField else f.check b) : f.tyFn b = true :=
  tyFn_of_check (check_of_wellFormed hw hi)

/-- A vector destination, a predicate, or no destination leaves no scalar one. -/
theorem Form.dk_of_check {f : Form} {b : Base} (h : f.check b = none)
    (hd : f.dst = .none ∨ f.dst = .pred ∨ ∃ t, f.dst = .vec t) : b.dk = .vec := by
  obtain ⟨-, hr, ho⟩ := Form.check_eq_none h
  simp only [Form.reservedField, Form.illegalOperand, Bool.or_eq_false_iff] at hr ho
  have hr := hr.1.2
  have ho := ho.1.2
  rcases hd with hd | hd | ⟨t, hd⟩ <;> cases hk : b.dk <;> simp_all [Form.dstReserved, Form.dstIllegal]

/-- A used source is of an accepted kind. -/
theorem Form.allows_of_check {f : Form} {b : Base} (h : f.check b = none) {i : Nat} (hi : i < 3) (hu : (f.srcRule i).used = true) :
    (f.srcRule i).allows (b.src i).kind = true := by
  obtain ⟨-, -, ho⟩ := Form.check_eq_none h
  simp only [Form.illegalOperand, Bool.or_eq_false_iff] at ho
  obtain ⟨⟨⟨⟨h0, h1⟩, h2⟩, -⟩, -⟩ := ho
  have hs : f.srcIllegal b i = false := by
    interval_cases i <;> assumption
  simp only [Form.srcIllegal, hu, Bool.true_and, Bool.or_eq_false_iff, Bool.not_eq_false'] at hs
  exact hs.1.1

/-! ### A group that ends normally, with traps or without -/

/-- The traps that lanes of a group take: in a bound rope all of its lanes take them (09 R217). -/
def State.trapping (s : State) (ls : List Nat) : List Nat := if (s.agent s.who).bound.isSome && !ls.isEmpty then s.issued else ls

/-- A group whose effect answers one trap for some of its lanes, and leaves the state, retires with that trap. -/
theorem runGroup_traps {s : State} {f : Form} {b : Base} {act : M GroupOut} {ls : List Nat} {t : Trap} (h : s.Clear f b)
    (ha : act s = .ok ({ traps := ls.map fun l => (l, t) }, s)) :
    runGroup f b false act s = .next (s.retired f b { traps := (s.trapping ls).map fun l => (l, t) }) := by
  have hd : deterministic f b (caught b act) s = .ok ({ traps := ls.map fun l => (l, t) }, s) := by
    unfold deterministic
    rw [M.bind_run (M.get_run s)]
    simp [h.free, caught_ok ha]
  have hb : boundRule false (deterministic f b (caught b act)) s = .ok ({ traps := (s.trapping ls).map fun l => (l, t) }, s) := by
    unfold boundRule State.trapping
    rw [hd]
    cases ls with
    | nil => simp
    | cons l ls => cases (s.agent s.who).bound <;> simp [unitTraps]
  unfold runGroup runM
  rw [M.bind_run (M.get_run s)]
  simp only [h.ready, h.whole, h.allowed, ite_self]
  cases s.decodeBarred f b
  · simp only [Bool.not_false, if_true]
    rw [M.bind_run (allocate_room h.room), M.bind_run hb]
    rfl
  · simp only [Bool.not_true, Bool.false_eq_true, if_false]
    rw [M.bind_run hb]
    rfl

/-- An attempt of what succeeds. -/
theorem attempt_run {α : Type} {m : M α} {s t : State} {a : α} (h : m s = .ok (a, t)) : attempt m s = .ok (.ok a, t) := by
  unfold attempt; rw [h]

/-! ### The issuing lane -/

theorem doAll_head {ls : List Nat} {act : Nat → M LaneOut} {s s1 : State} {outs : List (Nat × LaneOut)}
    (h : doAll (ls.take 1) act s = .ok (outs, s1)) :
    (ls = [] ∧ outs = [] ∧ s1 = s) ∨ ∃ l o, ls.head? = some l ∧ outs = [(l, o)] ∧ act l s = .ok (o, s1) := by
  cases ls with
  | nil => cases h; exact .inl ⟨rfl, rfl, rfl⟩
  | cons l ls =>
    obtain ⟨o, rfl, ho⟩ := collect_single h
    exact .inr ⟨l, o, rfl, rfl, ho⟩

/-- What is done once is done by the first of the acting lanes, if there is one. -/
theorem onceOut_of_doAll {b : Base} {act : Nat → M LaneOut} {s s1 : State} {outs : List (Nat × LaneOut)}
    (h : doAll ((s.acting b).take 1) act s = .ok (outs, s1)) : onceOut b act s = .ok ({ outs := outs }, s1) := by
  unfold onceOut
  rw [M.bind_run (M.get_run s)]
  rcases doAll_head h with ⟨hs, rfl, rfl⟩ | ⟨l, o, hl, rfl, ho⟩
  · rw [hs]; rfl
  · cases hs : s.acting b with
    | nil => rw [hs] at hl; cases hl
    | cons m ms =>
      rw [hs] at hl
      cases hl
      exact M.bind_run (attempt_run ho)

/-! ### Computing instructions -/

theorem State.doers_scl {s : State} {b : Base} (h : b.dk = .scl) : s.doers b = (s.acting b).take 1 := by
  simp [State.doers, h]

theorem State.doers_vec {s : State} {b : Base} (h : b.dk = .vec) : s.doers b = s.acting b := by
  simp [State.doers, h]

/-- What the lanes in which an instruction acts do, once or in each of them (07 R152). -/
theorem doersOut_of_doAll {b : Base} {act : Nat → M LaneOut} {s s1 : State} {outs : List (Nat × LaneOut)}
    (h : doAll (s.doers b) act s = .ok (outs, s1)) :
    (if b.dk == .scl then onceOut b act else eachLane (s.acting b) act) s = .ok ({ outs := outs }, s1) := by
  cases hk : b.dk with
  | scl =>
    rw [State.doers_scl hk] at h
    exact onceOut_of_doAll h
  | vec =>
    rw [State.doers_vec hk] at h
    exact eachLane_of_doAll h

/-- A computing instruction whose operands are read in the lanes in which it acts completes. -/
theorem runAlu_completes {s s1 : State} {f : Form} {b : Base} {only : Bool} {g : State → Nat → Operands → List (Dest × Word)}
    {outs : List (Nat × LaneOut)} (h : s.Clear f b) (honly : only = true → LeadOrVector b s)
    (ha : doAll (s.doers b) (fun l => do
      let x ← readSrcs f b l
      let t ← get
      pure { writes := g t l x }) s = .ok (outs, s1)) :
    runAlu f b only g s = .next (s1.retired f b { outs := outs }) := by
  refine runGroup_completes h ((M.bind_run (M.get_run s)).trans ?_) rfl
  have hbar : (only && b.dk == .scl && !isLead s.who) = false := by
    cases only with
    | false => rfl
    | true => exact (honly rfl).scalar_eq_false
  rw [hbar]
  exact doersOut_of_doAll ha

/-- A computing instruction completes with the writes that a statement names, where they are those that it makes. -/
theorem computesWhen_of_runAlu {i : Instr} {b : Base} {ok : State → Prop} {only : Bool}
    {g ws : State → Nat → Operands → List (Dest × Word)} (hexec : ∀ s, exec i s = runAlu (formOf i) b only g s)
    (honly : only = true → ∀ s, ok s → LeadOrVector b s) (hg : i.WellFormed → ∀ t l x, g t l x = ws t l x) :
    ComputesWhen i b ok ws := fun s s1 outs hw hc hok ha => by
  rw [hexec]
  refine runAlu_completes hc (fun ho => honly ho s hok) ?_
  rwa [show g = ws from funext fun t => funext fun l => funext fun x => hg hw t l x]

/-- A computing instruction of one typed result completes with a value that goes to its destination as the result does. -/
theorem computes_of_runResult {i : Instr} {b : Base} {t u : Ty} {g v : Operands → DWord}
    (hexec : ∀ s, exec i s = runResult (formOf i) b t g s)
    (hg : i.WellFormed → ∀ l x, dstWrites b l t (g x) = regWrites b l b.dst.toNat u.is64 (v x)) : Computes i b u v :=
  computesWhen_of_runAlu hexec nofun fun hw _ l x => hg hw l x

/-- A computing instruction of each lane's own value takes ILLEGAL_OPERAND for a scalar destination outside a lead (07 R152 rule 4). -/
theorem runAlu_traps {s : State} {f : Form} {b : Base} {g : State → Nat → Operands → List (Dest × Word)} (h : s.Clear f b)
    (hk : b.dk = .scl) (hl : isLead s.who = false) : runAlu f b true g s =
      .next (s.retired f b { traps := (s.trapping (s.acting b)).map fun l => (l, ⟨.illegalOperand, 0, s.issue.word, false⟩) }) := by
  refine runGroup_traps h ((M.bind_run (M.get_run s)).trans ?_)
  simp only [hk, hl]
  rfl

/-! ### Operands that are no words of the constant window -/

/-- A register or a literal is read at once, and its read changes nothing. -/
theorem readSrc_at_once {b : Base} {i : Nat} (h : (b.src i).kind ≠ .cst) (f : Form) (l : Nat) (s : State) :
    ∃ v, readSrc f b i l s = .ok (v, s) := by
  cases hk : (b.src i).kind
  case cst => exact absurd hk h
  all_goals simp [readSrc, hk]

theorem ite_bind_run {α β : Type} {p : Prop} [Decidable p] {x y : M α} {k : α → M β} {s t : State} {v : α}
    (h : (if p then x else y) s = .ok (v, t)) : (if p then x >>= k else y >>= k) s = k v t := by
  split_ifs at h ⊢ <;> exact M.bind_run h

theorem readSrcs_at_once {f : Form} {b : Base} (h : ∀ i < 3, (f.srcRule i).used = true → (b.src i).kind ≠ .cst) (l : Nat) (s : State) :
    ∃ x, readSrcs f b l s = .ok (x, s) := by
  have one (i : Nat) (hi : i < 3) : ∃ v, (if (f.srcRule i).used then readSrc f b i l else pure 0) s = .ok (v, s) := by
    cases hu : (f.srcRule i).used
    · exact ⟨0, rfl⟩
    · exact readSrc_at_once (h i hi hu) f l s
  obtain ⟨x, hx⟩ : ∃ v, (if f.a.used then readSrc f b 0 l else pure 0) s = .ok (v, s) := one 0 (by decide)
  obtain ⟨y, hy⟩ : ∃ v, (if f.b.used then readSrc f b 1 l else pure 0) s = .ok (v, s) := one 1 (by decide)
  obtain ⟨z, hz⟩ : ∃ v, (if f.c.used then readSrc f b 2 l else pure 0) s = .ok (v, s) := one 2 (by decide)
  exact ⟨⟨x, y, z⟩, (ite_bind_run hx).trans ((ite_bind_run hy).trans (ite_bind_run hz))⟩

/-- A form that takes no constant word reads its operands at once. -/
theorem readSrcs_of_check {f : Form} {b : Base} (hc : f.check b = none) (h : ∀ i < 3, (f.srcRule i).cst = false) (l : Nat) (s : State) :
    ∃ x, readSrcs f b l s = .ok (x, s) :=
  readSrcs_at_once (fun i hi hu hk => by
    have ha := Form.allows_of_check hc hi hu
    rw [hk] at ha
    exact Bool.false_ne_true ((h i hi).symm.trans ha)) l s

/-- A per-lane instruction whose form takes no constant word and no scalar destination completes with what its lanes write. -/
theorem computesWhen_of_runLanes {i : Instr} {b : Base} {act : Nat → M LaneOut} {ws : State → Nat → List (Dest × Word)}
    (hexec : ∀ s, exec i s = runLanes (formOf i) b act s) (hc : i.WellFormed → (formOf i).check b = none)
    (hr : ∀ j < 3, ((formOf i).srcRule j).cst = false)
    (hd : (formOf i).dst = .none ∨ (formOf i).dst = .pred ∨ ∃ t, (formOf i).dst = .vec t)
    (hact : i.WellFormed → ∀ l t, act l t = .ok ({ writes := ws t l }, t)) :
    ComputesWhen i b (fun _ => True) fun s l _ => ws s l := fun s s1 outs hw hcl _ ha => by
  rw [State.doers_vec (Form.dk_of_check (hc hw) hd)] at ha
  rw [hexec]
  refine runLanes_completes hcl (ha ▸ congrArg (doAll (s.acting b) · s) (funext fun l => funext fun t => ?_))
  obtain ⟨x, hx⟩ := readSrcs_of_check (hc hw) hr l t
  rw [hact hw l t, M.bind_run hx]
  rfl

/-! ### Instructions across lanes (07 R153) -/

/-- What acts on the operands of all participants, once they are read. -/
theorem participants_run {s s1 : State} {f : Form} {b : Base} {k : List (Nat × Operands) → M GroupOut} {xs : List (Nat × Operands)}
    (ha : readAll f b (s.acting b) s = .ok (xs, s1)) : participants f b k s = k xs s1 := by
  unfold participants
  rw [M.bind_run (M.get_run s)]
  exact M.bind_run (attempt_run ha)

/-- A cross-lane instruction whose participants' operands are read completes; `ls` are the participants that write. -/
theorem completesCross_of_runCross {i : Instr} {b : Base} {g ws : List (Nat × Operands) → Nat → List (Dest × Word)}
    {ls : List (Nat × Operands) → List Nat} (hexec : ∀ s, exec i s = runCross (formOf i) b g s)
    (hls : i.WellFormed → ∀ xs : List (Nat × Operands), ls xs = (if b.dk == .scl then xs.take 1 else xs).map (·.1))
    (hg : i.WellFormed → ∀ xs : List (Nat × Operands), (∀ x ∈ xs, x.1 < 32) → (xs.map (·.1)).Nodup → ∀ l ∈ ls xs, g xs l = ws xs l) :
    CompletesCross i b (fun _ => True) ls ws := fun s s1 xs hw hc _ ha => by
  rw [hexec]
  refine runGroup_completes hc ((participants_run ha).trans ?_) rfl
  have hkeys : xs.map (·.1) = s.acting b := keys_collect ha
  have hnodup : (xs.map (·.1)).Nodup := by
    rw [hkeys]
    exact ((List.nodup_range.filter _).filter _)
  have hlt : ∀ x ∈ xs, x.1 < 32 := fun x hx => by
    have : x.1 ∈ s.acting b := hkeys ▸ List.mem_map_of_mem hx
    simp only [State.acting, State.issued, lanesOf, List.mem_filter, List.mem_range] at this
    exact this.1.1
  have houts : (if b.dk == .scl then xs.take 1 else xs).map (fun x => (x.1, ({ writes := g xs x.1 } : LaneOut))) =
      (ls xs).map fun l => (l, { writes := ws xs l }) := by
    have hl := hls hw xs
    have := fun l hl => hg hw xs hlt hnodup l hl
    rw [hl] at this ⊢
    rw [List.map_map]
    refine List.map_congr_left fun x hx => ?_
    rw [this x.1 (List.mem_map_of_mem hx)]
    rfl
  exact congrArg (fun o => Except.ok (({ outs := o } : GroupOut), s1)) houts

end Sys2Proof.Machine

/-! PROOFS. The values of the integer instructions (spec/07 R160 to R166): an operand's integer is what its low bits denote, and a result
goes to its register as its low bits, extended. -/

namespace Sys2Proof

open Machine Claims

/-! ### Types, operands and results -/

theorem Ty.bits_pos (t : Ty) : 0 < t.bits := by cases t <;> decide

theorem Ty.bits_le (t : Ty) : t.bits ≤ 64 := by cases t <;> decide

theorem Ty.two_pow_bits (t : Ty) : 2 ^ t.bits = 2 * 2 ^ (t.bits - 1) := by
  rw [← pow_succ', Nat.sub_add_cancel t.bits_pos]

theorem low_toNat (t : Ty) (x : DWord) : (low t x).toNat = x.toNat % 2 ^ t.bits := BitVec.toNat_setWidth ..

theorem rawBits_eq (t : Ty) (x : DWord) : rawBits t x = (low t x).toNat := (low_toNat t x).symm

/-- The integer of an operand is the one that its low bits denote. -/
theorem Ty.intVal_eq (t : Ty) (x : DWord) : t.intVal x = valueOf t.isSigned (low t x) := by
  have hp := t.two_pow_bits
  cases hs : t.isSigned
  · simp [Ty.intVal, hs, valueOf, low_toNat]
  · have hcond : 2 ^ (t.bits - 1) ≤ x.toNat % 2 ^ t.bits ↔ ¬2 * (x.toNat % 2 ^ t.bits) < 2 ^ t.bits := by omega
    simp only [Ty.intVal, hs, valueOf, if_true, Bool.true_and, decide_eq_true_eq, BitVec.toInt_eq_toNat_cond, low_toNat, hcond, ite_not]
    push_cast
    rfl

theorem Ty.wrap_eq (t : Ty) (n : Int) : t.wrap n = (BitVec.ofInt t.bits n).setWidth 64 := by
  refine BitVec.eq_of_toNat_eq ?_
  rw [Ty.wrap, BitVec.toNat_ofNat, BitVec.toNat_setWidth, BitVec.toNat_ofInt]
  push_cast
  rfl

/-- The low bits of a wrapped integer. -/
theorem low_wrap (t : Ty) (n : Int) : low t (t.wrap n) = BitVec.ofInt t.bits n := by
  rw [t.wrap_eq, low, BitVec.setWidth_setWidth_of_le _ t.bits_le, BitVec.setWidth_eq]

@[simp] theorem ofInt_valueOf (g : Bool) {w : Nat} (v : BitVec w) : BitVec.ofInt w (valueOf g v) = v := by
  cases g
  · simp [valueOf]
  · exact BitVec.ofInt_toInt

theorem low_wide (t : Ty) (v : BitVec t.bits) : low t (wide t v) = v := by
  refine BitVec.eq_of_getLsbD_eq fun i hi => ?_
  cases h : t.isSigned <;> simp [low, wide, h, hi, hi.trans_le t.bits_le, BitVec.getElem_signExtend]

/-- What a result writes depends on its low bits alone: those of its type, extended. -/
theorem dstWrites_wide (b : Base) (l : Nat) (t : Ty) (v : DWord) :
    dstWrites b l t v = regWrites b l b.dst.toNat t.is64 (wide t (low t v)) := by
  have h32 : loWord (wide .i32 (low .i32 v)) = loWord v := by
    refine BitVec.eq_of_getLsbD_eq fun i hi => ?_
    simp [loWord, wide, low, Ty.isSigned, Ty.bits, BitVec.getElem_signExtend, hi, Nat.lt_trans hi (show 32 < 64 by decide)]
  cases t
  case i32 => simp only [dstWrites, extendTo, regWrites, Ty.is64, Ty.bits, h32]; rfl
  all_goals simp [dstWrites, extendTo, regWrites, wide, low, Ty.isSigned, Ty.is64, Ty.bits, loWord, hiWord]

/-- An instruction whose result has the low bits that a statement names completes with them. -/
theorem computes_low {i : Instr} {b : Base} {t : Ty} {g : Operands → DWord} {r : Operands → BitVec t.bits}
    (hexec : ∀ s, exec i s = runResult (formOf i) b t g s) (hg : i.WellFormed → ∀ x, low t (g x) = r x) :
    Computes i b t (fun x => wide t (r x)) :=
  computes_of_runResult hexec fun hw l x => by rw [dstWrites_wide, hg hw]

theorem intFn0_iff {b : Base} : intFn0 b = true ↔ b.ty.isInt = true ∧ b.fn = 0 := by simp [intFn0]

/-! ### Sums: modulo the width, saturated, or on the halves of a pair (07 R160) -/

theorem low_sat (t : Ty) (e : Int) : low t (t.sat e) = clamp t.isSigned t.bits e := by
  have hpos : (0 : Int) < 2 ^ (t.bits - 1) := by positivity
  have hpow : (2 : Int) ^ t.bits = 2 * 2 ^ (t.bits - 1) := by exact_mod_cast t.two_pow_bits
  rw [Ty.sat, low_wrap, clamp, Ty.minInt, Ty.maxInt]
  congr 1
  cases t.isSigned <;> simp only [Bool.false_eq_true, if_true, if_false] <;> split_ifs <;> omega

/-- The halves of a pair, as 16 bits. -/
theorem halves_setWidth (x : DWord) :
    (halves x).1.setWidth 16 = x.extractLsb' 0 16 ∧ (halves x).2.setWidth 16 = x.extractLsb' 16 16 := by
  constructor <;> ext i hi <;> simp [halves]

theorem and_mask16 (x : DWord) : x &&& 0xFFFF = (x.setWidth 16).setWidth 64 := by
  refine BitVec.eq_of_toNat_eq ?_
  have h : x.toNat &&& 65535 = x.toNat % 2 ^ 16 := Nat.and_two_pow_sub_one_eq_mod x.toNat 16
  rw [BitVec.toNat_and, show (0xFFFF : DWord).toNat = 65535 from rfl, h, BitVec.toNat_setWidth, BitVec.toNat_setWidth]
  omega

theorem getLsbD_pair (hi lo : BitVec 16) (i : Nat) :
    (hi ++ lo : BitVec 32).getLsbD i = if i < 16 then lo.getLsbD i else hi.getLsbD (i - 16) := by
  have : (hi ++ lo).getLsbD i = _ := BitVec.getLsbD_append
  rw [this]

/-- Two results of 16 bits, packed. -/
theorem packHalves_eq (lo hi : DWord) : packHalves lo hi = (hi.setWidth 16 ++ lo.setWidth 16 : BitVec 32).setWidth 64 := by
  change (lo &&& (0xFFFF : DWord)) ||| ((hi &&& (0xFFFF : DWord)) <<< 16) = _
  rw [and_mask16, and_mask16]
  refine BitVec.eq_of_getLsbD_eq fun i hi => ?_
  rw [BitVec.getLsbD_setWidth, getLsbD_pair]
  simp only [BitVec.getLsbD_or, BitVec.getLsbD_shiftLeft, BitVec.getLsbD_setWidth, hi, decide_true, Bool.true_and]
  rcases Nat.lt_or_ge i 16 with h | h
  · simp [h]
  · simp [Nat.not_lt.mpr h, (Nat.sub_le i 16).trans_lt hi]

/-- The element types of an integer pair. -/
theorem pairElem_int {fn : BitVec 3} (h : fn = 2 ∨ fn = 3) : (pairElem fn).bits = 16 ∧ (pairElem fn).isSigned = (fn == 2) := by
  rcases h with rfl | rfl <;> decide

/-- The low bits of a wrapped integer, at the type's width. -/
theorem setWidth_wrap {t : Ty} {w : Nat} (h : t.bits = w) (n : Int) : (t.wrap n).setWidth w = BitVec.ofInt w n := by
  subst h
  exact low_wrap t n

theorem intVal_setWidth {t : Ty} {w : Nat} (h : t.bits = w) (x : DWord) : t.intVal x = valueOf t.isSigned (x.setWidth w) := by
  subst h
  exact t.intVal_eq x

/-- An exact result on each half of a pair. -/
theorem onHalves_wrap {t : Ty} (h : t.bits = 16) (ex : Int → Int → Int) (x y : DWord) :
    onHalves (fun p q => t.wrap (ex (t.intVal p) (t.intVal q))) x y =
      let one := fun (p q : BitVec 16) => BitVec.ofInt 16 (ex (valueOf t.isSigned p) (valueOf t.isSigned q))
      (one (x.extractLsb' 16 16) (y.extractLsb' 16 16) ++ one (x.extractLsb' 0 16) (y.extractLsb' 0 16)).setWidth 64 := by
  obtain ⟨hx, hx'⟩ := halves_setWidth x
  obtain ⟨hy, hy'⟩ := halves_setWidth y
  simp only [onHalves, packHalves_eq, setWidth_wrap h, intVal_setWidth h, hx, hx', hy, hy']

/-- A pair goes to its register as it is. -/
theorem wide_low_pair {t : Ty} (h : t = .pair) (x : BitVec 32) : wide t (low t (x.setWidth 64)) = x.setWidth 64 := by
  subst h
  exact congrArg (BitVec.setWidth 64) (low_wide .pair x)

/-- An exact integer result of two operands, as it goes to its register. -/
theorem wide_intResult {b : Base} {ex : Int → Int → Int} {op : (w : Nat) → Bool → BitVec w → BitVec w → BitVec w}
    (hfn : b.ty = .pair → b.fn = 2 ∨ b.fn = 3)
    (hop : ∀ (w : Nat) (g : Bool) (p q : BitVec w), BitVec.ofInt w (ex (valueOf g p) (valueOf g q)) = op w g p q) (x : Operands) :
    wide b.ty (low b.ty (intResult b (fun t p q => ex (t.intVal p) (t.intVal q)) x)) = arith b op ex x := by
  unfold intResult arith
  by_cases hp : b.ty = .pair
  · obtain ⟨h16, hs⟩ := pairElem_int (hfn hp)
    rw [if_pos (by simpa using hp), if_pos hp, onHalves_wrap h16]
    simp only [hop, hs, wide_low_pair hp]
  · have hne : (b.ty == Ty.pair) = false := by simpa using hp
    simp only [hne, hp, Bool.false_eq_true, if_false, beq_iff_eq]
    split_ifs
    · rw [low_sat, b.ty.intVal_eq, b.ty.intVal_eq]
    · rw [low_wrap, b.ty.intVal_eq, b.ty.intVal_eq, hop]

theorem less_iff (g : Bool) {w : Nat} (p q : BitVec w) : less g p q = true ↔ valueOf g p < valueOf g q := by
  cases g <;> simp [less, valueOf, BitVec.slt_iff_toInt_lt, BitVec.ult_iff_toNat_lt]

theorem ofInt_min (g : Bool) {w : Nat} (p q : BitVec w) :
    BitVec.ofInt w (min (valueOf g p) (valueOf g q)) = if less g q p then q else p := by
  simp only [less_iff, min_comm (valueOf g p), min_def_lt]
  split_ifs <;> simp

theorem ofInt_max (g : Bool) {w : Nat} (p q : BitVec w) :
    BitVec.ofInt w (max (valueOf g p) (valueOf g q)) = if less g p q then q else p := by
  simp only [less_iff, max_def_lt]
  split_ifs <;> simp

theorem ofInt_natAbs (g : Bool) {w : Nat} (p : BitVec w) : BitVec.ofInt w ((valueOf g p).natAbs : Int) = magnitude g p := by
  cases g
  · simp [valueOf, magnitude]
  · have hmsb : p.msb = decide (p.toInt < 0) := BitVec.msb_eq_toInt
    by_cases h : p.toInt < 0
    · simp [valueOf, magnitude, hmsb, h, Int.ofNat_natAbs_of_nonpos h.le, BitVec.ofInt_neg]
    · simp [valueOf, magnitude, hmsb, h, Int.natAbs_of_nonneg (not_lt.mp h)]

/-- An instruction of integer arithmetic completes; the form admits pairs of integers only. -/
theorem computes_arith {i : Instr} {b : Base} {ex : Int → Int → Int} {op : (w : Nat) → Bool → BitVec w → BitVec w → BitVec w}
    (hexec : ∀ s, exec i s = runResult (formOf i) b b.ty (intResult b fun t p q => ex (t.intVal p) (t.intVal q)) s)
    (hfn : i.WellFormed → b.ty = .pair → b.fn = 2 ∨ b.fn = 3)
    (hop : ∀ (w : Nat) (g : Bool) (p q : BitVec w), BitVec.ofInt w (ex (valueOf g p) (valueOf g q)) = op w g p q) :
    Computes i b b.ty (arith b op ex) :=
  computes_of_runResult hexec fun hw l x => by rw [dstWrites_wide, wide_intResult (hfn hw) hop]

theorem intSatPack_pair {b : Base} (h : intSatPack b = true) (hp : b.ty = .pair) : b.fn = 2 ∨ b.fn = 3 := by
  simpa [intSatPack, hp, Ty.isInt] using h

theorem intPack_pair {b : Base} (h : intPack b = true) (hp : b.ty = .pair) : b.fn = 2 ∨ b.fn = 3 := by
  simpa [intPack, hp, Ty.isInt] using h

theorem abs_pair {b : Base} (h : (b.ty.isSigned && decide (b.fn.toNat ≤ 1) || b.ty == .pair && b.fn == 2) = true) (hp : b.ty = .pair) :
    b.fn = 2 ∨ b.fn = 3 := by
  simp_all [Ty.isSigned]

theorem integerSumsComplete : Claims.IntegerSumsComplete := fun b =>
  have sat {i : Instr} (hi : i.WellFormed → intSatPack b = true) := fun hw hp => intSatPack_pair (hi hw) hp
  have plain {i : Instr} (hi : i.WellFormed → intPack b = true) := fun hw hp => intPack_pair (hi hw) hp
  ⟨computes_arith (fun _ => rfl) (sat fun hw => Form.tyFn_of_wellFormed hw rfl) fun w g p q => by simp [BitVec.ofInt_add],
   computes_arith (fun _ => rfl) (sat fun hw => Form.tyFn_of_wellFormed hw rfl) fun w g p q => by
     simp [sub_eq_add_neg, BitVec.ofInt_add, BitVec.ofInt_neg],
   computes_arith (fun _ => rfl) (plain fun hw => Form.tyFn_of_wellFormed hw rfl) fun w g p q => ofInt_min g p q,
   computes_arith (fun _ => rfl) (plain fun hw => Form.tyFn_of_wellFormed hw rfl) fun w g p q => ofInt_max g p q,
   computes_arith (fun _ => rfl)
     (fun hw hp => abs_pair (Form.tyFn_of_wellFormed hw rfl) hp)
     fun w g p _ => ofInt_natAbs g p,
   computes_arith (fun _ => rfl) (sat fun hw => Form.tyFn_of_wellFormed hw rfl) fun w g p q => by simp [BitVec.ofInt_neg]⟩

/-! ### Products (07 R160) -/

theorem grow_eq (g : Bool) {w : Nat} (n : Nat) (p : BitVec w) : grow g n p = BitVec.ofInt n (valueOf g p) := by
  cases g
  · simp [grow, valueOf, ← BitVec.ofNat_toNat]
  · rfl

/-- The bits of an integer. -/
theorem getLsbD_ofInt (n : Nat) (z : Int) {i : Nat} (h : i < n) : (BitVec.ofInt n z).getLsbD i = decide (z / 2 ^ i % 2 = 1) := by
  have hn : (2 : Int) ^ n = 2 ^ i * (2 * 2 ^ (n - i - 1)) := by
    rw [← pow_succ', ← pow_add]
    congr 1
    omega
  have hi : (0 : Int) < 2 ^ i := by positivity
  have hz : z % 2 ^ n / 2 ^ i % 2 = z / 2 ^ i % 2 := by
    have : z % 2 ^ n = z + 2 ^ i * (2 * -(2 ^ (n - i - 1) * (z / 2 ^ n))) := by
      rw [Int.emod_def, hn]
      ring
    rw [this, Int.add_mul_ediv_left _ _ hi.ne', Int.add_mul_emod_self_left]
  have hpos : 0 ≤ z % 2 ^ n := Int.emod_nonneg z (by positivity)
  rw [← BitVec.testBit_toNat, BitVec.toNat_ofInt, Nat.testBit_eq_decide_div_mod_eq, ← hz]
  refine decide_eq_decide.mpr ?_
  zify
  rw [Int.toNat_of_nonneg (by exact_mod_cast hpos)]

/-- The bits of an integer from place `k` on. -/
theorem extractLsb'_ofInt {n : Nat} (k m : Nat) (z : Int) (h : k + m ≤ n) :
    (BitVec.ofInt n z).extractLsb' k m = BitVec.ofInt m (z / 2 ^ k) := by
  refine BitVec.eq_of_getLsbD_eq fun i hi => ?_
  rw [BitVec.getLsbD_extractLsb', getLsbD_ofInt _ _ (by omega), getLsbD_ofInt _ _ hi, pow_add, Int.ediv_ediv_of_nonneg (by positivity)]
  simp [hi]

/-- A result of 64 bits goes to its pair as it is. -/
theorem dstWrites_of_bits {t : Ty} (h : t.bits = 64) (b : Base) (l : Nat) (v : DWord) :
    dstWrites b l t v = regWrites b l b.dst.toNat Ty.n64.is64 v := by
  cases t
  case i64 => rfl
  case n64 => rfl
  all_goals exact absurd h (by decide)

theorem wrap_of_bits {t : Ty} (h : t.bits = 64) (n : Int) : t.wrap n = BitVec.ofInt 64 n :=
  (BitVec.setWidth_eq _).symm.trans (setWidth_wrap h n)

theorem ofInt_intVal {t : Ty} {w : Nat} (h : t.bits = w) (x : DWord) : BitVec.ofInt w (t.intVal x) = x.setWidth w := by
  rw [intVal_setWidth h, ofInt_valueOf]

theorem OpTy.madw_bits (b : Base) : (OpTy.madw.of b).bits = 64 := by
  cases h : b.ty.isSigned <;> simp [OpTy.of, h] <;> rfl

theorem integerProductsComplete : Claims.IntegerProductsComplete := fun b =>
  ⟨computes_low (fun _ => rfl) fun _ x => by
      rw [mulResult, low_wrap, b.ty.intVal_eq, b.ty.intVal_eq, BitVec.ofInt_mul, ofInt_valueOf, ofInt_valueOf],
   computes_low (fun _ => rfl) fun _ x => by
      rw [mulhResult, low_wrap, b.ty.intVal_eq, b.ty.intVal_eq, grow_eq, grow_eq, ← BitVec.ofInt_mul, extractLsb'_ofInt _ _ _ (by omega)],
   computes_low (fun _ => rfl) fun _ x => by
      simp only [madResult, low_wrap, b.ty.intVal_eq, BitVec.ofInt_add, BitVec.ofInt_mul, ofInt_valueOf],
   computes_of_runResult (fun _ => rfl) fun hw l x => by
      rw [dstWrites_of_bits (OpTy.madw_bits b), madwResult, wrap_of_bits (OpTy.madw_bits b), BitVec.ofInt_add, BitVec.ofInt_mul,
        ofInt_intVal (OpTy.madw_bits b), BitVec.setWidth_eq, b.ty.intVal_eq, b.ty.intVal_eq, grow_eq, grow_eq]⟩

/-- Settles O1: each result is the exact integer of its operands, wrapped or saturated to the type. -/
theorem integerArithmeticCompletes : Obligations.IntegerArithmeticCompletes := ⟨integerSumsComplete, integerProductsComplete⟩

end Sys2Proof

/-! PROOFS. Division, logic, shifts and bit fields (spec/07 R160 to R163), on the low bits of their operands. -/

namespace Sys2Proof

open Machine Claims

/-! ### Division (07 R161) -/

theorem valueOf_eq_zero (g : Bool) {w : Nat} (q : BitVec w) : valueOf g q = 0 ↔ q = 0 := by
  cases g
  · simp [valueOf, BitVec.toNat_eq]
  · simp [valueOf, ← BitVec.toInt_inj]

theorem ofInt_neg_one (w : Nat) : BitVec.ofInt w (-1) = BitVec.allOnes w := by
  rw [BitVec.ofInt_neg, ← BitVec.neg_one_eq_allOnes]
  rfl

/-- The exact quotient, toward zero, as bits. -/
theorem ofInt_tdiv (g : Bool) {w : Nat} (p q : BitVec w) :
    BitVec.ofInt w ((valueOf g p).tdiv (valueOf g q)) = if g then p.sdiv q else p / q := by
  cases g
  · refine BitVec.eq_of_toNat_eq ?_
    simp only [valueOf, Bool.false_eq_true, if_false, ← Int.ofNat_tdiv, BitVec.ofInt_natCast, BitVec.toNat_ofNat, BitVec.toNat_udiv]
    exact Nat.mod_eq_of_lt ((Nat.div_le_self ..).trans_lt p.isLt)
  · refine BitVec.eq_of_toInt_eq ?_
    simp [valueOf, BitVec.toInt_ofInt, BitVec.toInt_sdiv]

/-- The exact remainder, as bits. -/
theorem ofInt_tmod (g : Bool) {w : Nat} (p q : BitVec w) :
    BitVec.ofInt w ((valueOf g p).tmod (valueOf g q)) = p - q * if g then p.sdiv q else p / q := by
  rw [Int.tmod_def, sub_eq_add_neg, BitVec.ofInt_add, BitVec.ofInt_neg, BitVec.ofInt_mul, ofInt_tdiv, ofInt_valueOf, ofInt_valueOf,
    BitVec.sub_eq_add_neg]

/-- The remainder of the division by −1 is 0. -/
theorem ofInt_tmod_allOnes {w : Nat} (h : 0 < w) (p : BitVec w) :
    BitVec.ofInt w ((valueOf true p).tmod (valueOf true (BitVec.allOnes w))) = 0 := by
  simp [valueOf, BitVec.toInt_allOnes, h, Int.tmod_neg, Int.tmod_one]

/-- Settles O2: the model divides the operands' integers, and a quotient out of range wraps. -/
theorem divisionCompletes : Obligations.DivisionCompletes := fun b => by
  refine ⟨fun i hi hw => ?_, computes_low (fun _ => rfl) fun _ x => ?_, computes_low (fun _ => rfl) fun _ x => ?_⟩
  · rcases List.mem_pair.mp hi with rfl | rfl <;> exact intFn0_iff.mp (Form.tyFn_of_wellFormed hw rfl)
  · rw [divResult, b.ty.intVal_eq, b.ty.intVal_eq]
    simp only [valueOf_eq_zero]
    split_ifs with h0 hs
    · rw [low_wrap, ofInt_neg_one]
    · rw [low_wrap, ofInt_tdiv, if_pos hs]
    · rw [low_wrap, ofInt_tdiv, if_neg hs]
  · rw [remResult, b.ty.intVal_eq, b.ty.intVal_eq]
    simp only [valueOf_eq_zero]
    split_ifs with h0 hs
    · rw [low_wrap, ofInt_valueOf]
    · obtain ⟨⟨hg, -⟩, hq⟩ : (b.ty.isSigned = true ∧ _) ∧ low b.ty x.b = _ := by simpa using hs
      rw [low_wrap, hg, hq, ofInt_tmod_allOnes b.ty.bits_pos]
    · rw [low_wrap, ofInt_tmod, if_pos ‹_›]
    · rw [low_wrap, ofInt_tmod, if_neg ‹_›]

/-! ### Logic (07 R160) -/

theorem low_wrap_toNat (t : Ty) (x : DWord) : low t (t.wrap x.toNat) = low t x := by
  rw [low_wrap, BitVec.ofInt_natCast, BitVec.ofNat_toNat]
  rfl

theorem logicCompletes : Claims.LogicCompletes := fun b =>
  ⟨computes_low (fun _ => rfl) fun _ _ => (low_wrap_toNat ..).trans BitVec.setWidth_and,
   computes_low (fun _ => rfl) fun _ _ => (low_wrap_toNat ..).trans BitVec.setWidth_or,
   computes_low (fun _ => rfl) fun _ _ => (low_wrap_toNat ..).trans BitVec.setWidth_xor,
   computes_low (fun _ => rfl) fun _ _ => (low_wrap_toNat ..).trans (BitVec.setWidth_not b.ty.bits_le)⟩

/-! ### Shifts (07 R160) -/

theorem low_wrap_nat (t : Ty) (n : Nat) : low t (t.wrap (n : Int)) = BitVec.ofNat t.bits n := by
  rw [low_wrap, BitVec.ofInt_natCast]

@[simp] theorem low_zero (t : Ty) : low t 0 = 0#t.bits := by simp [low]

theorem ofNat_shiftLeft {w : Nat} (v : BitVec w) (n : Nat) : BitVec.ofNat w (v.toNat * 2 ^ n) = v <<< n := by
  refine BitVec.eq_of_toNat_eq ?_
  rw [BitVec.toNat_ofNat, BitVec.toNat_shiftLeft, Nat.shiftLeft_eq]

theorem ofNat_ushiftRight {w : Nat} (v : BitVec w) (n : Nat) : BitVec.ofNat w (v.toNat / 2 ^ n) = v >>> n := by
  refine BitVec.eq_of_toNat_eq ?_
  rw [BitVec.toNat_ofNat, BitVec.toNat_ushiftRight, Nat.shiftRight_eq_div_pow, Nat.mod_eq_of_lt ((Nat.div_le_self ..).trans_lt v.isLt)]

/-- An arithmetic shift by the width or more gives the sign, as a shift by the width less one does. -/
theorem toInt_ediv_two_pow {w : Nat} (v : BitVec w) (n : Nat) :
    v.toInt / 2 ^ Nat.min n (w - 1) = v.toInt / 2 ^ n := by
  rcases Nat.le_total n (w - 1) with h | h
  · rw [show Nat.min n (w - 1) = n from Nat.min_eq_left h]
  · rw [show Nat.min n (w - 1) = w - 1 from Nat.min_eq_right h]
    have hp : (2 : Int) ^ (w - 1) ≤ 2 ^ n := by exact_mod_cast Nat.pow_le_pow_right two_pos h
    have hlo : -2 ^ (w - 1) ≤ v.toInt := BitVec.le_toInt v
    have hhi : v.toInt < 2 ^ (w - 1) := BitVec.toInt_lt
    rcases le_or_gt 0 v.toInt with h0 | h0
    · rw [Int.ediv_eq_zero_of_lt h0 hhi, Int.ediv_eq_zero_of_lt h0 (hhi.trans_le hp)]
    · rw [Int.ediv_eq_neg_one_of_neg_of_le h0 (by omega), Int.ediv_eq_neg_one_of_neg_of_le h0 (by omega)]

theorem ofInt_sshiftRight {w : Nat} (v : BitVec w) (n : Nat) : BitVec.ofInt w (v.toInt / 2 ^ n) = v.sshiftRight n := by
  rw [BitVec.sshiftRight_eq, Int.shiftRight_eq_div_pow]
  push_cast
  rfl

/-- The halves of a rotation do not overlap. -/
theorem rotate_add {w k u : Nat} (hk : k ≤ w) (hu : u < 2 ^ w) :
    u * 2 ^ k % 2 ^ w + u / 2 ^ (w - k) = u <<< k % 2 ^ w ||| u >>> (w - k) := by
  have hw : 2 ^ w = 2 ^ (w - k) * 2 ^ k := by rw [← pow_add, Nat.sub_add_cancel hk]
  have hlt : u / 2 ^ (w - k) < 2 ^ k := by
    rw [Nat.div_lt_iff_lt_mul (by positivity)]
    rwa [mul_comm, ← hw]
  rw [Nat.shiftLeft_eq, Nat.shiftRight_eq_div_pow, hw, Nat.mul_mod_mul_right, ← Nat.shiftLeft_eq, Nat.shiftLeft_add_eq_or_of_lt hlt]

theorem shiftsComplete : Claims.ShiftsComplete := fun b => by
  have hpos := b.ty.bits_pos
  refine ⟨computes_low (fun _ => rfl) fun _ x => ?_, computes_low (fun _ => rfl) fun _ x => ?_, computes_low (fun _ => rfl) fun _ x => ?_,
    computes_low (fun _ => rfl) fun _ x => ?_⟩
  · unfold shlResult
    split_ifs with h
    · rw [BitVec.shiftLeft_eq_zero h, low_zero]
    · rw [low_wrap_nat, rawBits_eq, ofNat_shiftLeft]
  · unfold shrResult
    split_ifs with hs h
    · rw [low_wrap, b.ty.intVal_eq, hs, valueOf, if_pos rfl, toInt_ediv_two_pow, ofInt_sshiftRight]
    · rw [BitVec.ushiftRight_eq_zero h, low_zero]
    · rw [low_wrap_nat, rawBits_eq, ofNat_ushiftRight]
  · have hu := (low b.ty x.a).isLt
    have hn : x.b.toNat % b.ty.bits < b.ty.bits := Nat.mod_lt _ hpos
    rw [rotResult, rawBits_eq, low_wrap_nat]
    simp only [beq_iff_eq]
    refine BitVec.eq_of_toNat_eq ?_
    split_ifs with hf
    · rw [rotate_add hn.le hu, ← BitVec.toNat_rotateLeft, BitVec.ofNat_toNat, BitVec.setWidth_eq]
    · rw [BitVec.toNat_rotateRight]
      rcases Nat.eq_zero_or_pos (x.b.toNat % b.ty.bits) with h0 | h0
      · have := Nat.mod_eq_of_lt hu
        simp [h0, Nat.shiftLeft_eq, this, Nat.div_eq_of_lt hu]
      · have hsub : b.ty.bits - (b.ty.bits - x.b.toNat % b.ty.bits) = x.b.toNat % b.ty.bits := by omega
        rw [Nat.mod_eq_of_lt (show b.ty.bits - x.b.toNat % b.ty.bits < b.ty.bits by omega), rotate_add (Nat.sub_le ..) hu, hsub,
          Nat.or_comm, ← BitVec.toNat_rotateRight, BitVec.ofNat_toNat, BitVec.setWidth_eq]
  · have hp : rawBits b.ty x.a * 2 ^ b.ty.bits + rawBits b.ty x.b = (low b.ty x.a ++ low b.ty x.b).toNat := by
      rw [BitVec.toNat_append, rawBits_eq, rawBits_eq, ← Nat.shiftLeft_add_eq_or_of_lt (low b.ty x.b).isLt, Nat.shiftLeft_eq]
    simp only [fshfResult, hp, beq_iff_eq]
    rw [low_wrap_nat]
    split_ifs with hf
    · rw [← ofNat_shiftLeft, ← BitVec.ofInt_natCast (_ + _), extractLsb'_ofInt _ _ _ le_rfl, ← BitVec.ofInt_natCast]
      push_cast
      rfl
    · rw [← ofNat_ushiftRight, BitVec.setWidth_ofNat_of_le (by omega)]

/-- Settles O3: logic acts on the low bits, and each shift is a product or a quotient by a power of two. -/
theorem logicAndShiftsComplete : Obligations.LogicAndShiftsComplete := ⟨logicCompletes, shiftsComplete⟩

/-! ### Counts and bit fields (07 R160, R162, R163) -/

theorem low_getLsbD (t : Ty) (x : DWord) {i : Nat} (h : i < t.bits) : (low t x).getLsbD i = x.getLsbD i := by simp [low, h]

theorem cpopNatRec_eq {w : Nat} (v : BitVec w) (n acc : Nat) :
    v.cpopNatRec n acc = acc + ((List.range n).filter fun i => v.getLsbD i).length := by
  induction n generalizing acc with
  | zero => simp
  | succ n ih =>
    rw [BitVec.cpopNatRec_succ, ih, List.range_succ, List.filter_append, List.length_append]
    cases h : v.getLsbD n
    · simp [h]
    · simp [h]
      omega

theorem popcResult_eq (b : Base) (x : Operands) : popcResult b x = (low b.ty x.a).cpop.setWidth 64 := by
  refine BitVec.eq_of_toNat_eq ?_
  have h : (List.range b.ty.bits).filter (fun i => x.a.getLsbD i) = (List.range b.ty.bits).filter fun i => (low b.ty x.a).getLsbD i :=
    List.filter_congr fun i hi => (low_getLsbD b.ty x.a (List.mem_range.mp hi)).symm
  rw [popcResult, h, BitVec.toNat_setWidth, BitVec.toNat_cpop, cpopNatRec_eq, BitVec.toNat_ofNat, Nat.zero_add]

theorem clzResult_eq (b : Base) (x : Operands) : clzResult b x = (low b.ty x.a).clz.setWidth 64 := by
  refine BitVec.eq_of_toNat_eq ?_
  rw [clzResult, rawBits_eq, BitVec.toNat_ofNat, BitVec.toNat_setWidth]
  congr 1
  by_cases h : low b.ty x.a = 0#b.ty.bits
  · rw [BitVec.clz_eq_iff_eq_zero.mpr h, h]
    exact (Nat.mod_eq_of_lt Nat.lt_two_pow_self).symm
  · have h0 : (low b.ty x.a).toNat ≠ 0 := fun h0 => h (BitVec.eq_of_toNat_eq (by simpa using h0))
    have hlt := BitVec.toNat_lt_two_pow_sub_clz (x := low b.ty x.a)
    have hle := BitVec.two_pow_sub_clz_le_toNat_of_ne_zero b.ty.bits_pos h
    have hc : (low b.ty x.a).clz.toNat < b.ty.bits := by
      have := BitVec.lt_def.mp (BitVec.clz_lt_iff_ne_zero.mpr h)
      simpa using this
    rw [if_neg h0, (Nat.log2_eq_iff h0).mpr ⟨hle, hlt.trans_le (Nat.pow_le_pow_right two_pos (by omega))⟩]
    omega

/-- The bits that the reversal has gathered after `n` steps. -/
theorem testBit_reversal (x : DWord) (n i : Nat) :
    ((List.range n).foldl (fun r i => 2 * r + (if x.getLsbD i then 1 else 0)) 0).testBit i = (decide (i < n) && x.getLsbD (n - 1 - i)) := by
  induction n generalizing i with
  | zero => simp
  | succ n ih =>
    rw [List.range_succ, List.foldl_append, List.foldl_cons, List.foldl_nil]
    cases i with
    | zero => cases h : x.getLsbD n <;> simp [h]
    | succ i =>
      rw [Nat.testBit_succ]
      have : n + 1 - 1 - (i + 1) = n - 1 - i := by omega
      rw [this, ← Nat.succ_eq_add_one, show (decide (i.succ < n + 1)) = decide (i < n) by simp, ← ih]
      congr 1
      split_ifs <;> omega

theorem low_ofNat (t : Ty) (n : Nat) : low t (BitVec.ofNat 64 n) = BitVec.ofNat t.bits n := BitVec.setWidth_ofNat_of_le t.bits_le n

theorem low_brevResult (b : Base) (x : Operands) : low b.ty (brevResult b x) = (low b.ty x.a).reverse := by
  refine BitVec.eq_of_getLsbD_eq fun i hi => ?_
  rw [brevResult, low_ofNat, BitVec.getLsbD_ofNat, testBit_reversal, BitVec.getLsbD_reverse, BitVec.getMsbD_eq_getLsbD,
    low_getLsbD _ _ (by omega)]
  simp [hi]

theorem getLsbD_fieldMask {w i : Nat} (pos len : Nat) (h : i < w) :
    (fieldMask w pos len).getLsbD i = (!decide (i < pos) && decide (i < pos + len)) := by
  have h1 : i - pos < w := by omega
  have h2 : i - (pos + len) < w := by omega
  simp only [fieldMask, BitVec.getLsbD_and, BitVec.getLsbD_shiftLeft, BitVec.getLsbD_not, BitVec.getLsbD_allOnes, h, h1, h2]
  cases decide (i < pos) <;> simp

theorem byte_eq (n : Nat) (x : DWord) : (x.extractLsb' (8 * n) 8).toNat = bitsOf x.toNat (8 * n + 7) (8 * n) := by
  rw [BitVec.extractLsb'_toNat, Nat.shiftRight_eq_div_pow, bitsOf]
  congr 2
  omega

/-- A bit below place `n` depends on the integer modulo 2^n alone. -/
theorem bit_congr {n i : Nat} {y z : Int} (h : y % 2 ^ n = z % 2 ^ n) (hi : i < n) : y / 2 ^ i % 2 = 1 ↔ z / 2 ^ i % 2 = 1 := by
  have hyz : BitVec.ofInt n y = BitVec.ofInt n z := BitVec.eq_of_toNat_eq (by simp [BitVec.toNat_ofInt, h])
  have := congrArg (·.getLsbD i) hyz
  simpa [getLsbD_ofInt _ _ hi] using this

/-- The highest bit of a field says whether its value is in the upper half. -/
theorem two_pow_le_emod {n : Nat} (z : Int) (h : n ≠ 0) : 2 ^ (n - 1) ≤ z % 2 ^ n ↔ z / 2 ^ (n - 1) % 2 = 1 := by
  have hn : (2 : Int) ^ n = 2 ^ (n - 1) * 2 := by rw [← pow_succ, Nat.sub_add_cancel (Nat.pos_of_ne_zero h)]
  have hp : (0 : Int) < 2 ^ (n - 1) := by positivity
  have h0 : 0 ≤ z % 2 ^ n := Int.emod_nonneg z (by positivity)
  have h1 : z % 2 ^ n < 2 ^ n := Int.emod_lt_of_pos z (by positivity)
  rw [← bit_congr (Int.emod_emod_of_dvd z (dvd_refl (2 ^ n))) (Nat.sub_lt (Nat.pos_of_ne_zero h) one_pos)]
  rcases lt_or_ge (z % 2 ^ n) (2 ^ (n - 1)) with hc | hc
  · simp [Int.ediv_eq_zero_of_lt h0 hc, not_le.mpr hc]
  · have : z % 2 ^ n / 2 ^ (n - 1) = 1 := by
      rw [Int.ediv_eq_iff_of_pos hp]
      omega
    simp [this, hc]

/-- The bits of a field taken out of an integer, extended by ones or by zeros. -/
theorem ofInt_field (w : Nat) (top : Bool) (z : Int) (len : Nat) :
    BitVec.ofInt w (if top then z % 2 ^ len - 2 ^ len else z % 2 ^ len) =
      (BitVec.ofInt w z &&& fieldMask w 0 len) ||| (if top then ~~~fieldMask w 0 len else 0) := by
  have h0 : 0 ≤ z % 2 ^ len := Int.emod_nonneg z (by positivity)
  have h1 : z % 2 ^ len < 2 ^ len := Int.emod_lt_of_pos z (by positivity)
  refine BitVec.eq_of_getLsbD_eq fun i hi => ?_
  have hm := getLsbD_fieldMask 0 len hi
  have hz : (0 : BitVec w).getLsbD i = false := BitVec.getLsbD_zero
  rw [getLsbD_ofInt _ _ hi, BitVec.getLsbD_or, BitVec.getLsbD_and, getLsbD_ofInt _ _ hi, hm]
  rcases Nat.lt_or_ge i len with h | h
  · cases top
    · simp [h, bit_congr (Int.emod_emod_of_dvd z (dvd_refl (2 ^ len))) h]
    · have : (z % 2 ^ len - 2 ^ len) % 2 ^ len = z % 2 ^ len := by simp
      simp [h, bit_congr this h, hm]
  · have hp : (2 : Int) ^ len ≤ 2 ^ i := by exact_mod_cast Nat.pow_le_pow_right two_pos h
    cases top
    · simp [Nat.not_lt.mpr h, Int.ediv_eq_zero_of_lt h0 (h1.trans_le hp)]
    · have hn : (~~~fieldMask w 0 len).getLsbD i = true := by rw [BitVec.getLsbD_not, hm]; simp [hi, Nat.not_lt.mpr h]
      rw [if_pos rfl, if_pos rfl, hn, Bool.or_true, Int.ediv_eq_neg_one_of_neg_of_le (by omega) (by omega)]
      rfl

/-- A field as wide as the value leaves nothing to extend. -/
theorem not_fieldMask {w len : Nat} (h : w ≤ len) : ~~~fieldMask w 0 len = 0 := by
  refine BitVec.eq_of_getLsbD_eq fun i hi => ?_
  simp [hi, getLsbD_fieldMask 0 len hi, hi.trans_le h]

theorem low_bfeResult (b : Base) (x : Operands) :
    low b.ty (bfeResult b x) =
      let pos := (x.b.extractLsb' (8 * 0) 8).toNat
      let len := (x.b.extractLsb' (8 * 1) 8).toNat
      let v := if b.ty.isSigned then (low b.ty x.a).sshiftRight pos else low b.ty x.a >>> pos
      let top := b.ty.isSigned && len != 0 && v.getLsbD (len - 1)
      (v &&& fieldMask b.ty.bits 0 len) ||| (if top then ~~~fieldMask b.ty.bits 0 len else 0) := by
  rw [byte_eq, byte_eq]
  simp only [bfeResult, low_wrap]
  generalize bitsOf x.b.toNat (8 * 0 + 7) (8 * 0) = pos
  generalize bitsOf x.b.toNat (8 * 1 + 7) (8 * 1) = len
  have hv : (if b.ty.isSigned then (low b.ty x.a).sshiftRight pos else low b.ty x.a >>> pos) =
      BitVec.ofInt b.ty.bits (b.ty.intVal x.a / 2 ^ pos) := by
    rw [b.ty.intVal_eq]
    cases b.ty.isSigned
    · rw [if_neg (by decide), valueOf, if_neg (by decide), ← ofNat_ushiftRight, ← BitVec.ofInt_natCast]
      push_cast
      rfl
    · exact (ofInt_sshiftRight ..).symm
  rw [hv, ofInt_field]
  rcases Nat.lt_or_ge b.ty.bits len with h | h
  · simp [not_fieldMask h.le]
  · cases len with
    | zero => simp
    | succ n =>
      have htop := two_pow_le_emod (b.ty.intVal x.a / 2 ^ pos) n.succ_ne_zero
      simp only [Nat.succ_eq_add_one, Nat.add_sub_cancel] at htop
      rw [Nat.add_sub_cancel, getLsbD_ofInt _ _ h, decide_eq_decide.mpr htop]

/-- The bits of a number with a field put in at place `pos`, below place `top`. -/
theorem testBit_insert (a f : Nat) {pos top : Nat} (h : pos ≤ top) (i : Nat) :
    (a / 2 ^ top * 2 ^ top + f % 2 ^ (top - pos) * 2 ^ pos + a % 2 ^ pos).testBit i =
      if !decide (i < pos) && decide (i < top) then f.testBit (i - pos) else a.testBit i := by
  have hsplit : a / 2 ^ top * 2 ^ top + f % 2 ^ (top - pos) * 2 ^ pos + a % 2 ^ pos =
      2 ^ pos * (2 ^ (top - pos) * (a / 2 ^ top) + f % 2 ^ (top - pos)) + a % 2 ^ pos := by
    rw [Nat.mul_add, ← Nat.mul_assoc, ← pow_add, Nat.add_sub_cancel' h]
    ring
  rw [hsplit, Nat.testBit_two_pow_mul_add _ (Nat.mod_lt _ (by positivity)), Nat.testBit_two_pow_mul_add _ (Nat.mod_lt _ (by positivity)),
    Nat.testBit_mod_two_pow, Nat.testBit_mod_two_pow, Nat.testBit_div_two_pow]
  by_cases h1 : i < pos
  · simp [h1]
  · by_cases h2 : i < top
    · simp [h1, h2, show i - pos < top - pos by omega]
    · simp [h1, h2, show ¬i - pos < top - pos by omega, show i - pos - (top - pos) + top = i by omega]

theorem low_bfiResult (b : Base) (x : Operands) :
    low b.ty (bfiResult b x) =
      let pos := (x.c.extractLsb' (8 * 0) 8).toNat
      let m := fieldMask b.ty.bits pos (x.c.extractLsb' (8 * 1) 8).toNat
      (low b.ty x.a &&& ~~~m) ||| ((low b.ty x.b <<< pos) &&& m) := by
  rw [byte_eq, byte_eq]
  simp only [bfiResult, rawBits_eq]
  generalize bitsOf x.c.toNat (8 * 0 + 7) (8 * 0) = pos
  generalize bitsOf x.c.toNat (8 * 1 + 7) (8 * 1) = len
  generalize low b.ty x.a = p
  generalize low b.ty x.b = q
  refine BitVec.eq_of_getLsbD_eq fun i hi => ?_
  rw [BitVec.getLsbD_or, BitVec.getLsbD_and, BitVec.getLsbD_and, BitVec.getLsbD_not, BitVec.getLsbD_shiftLeft, getLsbD_fieldMask _ _ hi]
  split_ifs with h
  · have hm : (!decide (i < pos) && decide (i < pos + len)) = false := by
      simp only [Bool.or_eq_true, decide_eq_true_eq] at h
      simp
      omega
    rw [low_wrap_nat, BitVec.ofNat_toNat, BitVec.setWidth_eq, hm]
    simp [hi]
  · simp only [Bool.or_eq_true, decide_eq_true_eq, not_or, not_le] at h
    obtain ⟨-, hpos⟩ := h
    have htop : decide (i < Nat.min (pos + len) b.ty.bits) = decide (i < pos + len) :=
      decide_eq_decide.mpr ⟨fun h => h.trans_le (Nat.min_le_left ..), fun h => Nat.lt_min.mpr ⟨h, hi⟩⟩
    rw [low_wrap_nat, BitVec.getLsbD_ofNat, testBit_insert _ _ (Nat.le_min.mpr ⟨Nat.le_add_right .., hpos.le⟩), htop]
    simp only [BitVec.testBit_toNat, hi]
    cases decide (i < pos) <;> cases decide (i < pos + len) <;> simp

/-- One of the eight terms of a truth table over three bits. -/
theorem getLsbD_term (t : Word) (x y d : DWord) (i j : Nat) (hi : i < 64) :
    (if t.getLsbD j then (if j % 2 == 1 then x else ~~~x) &&& (if j / 2 % 2 == 1 then y else ~~~y) &&& (if j / 4 == 1 then d else ~~~d)
      else 0).getLsbD i =
      (t.getLsbD j && (x.getLsbD i == (j % 2 == 1)) && (y.getLsbD i == (j / 2 % 2 == 1)) && (d.getLsbD i == (j / 4 == 1))) := by
  cases t.getLsbD j <;> cases j % 2 == 1 <;> cases j / 2 % 2 == 1 <;> cases j / 4 == 1 <;> simp [hi]

theorem low_lop3Result (b : Base) (d : DWord) (x : Operands) :
    low b.ty (lop3Result b d x) =
      let bit := fun (v : BitVec b.ty.bits) i => if v.getLsbD i then 1 else 0
      BitVec.ofFnLE fun i : Fin b.ty.bits =>
        (b.litWord .ext 2 b.c).getLsbD (bit (low b.ty x.a) i + 2 * bit (low b.ty x.b) i + 4 * bit (low b.ty d) i) := by
  refine BitVec.eq_of_getLsbD_eq fun i hi => ?_
  have hi' := hi.trans_le b.ty.bits_le
  rw [lop3Result, low_wrap_toNat, low_getLsbD _ _ hi, BitVec.getLsbD_ofFnLE]
  simp only [hi, dif_pos, low_getLsbD]
  simp only [show List.range 8 = [0, 1, 2, 3, 4, 5, 6, 7] from rfl, List.foldl_cons, List.foldl_nil, BitVec.getLsbD_or, getLsbD_term _ _ _ _ _ _ hi']
  cases x.a.getLsbD i <;> cases x.b.getLsbD i <;> cases d.getLsbD i <;> simp

/-- Settles O4: each count, field and truth table is compared bit by bit. -/
theorem bitFieldsComplete : Obligations.BitFieldsComplete := fun b => by
  refine ⟨computes_of_runResult (fun _ => rfl) fun _ l x => ?_, computes_of_runResult (fun _ => rfl) fun _ l x => ?_,
    computes_low (fun _ => rfl) fun _ x => low_brevResult b x, computes_low (fun _ => rfl) fun _ x => low_bfeResult b x,
    computes_low (fun _ => rfl) fun _ x => low_bfiResult b x, computesWhen_of_runAlu (fun _ => rfl) nofun fun _ s l x => ?_⟩
  · rw [← popcResult_eq]; rfl
  · rw [← clzResult_eq]; rfl
  · rw [dstWrites_wide, low_lop3Result]

end Sys2Proof

/-! PROOFS. Moves, byte sums, comparisons, carries and predicates (spec/07 R160, R164 to R166, R169). -/

namespace Sys2Proof

open Machine Claims

/-! ### Moves (07 R160) -/

theorem low_movResult (b : Base) (x : Operands) : low b.ty (movResult b x) = low b.ty x.a := by
  rw [movResult, low_ofNat, rawBits_eq, BitVec.ofNat_toNat, BitVec.setWidth_eq]

theorem low_moviResult (b : Base) (lead : Bool) (l : Nat) (x : Operands) :
    low b.ty (moviResult b lead l x) =
      if lead then low b.ty x.a else low b.ty x.a + BitVec.ofNat _ l * low b.ty x.b := by
  cases lead
  · simp [moviResult, low_wrap, BitVec.ofInt_add, BitVec.ofInt_mul, b.ty.intVal_eq, BitVec.ofInt_natCast]
  · simp [moviResult, low_movResult]

theorem ofInt_mul_two_pow (w : Nat) (z : Int) (n : Nat) : BitVec.ofInt w (z * 2 ^ n) = BitVec.ofInt w z <<< n := by
  rw [← ofNat_shiftLeft, ← BitVec.ofInt_natCast]
  push_cast
  rw [BitVec.ofInt_mul, BitVec.ofInt_mul]
  congr 1
  rw [BitVec.ofInt_natCast, BitVec.ofNat_toNat, BitVec.setWidth_eq]

theorem moveFormsComplete : Claims.MovesComplete := fun b =>
  ⟨computes_low (fun _ => rfl) fun _ x => low_movResult b x,
   computesWhen_of_runAlu (fun _ => rfl) (fun _ _ h => h) fun _ s l x => dstWrites_wide ..,
   computesWhen_of_runAlu (fun _ => rfl) (fun _ _ h => h) fun _ s l x => by rw [dstWrites_wide, low_moviResult],
   computes_of_runResult (fun _ => rfl) fun _ l x => by
     rw [leaResult, ofInt_mul_two_pow, b.ty.intVal_eq, ← grow_eq]
     rfl⟩

/-! ### Byte sums (07 R160) -/

theorem byteOf_eq (t : Ty) (x : DWord) (j : Nat) : byteOf t x j = valueOf t.isSigned (x.extractLsb' (8 * j) 8) := by
  have h : x.toNat / 2 ^ (8 * j) % 256 = (x.extractLsb' (8 * j) 8).toNat := by
    rw [BitVec.extractLsb'_toNat, Nat.shiftRight_eq_div_pow]
  rw [byteOf, h]
  cases t.isSigned
  · rfl
  · simp only [Bool.true_and, valueOf, if_true, BitVec.toInt_eq_toNat_cond, decide_eq_true_eq]
    split_ifs <;> omega

/-- A result of 32 bits goes to its register as it is. -/
theorem dstWrites_of_bits32 {t : Ty} (h : t.bits = 32) (b : Base) (l : Nat) (v : DWord) :
    dstWrites b l t v = regWrites b l b.dst.toNat t.is64 v := by
  cases t
  case i32 | n32 | f32 | pair => rfl
  all_goals exact absurd h (by decide)

/-- A sum of four terms with C, in 32 bits, as it goes to its register. -/
theorem dstWrites_sum {t : Ty} (h : t.bits = 32) (b : Base) (l : Nat) (c : DWord) {f g : Nat → Int} (hfg : ∀ j, f j = g j) :
    dstWrites b l t (t.wrap (t.intVal c + ((List.range 4).map f).sum)) =
      regWrites b l b.dst.toNat t.is64 (((c.setWidth 32 : Word) + BitVec.ofInt 32 (g 0 + g 1 + g 2 + g 3)).setWidth 64) := by
  have hsum : ((List.range 4).map f).sum = g 0 + g 1 + g 2 + g 3 := by
    simp [List.range_succ, hfg, add_assoc]
  have h64 : t.is64 = false := by simp [Ty.is64, h]
  rw [dstWrites_of_bits32 h, hsum, h64]
  simp only [regWrites, Bool.false_eq_true, if_false, loWord]
  rw [setWidth_wrap h, BitVec.ofInt_add, ofInt_intVal h, BitVec.setWidth_setWidth_of_le _ (by decide), BitVec.setWidth_eq]

theorem byteSumsComplete : Claims.ByteSumsComplete := fun b =>
  have h32 {t : Ty} (h : (t == .i32 || t == .n32) = true) : t.bits = 32 := by revert h; cases t <;> decide
  have hn32 {t : Ty} (h : (t == .n32) = true) : t.bits = 32 := by revert h; cases t <;> decide
  have hty {i : Instr} {p q : Bool} (h : i.WellFormed → (p && q) = true) (hw : i.WellFormed) : p = true := (Bool.and_eq_true_iff.mp (h hw)).1
  ⟨computes_of_runResult (fun _ => rfl) fun hw l x =>
     dstWrites_sum (g := fun j => valueOf b.ty.isSigned (x.a.extractLsb' (8 * j) 8) * valueOf b.ty.isSigned (x.b.extractLsb' (8 * j) 8))
       (h32 (hty (fun hw => Form.tyFn_of_wellFormed hw rfl) hw)) b l x.c fun j => by rw [byteOf_eq, byteOf_eq],
   computes_of_runResult (fun _ => rfl) fun hw l x =>
     dstWrites_sum (g := fun j => (((x.a.extractLsb' (8 * j) 8).toNat : Int) - (x.b.extractLsb' (8 * j) 8).toNat).natAbs)
       (hn32 (hty (fun hw => Form.tyFn_of_wellFormed hw rfl) hw)) b l x.c fun j => by rw [byteOf_eq, byteOf_eq]; rfl⟩

/-- Settles O5: each result is compared on its low bits. -/
theorem movesComplete : Obligations.MovesComplete := ⟨moveFormsComplete, byteSumsComplete⟩

/-! ### Comparisons (07 R164, R169) -/

theorem intCond_eq {fn : BitVec 3} (h : fn.toNat ≤ 5) (p q : Operands → Int) (x : Operands) : intCond fn (p x) (q x) = intTest fn p q x := by
  unfold intCond intTest
  generalize fn.toNat = n at h
  interval_cases n <;> simp [beq_eq_decide, bne]

theorem FVal.totalLt_asymm {p q : FVal} (h : p.totalLt q = true) : q.totalLt p = false := by
  rcases p with _ | (_ | _) | (_ | _) | ⟨a, c⟩ <;> rcases q with _ | (_ | _) | (_ | _) | ⟨b, d⟩ <;> simp_all [FVal.totalLt] <;> exact le_of_lt h

theorem FVal.lt_asymm {p q : FVal} (h : p.lt q = true) : q.lt p = false := by
  cases p <;> cases q <;> simp_all [FVal.lt, FVal.isNan] <;> exact FVal.totalLt_asymm h

theorem floatCond_eq (fn : BitVec 3) (p q : FVal) : floatCond fn p q = floatTest fn p q := by
  have h1 := @FVal.lt_asymm p q
  have h2 := @FVal.lt_asymm q p
  have hp : p.lt q = true → p.isNan = false ∧ q.isNan = false := fun h => by simp [FVal.lt] at h; exact h.1
  have hq : q.lt p = true → q.isNan = false ∧ p.isNan = false := fun h => by simp [FVal.lt] at h; exact h.1
  unfold floatCond floatTest FVal.eq
  have h8 := fn.isLt
  generalize fn.toNat = n at h8
  generalize p.lt q = u at *
  generalize q.lt p = v at *
  generalize p.isNan = a at *
  generalize q.isNan = c at *
  interval_cases n <;> revert a c u v <;> decide

theorem intCompare_eq {b : Base} (h : b.fn.toNat ≤ 5) (x : Operands) :
    intCompare b x =
      intTest b.fn (fun x => valueOf b.ty.isSigned (low b.ty x.a)) (fun x => valueOf b.ty.isSigned (low b.ty x.b)) x := by
  rw [← intCond_eq h, intCompare, b.ty.intVal_eq, b.ty.intVal_eq]

theorem fn_le_of_compare {b : Base} (h : (b.ty.isInt && decide (b.fn.toNat ≤ 5)) = true) : b.fn.toNat ≤ 5 := by
  simp only [Bool.and_eq_true, decide_eq_true_eq] at h
  exact h.2

/-- A comparison into a predicate completes in each acting lane. -/
theorem computesWhen_of_runCompare {i : Instr} {b : Base} {test test' : Operands → Bool}
    (hexec : ∀ s, exec i s = runCompare (formOf i) b test s) (ht : i.WellFormed → ∀ x, test x = test' x) :
    ComputesWhen i b (fun _ => b.dk ≠ .scl) fun _ l x => predWrite l b.dst.toNat (test' x) := fun s s1 outs hw hc hd ha => by
  have hk : b.dk = .vec := by cases hk : b.dk <;> simp_all
  rw [hexec, show test = test' from funext (ht hw)]
  refine runGroup_completes hc ((M.bind_run (M.get_run s)).trans ?_) rfl
  simp only [hk]
  rw [State.doers_vec hk] at ha
  exact eachLane_of_doAll ha

theorem comparisonsComplete : Claims.ComparesComplete := fun b =>
  ⟨computesWhen_of_runCompare (fun _ => rfl) fun hw x => intCompare_eq (fn_le_of_compare (Form.tyFn_of_wellFormed hw rfl)) x,
   computesWhen_of_runCompare (fun _ => rfl) fun _ x => floatCond_eq ..,
   computes_of_runResult (fun _ => rfl) fun hw l x => by
     rw [intCompare_eq (fn_le_of_compare (Form.tyFn_of_wellFormed hw rfl))]
     rfl,
   computes_of_runResult (fun _ => rfl) fun _ l x => by
     rw [floatCompare, floatCond_eq]
     rfl⟩

/-- What is collected under a function of each answer. -/
theorem collect_map {α β : Type} {g : Nat → M α} (k : Nat → α → β) : ∀ {ls : List Nat} {s t : State} {xs : List (Nat × α)},
    collect ls (fun l => do
      let x ← g l
      pure (l, x)) s = .ok (xs, t) →
    collect ls (fun l => do
      let x ← g l
      pure (k l x)) s = .ok (xs.map fun x => k x.1 x.2, t)
  | [], _, _, _, h => by cases h; rfl
  | l :: ls, _, _, _, h => by
    obtain ⟨y, s1, hy, h⟩ := (M.bind_ok ..).1 h
    obtain ⟨ys, s2, hys, h⟩ := (M.bind_ok ..).1 h
    obtain ⟨x, s3, hx, hxy⟩ := (M.bind_ok ..).1 hy
    cases hxy
    cases h
    exact (M.bind_run (M.bind_run hx)).trans (M.bind_run (collect_map k hys))

theorem getLsbD_maskOf (ls : List Nat) {j : Nat} (h : j < 32) : (maskOf ls).getLsbD j = decide (j ∈ ls) := by
  have hbit (l : Nat) : ((1 : Word) <<< l).getLsbD j = decide (j = l) := by
    have : (1 : Word) <<< l = BitVec.twoPow 32 l := (BitVec.twoPow_eq 32 l).symm
    rw [this, BitVec.getLsbD_twoPow]
    by_cases hl : l = j
    · simp [hl, h]
    · simp [hl, Ne.symm hl]
  have hgo (ls : List Nat) : ∀ m : Word,
      (ls.foldl (fun m l => m ||| ((1 : Word) <<< l)) m).getLsbD j = (m.getLsbD j || decide (j ∈ ls)) := by
    induction ls with
    | nil => simp
    | cons l ls ih =>
      intro m
      rw [List.foldl_cons, ih, BitVec.getLsbD_or, hbit, Bool.or_assoc, ← Bool.decide_or]
      simp
  rw [maskOf, hgo]
  simp

/-- The mask of those for which a test holds. -/
theorem maskOf_filter (xs : List (Nat × Operands)) (test : Operands → Bool) :
    maskOf (((xs.map fun x => (x.1, test x.2)).filter fun h => h.2).map (·.1)) =
      BitVec.ofFnLE fun j : Fin 32 => xs.any fun e => e.1 == j.val && test e.2 := by
  refine BitVec.eq_of_getLsbD_eq fun j hj => ?_
  rw [getLsbD_maskOf _ hj, BitVec.getLsbD_ofFnLE, dif_pos hj, Bool.eq_iff_iff]
  simp

theorem maskOut_run {s s1 : State} {f : Form} {b : Base} {test : Operands → Bool} {xs : List (Nat × Operands)} (hd : b.dk = .scl)
    (ha : readAll f b (s.acting b) s = .ok (xs, s1)) : maskOut f b test s = .ok ({ outs := ((xs.take 1).map (·.1)).map fun l =>
      (l, { writes := [(.sreg b.dst.toNat, BitVec.ofFnLE fun j : Fin 32 => xs.any fun e => e.1 == j.val && test e.2)] }) }, s1) := by
  have hkeys : xs.map (·.1) = s.acting b := keys_collect ha
  rw [maskOut, M.bind_run (M.get_run s), ← maskOf_filter]
  cases hl : s.acting b with
  | nil =>
    rw [hl, List.map_eq_nil_iff] at hkeys
    rw [hl] at ha
    cases hkeys
    cases ha
    rfl
  | cons l ls =>
    rw [hl] at ha hkeys
    refine (M.bind_run (attempt_run (collect_map (fun j x => (j, test x)) ha))).trans ?_
    obtain ⟨x, xs, rfl, rfl, rfl⟩ := List.map_eq_cons_iff.mp hkeys
    simp [dstWrites, regWrites, extendTo, Ty.is64, Ty.bits, hd, loWord]

/-- A comparison with a scalar destination completes with the mask of the participants for which it holds. -/
theorem completesCross_of_runCompare {i : Instr} {b : Base} {test test' : Operands → Bool}
    (hexec : ∀ s, exec i s = runCompare (formOf i) b test s) (ht : i.WellFormed → ∀ x, test x = test' x) :
    CompletesCross i b (fun _ => b.dk = .scl) (fun xs => (xs.take 1).map (·.1)) fun xs _ =>
      [(.sreg b.dst.toNat, BitVec.ofFnLE fun j : Fin 32 => xs.any fun e => e.1 == j.val && test' e.2)] := fun s s1 xs hw hc hd ha => by
  rw [hexec, show test = test' from funext (ht hw)]
  refine runGroup_completes hc ((M.bind_run (M.get_run s)).trans ?_) rfl
  simp only [hd, beq_self_eq_true, if_true]
  exact maskOut_run hd ha

theorem compareMasks : Claims.CompareMasks := fun b =>
  ⟨completesCross_of_runCompare (fun _ => rfl) fun hw x => intCompare_eq (fn_le_of_compare (Form.tyFn_of_wellFormed hw rfl)) x,
   completesCross_of_runCompare (test' := fun x => floatTest b.fn (b.ty.fval x.a) (b.ty.fval x.b)) (fun _ => rfl)
     fun _ _ => floatCond_eq ..⟩

/-- Settles O6: the conditions of integers and of floating values agree with the table's, and a mask is compared bit by bit. -/
theorem comparesComplete : Obligations.ComparesComplete := ⟨comparisonsComplete, compareMasks⟩

/-! ### Carries and predicates (07 R165, R166) -/

theorem carryIn_eq (s : State) (b : Base) (l : Nat) : carryIn s b l = if b.fn ≠ 7 ∧ s.readP s.who l b.fn.toNat then 1 else 0 := by
  simp [carryIn, State.predOf]

/-- A wrapped integer of 32 or 64 bits goes to its register as its bits. -/
theorem dstWrites_wrap {t : Ty} (h : t.is3264 = true) (b : Base) (l : Nat) (n : Int) :
    dstWrites b l t (t.wrap n) = regWrites b l b.dst.toNat t.is64 ((BitVec.ofInt t.bits n).setWidth 64) := by
  rw [t.wrap_eq]
  cases t
  case i32 | n32 | i64 | n64 => rfl
  all_goals exact absurd h (by decide)

theorem carriesComplete : Claims.CarriesComplete := fun b =>
  ⟨computesWhen_of_runAlu (fun _ => rfl) (fun _ _ h => h) fun hw s l x => by
     dsimp only
     rw [dstWrites_wrap (Form.tyFn_of_wellFormed hw rfl), carryIn_eq, rawBits_eq, rawBits_eq]
     simp only [BitVec.ofInt_natCast, BitVec.ofNat_add, BitVec.ofNat_toNat, BitVec.setWidth_eq]
     rfl,
   computesWhen_of_runAlu (fun _ => rfl) (fun _ _ h => h) fun hw s l x => by
     dsimp only
     rw [dstWrites_wrap (Form.tyFn_of_wellFormed hw rfl), carryIn_eq, rawBits_eq, rawBits_eq]
     simp only [sub_eq_add_neg, BitVec.ofInt_add, BitVec.ofInt_neg, BitVec.ofInt_natCast, BitVec.ofNat_toNat, BitVec.setWidth_eq]
     congr 2
     exact decide_eq_decide.mpr (by omega)⟩

theorem plopValue_eq (fn : BitVec 3) (p q : Bool) :
    plopValue fn p q = [p && q, p || q, p ^^ q, p && !q, p || !q, !(p ^^ q), !p, p].getD fn.toNat false := by
  revert fn p q
  decide

/-- The predicates of a lane gathered as bits of a number. -/
theorem testBit_gather (p : Nat → Bool) (n : Nat) :
    (List.range n).foldl (fun r i => if p i then r + 2 ^ i else r) 0 < 2 ^ n ∧
      ∀ j, ((List.range n).foldl (fun r i => if p i then r + 2 ^ i else r) 0).testBit j = (decide (j < n) && p j) := by
  induction n with
  | zero => simp
  | succ n ih =>
    obtain ⟨hlt, hbit⟩ := ih
    rw [List.range_succ, List.foldl_append, List.foldl_cons, List.foldl_nil]
    generalize (List.range n).foldl (fun r i => if p i then r + 2 ^ i else r) 0 = r at *
    have hr : (if p n then r + 2 ^ n else r) = 2 ^ n * (p n).toNat + r := by cases p n <;> simp [add_comm]
    have hle := Bool.toNat_le (p n)
    refine ⟨by rw [hr, pow_succ]; nlinarith, fun j => ?_⟩
    rw [hr, Nat.testBit_two_pow_mul_add _ hlt, hbit]
    rcases Nat.lt_trichotomy j n with h | rfl | h
    · simp [h, h.trans n.lt_succ_self]
    · cases p j <;> simp
    · obtain ⟨k, rfl⟩ := Nat.exists_eq_add_of_lt h
      have h1 : n + k + 1 - n = k + 1 := by omega
      have h2 : (p n).toNat / 2 = 0 := by omega
      simp [h1, Nat.testBit_succ, h2]
      omega

theorem getLsbD_loWord (x : DWord) {j : Nat} (h : j < 32) : (loWord x).getLsbD j = x.getLsbD j := by simp [loWord, h]

theorem predicatesComplete : Claims.PredicatesComplete := fun b => by
  refine ⟨computesWhen_of_runLanes (fun _ => rfl) (fun hw => Form.check_of_wellFormed hw rfl) (fun j hj => ?_) (.inr (.inl rfl)) fun _ l t => ?_,
    computesWhen_of_runLanes (fun _ => rfl) (fun hw => Form.check_of_wellFormed hw rfl) (fun j hj => ?_) (.inr (.inr ⟨_, rfl⟩))
      fun hw l t => ?_, ?_⟩
  · interval_cases j
    · rfl
    · change (if 6 ≤ b.fn.toNat then SrcRule.unused else SrcRule.lit1).cst = false
      split <;> rfl
    · rfl
  · dsimp only
    rw [← plopValue_eq]
    rfl
  · interval_cases j <;> rfl
  · have hk : b.dk = .vec := Form.dk_of_check (Form.check_of_wellFormed (f := formOf (.p2v b)) hw rfl) (.inr (.inr ⟨_, rfl⟩))
    have hv : loWord (BitVec.ofNat 64 ((List.range 8).foldl (fun r i => if t.predOf l i then r + 2 ^ i else r) 0)) =
        BitVec.ofFnLE fun i : Fin 32 => decide (i.val < 8) && t.readP t.who l i.val := by
      refine BitVec.eq_of_getLsbD_eq fun j hj => ?_
      rw [getLsbD_loWord _ hj, BitVec.getLsbD_ofNat, (testBit_gather ..).2, BitVec.getLsbD_ofFnLE, dif_pos hj]
      simp [State.predOf]
      omega
    rw [← hv, M.bind_run (M.get_run t)]
    simp [dstWrites, regWrites, extendTo, Ty.is64, Ty.bits, hk]
  · intro s s1 outs hw hc _ ha
    rw [State.doers_vec (Form.dk_of_check (Form.check_of_wellFormed (f := formOf (.v2p b)) hw rfl) (.inl rfl))] at ha
    exact runLanes_completes hc ha

/-- Settles O7: a carry is a bound on the sum of the operands' numbers, and predicates are compared bit by bit. -/
theorem predicatesAndCarriesComplete : Obligations.PredicatesAndCarriesComplete := ⟨carriesComplete, predicatesComplete⟩

end Sys2Proof

/-! PROOFS. A result that each lane has of its own, in a scalar destination outside a lead thread (spec/07 R152 rule 4). -/

namespace Sys2Proof

open Machine Claims

/-- A computing instruction of each lane's own value traps. -/
theorem trapsWhen_of_runAlu {i : Instr} {b : Base} {g : State → Nat → Operands → List (Dest × Word)}
    (hexec : ∀ s, exec i s = runAlu (formOf i) b true g s) :
    TrapsWhen i b (fun s => b.dk = .scl ∧ isLead s.who = false) fun s => ⟨.illegalOperand, 0, s.issue.word, false⟩ :=
  fun s _ hc ⟨hk, hl⟩ => (hexec s).trans (runAlu_traps hc hk hl)

/-- A group whose effect begins with the same check traps. -/
theorem trapsWhen_of_runGroup {i : Instr} {b : Base} {act : State → M GroupOut}
    (hexec : ∀ s, exec i s = runGroup (formOf i) b false (do
      let s ← get
      if b.dk == .scl && !isLead s.who then trapActing b ⟨.illegalOperand, 0, s.issue.word, false⟩ else act s) s) :
    TrapsWhen i b (fun s => b.dk = .scl ∧ isLead s.who = false) fun s => ⟨.illegalOperand, 0, s.issue.word, false⟩ :=
  fun s _ hc ⟨hk, hl⟩ => by
    rw [hexec]
    refine runGroup_traps hc ((M.bind_run (M.get_run s)).trans ?_)
    simp only [hk, hl]
    rfl

/-- Settles O8: each of the instructions makes the check before anything else. -/
theorem scalarResultOutsideLeadTraps : Obligations.ScalarResultOutsideLeadTraps := fun b =>
  ⟨trapsWhen_of_runAlu fun _ => rfl, trapsWhen_of_runAlu fun _ => rfl, trapsWhen_of_runAlu fun _ => rfl, trapsWhen_of_runAlu fun _ => rfl,
   trapsWhen_of_runGroup fun _ => rfl, trapsWhen_of_runAlu fun _ => rfl, trapsWhen_of_runGroup fun _ => rfl,
   trapsWhen_of_runGroup fun _ => rfl, trapsWhen_of_runGroup fun _ => rfl, fun hi => trapsWhen_of_runAlu fun s => by
     have honly : ((b.litWord .ext 0 b.a).toNat == 0 || (b.litWord .ext 0 b.a).toNat == 9) = true := by simpa using hi
     change runAlu (formOf (.rdsr b)) b ((b.litWord .ext 0 b.a).toNat == 0 || (b.litWord .ext 0 b.a).toNat == 9) _ s = _
     rw [honly]⟩

end Sys2Proof

/-! PROOFS. Two statements that fail in states that no run reaches: a lead thread of two lanes, and an issue of a lane that does not exist
(spec/07 R158, R177). -/

namespace Sys2Proof

open Machine Claims

/-- The next state, where there is one. -/
def nextOf (o : Host.Outcome State Fault Refusal) : Option State :=
  match o with
  | .next t => some t
  | _ => none

/-- An instruction without operands, unguarded. -/
def noOperands : Base := ⟨.w64, 0, 7, false, 0, .vec, .i8, ⟨.vec, 0⟩, ⟨.vec, 0⟩, ⟨.vec, 0⟩, 0, false, 0, 0⟩

/-- RAND.rdpos to the scalar pair s8, s9. -/
def rdposToScalar : Base := { noOperands with fn := 2, dst := 8, dk := .scl }

/-- A lead thread of two lanes, at stream positions 0 and 1, that issues in both. -/
def leadOfTwoLanes : State :=
  let a := Lane.start 0x11000
  let k : Agent := { Agent.absent with
    rope := 17, lanes := [{ a with randPos := 0 }, { a with randPos := 1 }], sregs := List.replicate 64 0, flags := List.replicate 12 0 }
  { State.reset.setAgent 65 k with issue := ⟨65, 3, 0x11000, 8, 0⟩ }

theorem leadOfTwoLanes_clear : leadOfTwoLanes.Clear (formOf (.randRdpos rdposToScalar)) rdposToScalar :=
  ⟨by decide +kernel, .inl (by decide +kernel), by decide +kernel, by decide +kernel, by decide +kernel⟩

/-- Refutes O14: RAND.rdpos to a scalar register runs in every lane of a lead's issue, so that of two lanes the last one's position stays,
where the statement names the first one's. A lead has one lane in every run; the statement does not ask for it. -/
theorem not_randomNumbersComplete : ¬ Obligations.RandomNumbersComplete := fun h => by
  obtain ⟨-, -, hpos, -⟩ := h rdposToScalar
  have hrun := hpos leadOfTwoLanes leadOfTwoLanes [(0, { writes := regWrites rdposToScalar 0 8 true 0 })]
    ⟨by decide +kernel, by decide +kernel⟩ leadOfTwoLanes_clear (fun _ => by decide +kernel) (by rfl)
  have hread := congrArg (fun o => (nextOf o).map fun t => t.readS 65 8) hrun
  exact absurd hread (by decide +kernel)

/-- An agent without lanes, one flag raised, that issues in lane 0 and stands in the pending set. -/
def ropeWithoutLanes : State :=
  let s := (State.reset.setAgent 0 { Agent.absent with flags := [1] }).setCore 0 { Core.reset with pending := [⟨0, 0⟩] }
  { s with issue := ⟨0, 1, 0x11000, 8, 0⟩ }

theorem ropeWithoutLanes_clear : ropeWithoutLanes.Clear (formOf (.exit noOperands)) noOperands :=
  ⟨by decide +kernel, .inl (by decide +kernel), by decide +kernel, by decide +kernel, by decide +kernel⟩

/-- Refutes O21: a lane that does not exist records no wait, so that its EXIT goes on to what follows an exit and leaves the pending set,
where the statement has it wait there. No run issues such a lane; the statement does not ask that the issued lanes exist. -/
theorem not_exitCompletes : ¬ Obligations.ExitCompletes := fun h => by
  obtain ⟨-, hwait⟩ := h noOperands ropeWithoutLanes ⟨by decide +kernel, by decide +kernel⟩ ropeWithoutLanes_clear
    (by decide +kernel) (by decide +kernel) (by decide +kernel) (by decide +kernel) (by decide +kernel) (by decide +kernel)
  have hrun := hwait (by decide +kernel) (by decide +kernel)
  have hread := congrArg (fun o => (nextOf o).map fun t => (t.core 0).pending.length) hrun
  exact absurd hread (by decide +kernel)

end Sys2Proof

/-! PROOFS. The values of the floating instructions (spec/07 R167 to R172): a rounded result fills its type's width, and the halves of a
packed pair are read and written as 16 bits. -/

namespace Sys2Proof

open Machine Claims

/-! ### Rounded results -/

theorem Fmt.encMag_le {f : Fmt} {n : Nat} {q : Int} {e : Nat} (h : f.encMag n q = some e) : e ≤ f.maxEnc := by
  simp only [Fmt.encMag, Option.ite_none_right_eq_some] at h
  obtain ⟨hle, h⟩ := h
  exact Option.some.inj h ▸ hle

theorem Fmt.two_pow_lt_bits (f : Fmt) : 2 ^ (f.ebits + f.mbits) < 2 ^ f.bits :=
  Nat.pow_lt_pow_right one_lt_two (by unfold Fmt.bits; omega)

theorem Fmt.nanEnc_lt (f : Fmt) (he : 0 < f.ebits) : f.nanEnc < 2 ^ f.bits := by
  have hhalf : 2 ^ (f.mbits - 1) ≤ 2 ^ f.mbits := Nat.pow_le_pow_right two_pos (Nat.sub_le ..)
  have hlt := f.two_pow_lt_bits
  have hpos := Nat.two_pow_pos (f.ebits + f.mbits)
  obtain ⟨htop, -⟩ := f.two_pow_fields he
  unfold Fmt.nanEnc
  split <;> omega

/-- What rounding gives is an encoding of the format. -/
theorem Fmt.round_lt (f : Fmt) (he : 0 < f.ebits) (x : FVal) (mode : RMode) (sat : Bool) : f.round x mode sat < 2 ^ f.bits := by
  have hinf (s : Bool) : f.infEnc s < 2 ^ f.bits := by
    obtain ⟨t, k, hk, h, -⟩ := f.infEnc_spec he s
    exact h ▸ f.signBit_add_lt t hk
  have hover (s : Bool) : f.overflow mode sat s < 2 ^ f.bits := by
    have hmax := f.signBit_add_lt s f.maxEnc_lt
    unfold Fmt.overflow
    split_ifs
    · exact hmax
    · split
      · exact hmax
      · exact hmax
      · exact hmax
      · exact hinf s
  cases x with
  | nan => exact f.nanEnc_lt he
  | inf s => exact hover s
  | zero s => exact f.signBit_add_lt s (Nat.two_pow_pos _)
  | fin num den =>
    simp only [Fmt.round]
    split
    · next e h => exact f.signBit_add_lt _ ((Fmt.encMag_le h).trans_lt f.maxEnc_lt)
    · exact hover _

/-- The types of the floating instructions, packed pairs aside. -/
theorem tyF_iff {b : Base} : tyF b = true ↔ b.ty = .f32 ∨ b.ty = .f16 ∨ b.ty = .bf16 := by
  simp [tyF, or_assoc]

/-- A rounded result goes to its register as it is. -/
theorem dstWrites_fround {t : Ty} (h : t = .f32 ∨ t = .f16 ∨ t = .bf16) (b : Base) (l : Nat) (v : FVal) (m : RMode) :
    dstWrites b l t (t.fround v m) = regWrites b l b.dst.toNat t.is64 (t.fround v m) := by
  have h16 {f : Fmt} (he : 0 < f.ebits) (hb : f.bits = 16) :
      ((BitVec.ofNat 64 (f.round v m)).setWidth 16).setWidth 64 = BitVec.ofNat 64 (f.round v m) := by
    have hlt := f.round_lt he v m false
    rw [hb] at hlt
    refine BitVec.eq_of_toNat_eq ?_
    simp only [BitVec.toNat_setWidth, BitVec.toNat_ofNat]
    omega
  rcases h with rfl | rfl | rfl
  · rfl
  · exact congrArg (regWrites b l b.dst.toNat false) (h16 (f := f16Fmt) (by decide) rfl)
  · exact congrArg (regWrites b l b.dst.toNat false) (h16 (f := bf16Fmt) (by decide) rfl)

theorem pairElem_float {fn : BitVec 3} (h : fn.toNat ≤ 1) : pairElem fn = if fn = 0 then .f16 else .bf16 := by
  revert fn
  decide

/-- The elements of a floating pair have formats of 16 bits. -/
theorem pairElem_bits {fn : BitVec 3} (h : fn.toNat ≤ 1) : (pairElem fn).fmt.bits = 16 := by
  revert fn
  decide

/-- The value of each half of a pair. -/
theorem fval_halves {t : Ty} (h : t.fmt.bits = 16) (x : DWord) :
    t.fval (halves x).1 = t.fval (x >>> (16 * 0)) ∧ t.fval (halves x).2 = t.fval (x >>> (16 * 1)) := by
  have hx := x.isLt
  constructor <;>
    · simp only [Ty.fval, h, halves, BitVec.toNat_setWidth, BitVec.toNat_ushiftRight, Nat.shiftRight_eq_div_pow]
      congr 1
      omega

/-- A packed pair of results of three operands, each half rounded by RNE. -/
theorem packHalves_fround {b : Base} (hp : b.ty = .pair) (hfn : b.fn.toNat ≤ 1) (op : Bool → FVal → FVal → FVal → FVal) (x : Operands) :
    let t := pairElem b.fn
    let one := fun (p q r : DWord) => t.fround (op false (t.fval p) (t.fval q) (t.fval r)) .rne
    packHalves (one (halves x.a).1 (halves x.b).1 (halves x.c).1) (one (halves x.a).2 (halves x.b).2 (halves x.c).2) = floating b op x := by
  intro t one
  have h16 (y : DWord) := fval_halves (pairElem_bits hfn) y
  simp only [floating, hp, if_true, ← pairElem_float hfn, packHalves_eq, one, t, (h16 _).1, (h16 _).2]

theorem floating_of_pair {b : Base} (hp : b.ty = .pair) (hfn : b.fn.toNat ≤ 1) (f : Bool → FVal → FVal → FVal) (x : Operands) :
    floatResult b f x = floating b (fun down p q _ => f down p q) x := by
  rw [← packHalves_fround hp hfn, floatResult, if_pos (by simp [hp])]
  rfl

/-- The forms of floating arithmetic take the scalar types, and pairs of two element types. -/
theorem floatMode_cases {b : Base} (h : floatMode b = true ∨ floatPack b = true) :
    (b.ty = .f32 ∨ b.ty = .f16 ∨ b.ty = .bf16) ∨ b.ty = .pair ∧ b.fn.toNat ≤ 1 := by
  simp only [floatMode, floatPack, Bool.or_eq_true, Bool.and_eq_true, tyF_iff, beq_iff_eq, decide_eq_true_eq] at h
  tauto

/-- A result of floating arithmetic, as it goes to its register. -/
theorem dstWrites_floating {b : Base} (h : floatMode b = true ∨ floatPack b = true) (l : Nat) (op : Bool → FVal → FVal → FVal → FVal)
    (x : Operands) : dstWrites b l b.ty (floating b op x) = regWrites b l b.dst.toNat b.ty.is64 (floating b op x) := by
  rcases floatMode_cases h with ht | ⟨hp, -⟩
  · have hp : b.ty ≠ .pair := by rintro hp; simp [hp] at ht
    simp only [floating, if_neg hp]
    exact dstWrites_fround ht ..
  · rw [dstWrites_of_bits32 (by rw [hp]; rfl)]

/-- An instruction of floating arithmetic of two operands completes. -/
theorem computes_floating {i : Instr} {b : Base} {f : Bool → FVal → FVal → FVal}
    (hexec : ∀ s, exec i s = runResult (formOf i) b b.ty (floatResult b f) s)
    (ht : i.WellFormed → floatMode b = true ∨ floatPack b = true) :
    Computes i b b.ty (floating b fun down p q _ => f down p q) :=
  computes_of_runResult hexec fun hw l x => by
    have hr : floatResult b f x = floating b (fun down p q _ => f down p q) x := by
      rcases floatMode_cases (ht hw) with h | ⟨hp, hfn⟩
      · have hp : b.ty ≠ .pair := by rintro hp; simp [hp] at h
        rw [floatResult, floating, if_neg (by simpa using hp), if_neg hp]
      · exact floating_of_pair hp hfn f x
    rw [hr, dstWrites_floating (ht hw)]

theorem ffmaResult_eq {b : Base} (h : floatMode b = true) (x : Operands) :
    ffmaResult b x = floating b (fun down p q r => (p.mul q).add down r) x := by
  rcases floatMode_cases (.inl h) with h | ⟨hp, hfn⟩
  · have hp : b.ty ≠ .pair := by rintro hp; simp [hp] at h
    rw [ffmaResult, floating, if_neg (by simpa using hp), if_neg hp]
  · rw [← packHalves_fround hp hfn, ffmaResult, if_pos (by simp [hp])]

theorem floatOperationsComplete : Claims.FloatArithmeticCompletes := fun b =>
  ⟨computes_floating (fun _ => rfl) fun hw => .inl (Form.tyFn_of_wellFormed hw rfl),
   computes_floating (fun _ => rfl) fun hw => .inl (Form.tyFn_of_wellFormed hw rfl),
   computes_floating (fun _ => rfl) fun hw => .inl (Form.tyFn_of_wellFormed hw rfl),
   computes_of_runResult (fun _ => rfl) fun hw l x => by
     rw [ffmaResult_eq (Form.tyFn_of_wellFormed hw rfl), dstWrites_floating (.inl (Form.tyFn_of_wellFormed hw rfl))]⟩

theorem FVal.abs_eq (p : FVal) : p.abs = if p.isNeg then p.neg else p := by
  cases p with
  | nan => rfl
  | inf s => cases s <;> rfl
  | zero s => cases s <;> rfl
  | fin n d => 
    simp only [FVal.abs, FVal.isNeg, FVal.neg, decide_eq_true_eq]
    split_ifs <;> simp <;> omega

theorem floatSelectionCompletes : Claims.FloatSelectionCompletes := fun b =>
  ⟨computes_floating (fun _ => rfl) fun hw => .inr (Form.tyFn_of_wellFormed hw rfl),
   computes_floating (fun _ => rfl) fun hw => .inr (Form.tyFn_of_wellFormed hw rfl),
   computes_floating (fun s => by simp only [← FVal.abs_eq]; rfl) fun hw => .inr (Form.tyFn_of_wellFormed hw rfl),
   computes_floating (fun _ => rfl) fun hw => .inr (Form.tyFn_of_wellFormed hw rfl)⟩

/-- The format of a floating type of the scalar forms fills its width. -/
theorem tyF_fmt_bits {b : Base} (h : tyF b = true) : b.ty.fmt.bits = b.ty.bits := by
  rcases tyF_iff.mp h with h | h | h <;> rw [h] <;> rfl

theorem fclassResult_eq {b : Base} (h : tyF b = true) (x : Operands) :
    fclassResult b x = 1 <<< classOf b.ty.fmt (x.a.toNat % 2 ^ b.ty.bits) := by
  rw [fclassResult, tyF_fmt_bits h]
  refine BitVec.eq_of_toNat_eq ?_
  simp [Nat.shiftLeft_eq]

theorem frndValue_eq (m : RMode) (v : FVal) :
    frndValue m v = match v with | .fin n d => .ofQuot (decide (n < 0)) (roundInt m n d) 1 | w => w := by
  cases v <;> rfl

theorem fsclResult_eq (b : Base) (x : Operands) : fsclResult b x = match b.ty.fval x.a with
    | .inf n => b.ty.fround (.inf n) .rne
    | w => b.ty.fround (scaleValue (x.b.setWidth 32).toInt w) (RMode.ofFn b.fn 0) := by
  have hi : Ty.i32.intVal x.b = (x.b.setWidth 32).toInt := intVal_setWidth (t := .i32) rfl x.b
  rw [fsclResult, hi] <;> cases b.ty.fval x.a <;> rfl

/-- An integer's low bits do not depend on the width at which it stands. -/
theorem loWord_ofInt (z : Int) : loWord (BitVec.ofInt 64 z) = BitVec.ofInt 32 z := by
  refine BitVec.eq_of_getLsbD_eq fun i hi => ?_
  rw [getLsbD_loWord _ hi, getLsbD_ofInt _ _ (by omega), getLsbD_ofInt _ _ hi]

theorem ffrx_writes {b : Base} (h : tyF b = true) (l : Nat) (x : Operands) :
    dstWrites b l (if b.fn == 0 then b.ty else .i32) (ffrxResult b x) = regWrites b l b.dst.toNat false
      (if b.fn = 0 then b.ty.fround (scaleValue (-ffrxExp (b.ty.fval x.a)) (b.ty.fval x.a)) .rne
        else BitVec.ofInt 64 (ffrxExp (b.ty.fval x.a))) := by
  have ht := tyF_iff.mp h
  have h64 : b.ty.is64 = false := by rcases ht with h | h | h <;> rw [h] <;> rfl
  by_cases h0 : b.fn = 0
  · simp only [ffrxResult, h0, beq_self_eq_true, if_true]
    rw [dstWrites_fround ht, h64]
  · have hb : (b.fn == 0) = false := by simpa using h0
    simp only [ffrxResult, hb, h0, Bool.false_eq_true, if_false]
    rw [dstWrites_of_bits32 rfl]
    have : loWord (Ty.i32.wrap (ffrxExp (b.ty.fval x.a))) = BitVec.ofInt 32 (ffrxExp (b.ty.fval x.a)) := setWidth_wrap (t := .i32) rfl _
    simp [regWrites, Ty.is64, Ty.bits, this, loWord_ofInt]

theorem fdot2Result_eq {b : Base} (h : b.fn.toNat ≤ 1) (x : Operands) :
    let e := if b.fn = 0 then Ty.f16 else Ty.bf16
    let half := fun (x : DWord) i => e.fval (x >>> (16 * i))
    fdot2Result b x = Ty.f32.fround (sumTerms [Ty.f32.fval x.c, (half x.a 0).mul (half x.b 0), (half x.a 1).mul (half x.b 1)]) .rne := by
  have h16 (y : DWord) := fval_halves (pairElem_bits h) y
  simp only [fdot2Result, ← pairElem_float h, (h16 _).1, (h16 _).2]

theorem floatFormsComplete : Claims.FloatFormsComplete := fun b => by
  have hF {i : Instr} {p : Bool} (h : i.WellFormed → (tyF b && p) = true) (hw : i.WellFormed) : tyF b = true :=
    (Bool.and_eq_true_iff.mp (h hw)).1
  refine ⟨computes_of_runResult (fun _ => rfl) fun hw l x => ?_, computes_of_runResult (fun _ => rfl) fun hw l x => ?_,
    computes_of_runResult (fun _ => rfl) fun hw l x => ?_, computesWhen_of_runAlu (fun _ => rfl) nofun fun hw _ l x => ?_,
    computes_of_runResult (fun _ => rfl) fun hw l x => ?_⟩
  · rw [fclassResult_eq (hF (fun hw => Form.tyFn_of_wellFormed hw rfl) hw)] <;> rfl
  · rw [frndResult, frndValue_eq, dstWrites_fround (tyF_iff.mp (hF (fun hw => Form.tyFn_of_wellFormed hw rfl) hw))] <;> rfl
  · have ht := tyF_iff.mp (hF (fun hw => Form.tyFn_of_wellFormed hw rfl) hw)
    rw [fsclResult_eq]
    dsimp only
    cases b.ty.fval x.a <;> exact dstWrites_fround ht ..
  · exact ffrx_writes (hF (fun hw => Form.tyFn_of_wellFormed hw rfl) hw) l x
  · rw [fdot2Result_eq (by
      have : (b.ty == .pair && decide (b.fn.toNat ≤ 1)) = true := Form.tyFn_of_wellFormed hw rfl
      simp only [Bool.and_eq_true, decide_eq_true_eq] at this
      exact this.2)]
    rfl

/-- Settles O9: each result is a rounded value, which fills its type's width, and pairs are taken half by half. -/
theorem floatArithmeticCompletes : Obligations.FloatArithmeticCompletes :=
  ⟨floatOperationsComplete, floatSelectionCompletes, floatFormsComplete⟩

end Sys2Proof

/-! PROOFS. Lane exchange, votes, reductions and scans (spec/07 R178 to R182). -/

namespace Sys2Proof

open Machine Claims

/-! ### Participants -/

/-- A participant is the one that its lane names. -/
theorem operandsOf_eq_some {xs : List (Nat × Operands)} (hn : (xs.map (·.1)).Nodup) {l : Nat} {x : Operands} :
    operandsOf xs l = some x ↔ (l, x) ∈ xs := by
  induction xs with
  | nil => simp [operandsOf]
  | cons y xs ih =>
    rw [List.map_cons, List.nodup_cons] at hn
    obtain ⟨hy, hn⟩ := hn
    rcases eq_or_ne y.1 l with rfl | hne
    · have hx : (y.1, x) ∉ xs := fun h => hy (List.mem_map_of_mem (f := (·.1)) h)
      simp [operandsOf, hx, Prod.ext_iff, eq_comm]
    · have : operandsOf (y :: xs) l = operandsOf xs l := by simp [operandsOf, hne]
      rw [this, ih hn, List.mem_cons]
      exact ⟨.inr, fun h => h.resolve_left fun h => hne (congrArg (·.1) h).symm⟩

/-- No lane from 32 on takes part. -/
theorem operandsOf_of_le {xs : List (Nat × Operands)} (h : ∀ x ∈ xs, x.1 < 32) {l : Nat} (hl : 32 ≤ l) : operandsOf xs l = none := by
  simp only [operandsOf, Option.map_eq_none_iff, List.find?_eq_none, beq_iff_eq]
  intro x hx hxl
  have := h x hx
  omega

/-- A result of 32 or 64 bits goes to its register or pair as it is. -/
theorem dstWrites_of_is3264 {t : Ty} (h : t.is3264 = true) (b : Base) (l : Nat) (v : DWord) :
    dstWrites b l t v = regWrites b l b.dst.toNat t.is64 v := by
  cases t
  case i32 | n32 | i64 | n64 => rfl
  all_goals exact absurd h (by decide)

/-- A word goes to its vector or scalar register as it is. -/
theorem dstWrites_word_vec {b : Base} (h : b.dk = .vec) (l : Nat) (w : Word) :
    dstWrites b l .n32 (w.setWidth 64) = [(.vreg b.dst.toNat l, w)] := by
  simp [dstWrites, regWrites, extendTo, Ty.is64, Ty.bits, h, loWord]

theorem dstWrites_word_scl {b : Base} (h : b.dk = .scl) (l : Nat) (w : Word) :
    dstWrites b l .n32 (w.setWidth 64) = [(.sreg b.dst.toNat, w)] := by
  simp [dstWrites, regWrites, extendTo, Ty.is64, Ty.bits, h, loWord]

/-! ### Exchange (07 R178, R179, R182) -/

/-- A cross-lane instruction with a vector destination writes in every participant. -/
theorem lanes_of_vec {b : Base} (h : b.dk = .vec) (xs : List (Nat × Operands)) :
    xs.map (·.1) = (if b.dk == .scl then xs.take 1 else xs).map (·.1) := by
  rw [h]
  rfl

/-- With a scalar destination it writes in the first one. -/
theorem lanes_of_dk (b : Base) (xs : List (Nat × Operands)) :
    (if b.dk = .scl then (xs.map (·.1)).take 1 else xs.map (·.1)) = (if b.dk == .scl then xs.take 1 else xs).map (·.1) := by
  cases b.dk
  · rfl
  · exact List.map_take.symm

theorem shfl_value {fn : BitVec 3} (hfn : fn.toNat ≤ 3) {xs : List (Nat × Operands)} (h : ∀ x ∈ xs, x.1 < 32) (l : Nat) (own : Operands) :
    (match (shflSource fn l own.b.toNat).bind (operandsOf xs) with
      | some y => y.a
      | none => own.a) =
    (let n : Int := own.b.toNat
     let src : Int := [n % 32, (l : Int) - n, l + n, ((l ^^^ (own.b.toNat % 32) : Nat) : Int)].getD fn.toNat 0
     (if 0 ≤ src then (operandsOf xs src.toNat).getD own else own).a) := by
  have key (src : Int) : (match (if 0 ≤ src && src < 32 then some src.toNat else none).bind (operandsOf xs) with
      | some y => y.a
      | none => own.a) = (if 0 ≤ src then (operandsOf xs src.toNat).getD own else own).a := by
    by_cases h0 : 0 ≤ src
    · by_cases h1 : src < 32
      · simp only [h0, h1, decide_true, Bool.and_self, if_true, Option.bind_some]
        cases operandsOf xs src.toNat <;> rfl
      · have : operandsOf xs src.toNat = none := operandsOf_of_le h (by omega)
        simp [h0, h1, this]
    · simp [h0]
  unfold shflSource
  generalize fn.toNat = k at hfn
  interval_cases k <;> exact key _

theorem match_mask {xs : List (Nat × Operands)} (hn : (xs.map (·.1)).Nodup) (own : Option DWord) :
    maskOf ((xs.filter fun x => some x.2.a == own).map (·.1)) = BitVec.ofFnLE fun j : Fin 32 =>
      (operandsOf xs j.val).isSome && decide ((operandsOf xs j.val).map (·.a) = own) := by
  refine BitVec.eq_of_getLsbD_eq fun j hj => ?_
  rw [getLsbD_maskOf _ hj, BitVec.getLsbD_ofFnLE, dif_pos hj, Bool.eq_iff_iff]
  simp only [decide_eq_true_eq, List.mem_map, List.mem_filter, beq_iff_eq, Bool.and_eq_true, Option.isSome_iff_exists]
  constructor
  · rintro ⟨⟨i, x⟩, ⟨hx, ha⟩, rfl⟩
    have := (operandsOf_eq_some hn).mpr hx
    exact ⟨⟨x, this⟩, by rw [this]; exact ha⟩
  · rintro ⟨⟨x, hx⟩, ha⟩
    rw [hx] at ha
    exact ⟨(j, x), ⟨(operandsOf_eq_some hn).mp hx, ha⟩, rfl⟩

theorem laneExchangeCompletes : Claims.LaneExchangeCompletes := fun b => by
  refine ⟨completesCross_of_runCross (fun s => (rfl : execShfl b s = _)) (fun hw => lanes_of_vec ?_) fun hw xs hlt _ l _ => ?_,
    completesCross_of_runCross (fun s => (rfl : execBcast b s = _)) (fun _ => lanes_of_dk b) fun hw xs _ _ l _ => ?_,
    completesCross_of_runCross (fun s => (rfl : execMatchx b s = _)) (fun hw => lanes_of_vec ?_) fun hw xs _ hn l _ => ?_⟩
  · exact Form.dk_of_check (Form.check_of_wellFormed (f := formOf (.shfl b)) hw rfl) (.inr (.inr ⟨_, rfl⟩))
  · have ht : (ty3264 b && decide (b.fn.toNat ≤ 3)) = true := Form.tyFn_of_wellFormed hw rfl
    simp only [Bool.and_eq_true, decide_eq_true_eq] at ht
    obtain ⟨ht, hfn⟩ := ht
    rw [dstWrites_of_is3264 ht]
    exact congrArg _ (shfl_value hfn hlt l _)
  · rw [dstWrites_of_is3264 (Form.tyFn_of_wellFormed hw rfl)]
    rfl
  · exact Form.dk_of_check (Form.check_of_wellFormed (f := formOf (.matchx b)) hw rfl) (.inr (.inr ⟨_, rfl⟩))
  · have hk : b.dk = .vec := Form.dk_of_check (Form.check_of_wellFormed (f := formOf (.matchx b)) hw rfl) (.inr (.inr ⟨_, rfl⟩))
    dsimp only
    rw [match_mask hn]
    rw [dstWrites_word_vec hk]
    rfl

/-! ### Votes (07 R179) -/

/-- A group that answers at once, from the state alone, completes with what it answers. -/
theorem exec_of_runGroup {i : Instr} {b : Base} {act : M GroupOut} {outs : List (Nat × LaneOut)} {s : State}
    (hexec : exec i s = runGroup (formOf i) b false act s) (hc : s.Clear (formOf i) b) (ha : act s = .ok ({ outs := outs }, s)) :
    exec i s = .next (s.retired (formOf i) b { outs := outs }) :=
  hexec.trans (runGroup_completes hc ha rfl)

theorem vote_verdict (yes : Nat → Bool) (ls : List Nat) (n : Nat) : n ≤ 2 →
    (match n with
      | 0 => (ls.filter yes).length == ls.length
      | 1 => !(ls.filter yes).isEmpty
      | _ => (ls.filter yes).isEmpty || (ls.filter yes).length == ls.length) =
    [ls.all yes, ls.any yes, ls.all yes || !ls.any yes].getD n false := fun hn => by
  have hall : ((ls.filter yes).length == ls.length) = ls.all yes := by
    rw [Bool.eq_iff_iff, beq_iff_eq, List.length_filter_eq_length_iff, List.all_eq_true]
  have hany : (ls.filter yes).isEmpty = !ls.any yes := by
    rw [Bool.eq_iff_iff, List.isEmpty_iff, List.filter_eq_nil_iff]
    simp
  interval_cases n
  · exact hall
  · simp [hany]
  · simp only [hall, hany, List.getD_cons_succ, List.getD_cons_zero]
    exact Bool.or_comm ..

theorem ballot_mask (ls : List Nat) (yes : Nat → Bool) :
    maskOf (ls.filter yes) = BitVec.ofFnLE fun j : Fin 32 => ls.contains j.val && yes j.val := by
  refine BitVec.eq_of_getLsbD_eq fun j hj => ?_
  rw [getLsbD_maskOf _ hj, BitVec.getLsbD_ofFnLE, dif_pos hj, Bool.eq_iff_iff]
  simp

theorem elect_eq {ls : List Nat} {l : Nat} (hl : l ∈ ls) : (ls.headD 0 == l) = (ls.head? == some l) := by
  cases ls with
  | nil => cases hl
  | cons m ls => simp

theorem votesComplete : Claims.VotesComplete := fun b => by
  have hvote {n : BitVec 3} (h : n.toNat ≤ 3) (hne : n ≠ 3) : n.toNat ≤ 2 := by revert n; decide
  refine ⟨fun s hw hc hok => exec_of_runGroup rfl hc ((M.bind_run (M.get_run s)).trans ?_),
    fun s hw hc hok => exec_of_runGroup rfl hc ((M.bind_run (M.get_run s)).trans ?_),
    fun s hw hc hok => exec_of_runGroup rfl hc ((M.bind_run (M.get_run s)).trans ?_),
    fun s hw hc hok => exec_of_runGroup rfl hc ((M.bind_run (M.get_run s)).trans ?_)⟩
  · have ht : (b.ty == .i8 && decide (b.fn.toNat ≤ 3)) = true := Form.tyFn_of_wellFormed hw rfl
    simp only [Bool.and_eq_true, decide_eq_true_eq] at ht
    have hb : (b.fn == 3) = false := by simpa using hok
    simp only [hb, Bool.false_eq_true, if_false, ← vote_verdict _ _ _ (hvote ht.2 hok)]
    rfl
  · have hb : (b.fn == 3) = true := by simpa using hok
    simp only [hb, if_true, voters, ballot_mask]
    cases b.dk <;> rfl
  · have hk : b.dk = .vec := by cases hk : b.dk <;> simp_all
    simp only [hk]
    refine congrArg (fun o => Except.ok (({ outs := o } : GroupOut), s)) (List.map_congr_left fun l hl => ?_)
    rw [elect_eq hl]
  · simp only [hok, beq_self_eq_true, if_true]
    cases s.acting b with
    | nil => exact congrArg (fun w => Except.ok (({ outs := [(_, { writes := w })] } : GroupOut), s)) (dstWrites_word_scl hok 0 0xFFFFFFFF)
    | cons l ls =>
      have hl : dstWrites b 0 .n32 (BitVec.ofNat 64 l) = [(.sreg b.dst.toNat, BitVec.ofNat 32 l)] := by
        rw [← dstWrites_word_scl hok 0, dstWrites_of_bits32 rfl, dstWrites_of_bits32 rfl]
        simp [regWrites, Ty.is64, Ty.bits, loWord, BitVec.setWidth_ofNat_of_le]
      exact congrArg (fun w => Except.ok (({ outs := [(_, { writes := w })] } : GroupOut), s)) hl

/-- Settles O15: a lane's participant is the one found under its number, and masks are compared bit by bit. -/
theorem laneExchangeAndVotesComplete : Obligations.LaneExchangeAndVotesComplete := ⟨laneExchangeCompletes, votesComplete⟩

/-! ### Reductions and scans (07 R180) -/

/-- Sums of the model and of the statement agree in their low bits, and so they do all along a list. -/
theorem low_foldl_add (t : Ty) : ∀ (vs : List DWord) {p q : DWord}, low t p = low t q →
    low t (vs.foldl (fun p q => t.wrap (t.intVal p + t.intVal q)) p) = low t (vs.foldl (fun p q => p + q) q)
  | [], _, _, h => h
  | v :: vs, p, q, h => low_foldl_add t vs (by
      rw [low_wrap, t.intVal_eq, t.intVal_eq, BitVec.ofInt_add, ofInt_valueOf, ofInt_valueOf, h]
      exact (BitVec.setWidth_add q v t.bits_le).symm)

/-- The combinations of 07 R180 on the operands' low bits. -/
def combine (t : Ty) : List (DWord → DWord → DWord) :=
  [fun p q => p + q, fun p q => if less t.isSigned (low t q) (low t p) then q else p,
    fun p q => if less t.isSigned (low t p) (low t q) then q else p, fun p q => p &&& q, fun p q => p ||| q, fun p q => p ^^^ q]

/-- A combination of a list, 0 for an empty one. -/
def combineAll (t : Ty) (n : Nat) (vs : List DWord) : DWord :=
  match vs with
  | [] => 0
  | v :: vs => vs.foldl ((combine t).getD n fun p _ => p) v

theorem reduxOp_eq (t : Ty) {n : Nat} (h0 : n ≠ 0) (h5 : n ≤ 5) : reduxOp n t = (combine t).getD n fun p _ => p := by
  funext p q
  interval_cases n
  · exact absurd rfl h0
  · simp only [reduxOp, combine, List.getD_cons_succ, List.getD_cons_zero, less_iff, t.intVal_eq]
  · simp only [reduxOp, combine, List.getD_cons_succ, List.getD_cons_zero, less_iff, t.intVal_eq]
  · rfl
  · rfl
  · rfl

/-- A combination has the low bits of the statement's. -/
theorem low_foldOp (t : Ty) {n : Nat} (h5 : n ≤ 5) (vs : List DWord) :
    low t (foldOp (reduxOp n t) vs) = low t (combineAll t n vs) := by
  cases vs with
  | nil => rfl
  | cons v vs =>
    rcases eq_or_ne n 0 with rfl | h0
    · exact low_foldl_add t vs rfl
    · rw [reduxOp_eq t h0 h5]
      rfl

theorem dstWrites_foldOp {t : Ty} (ht : t.is3264 = true) (b : Base) (l : Nat) {n : Nat} (h5 : n ≤ 5) (vs : List DWord) :
    dstWrites b l t (foldOp (reduxOp n t) vs) = regWrites b l b.dst.toNat t.is64 (combineAll t n vs) := by
  rw [← dstWrites_of_is3264 ht b l (combineAll t n vs), dstWrites_wide, dstWrites_wide, low_foldOp t h5]

/-! ### The tree of FREDX (07 R181) -/

theorem pairUp_range (f : Word → Word → Word) (g : Nat → Word) (n : Nat) :
    pairUp f ((List.range (2 * n)).map g) = (List.range n).map fun i => f (g (2 * i)) (g (2 * i + 1)) := by
  induction n generalizing g with
  | zero => rfl
  | succ n ih =>
    rw [Nat.mul_succ, List.range_succ_eq_map, List.range_succ_eq_map, List.range_succ_eq_map]
    simp only [List.map_cons, List.map_map, pairUp]
    exact congrArg _ (ih fun i => g (i + 2))

/-- Each level of the tree pairs the values of the level below. -/
theorem pairUp_treeOf (op : Word → Word → Word) (leaf : Nat → Word) (k n : Nat) :
    pairUp op ((List.range (2 * n)).map (treeOf op leaf k)) = (List.range n).map (treeOf op leaf (k + 1)) := pairUp_range ..

theorem fredxTree_eq (fn : BitVec 3) (leaf : Nat → Word) :
    fredxTree fn ((List.range 32).map leaf) = treeOf (fredxOp fn) leaf 5 0 := by
  have level (k n : Nat) := pairUp_treeOf (fredxOp fn) leaf k n
  have h0 : (List.range 32).map leaf = (List.range (2 * 16)).map (treeOf (fredxOp fn) leaf 0) := rfl
  simp only [fredxTree, h0]
  rw [level 0 16, level 1 8, level 2 4, level 3 2, level 4 1]
  rfl

theorem fredxUnit_eq {fn : BitVec 3} (h : fn.toNat ≤ 2) :
    fredxUnit fn = ([0x80000000, 0x7F800000, 0xFF800000] : List Word).getD fn.toNat 0 := by
  revert fn
  decide

theorem scan_op {n : Nat} : n ≤ 3 → (match n with | 2 => 1 | 3 => 2 | _ => 0) = [0, 0, 1, 2].getD n 0 := fun h => by
  interval_cases n <;> rfl

theorem scan_op_le {n : Nat} (h : n ≤ 3) : [0, 0, 1, 2].getD n 0 ≤ 5 := by
  interval_cases n <;> decide

/-- Settles O16: sums agree in their low bits all along a list, and the tree is taken level by level. -/
theorem reductionsComplete : Obligations.ReductionsComplete := fun b => by
  refine ⟨completesCross_of_runCross (fun s => (rfl : execRedux b s = _)) (fun _ => lanes_of_dk b) fun hw xs _ _ l _ => ?_,
    completesCross_of_runCross (fun s => (rfl : execScanx b s = _)) (fun hw => lanes_of_vec ?_) fun hw xs _ _ l _ => ?_,
    completesCross_of_runCross (fun s => (rfl : execFredx b s = _)) (fun _ => lanes_of_dk b) fun hw xs _ _ l _ => ?_⟩
  · have ht : (ty3264 b && decide (b.fn.toNat ≤ 5)) = true := Form.tyFn_of_wellFormed hw rfl
    simp only [Bool.and_eq_true, decide_eq_true_eq] at ht
    exact dstWrites_foldOp ht.1 b l ht.2 _
  · exact Form.dk_of_check (Form.check_of_wellFormed (f := formOf (.scanx b)) hw rfl) (.inr (.inr ⟨_, rfl⟩))
  · have ht : (ty3264 b && decide (b.fn.toNat ≤ 3)) = true := Form.tyFn_of_wellFormed hw rfl
    simp only [Bool.and_eq_true, decide_eq_true_eq] at ht
    obtain ⟨ht, hfn⟩ := ht
    have hop : (match b.fn.toNat with | 2 => 1 | 3 => 2 | _ => 0) = [0, 0, 1, 2].getD b.fn.toNat 0 := scan_op hfn
    have h5 : [0, 0, 1, 2].getD b.fn.toNat 0 ≤ 5 := scan_op_le hfn
    have hbelow : (xs.filter fun x => if b.fn == 1 then x.1 < l else x.1 ≤ l) =
        xs.filter fun e => if b.fn = 1 then decide (e.1 < l) else decide (e.1 ≤ l) :=
      List.filter_congr fun e _ => by by_cases h1 : b.fn = 1 <;> simp [h1]
    dsimp only
    rw [hbelow]
    refine (congrArg (fun n => dstWrites b l b.ty (foldOp (reduxOp n b.ty) _)) hop).trans ?_
    exact dstWrites_foldOp ht b l h5 _
  · have hleaf : (fun i => ((operandsOf xs i).map fun x => loWord x.a).getD (fredxUnit b.fn)) = fun i =>
        match xs.find? fun e => e.1 == i with
        | some e => e.2.a.setWidth 32
        | none => ([0x80000000, 0x7F800000, 0xFF800000] : List Word).getD b.fn.toNat 0 := by
      funext i
      have ht : (b.ty == .f32 && decide (b.fn.toNat ≤ 2)) = true := Form.tyFn_of_wellFormed hw rfl
      simp only [Bool.and_eq_true, decide_eq_true_eq] at ht
      rw [operandsOf]
      cases xs.find? fun e => e.1 == i with
      | none => exact fredxUnit_eq ht.2
      | some e => rfl
    dsimp only
    rw [hleaf, fredxTree_eq]
    rfl

end Sys2Proof

/-! PROOFS. Block quantisation (spec/07 R175, spec/06 R145). -/

namespace Sys2Proof

open Machine Claims

/-! ### The instructions -/

/-- The group of 8 lanes of a lane, as the elements and the words that its participants give; +0 and 0 stand for the others. -/
theorem group_values (v : Nat → Option (FVal × Nat)) (g : Nat) :
    ((List.range 8).map fun i => ((v (g + i)).map (·.1)).getD (.zero false)) =
      ((List.range 8).map fun i => (v (g + i)).getD (.zero false, 0)).map (·.1) ∧
    ((List.range 8).map fun i => ((v (g + i)).map (·.2)).getD 0) =
      ((List.range 8).map fun i => (v (g + i)).getD (.zero false, 0)).map (·.2) := by
  constructor <;>
    · rw [List.map_map]
      refine List.map_congr_left fun i _ => ?_
      simp only [Function.comp]
      cases v (g + i) <;> rfl

theorem regWrites_pair (b : Base) (l reg : Nat) (hi lo : Nat) :
    regWrites b l reg true (joinWords (BitVec.ofNat 32 hi) (BitVec.ofNat 32 lo)) =
      regWrites b l reg false (BitVec.ofNat 64 lo) ++ regWrites b l (reg + 1) false (BitVec.ofNat 64 hi) := by
  have h1 : loWord (joinWords (BitVec.ofNat 32 hi) (BitVec.ofNat 32 lo)) = loWord (BitVec.ofNat 64 lo) := by
    refine BitVec.eq_of_toNat_eq ?_
    simp only [loWord, joinWords, BitVec.toNat_setWidth, BitVec.toNat_append, BitVec.toNat_ofNat]
    rw [← Nat.shiftLeft_add_eq_or_of_lt (Nat.mod_lt _ (by decide)), Nat.shiftLeft_eq]
    omega
  have h2 : hiWord (joinWords (BitVec.ofNat 32 hi) (BitVec.ofNat 32 lo)) = loWord (BitVec.ofNat 64 hi) := by
    refine BitVec.eq_of_toNat_eq ?_
    simp only [hiWord, loWord, joinWords, BitVec.toNat_setWidth, BitVec.toNat_ushiftRight, BitVec.toNat_append, BitVec.toNat_ofNat]
    rw [← Nat.shiftLeft_add_eq_or_of_lt (Nat.mod_lt _ (by decide)), Nat.shiftLeft_eq, Nat.shiftRight_eq_div_pow]
    omega
  simp [regWrites, h1, h2]

/-- The element of a lane's place in its group. -/
theorem dqnt_element (x : DWord) {j : Nat} (h : j < 8) :
    e2m1Fmt.decode ((loWord x).toNat / 16 ^ j % 16) = Ty.e2m1.fval (x >>> (4 * j)) := by
  refine congrArg e2m1Fmt.decode ?_
  simp only [loWord, BitVec.toNat_setWidth, BitVec.toNat_ushiftRight, Nat.shiftRight_eq_div_pow,
    show Ty.e2m1.fmt.bits = 4 from rfl]
  interval_cases j <;> omega

theorem dqnt_scale (x : DWord) : (hiWord x).toNat % 256 = (x.extractLsb' 32 8).toNat := by
  simp only [hiWord, BitVec.toNat_setWidth, BitVec.toNat_ushiftRight, BitVec.extractLsb'_toNat, Nat.shiftRight_eq_div_pow]
  omega

theorem quantisationFormsComplete : Claims.BlockQuantisationCompletes := fun b => by
  refine ⟨fun s s1 vals hw hc hl ha => ?_, computesWhen_of_runAlu (fun _ => rfl) (fun _ _ h => h) fun hw _ l x => ?_,
    computes_of_runResult (fun _ => rfl) fun _ l x => rfl⟩
  · intro val group block ws
    have hbar : (b.dk == .scl && !isLead s.who) = false := hl.scalar_eq_false
    change runGroup (formOf (.qnt b)) b false _ s = _
    refine runGroup_completes hc ((M.bind_run (M.get_run s)).trans ?_) rfl
    rw [hbar]
    refine M.bind_run (attempt_run ((M.bind_run (M.get_run s)).trans ((M.bind_run ha).trans ?_)))
    have hout (l : Nat) := group_values (fun i => (vals.find? fun v => v.1 == i).map (·.2)) (l / 8 * 8)
    simp only [(hout _).1, (hout _).2, regWrites_pair]
    rfl
  · rw [dqntResult, dqnt_element x.a (Nat.mod_lt _ (by decide)), dqnt_scale]
    rfl

/-! ### The scale (06 R145) -/

/-- The search ends at the first encoding that brings the value to 6 or less, or at its bound. -/
theorem e3m5Search_spec (num den : Nat) : ∀ k x : Nat,
    let r := e3m5Search num den k x
    x ≤ r ∧ r ≤ x + k ∧ (r < x + k → num * 128 ≤ 6 * e3m5Units r * den) ∧ ∀ y, x ≤ y → y < r → 6 * e3m5Units y * den < num * 128
  | 0, x => ⟨le_rfl, le_rfl, fun h => absurd h (lt_irrefl _), fun y h1 h2 => absurd h2 (not_lt.mpr h1)⟩
  | k + 1, x => by
    rw [e3m5Search]
    split_ifs with h
    · exact ⟨le_rfl, by omega, fun _ => h, fun y h1 h2 => absurd h2 (not_lt.mpr h1)⟩
    · obtain ⟨h1, h2, h3, h4⟩ := e3m5Search_spec num den k (x + 1)
      refine ⟨by omega, by omega, fun hr => h3 (by omega), fun y hy hr => ?_⟩
      rcases hy.eq_or_lt with rfl | hy
      · exact not_le.mp h
      · exact h4 y hy hr

theorem blockScaleIsSmallest : Claims.BlockScaleIsSmallest := by
  refine ⟨rfl, rfl, rfl, fun n d _ hd => ?_⟩
  simp only [quantScale, Int.natAbs_natCast]
  split_ifs with h
  · rfl
  · obtain ⟨-, hle, hfit, hbelow⟩ := e3m5Search_spec n d 255 0
    refine ⟨by omega, ?_, fun x hx => hbelow x (Nat.zero_le x) hx⟩
    rcases (show e3m5Search n d 255 0 < 255 ∨ e3m5Search n d 255 0 = 255 by omega) with hlt | heq
    · exact hfit (by omega)
    · rw [heq, show e3m5Units 255 = 4032 from rfl]
      omega

/-- Settles O13: a block's values are those its participants give, and the upward search ends at the first scale that fits. -/
theorem blockQuantisationCompletes : Obligations.BlockQuantisationCompletes := ⟨quantisationFormsComplete, blockScaleIsSmallest⟩

end Sys2Proof

/-! PROOFS. Transfers of control complete: branches, calls and returns, the return stack, and the loops (spec/07 R155 to R159). -/

namespace Sys2Proof

open Machine Claims

/-! ### Transfers of lanes to their targets -/

theorem relTarget_eq (s : State) (b : Base) : relTarget s b = near s b := by
  simp [relTarget, near, BitVec.ofInt_mul]

/-- Values that agree where the rope is bound do not part its lanes. -/
theorem diverges_of_agree {s : State} {xs : List (Nat × DWord)} (h : Agree s xs) : diverges s xs = false := by
  simp only [diverges, Bool.and_eq_false_iff]
  refine Classical.or_iff_not_imp_left.2 fun hb => List.any_eq_false.2 fun x hx => ?_
  cases xs with
  | nil => cases hx
  | cons y ys => simp [h (Bool.eq_true_of_not_eq_false hb) x hx y List.mem_cons_self]

/-- One target for all lanes. -/
theorem agree_map_const (s : State) (ls : List Nat) (a : DWord) : Agree s (ls.map fun l => (l, a)) := fun _ x hx y hy => by
  obtain ⟨l, -, rfl⟩ := List.mem_map.1 hx
  obtain ⟨m, -, rfl⟩ := List.mem_map.1 hy
  rfl

theorem forEach_modLane_run (k : Nat) (go : Lane → DWord → Lane) : ∀ (ts : List (Nat × DWord)) (s : State),
    forEach ts (fun t => modLane k t.1 fun x => go x t.2) s = .ok ((), ts.foldl (fun s t => s.mapLane k t.1 fun x => go x t.2) s)
  | [], _ => rfl
  | t :: ts, s => (M.bind_run (modLane_run k t.1 _ s)).trans (forEach_modLane_run k go ts _)

/-- Lanes whose targets agree where they must go to them. -/
theorem transfer_run {b : Base} {ts : List (Nat × DWord)} {go : Lane → DWord → Lane} {s : State} (h : Agree s ts) :
    transfer b ts go s =
      .ok ({ outs := moved (ts.map (·.1)) }, ts.foldl (fun t x => t.mapLane s.who x.1 fun y => go y x.2) s) := by
  unfold transfer
  rw [M.bind_run (M.get_run s), diverges_of_agree h, if_neg Bool.false_ne_true, M.bind_run (forEach_modLane_run s.who go ts s)]
  simp [moved]

theorem onLanes_eq_foldl (f : Nat → Lane → Lane) : ∀ (ls : List Nat) (s : State),
    onLanes s ls f = ls.foldl (fun t l => t.mapLane s.who l (f l)) s
  | [], _ => rfl
  | _ :: ls, _ => onLanes_eq_foldl f ls _

/-- Lanes that all go to the target of a relative transfer. -/
theorem transfer_near_run (b : Base) (ls : List Nat) (go : Lane → DWord → Lane) (s : State) :
    transfer b (ls.map fun l => (l, relTarget s b)) go s = .ok ({ outs := moved ls }, onLanes s ls fun _ x => go x (near s b)) := by
  rw [transfer_run (agree_map_const s ls _), relTarget_eq, List.foldl_map, onLanes_eq_foldl, List.map_map]
  simp [Function.comp_def]

theorem doAll_congr {ls : List Nat} {act act' : Nat → M LaneOut} (h : ∀ l ∈ ls, act l = act' l) : doAll ls act = doAll ls act' := by
  induction ls with
  | nil => rfl
  | cons l ls ih =>
    have ih := ih fun m hm => h m (List.mem_cons_of_mem l hm)
    unfold doAll at ih ⊢
    simp only [collect, h l List.mem_cons_self, ih]

/-! ### Branches -/

theorem braCompletes (b : Base) : Gives (.bra b) b (fun _ => True) fun s =>
    (onLanes s (s.acting b) fun _ x => x.branch (near s b)).retired (formOf (.bra b)) b { outs := moved (s.acting b) } :=
  fun s _ hc _ => runGroup_completes hc ((M.bind_run (M.get_run s)).trans (transfer_near_run b _ _ s)) rfl

theorem brauCompletes (b : Base) : Gives (.brau b) b (fun s => s.acting b = [] ∨ s.acting b = s.issued) fun s =>
    (onLanes s (s.acting b) fun _ x => x.branch (near s b)).retired (formOf (.brau b)) b { outs := moved (s.acting b) } :=
  fun s _ hc hs => by
    refine runGroup_completes hc ((M.bind_run (M.get_run s)).trans ?_) rfl
    cases he : (s.acting b).isEmpty
    · have hi : s.acting b = s.issued := hs.resolve_left fun h => by simp [h] at he
      simp only [hi, Bool.false_eq_true, beq_self_eq_true, if_false, if_true]
      exact transfer_near_run b _ _ s
    · simp only [if_true, List.isEmpty_iff.1 he]
      rfl

/-- A trap of the whole issue group is taken by all of it, in a bound rope or not. -/
theorem Machine.State.trapping_issued (s : State) : s.trapping s.issued = s.issued := ite_self _

theorem brauTraps (b : Base) : Gives (.brau b) b (fun s => s.acting b ≠ [] ∧ s.acting b ≠ s.issued) fun s =>
    s.retired (formOf (.brau b)) b { traps := s.issued.map fun l => (l, ⟨.nonuniform, 0, s.issue.word, false⟩) } :=
  fun s _ hc hs => by
    have ht := runGroup_traps (ls := s.issued) (t := ⟨.nonuniform, 0, s.issue.word, false⟩) hc (act := do
      let s ← get
      let act := s.acting b
      if act.isEmpty then pure {}
      else if act == s.issued then transfer b (act.map fun l => (l, relTarget s b)) Lane.branch
      else pure { traps := s.issued.map fun l => (l, ⟨.nonuniform, 0, s.issue.word, false⟩) }) (by
        rw [M.bind_run (M.get_run s)]
        simp [hs.1, hs.2])
    rw [State.trapping_issued] at ht
    exact ht

theorem registerTargets_run {f : Form} {b : Base} {s s1 : State} {xs : List (Nat × DWord)} (ha : (collect (s.acting b) fun l => do
      let x ← readSrc f b 0 l
      pure (l, x)) s = .ok (xs, s1)) : registerTargets f b s = .ok (xs, s1) :=
  (M.bind_run (M.get_run s)).trans ha

theorem brxCompletes (b : Base) : GivesFrom (.brx b) b 0 Agree fun s xs =>
    (xs.foldl (fun t x => t.mapLane s.who x.1 fun y => y.branch x.2) s).retired (formOf (.brx b)) b
      { outs := moved (xs.map (·.1)) } :=
  fun s _ _ _ hc ha hx => by
    rw [show exec (.brx b) s = execBrx b s from rfl]
    exact runGroup_completes hc ((M.bind_run (registerTargets_run ha)).trans (transfer_run hx)) rfl

theorem brcCompletes (b : Base) : Gives (.brc b) b (fun _ => True) fun s =>
    let r := b.a.field.toNat
    let n := s.readS s.who r - 1
    let count := fun m => (s.issued.headD 0, ({ writes := [(.sreg r, n)], moved := m } : LaneOut))
    if n = 0 then s.retired (formOf (.brc b)) b { outs := [count false] }
    else (onLanes s s.issued fun _ x => x.branch (near s b)).retired (formOf (.brc b)) b
      { outs := count true :: moved s.issued } := fun s _ hc _ => by
  dsimp only
  split_ifs with hn
  · refine runGroup_completes hc ((M.bind_run (M.get_run s)).trans ?_) rfl
    simp only [hn, beq_self_eq_true, if_true]
    rfl
  · refine runGroup_completes hc ((M.bind_run (M.get_run s)).trans ?_) rfl
    simp only [beq_iff_eq, hn, if_false]
    exact M.bind_run (transfer_near_run b _ _ s)

/-! ### Calls and returns -/

/-- Calls of lanes whose targets agree where they must, and whose pushes succeed. -/
theorem callLanes_run {b : Base} {ts : List (Nat × DWord)} {s s1 : State} {outs : List (Nat × LaneOut)} (h : Agree s ts)
    (ha : doAll (ts.map (·.1)) (fun l => do
      pushReturn s.who l (after s)
      modLane s.who l fun x => x.jump ((ts.find? fun x => x.1 == l).getD (l, 0)).2
      pure { moved := true }) s = .ok (outs, s1)) : callLanes b ts s = .ok ({ outs := outs }, s1) := by
  unfold callLanes
  rw [M.bind_run (M.get_run s), diverges_of_agree h, if_neg Bool.false_ne_true]
  exact eachLane_of_doAll ha

theorem find?_map_pair (ls : List Nat) (a : DWord) {l : Nat} (hl : l ∈ ls) :
    (((ls.map fun m => (m, a)).find? fun x => x.1 == l).getD (l, 0)).2 = a := by
  cases hf : (ls.map fun m => (m, a)).find? fun x => x.1 == l with
  | none => exact absurd (List.find?_eq_none.1 hf (l, a) (List.mem_map_of_mem hl)) (by simp)
  | some x =>
    obtain ⟨m, -, rfl⟩ := List.mem_map.1 (List.mem_of_find?_eq_some hf)
    rfl

theorem callCompletes (b : Base) (s : State) : CompletesIn (.call b) b (fun t => t = s) (fun _ => s.acting b) (fun l => do
    pushReturn s.who l (after s)
    modLane s.who l fun x => x.jump (near s b)
    pure { moved := true }) := fun t s1 outs _ hc ht ha => by
  subst ht
  refine runGroup_completes hc ((M.bind_run (M.get_run t)).trans (callLanes_run (agree_map_const t _ _) ?_)) rfl
  rw [List.map_map, show ((·.1) ∘ fun l => (l, relTarget t b)) = (id : Nat → Nat) from rfl, List.map_id, ← ha]
  refine congrFun (doAll_congr fun l hl => ?_) t
  rw [find?_map_pair _ _ hl, relTarget_eq]

theorem peekReturns_agree {b : Base} {s : State} (h : (s.agent s.who).bound.isSome = true → ∀ l ∈ s.acting b, ∀ m ∈ s.acting b,
    ∀ a t c u, popReturn s.who l s = .ok (a, t) → popReturn s.who m s = .ok (c, u) → a = c) :
    ∃ ts, peekReturns b s = .ok (ts, s) ∧ Agree s ts := by
  refine ⟨_, rfl, fun hb x hx y hy => ?_⟩
  obtain ⟨l, hl, hlx⟩ := List.mem_filterMap.1 hx
  obtain ⟨m, hm, hmy⟩ := List.mem_filterMap.1 hy
  split at hlx
  · next a t hp =>
    split at hmy
    · next c u hq =>
      cases hlx
      cases hmy
      exact h hb l hl m hm a t c u hp hq
    · cases hmy
  · cases hlx

theorem retCompletes (b : Base) (s : State) (h : (s.agent s.who).bound.isSome = true → ∀ l ∈ s.acting b, ∀ m ∈ s.acting b,
    ∀ a t c u, popReturn s.who l s = .ok (a, t) → popReturn s.who m s = .ok (c, u) → a = c) :
    CompletesIn (.ret b) b (fun t => t = s) (fun _ => s.acting b) (fun l => do
      let a ← popReturn s.who l
      modLane s.who l fun x => x.jump a
      pure { moved := true }) := fun t s1 outs _ hc ht ha => by
  subst ht
  obtain ⟨ts, hp, hts⟩ := peekReturns_agree h
  refine runGroup_completes hc ((M.bind_run (M.get_run t)).trans ((M.bind_run hp).trans ?_)) rfl
  rw [diverges_of_agree hts, Bool.and_false, if_neg Bool.false_ne_true]
  exact eachLane_of_doAll ha

theorem callxCompletes (b : Base) (s s1 s2 : State) (xs : List (Nat × DWord)) (outs : List (Nat × LaneOut))
    (hc : s.Clear (formOf (.callx b)) b) (ha : (collect (s.acting b) fun l => do
      let x ← readSrc (formOf (.callx b)) b 0 l
      pure (l, x)) s = .ok (xs, s1)) (hx : Agree s1 xs)
    (hd : doAll (s.acting b) (fun l => do
      pushReturn s1.who l (after s1)
      modLane s1.who l fun x => x.jump ((xs.find? fun x => x.1 == l).getD (l, 0)).2
      pure { moved := true }) s1 = .ok (outs, s2)) :
    exec (.callx b) s = .next (s2.retired (formOf (.callx b)) b { outs := outs }) := by
  rw [← keys_collect ha] at hd
  rw [show exec (.callx b) s = execCallx b s from rfl]
  exact runGroup_completes hc ((M.bind_run (registerTargets_run ha)).trans (callLanes_run hx hd)) rfl

/-- Settles O18: a transfer acts on its lanes where their targets agree, and the addresses that RET would pop are those that it pops. -/
theorem controlTransfersComplete : Obligations.ControlTransfersComplete :=
  ⟨fun b => ⟨braCompletes b, brauCompletes b, brauTraps b, brxCompletes b, brcCompletes b⟩,
    fun b => ⟨callCompletes b, fun s s1 s2 xs outs _ => callxCompletes b s s1 s2 xs outs, retCompletes b⟩⟩

end Sys2Proof

/-! PROOFS. The return stack and its spill to memory (spec/07 R156). -/

namespace Sys2Proof

/-! ### Doublewords as bytes -/

theorem leNat_leBytes : ∀ n x : Nat, leNat (leBytes n x) = x % 256 ^ n
  | 0, x => (Nat.mod_one x).symm
  | n + 1, x => by
    rw [leBytes, leNat, leNat_leBytes n, Nat.pow_succ', Nat.mod_mul, BitVec.toNat_ofNat]

theorem length_leBytes : ∀ n x : Nat, (leBytes n x).length = n
  | 0, _ => rfl
  | n + 1, x => congrArg (· + 1) (length_leBytes n (x / 256))

namespace Machine

theorem length_bytesOf (n : Nat) (x : DWord) : (bytesOf n x).length = n := length_leBytes n _

theorem dwordOf_bytesOf (x : DWord) : dwordOf (bytesOf 8 x) = x := by
  rw [dwordOf, bytesOf, leNat_leBytes, Nat.mod_eq_of_lt (by exact x.isLt), BitVec.ofNat_toNat, BitVec.setWidth_eq]

/-- Four words out of the bytes that hold them. -/
theorem words_of_frame (a b c d : DWord) :
    ((List.range 4).map fun i => dwordOf ((([a, b, c, d].flatMap (bytesOf 8)).drop (8 * i)).take 8)) = [a, b, c, d] := by
  have hl := length_bytesOf 8
  have htake (x : DWord) : (bytesOf 8 x).take 8 = bytesOf 8 x := List.take_of_length_le (hl x).le
  have hdrop (x : DWord) (n : Nat) (hn : 8 ≤ n) : (bytesOf 8 x).drop n = [] := List.drop_of_length_le ((hl x).trans_le hn)
  simp [List.range_succ, List.drop_append, List.take_append, hl, htake, hdrop, dwordOf_bytesOf]

/-! ### What push and pop do -/

theorem State.length_lanes_mapLane (s : State) (k l : Nat) (f : Lane → Lane) :
    ((s.mapLane k l f).agent k).lanes.length = (s.agent k).lanes.length := by
  simp [State.mapLane]

theorem frameAddr_mapLane (s : State) (k l m n : Nat) (f : Lane → Lane) : frameAddr (s.mapLane k l f) k m n = frameAddr s k m n := by
  simp [frameAddr, State.partOf, State.partyOf, State.bank, State.mapLane]

/-- An entry goes on top of the on-chip stack. -/
def Lane.pushed (ra : DWord) (y : Lane) : Lane := { y with rstack := y.rstack ++ [ra] }

/-- The on-chip stack has gone to memory, and an entry starts the next. -/
def Lane.spilled (ra : DWord) (y : Lane) : Lane := { y with rsd := y.rsd + 1, rstack := [ra] }

/-- The on-chip stack loses its top. -/
def Lane.popped (y : Lane) : Lane := { y with rstack := y.rstack.dropLast }

/-- A frame is back from memory, without the entry that is returned. -/
def Lane.refilled (xs : List DWord) (y : Lane) : Lane := { y with rsd := y.rsd - 1, rstack := xs }

variable {s s1 : State} {k l : Nat} {ra : DWord}

theorem pushReturn_run (hn : (s.lane k l).rstack.length < 4) : pushReturn k l ra s = .ok ((), s.mapLane k l (Lane.pushed ra)) := by
  unfold pushReturn
  rw [M.bind_run (M.get_run s)]
  simp only [beq_iff_eq, hn.ne, if_false]
  rfl

/-- A push on a full stack, where it succeeds, sends the entries to the lane's next frame in memory. -/
theorem pushReturn_full (hn : (s.lane k l).rstack.length = 4) (h : pushReturn k l ra s = .ok ((), s1)) :
    (tierOf (frameAddr s k l (s.lane k l).rsd)).isSome = true ∧ (tierOf (frameAddr s k l (s.lane k l).rsd + 32 - 1)).isSome = true ∧
      s1 = (s.writeHome (frameAddr s k l (s.lane k l).rsd) ((s.lane k l).rstack.flatMap (bytesOf 8))).mapLane k l (Lane.spilled ra) := by
  have hlen : ((s.lane k l).rstack.flatMap (bytesOf 8)).length = 32 := by
    simp [List.length_flatMap, length_bytesOf, hn]
  unfold pushReturn at h
  rw [M.bind_run (M.get_run s)] at h
  simp only [hn, beq_self_eq_true, if_true] at h
  split_ifs at h
  · exact absurd h nofun
  · obtain ⟨⟨⟩, s2, hw, h⟩ := (M.bind_ok ..).1 h
    obtain ⟨h0, h1, rfl⟩ := (physWrite_ok ..).1 hw
    rw [hlen] at h1
    have some_of_any {o : Option Nat} (h : o.any (· < 2) = true) : o.isSome = true := by
      cases o
      · cases h
      · rfl
    cases h
    exact ⟨some_of_any h0, some_of_any h1, rfl⟩

theorem popReturn_run {xs : List DWord} (hn : (s.lane k l).rstack = xs ++ [ra]) :
    popReturn k l s = .ok (ra, s.mapLane k l Lane.popped) := by
  unfold popReturn
  rw [M.bind_run (M.get_run s)]
  simp only [hn, List.isEmpty_iff, List.append_eq_nil_iff, List.cons_ne_self, and_false, if_false, List.getLastD_concat]
  rfl

/-- A pop of an empty stack brings the lane's last frame back from memory. -/
theorem popReturn_frame {a b c d : DWord} {pa : Nat} (hn : (s.lane k l).rstack = []) (hd : (s.lane k l).rsd ≠ 0)
    (hpa : frameAddr s k l ((s.lane k l).rsd - 1) = pa) (he : s.eccBad pa 32 = false) (h0 : (tierOf pa).isSome = true)
    (h1 : (tierOf (pa + 32 - 1)).isSome = true) (hm : s.mem.readN pa 32 = [a, b, c, d].flatMap (bytesOf 8)) :
    popReturn k l s = .ok (d, s.mapLane k l (Lane.refilled [a, b, c])) := by
  have hr := (physRead_ok pa 32 s s _).2 ⟨h0, h1, rfl, rfl⟩
  have hd' : ((s.lane k l).rsd == 0) = false := by simpa using hd
  unfold popReturn
  rw [M.bind_run (M.get_run s)]
  simp only [hn, List.isEmpty_nil, if_true, hd', hpa, he, Bool.false_eq_true, if_false]
  refine (M.bind_run hr).trans ?_
  rw [hm, words_of_frame]
  rfl

/-- A pop after a push on a stack that has room leaves the stack as it was. -/
theorem pop_push (hl : l < (s.agent k).lanes.length) :
    let s2 := (s.mapLane k l (Lane.pushed ra)).mapLane k l Lane.popped
    popReturn k l (s.mapLane k l (Lane.pushed ra)) = .ok (ra, s2) ∧ (s2.lane k l).rstack = (s.lane k l).rstack := by
  have hs := State.lane_mapLane_same s k l (Lane.pushed ra) hl
  refine ⟨popReturn_run (congrArg Lane.rstack hs), ?_⟩
  rw [State.lane_mapLane_same _ k l _ (by rwa [State.length_lanes_mapLane]), hs]
  exact List.dropLast_concat

/-- Two pops after a push on a full stack, which went to memory at `pa`, give what was pushed and the top that was there before. -/
theorem pop_pop_spill {a b c d : DWord} {pa : Nat} (hl : l < (s.agent k).lanes.length)
    (hpa : frameAddr s k l (s.lane k l).rsd = pa) (h0 : (tierOf pa).isSome = true) (h1 : (tierOf (pa + 32 - 1)).isSome = true) :
    let s1 := (s.writeHome pa ([a, b, c, d].flatMap (bytesOf 8))).mapLane k l (Lane.spilled ra)
    ∃ s2, popReturn k l s1 = .ok (ra, s2) ∧ (s2.eccBad (frameAddr s2 k l (s.lane k l).rsd) 32 = false →
      ∃ s3, popReturn k l s2 = .ok (d, s3) ∧ (s3.lane k l).rstack = [a, b, c] ∧ (s3.lane k l).rsd = (s.lane k l).rsd) := by
  intro s1
  have hs1 : s1.lane k l = Lane.spilled ra (s.lane k l) := State.lane_mapLane_same _ k l _ hl
  have hl1 : l < (s1.agent k).lanes.length := (State.length_lanes_mapLane _ k l _).symm ▸ hl
  have hs2 : (s1.mapLane k l Lane.popped).lane k l = { s.lane k l with rsd := (s.lane k l).rsd + 1, rstack := [] } := by
    rw [State.lane_mapLane_same s1 k l _ hl1, hs1]
    rfl
  have hpa2 : frameAddr (s1.mapLane k l Lane.popped) k l (s.lane k l).rsd = pa := by
    rw [frameAddr_mapLane, frameAddr_mapLane, ← hpa]
    rfl
  have hm : (s1.mapLane k l Lane.popped).mem.readN pa 32 = [a, b, c, d].flatMap (bytesOf 8) := by
    have := Memory.readN_writeN s.mem pa ([a, b, c, d].flatMap (bytesOf 8))
    rwa [show ([a, b, c, d].flatMap (bytesOf 8)).length = 32 by simp [length_bytesOf]] at this
  refine ⟨_, popReturn_run (xs := []) (congrArg Lane.rstack hs1), fun he => ?_⟩
  rw [hpa2] at he
  refine ⟨_, popReturn_frame (by rw [hs2]) (by simp [hs2]) (by rwa [hs2]) he h0 h1 hm, ?_⟩
  rw [State.lane_mapLane_same _ k l _ (by rwa [State.length_lanes_mapLane]), hs2]
  exact ⟨rfl, rfl⟩

end Machine

open Machine

/-- Settles O19: a full stack goes to memory whole and comes back as it was. -/
theorem popReturnsWhatWasPushed : Obligations.PopReturnsWhatWasPushed := fun s s1 k l ra hl hn hp => by
  rcases Nat.lt_or_eq_of_le hn with hn | hn
  · rw [pushReturn_run hn] at hp
    cases hp
    obtain ⟨hpop, hr⟩ := pop_push (ra := ra) hl
    exact ⟨_, hpop, fun _ => ⟨hr, rfl⟩, fun h => absurd h hn.ne⟩
  · obtain ⟨h0, h1, rfl⟩ := pushReturn_full hn hp
    obtain ⟨a, b, c, d, hx⟩ : ∃ a b c d, (s.lane k l).rstack = [a, b, c, d] := by
      match (s.lane k l).rstack, hn with
      | [a, b, c, d], _ => exact ⟨a, b, c, d, rfl⟩
    rw [hx]
    obtain ⟨s2, hpop, h⟩ := pop_pop_spill (ra := ra) (a := a) (b := b) (c := c) (d := d) hl rfl h0 h1
    exact ⟨s2, hpop, fun h => absurd h (lt_irrefl 4), fun _ => h⟩

end Sys2Proof

/-! PROOFS. Reads of memory leave the lanes, and the hardware loops (spec/07 R159). -/

namespace Sys2Proof.Machine

/-- What no read of memory changes: all but memory, the cores, the parties, the logs of deterministic parties, the lines to evict and the
free values drawn, and of each agent its operations. -/
def State.stage (s : State) : State × (Nat → Agent) :=
  ({ s with mem := [], badSectors := [], cores := [], parties := [], dets := [], agents := [], evicts := [], fresh := 0 },
    fun k => { s.agent k with far := [], ops := [] })

theorem State.setAgent_stage {s : State} {k : Nat} {a : Agent}
    (h : { a with far := [], ops := [] } = { s.agent k with far := [], ops := [] }) : (s.setAgent k a).stage = s.stage := by
  refine Prod.ext rfl (funext fun j => ?_)
  by_cases hj : j = k
  · subst hj
    exact (congrArg (fun a : Agent => { a with far := [], ops := [] }) (State.agent_setAgent_same s j a)).trans h
  · exact congrArg (fun a : Agent => { a with far := [], ops := [] }) (State.agent_setAgent_other s a hj)

theorem State.performFar_stage (s : State) (o : FarOp) : (s.performFar o).stage = s.stage := by
  unfold State.performFar; split <;> rfl

theorem State.drainFar_stage (s : State) (k : Nat) (pick : FarOp → Bool) : (s.drainFar k pick).stage = s.stage := by
  unfold State.drainFar
  refine (State.setAgent_stage ?_).trans (foldl_same State.stage State.performFar_stage _ s)
  exact foldl_same (fun a : Agent => { a with far := [], ops := [] }) (f := Agent.finish) (fun _ _ => rfl) _ _

theorem State.publish_stage (s : State) (c : Nat) (pick : Nat → Bool) : (s.publish c pick).stage = s.stage := by
  have step : ∀ (s : State) (e : Nat × DirtyByte), (s.writeHome e.1 [e.2.val]).stage = s.stage := fun _ _ => rfl
  exact foldl_same State.stage step _ s

/-- A phased read ends with the marks of what was read. -/
theorem markRead_stage {p line i : Nat} {bs : List Byte} : Leaves State.stage (do
    modify fun s => s.markBytesRead p line i bs
    pure bs : M (List Byte)) :=
  .bind (.modify fun _ => rfl) fun _ => .pure

namespace Leaves

theorem physWrite_stage {pa : Nat} {bs : List Byte} : Leaves State.stage (physWrite pa bs) := fun _ _ _ h => by
  obtain ⟨-, -, rfl⟩ := (physWrite_ok ..).1 h
  rfl

theorem modCore_stage {c : Nat} {f : Core → Core} : Leaves State.stage (modCore c f) := modify fun _ => rfl

theorem spillLine_stage {va : DWord} {c part line : Nat} {bytes : List Byte} {parties : List Nat} :
    Leaves State.stage (spillLine va c part line bytes parties) := by
  refine get_bind fun s => ?_
  split
  · exact abort
  · exact bind physWrite_stage fun _ => bind modCore_stage fun _ => pure

theorem evictLine_stage {va : DWord} {c line : Nat} : Leaves State.stage (evictLine va c line) := by
  refine get_bind fun s => bind (forEach fun q => forEach fun g => ?_) fun _ => modify fun s =>
    s.publish_stage c fun a => a / 128 == line
  exact bind (modify fun s => foldl_same State.stage (f := fun s p => s.unspill c p line) (fun _ _ => rfl) _ s) fun _ =>
    bind spillLine_stage fun _ => forEach fun p => modify fun _ => rfl

theorem takeLineIn_stage {va : DWord} {c line : Nat} : Leaves State.stage (takeLineIn va c line) := by
  refine get_bind fun s => bind (modify fun _ => rfl) fun _ => bind (forEach fun _ => evictLine_stage) fun _ =>
    get_bind fun s => ite pure ?_
  split
  · exact evictLine_stage
  · exact pure

theorem phasedRead_stage {k : Nat} {va : DWord} {pa n : Nat} : Leaves State.stage (phasedRead k va pa n) := by
  refine get_bind fun s => bind require fun _ => ite (bind pure fun _ => markRead_stage) ?_
  dsimp only
  split
  · exact bind pure fun _ => bind (modify fun _ => rfl) fun _ => bind pure fun _ => markRead_stage
  · exact bind homeReady fun _ => bind require fun _ => bind takeLineIn_stage fun _ => get_bind fun _ =>
      bind modCore_stage fun _ => bind pure fun _ => bind (modify fun _ => rfl) fun _ => bind pure fun _ => markRead_stage

theorem farRead_stage {k : Nat} {va : DWord} {pa n : Nat} : Leaves State.stage (farRead k va pa n) :=
  bind (modify fun s => s.drainFar_stage k _) fun _ => homeRead

/-! ### The log of a deterministic party -/

theorem consumeEntry_stage {k : Nat} {engine : Bool} : Leaves State.stage (consumeEntry k engine) := modify fun s => by
  split
  · rfl
  · dsimp only
    split <;> rfl

theorem logEntry_stage {k kind : Nat} {mask : Word} {payload : List Byte} {opc : BitVec 8} {recs : List LaneRec}
    {op : Option Nat} {col : Option ColOp} {app : Option Append} {done group : Word} {lacks : BitVec 4} :
    Leaves State.stage (logEntry k kind mask payload opc recs op col app done group lacks) := by
  refine get_bind fun s => ?_
  split
  · exact pure
  · refine ite abort_bind (bind physWrite_stage fun _ => modify fun s => ?_)
    split <;> rfl

theorem noteLine_stage {k : Nat} {va : DWord} {paLine : Nat} {bytes : List Byte} {opc : BitVec 8} :
    Leaves State.stage (noteLine k va paLine bytes opc) := by
  refine get_bind fun s => ?_
  split
  · exact pure
  · refine ite pure (bind logEntry_stage fun _ => modify fun s => ?_)
    split <;> rfl

theorem noteFarLoad_stage {k l : Nat} {va : DWord} {bs : List Byte} {opc : BitVec 8} :
    Leaves State.stage (noteFarLoad k l va bs opc) :=
  get_bind fun _ => ite logEntry_stage pure

theorem takeLine_stage {k : Nat} {va : DWord} {line : List Byte} {paLine : Option Nat} :
    Leaves State.stage (takeLine k va line paLine) := by
  refine bind consumeEntry_stage fun _ => modify fun s => ?_
  split <;> rfl

theorem leaderLoad_stage {k : Nat} {m : Mode} {va : DWord} {n : Nat} {line : List Byte} {fresh : Bool} :
    Leaves State.stage (leaderLoad k m va n line fresh) :=
  ite (bind (attempt translate_load) fun _ => bind takeLine_stage fun _ => get_bind fun _ => pure) (get_bind fun _ => pure)

theorem privateRead_stage {k l : Nat} {va : DWord} {n : Nat} {opc : BitVec 8} :
    Leaves State.stage (privateRead k l va n opc) := by
  refine get_bind fun s => ?_
  split
  · exact pure
  · dsimp only
    split
    · refine ite (bind (modify fun _ => rfl) fun _ => bind consumeEntry_stage fun _ => pure) ?_
      split
      · exact bind consumeEntry_stage fun _ => pure
      · exact pure
      · exact ite abort abort
    · refine ite abort ?_
      split
      · exact pure
      · exact abort

theorem loadBytes_stage {k l : Nat} {m : Mode} {va : DWord} {n : Nat} {opc : BitVec 8} :
    Leaves State.stage (loadBytes k l m va n opc) := by
  refine get_bind fun s => ite privateRead_stage ?_
  split
  · exact leaderLoad_stage
  · exact bind consumeEntry_stage fun _ => pure
  · refine bind translate_load fun ph => ite ?_ ?_
    · exact bind farRead_stage fun _ => bind noteFarLoad_stage fun _ => pure
    · exact bind phasedRead_stage fun _ => get_bind fun _ => ite (bind noteLine_stage fun _ => pure) pure

/-! ### A source operand -/

theorem constRead_stage {k l : Nat} {m : Mode} {off n : Nat} : Leaves State.stage (constRead k l m off n) :=
  get_bind fun _ => loadBytes_stage

theorem readSrc_stage {f : Form} {b : Base} {i l : Nat} : Leaves State.stage (readSrc f b i l) := fun s x t h => by
  unfold readSrc at h
  dsimp only at h
  split at h
  · cases h; rfl
  · cases h; rfl
  · cases h; rfl
  · split at h
    · next hc => cases h; exact constRead_stage s _ _ hc
    · cases h

end Leaves

theorem State.of_stage_eq {s t : State} (h : t.stage = s.stage) :
    t.issue = s.issue ∧ (∀ k, (t.agent k).bound = (s.agent k).bound) ∧ ∀ k l, t.lane k l = s.lane k l := by
  obtain ⟨hs, ha⟩ := Prod.mk.inj h
  exact ⟨congrArg (·.issue) hs, fun k => congrArg (·.bound) (congrFun ha k),
    fun k l => congrArg (·.getD l Lane.absent) (congrArg (·.lanes) (congrFun ha k))⟩

theorem Leaves.collect {α β γ : Type} {part : State → γ} {xs : List α} {f : α → M β} (hf : ∀ x, Leaves part (f x)) :
    Leaves part (collect xs f) := by
  induction xs with
  | nil => exact pure
  | cons x xs ih => exact bind (hf x) fun _ => bind ih fun _ => pure

/-! ### REPEAT -/

/-- A lane opens a loop that counts a number of passes, or skips the body. -/
def Lane.repeated (start fin : DWord) (n : Word) (y : Lane) : Lane :=
  if n = 0 then y.jump fin else { y.jump start with lc1 := y.lc0, lc0 := ⟨true, y.mode, start, fin, n⟩ }

theorem repeatLane_run {k l : Nat} {start fin : DWord} {n : Word} {word : DWord} {s : State}
    (h : n = 0 ∨ (s.lane k l).lc1.valid = false) :
    repeatLane k l start fin n word s = .ok ({ moved := true }, s.mapLane k l (Lane.repeated start fin n)) := by
  unfold repeatLane
  rw [M.bind_run (M.get_run s)]
  by_cases hn : n = 0
  · subst hn
    rfl
  · have hv := h.resolve_left hn
    simp only [beq_iff_eq, hn, if_false]
    refine (M.bind_run ((require_ok _ _ _ s s).2 ⟨by simp [hv], rfl⟩)).trans ?_
    have : Lane.repeated start fin n = fun y => { y.jump start with lc1 := y.lc0, lc0 := ⟨true, y.mode, start, fin, n⟩ } :=
      funext fun y => if_neg hn
    rw [this]
    rfl

/-- Lanes that open their loops one after another, where none of them holds two. -/
theorem doAll_repeatLane_run {k : Nat} {start fin word : DWord} {c : Nat → Word} : ∀ {xs : List (Nat × DWord)} {s : State},
    (xs.map (·.1)).Nodup → (∀ x ∈ xs, c x.1 = x.2.setWidth 32) →
    (∀ x ∈ xs, x.2.setWidth 32 = (0 : Word) ∨ (s.lane k x.1).lc1.valid = false) →
    doAll (xs.map (·.1)) (fun l => repeatLane k l start fin (c l) word) s =
      .ok ((xs.map (·.1)).map fun l => (l, { moved := true }),
        xs.foldl (fun t x => t.mapLane k x.1 (Lane.repeated start fin (x.2.setWidth 32))) s)
  | [], _, _, _, _ => rfl
  | x :: xs, s, hn, hc, hv => by
    rw [List.map_cons, List.nodup_cons] at hn
    obtain ⟨hx, hn⟩ := hn
    have hc0 := hc x List.mem_cons_self
    have hrest := doAll_repeatLane_run (s := s.mapLane k x.1 (Lane.repeated start fin (x.2.setWidth 32)))
      (start := start) (fin := fin) (word := word) hn
      (fun y hy => hc y (List.mem_cons_of_mem x hy)) fun y hy => by
        have hne : y.1 ≠ x.1 := fun h => hx (h ▸ List.mem_map_of_mem (f := (·.1)) hy)
        rw [State.lane_mapLane_other s k _ hne]
        exact hv y (List.mem_cons_of_mem x hy)
    have hone := repeatLane_run (start := start) (fin := fin) (word := word) (hv x List.mem_cons_self)
    rw [← hc0] at hone
    unfold doAll at hrest ⊢
    refine (M.bind_run (M.bind_run hone)).trans ?_
    rw [hc0]
    exact M.bind_run hrest

end Sys2Proof.Machine

namespace Sys2Proof

open Machine Claims

/-- The value that a list of pairs without repeated keys holds under one of them. -/
theorem find?_key {xs : List (Nat × DWord)} (hn : (xs.map (·.1)).Nodup) {x : Nat × DWord} (hx : x ∈ xs) (d : Nat × DWord) :
    (xs.find? fun e => e.1 == x.1).getD d = x := by
  cases hf : xs.find? fun e => e.1 == x.1 with
  | none => exact absurd (List.find?_eq_none.1 hf x hx) (by simp)
  | some y =>
    have hy : (y.1 == x.1) = true := List.find?_some (p := fun e : Nat × DWord => e.1 == x.1) hf
    exact List.inj_on_of_nodup_map hn (List.mem_of_find?_eq_some hf) hx (beq_iff_eq.1 hy)

theorem repeatCompletes : Claims.RepeatCompletes := fun b s s1 xs _ hc ha hok => by
  obtain ⟨hagree, hlast, hlt, hv⟩ := hok
  have hkeys := keys_collect ha
  have hnodup : (xs.map (·.1)).Nodup := hkeys ▸ (List.nodup_range.filter _).filter _
  have hst := State.of_stage_eq (Leaves.collect (fun l => Leaves.bind Leaves.readSrc_stage fun _ => Leaves.pure) s xs s1 ha)
  obtain ⟨hissue, hbound, hlane⟩ := hst
  have hwho : s1.who = s.who := congrArg Issue.agent hissue
  have hclause : s1.clause = s.clause := by
    unfold State.clause State.issued
    rw [hwho, hissue, hlane]
  have hafter : after s1 = after s := by rw [after, hissue]; rfl
  have hnear : near s1 b = near s b := by rw [near, hissue]; rfl
  have hdiv : diverges s xs = false := diverges_of_agree fun hb => hagree (by rw [hwho, hbound]; exact hb)
  rw [hclause] at hlast
  dsimp only
  rw [hafter, hnear] at hlt ⊢
  have hrun := doAll_repeatLane_run (k := s1.who) (start := after s) (fin := near s b) (word := s.issue.word)
    (c := fun l => loWord ((xs.find? fun e => e.1 == l).getD (l, 0)).2) hnodup
    (fun x hx => by rw [find?_key hnodup hx]; rfl) hv
  rw [show exec (.repeatx b) s = execRepeatx b s from rfl]
  refine runGroup_completes hc ((M.bind_run (M.get_run s)).trans ?_) rfl
  have h1 : (s.clause.pos + 1 != s.clause.count) = false := bne_eq_false_iff_eq.2 hlast
  have h2 : ¬near s b ≤ s.issue.pc + BitVec.ofNat 64 s.issue.len := BitVec.not_le.2 hlt
  rw [relTarget_eq, h1, if_neg Bool.false_ne_true, if_neg h2]
  refine (M.bind_run ha).trans ?_
  rw [hdiv, if_neg Bool.false_ne_true, ← hwho]
  exact eachLane_of_doAll hrun

/-! ### The loop test -/

/-- A loop ends at a pc: the pc is the end of its body, in its mode. -/
def Machine.LoopReg.EndsAt (r : LoopReg) (mode : Mode) (pc : DWord) : Prop := r.valid = true ∧ mode = r.mode ∧ pc = r.fin

theorem loopTest_of_not_endsAt {mode : Mode} {pc : DWord} {l0 : LoopReg} (h : ¬l0.EndsAt mode pc) (n : Nat) (l1 : LoopReg) :
    loopTest mode (n + 1) pc l0 l1 = (pc, l0, l1, false) :=
  if_neg fun hb => h (by simpa [LoopReg.EndsAt, and_assoc] using hb)

theorem loopTest_of_endsAt {mode : Mode} {pc : DWord} {l0 : LoopReg} (h : l0.EndsAt mode pc) (n : Nat) (l1 : LoopReg) :
    loopTest mode (n + 1) pc l0 l1 =
      if l0.rem = 1 then loopTest mode n pc l1 { l1 with valid := false }
      else (l0.start, { l0 with rem := l0.rem - 1 }, l1, true) := by
  obtain ⟨hv, hm, hp⟩ := h
  have hrem : (l0.rem - 1 != 0) = !decide (l0.rem = 1) := by
    rw [bne, Bool.not_inj_iff, beq_eq_decide, decide_eq_decide, sub_eq_zero]
  rw [loopTest, hv, hm, hp, beq_self_eq_true, beq_self_eq_true, if_pos (by decide), hrem]
  by_cases h1 : l0.rem = 1
  · rw [if_pos h1, if_neg (by simp [h1])]
  · rw [if_neg h1, if_pos (by rw [decide_eq_false h1]; rfl)]

theorem goOn_of_loopTest {x : Lane} {n : Nat} {pc : DWord} {l0 l1 : LoopReg} {back : Bool} (cl : Clause)
    (h : loopTest x.mode 2 (x.pc + BitVec.ofNat 64 n) x.lc0 x.lc1 = (pc, l0, l1, back)) :
    (x.goOn n cl).pc = pc ∧ (x.goOn n cl).clause = (if back then .due else cl) ∧ (x.goOn n cl).lc0 = l0 ∧ (x.goOn n cl).lc1 = l1 := by
  unfold Lane.goOn
  rw [h]
  exact ⟨rfl, rfl, rfl, rfl⟩

theorem loopTest_holds : Claims.LoopTest := fun x n cl => by
  refine ⟨rfl, fun h0 => ?_, fun h0 h1 => ?_, fun h0 h1 h2 => ?_, fun h0 h1 h2 h3 => ?_, fun h0 h1 h2 h3 => ?_⟩
  · exact goOn_of_loopTest cl (loopTest_of_not_endsAt h0 1 _)
  · exact goOn_of_loopTest cl ((loopTest_of_endsAt h0 1 _).trans (if_neg h1))
  · obtain ⟨hpc, hcl, hl0, hl1⟩ := goOn_of_loopTest cl
      ((loopTest_of_endsAt h0 1 _).trans ((if_pos h1).trans (loopTest_of_not_endsAt h2 0 _)))
    exact ⟨hpc, hcl, hl0, congrArg (·.valid) hl1⟩
  · obtain ⟨hpc, hcl, hl0, hl1⟩ := goOn_of_loopTest cl
      ((loopTest_of_endsAt h0 1 _).trans ((if_pos h1).trans ((loopTest_of_endsAt h2 0 _).trans (if_neg h3))))
    exact ⟨hpc, hcl, hl0, congrArg (·.valid) hl1⟩
  · obtain ⟨hpc, hcl, hl0, hl1⟩ := goOn_of_loopTest cl
      ((loopTest_of_endsAt h0 1 _).trans ((if_pos h1).trans ((loopTest_of_endsAt h2 0 _).trans (if_pos h3))))
    exact ⟨hpc, hcl, congrArg (·.valid) hl0, congrArg (·.valid) hl1⟩

/-- Settles O20: REPEAT opens the loop of each lane in turn, and the loop test runs through the two loop registers. -/
theorem loopsComplete : Obligations.LoopsComplete := ⟨repeatCompletes, loopTest_holds⟩

end Sys2Proof

/-! PROOFS. The special functions complete with their results under way, and leave the rest of the machine (spec/07 R170, 05 R125). -/

namespace Sys2Proof

open Machine Claims

/-! ### The values of the special functions -/

theorem f32_fround (v : FVal) : Ty.f32.fround v .rne = (rneF32 v).setWidth 64 := by
  have hlt := f32Fmt.round_lt (by decide) v .rne false
  exact (BitVec.setWidth_ofNat_of_le_of_lt (by decide) hlt).symm

theorem f32_fval (x : DWord) : Ty.f32.fval x = f32Val (x.setWidth 32) := by
  rw [Ty.fval, f32Val, BitVec.toNat_setWidth]
  rfl

theorem sfuResult_eq (f : FVal → FVal) (x : Operands) : sfuResult f x = (rneF32 (f (f32Val (x.a.setWidth 32)))).setWidth 64 := by
  rw [sfuResult, f32_fround, f32_fval]

theorem fdivResult_eq (x : Operands) :
    fdivResult x = (rneF32 ((f32Val (x.a.setWidth 32)).div (f32Val (x.b.setWidth 32)))).setWidth 64 := by
  rw [fdivResult, f32_fround, f32_fval, f32_fval]

/-- A special function writes what its rule gives, rounded once. -/
theorem computes_of_special {i : Instr} {b : Base} {g v : Operands → DWord} (hexec : ∀ s, exec i s = runResult (formOf i) b .f32 g s)
    (hg : ∀ x, g x = v x) : Computes i b .f32 v :=
  computes_of_runResult hexec fun _ _ x => by rw [hg]; rfl

theorem specialFunctions_complete : Claims.SpecialFunctionsComplete := fun _ =>
  ⟨computes_of_special (fun _ => rfl) (sfuResult_eq _), computes_of_special (fun _ => rfl) (sfuResult_eq _),
    computes_of_special (fun _ => rfl) (sfuResult_eq _), computes_of_special (fun _ => rfl) (sfuResult_eq _),
    computes_of_special (fun _ => rfl) (sfuResult_eq _), computes_of_special (fun _ => rfl) (sfuResult_eq _),
    computes_of_special (fun _ => rfl) (sfuResult_eq _), computes_of_special (fun _ => rfl) (sfuResult_eq _),
    computes_of_special (fun _ => rfl) fdivResult_eq⟩

/-! ### What the retirement of a computing instruction leaves -/

namespace Machine

/-- A lane without what its own progress changes: the pc, the clause, the loops, the wait and the counts. -/
def Lane.own (x : Lane) : Lane :=
  { x with pc := 0, clause := .due, lc0 := .none, lc1 := .none, wait := none, since := 0, age := 0, kept := none, slow := false, rwc := 0 }

/-- The machine without an agent's registers and results, the uses of the cores' registers, the names and free values drawn, and the
answers to remote reads. -/
def State.aside (k : Nat) (s : State) : State × (Nat → Option Agent) × (Nat → Core) × (Nat → Lane) :=
  ({ s with agents := [], cores := [], remotes := [], fresh := 0, uid := 0 }, fun j => if j = k then none else some (s.agent j),
    fun c => { s.core c with vfile := [] }, fun l => (s.lane k l).own)

/-- The same with the results of the agent that are on their way. -/
def State.course (k : Nat) (s : State) : (State × (Nat → Option Agent) × (Nat → Core) × (Nat → Lane)) × List Flight :=
  (s.aside k, (s.agent k).flights)

variable {s t : State} {k : Nat}

theorem State.aside_setAgent {a : Agent} (h : a.lanes = (s.agent k).lanes) : (s.setAgent k a).aside k = s.aside k := by
  have hother (j : Nat) : (if j = k then none else some ((s.setAgent k a).agent j)) = if j = k then none else some (s.agent j) := by
    split_ifs with hj
    · rfl
    · rw [State.agent_setAgent_other s a hj]
  have hlane (l : Nat) : (s.setAgent k a).lane k l = s.lane k l := by
    rw [State.lane, State.agent_setAgent_same, h]
    rfl
  exact Prod.ext rfl (Prod.ext (funext hother) (Prod.ext rfl (funext fun l => congrArg Lane.own (hlane l))))

theorem State.course_setAgent {a : Agent} (hl : a.lanes = (s.agent k).lanes) (hf : a.flights = (s.agent k).flights) :
    (s.setAgent k a).course k = s.course k :=
  Prod.ext (State.aside_setAgent hl) ((congrArg Agent.flights (State.agent_setAgent_same s k a)).trans hf)

theorem State.course_mapLane (l : Nat) {f : Lane → Lane} (h : ∀ x, (f x).own = x.own) : (s.mapLane k l f).course k = s.course k := by
  have hlane (m : Nat) : ((s.mapLane k l f).lane k m).own = (s.lane k m).own := by
    by_cases hm : m = l
    · subst hm
      by_cases hlt : m < (s.agent k).lanes.length
      · rw [State.lane_mapLane_same s k m f hlt, h]
      · have hlen : (s.agent k).lanes.length ≤ m := Nat.le_of_not_lt hlt
        rw [State.lane, State.lane, List.getD_eq_default _ _ hlen, List.getD_eq_default]
        rwa [State.length_lanes_mapLane]
    · rw [State.lane_mapLane_other s k f hm]
  have hother (j : Nat) : (if j = k then none else some ((s.mapLane k l f).agent j)) = if j = k then none else some (s.agent j) := by
    split_ifs with hj
    · rfl
    · rw [State.agent_mapLane_other s l f hj]
  have hflights : ((s.mapLane k l f).agent k).flights = (s.agent k).flights := by
    simp [State.mapLane]
  exact Prod.ext (Prod.ext rfl (Prod.ext (funext hother) (Prod.ext rfl (funext hlane)))) hflights

theorem Lane.own_advance (n : Nat) (x : Lane) : (x.advance n).own = x.own := rfl

theorem Lane.own_sleep (w : Wait) (c : DWord) (x : Lane) : (x.sleep w c).own = x.own := by
  unfold Lane.sleep
  split_ifs <;> rfl

theorem State.course_advance (ls : List Nat) :
    (ls.foldl (fun s l => s.mapLane k l fun x => x.advance s.issue.len) s).course k = s.course k :=
  foldl_same (State.course k) (fun _ l => State.course_mapLane l (Lane.own_advance _)) ls s

theorem State.course_sleep (ls : List Nat) (w : Wait) : (s.sleep k ls w).course k = s.course k :=
  foldl_same (State.course k) (fun _ l => State.course_mapLane l (Lane.own_sleep w _)) ls s

theorem State.course_useAnswers (ls : List Nat) : (s.useAnswers k ls).course k = s.course k := State.course_setAgent rfl rfl

theorem State.course_useRegs (f : Form) (b : Base) : (s.useRegs f b).course k = s.course k := by
  unfold State.useRegs
  dsimp only
  split_ifs
  · rfl
  · refine Prod.ext (Prod.ext rfl (Prod.ext rfl (Prod.ext (funext fun c => ?_) rfl))) rfl
    by_cases hc : c = coreOf s.who
    · subst hc
      exact congrArg (fun x : Core => { x with vfile := [] }) (State.core_setCore_same ..)
    · exact congrArg (fun x : Core => { x with vfile := [] }) (State.core_setCore_other _ _ hc)

/-! ### Retirement -/

theorem Agent.lanes_kill (a : Agent) (r l : Nat) : (a.kill r l).lanes = a.lanes := rfl

theorem Agent.lanes_killRegs (a : Agent) (rs ls : List Nat) : (a.killRegs rs ls).lanes = a.lanes :=
  foldl_same Agent.lanes (fun a r => foldl_same Agent.lanes (fun a l => a.lanes_kill r l) ls a) rs a

/-- A group's lanes do nothing but write. -/
def GroupOut.OnlyWrites (g : GroupOut) : Prop :=
  g.traps = [] ∧ g.after = [] ∧ ∀ o ∈ g.outs, o.2.moved = false ∧ o.2.hold = none ∧ o.2.stay = none

theorem State.sleepOuts_none {outs : List (Nat × LaneOut)} {w : LaneOut → Option Wait} (h : ∀ o ∈ outs, w o.2 = none) :
    s.sleepOuts k outs w = s := by
  unfold State.sleepOuts
  induction outs with
  | nil => rfl
  | cons o outs ih =>
    rw [List.foldl_cons, h o List.mem_cons_self]
    exact ih fun o ho => h o (List.mem_cons_of_mem _ ho)

theorem State.countMem_of_not_memClass {f : Form} (h : memClass f.opc = false) (b : Base) (g : GroupOut) (due : Option Nat) :
    s.countMem f b g due = s := by
  simp [State.countMem, h]

theorem GroupOut.lanesBy_eq_nil {g : GroupOut} {p : LaneOut → Bool} (h : ∀ o ∈ g.outs, p o.2 = false) : g.lanesBy p = [] := by
  rw [GroupOut.lanesBy, List.filter_eq_nil_iff.2 fun o ho => by simp [h o ho]]
  rfl

/-- What the writes of a group leave, once its lanes have gone on and the sources' last uses have ended. -/
def State.written (s : State) (f : Form) (b : Base) (going : List Nat) (ws : List (Dest × Word)) : State :=
  let t := going.foldl (fun t l => t.mapLane s.who l fun x => x.advance t.issue.len)
    (s.setAgent s.who ((s.agent s.who).killRegs (lastUse f b) going))
  if f.flagged && !ws.isEmpty then t.launchFlight s.who (flagOf s.clause b.fs) (heldByFlag f.opc) going ws
  else t.setAgent s.who ((t.agent s.who).commit ws)

/-- How a group whose lanes do nothing but write retires, of an instruction that is neither counted nor sampled. -/
theorem State.course_retired {f : Form} {b : Base} {g : GroupOut} (hmem : memClass f.opc = false) (hfb : (f.opc == 0xFB) = false)
    (hg : g.OnlyWrites) : ∃ going, (s.retired f b g).course s.who = (s.written f b going g.writes).course s.who := by
  obtain ⟨htraps, hafter, houts⟩ := hg
  have hmoved : g.lanesBy (fun o => o.moved) = [] := GroupOut.lanesBy_eq_nil fun o ho => (houts o ho).1
  have hheld : (g.outs.any fun o => o.2.hold == some .held) = false :=
    List.any_eq_false.2 fun o ho => by simp [(houts o ho).2.1]
  have hfilter (ls : List Nat) : (ls.filter fun l => !([] : List Nat).contains l) = ls := List.filter_true ls
  refine ⟨s.issued.filter fun l => !(g.traps.map (·.1) ++ g.lanesBy fun o => o.stay.isSome).contains l, ?_⟩
  rw [State.retired, GroupOut.joined_going fun o ho => (houts o ho).2.2, State.course_useRegs]
  generalize hgoing : (s.issued.filter fun l => !(g.traps.map (·.1) ++ g.lanesBy fun o => o.stay.isSome).contains l) = going
  unfold State.retire
  dsimp only
  rw [State.countMem_of_not_memClass hmem, hgoing, hmoved, hfilter, hheld, if_neg Bool.false_ne_true,
    State.sleepOuts_none fun o ho => (houts o ho).2.1, State.sleepOuts_none fun o ho => (houts o ho).2.2, hmem, hfb, htraps, hafter]
  generalize hw : (if (f.flagged && !g.writes.isEmpty) = true then _ else _ : State) = t
  have ht : s.written f b going g.writes = t := hw
  rw [ht, if_neg (show ¬(false || false) = true from Bool.false_ne_true)]
  split <;> exact State.course_useAnswers (s := t) (k := s.who) going

theorem State.launchFlight_leaves (flag : Option Nat) (held : Bool) (ls : List Nat) (ws : List (Dest × Word)) :
    (s.launchFlight k flag held ls ws).aside k = s.aside k ∧
      ((s.launchFlight k flag held ls ws).agent k).flights = (s.agent k).flights ++ [⟨s.uid, flag, ws, true⟩] := by
  let t : State := { s.setAgent k ((s.agent k).launch ⟨s.uid, flag, ws, true⟩) with uid := s.uid + 1 }
  have ht : t.aside k = s.aside k ∧ (t.agent k).flights = (s.agent k).flights ++ [⟨s.uid, flag, ws, true⟩] :=
    ⟨State.aside_setAgent (a := (s.agent k).launch ⟨s.uid, flag, ws, true⟩) rfl, congrArg Agent.flights (State.agent_setAgent_same s k _)⟩
  have hc : (s.launchFlight k flag held ls ws).course k = t.course k := by
    unfold State.launchFlight
    dsimp only
    split
    · exact State.course_sleep (s := t) ls _
    · rfl
  exact ⟨(congrArg Prod.fst hc).trans ht.1, (congrArg Prod.snd hc).trans ht.2⟩

theorem State.written_leaves {f : Form} (hflag : f.flagged = true) (b : Base) (going : List Nat) (ws : List (Dest × Word)) :
    (s.written f b going ws).aside s.who = s.aside s.who ∧
      (ws ≠ [] → (⟨s.uid, flagOf s.clause b.fs, ws, true⟩ : Flight) ∈ ((s.written f b going ws).agent s.who).flights) := by
  unfold State.written
  dsimp only
  generalize hv : s.setAgent s.who ((s.agent s.who).killRegs (lastUse f b) going) = v
  have hkill : v.aside s.who = s.aside s.who := hv ▸ State.aside_setAgent (Agent.lanes_killRegs ..)
  generalize hu : going.foldl (fun t l => t.mapLane s.who l fun x => x.advance t.issue.len) v = u
  have hgo : u.aside s.who = s.aside s.who := (congrArg Prod.fst (hu ▸ State.course_advance going)).trans hkill
  have huid : u.uid = s.uid := by
    rw [← hu, ← hv]
    exact foldl_same (f := fun (t : State) l => t.mapLane s.who l fun x => x.advance t.issue.len) State.uid (fun _ _ => rfl) going _
  cases ws with
  | nil =>
    rw [hflag]
    exact ⟨(State.aside_setAgent (a := (u.agent s.who).commit []) rfl).trans hgo, fun h => absurd rfl h⟩
  | cons w ws =>
    obtain ⟨ha, hf⟩ := u.launchFlight_leaves (k := s.who) (flagOf s.clause b.fs) (heldByFlag f.opc) going (w :: ws)
    rw [hflag]
    refine ⟨ha.trans hgo, fun _ => ?_⟩
    rw [← huid]
    exact hf ▸ List.mem_append_right _ List.mem_cons_self

/-- A flagged instruction of the compute classes, whose lanes do nothing but write, sends its results on their way and leaves the rest. -/
theorem State.retired_leaves {f : Form} {b : Base} {g : GroupOut} (hmem : memClass f.opc = false) (hfb : (f.opc == 0xFB) = false)
    (hflag : f.flagged = true) (hg : g.OnlyWrites) :
    (s.retired f b g).aside s.who = s.aside s.who ∧
      (g.writes ≠ [] → (⟨s.uid, flagOf s.clause b.fs, g.writes, true⟩ : Flight) ∈ ((s.retired f b g).agent s.who).flights) := by
  obtain ⟨going, hc⟩ := State.course_retired (s := s) (b := b) hmem hfb hg
  obtain ⟨ha, hf⟩ := s.written_leaves hflag b going g.writes
  have hflights : ((s.retired f b g).agent s.who).flights = ((s.written f b going g.writes).agent s.who).flights := congrArg Prod.snd hc
  exact ⟨(congrArg Prod.fst hc).trans ha, fun h => by rw [hflights]; exact hf h⟩

theorem elsewhere_of_aside (h : t.aside s.who = s.aside s.who) : Elsewhere s t ∧ ∀ l, Steady (s.lane s.who l) (t.lane s.who l) := by
  obtain ⟨hs, h⟩ := Prod.mk.inj h
  obtain ⟨ha, h⟩ := Prod.mk.inj h
  obtain ⟨hc, hl⟩ := Prod.mk.inj h
  refine ⟨⟨congrArg (·.mem) hs, fun k hk => ?_, congrArg (·.parties) hs, congrArg (·.teams) hs, congrArg (·.camps) hs,
    congrArg (·.dies) hs, congrArg (·.parts) hs, congrArg (·.dets) hs, congrArg (·.harts) hs, congrArg (·.logs) hs,
    congrArg (·.locks) hs, congrArg (·.waits) hs, congrArg (·.platform) hs, congrFun hc⟩, fun l => ?_⟩
  · have := congrFun ha k
    rw [if_neg hk, if_neg hk] at this
    exact Option.some.inj this
  · have := congrFun hl l
    exact ⟨congrArg (·.exited) this, congrArg (·.mode) this, congrArg (·.rstack) this, congrArg (·.rsd) this,
      congrArg (·.t) this, congrArg (·.h) this, congrArg (·.dbg) this, congrArg (·.randPos) this⟩

/-- Effects that succeed in each lane, and leave the state. -/
theorem doAll_run {act : Nat → M LaneOut} {o : Nat → LaneOut} (h : ∀ l, act l s = .ok (o l, s)) : ∀ ls : List Nat,
    doAll ls act s = .ok (ls.map fun l => (l, o l), s)
  | [] => rfl
  | l :: ls => (M.bind_run (M.bind_run (h l))).trans (M.bind_run (doAll_run h ls))

end Machine

/-! ### The special functions -/

theorem regWrites_ne_nil (b : Base) (l r : Nat) (wide : Bool) (x : DWord) : regWrites b l r wide x ≠ [] := by
  cases wide <;> exact List.cons_ne_nil _ _

theorem doers_ne_nil {s : State} {b : Base} (h : s.acting b ≠ []) : s.doers b ≠ [] := by
  obtain ⟨l, ls, hl⟩ := List.exists_cons_of_ne_nil h
  cases hk : b.dk with
  | scl => simp [State.doers_scl hk, hl]
  | vec => simpa [State.doers_vec hk] using h

/-- A computing instruction of one flagged result, whose operands lie in registers and literals, sends the results on their way. -/
theorem resultsFly {i : Instr} {b : Base} {t : Ty} {v : Operands → DWord} (hi : Computes i b t v)
    (hmem : memClass (formOf i).opc = false) (hfb : ((formOf i).opc == 0xFB) = false) (hflag : (formOf i).flagged = true) (s : State)
    (hw : i.WellFormed) (hc : s.Clear (formOf i) b) (hb : noWindow b) :
    ∃ u, exec i s = .next u ∧ Elsewhere s u ∧ (∀ l, Steady (s.lane s.who l) (u.lane s.who l)) ∧
      (s.acting b ≠ [] → ∃ f ∈ (u.agent s.who).flights, f.uid = s.uid ∧ f.known = true ∧ f.flag = flagOf s.clause b.fs ∧
        f.writes = (s.doers b).flatMap fun l => match readSrcs (formOf i) b l s with
          | .ok (x, _) => regWrites b l b.dst.toNat t.is64 (v x)
          | .error _ => []) := by
  obtain ⟨h0, h1, h2⟩ := hb
  choose x hx using fun l => readSrcs_at_once (f := formOf i) (b := b) (fun j hj _ => by interval_cases j <;> assumption) l s
  have hd := doAll_run (s := s) (o := fun l => { writes := regWrites b l b.dst.toNat t.is64 (v (x l)) })
    (act := fun l => do
      let x ← readSrcs (formOf i) b l
      let t' ← get
      pure { writes := (fun _ l => fun x => regWrites b l b.dst.toNat t.is64 (v x)) t' l x }) (fun l => M.bind_run (hx l)) (s.doers b)
  generalize hg : ({ outs := (s.doers b).map fun l => (l, { writes := regWrites b l b.dst.toNat t.is64 (v (x l)) }) } : GroupOut) = g
  have honly : g.OnlyWrites := hg ▸ ⟨rfl, rfl, fun o ho => by
    obtain ⟨l, -, rfl⟩ := List.mem_map.1 ho
    exact ⟨rfl, rfl, rfl⟩⟩
  have hwrites : g.writes = (s.doers b).flatMap fun l => regWrites b l b.dst.toNat t.is64 (v (x l)) := by
    rw [← hg, GroupOut.writes, List.flatMap_map]
  obtain ⟨ha, hf⟩ := s.retired_leaves (b := b) hmem hfb hflag honly
  obtain ⟨he, hl⟩ := elsewhere_of_aside ha
  refine ⟨s.retired (formOf i) b g, (hi s s _ hw hc trivial hd).trans (by rw [hg]), he, hl, fun hact => ?_⟩
  refine ⟨_, hf ?_, rfl, rfl, rfl, ?_⟩
  · obtain ⟨l, ls, hls⟩ := List.exists_cons_of_ne_nil (doers_ne_nil hact)
    rw [hwrites, hls, List.flatMap_cons]
    exact List.append_ne_nil_of_left_ne_nil (regWrites_ne_nil b l _ _ _) _
  · rw [hwrites]
    exact List.flatMap_congr fun l _ => by rw [hx l]

/-- Settles O59: what lies beside the results of a group is left by each step of its retirement. -/
theorem specialFunctionResultsFly : Obligations.SpecialFunctionResultsFly := fun b => by
  obtain ⟨hrcp, hrsq, hsqrt, hex2, hlg2, hsin, hcos, htanh, hdiv⟩ := specialFunctions_complete b
  intro of_ all e he
  simp only [all, List.mem_cons, List.not_mem_nil, or_false] at he
  rcases he with rfl | rfl | rfl | rfl | rfl | rfl | rfl | rfl | rfl
  · exact resultsFly hrcp rfl rfl rfl
  · exact resultsFly hrsq rfl rfl rfl
  · exact resultsFly hsqrt rfl rfl rfl
  · exact resultsFly hex2 rfl rfl rfl
  · exact resultsFly hlg2 rfl rfl rfl
  · exact resultsFly hsin rfl rfl rfl
  · exact resultsFly hcos rfl rfl rfl
  · exact resultsFly htanh rfl rfl rfl
  · exact resultsFly hdiv rfl rfl rfl

end Sys2Proof

/-! PROOFS. Rounding in every mode, with saturation too (spec/06 R141): the step, the whole number it gives (R144), and the encoding that a
format gives to it. -/

namespace Sys2Proof

open Machine Claims

/-! ### A step between two whole numbers -/

section
variable {n r d : Nat}

/-- The exact value `n + r / d` is `n` or lies between its two neighbours. -/
theorem roundStep_le_of_le (mode : RMode) (neg : Bool) (hr : r < d) {i : Nat} (h : (n + r / d : ℚ) ≤ i) : roundStep mode neg n r d ≤ i := by
  have hd : (0 : ℚ) < d := by exact_mod_cast (Nat.zero_le r).trans_lt hr
  rcases Nat.eq_zero_or_pos r with rfl | hpos
  · rw [roundStep_zero]
    rw [Nat.cast_zero, zero_div, add_zero] at h
    exact_mod_cast h
  · have hr0 : (0 : ℚ) < r / d := div_pos (by exact_mod_cast hpos) hd
    have hlt : n < i := by exact_mod_cast (by linarith : (n : ℚ) < i)
    exact (roundStep_le mode neg n r d).2.trans hlt

theorem le_roundStep_of_le (mode : RMode) (neg : Bool) (hr : r < d) {i : Nat} (h : (i : ℚ) ≤ n + r / d) : i ≤ roundStep mode neg n r d := by
  have hr1 : (r / d : ℚ) < 1 := (div_lt_one (by exact_mod_cast (Nat.zero_le r).trans_lt hr)).2 (by exact_mod_cast hr)
  have hle : i < n + 1 := by exact_mod_cast (by linarith : (i : ℚ) < n + 1)
  exact (Nat.lt_succ_iff.1 hle).trans (roundStep_le mode neg n r d).1

/-- The same for whole numbers of either sign, past which a magnitude does not lie below zero. -/
theorem roundStep_le_of_le_int (mode : RMode) (neg : Bool) (hr : r < d) {i : Int} (h : (n + r / d : ℚ) ≤ i) :
    (roundStep mode neg n r d : Int) ≤ i := by
  have hi : 0 ≤ i := by exact_mod_cast (show (0 : ℚ) ≤ n + r / d by positivity).trans h
  lift i to Nat using hi
  exact_mod_cast roundStep_le_of_le mode neg hr (by exact_mod_cast h)

theorem le_roundStep_of_le_int (mode : RMode) (neg : Bool) (hr : r < d) {i : Int} (h : (i : ℚ) ≤ n + r / d) :
    i ≤ (roundStep mode neg n r d : Int) := by
  rcases le_or_gt i 0 with hi | hi
  · exact hi.trans (Int.natCast_nonneg _)
  · lift i to Nat using hi.le
    exact_mod_cast le_roundStep_of_le mode neg hr (by exact_mod_cast h)

/-- A mode that names the side of zero for a sign. -/
def RMode.inward (mode : RMode) (neg : Bool) : Bool := mode == .rz || mode == (if neg then .ru else .rd)

/-- A mode that names the side away from zero for a sign. -/
def RMode.outward (mode : RMode) (neg : Bool) : Bool := mode == (if neg then .rd else .ru)

theorem roundStep_of_inward {mode : RMode} {neg : Bool} (h : mode.inward neg = true) (n r d : Nat) : roundStep mode neg n r d = n := by
  by_cases hr : r = 0
  · rw [hr, roundStep_zero]
  · unfold roundStep
    rw [if_neg hr]
    cases mode <;> cases neg <;> simp [RMode.inward] at h ⊢

theorem le_roundStep_of_outward {mode : RMode} {neg : Bool} (h : mode.outward neg = true) (hr : r < d) :
    (n + r / d : ℚ) ≤ roundStep mode neg n r d := by
  have hr1 : (r / d : ℚ) < 1 := (div_lt_one (by exact_mod_cast (Nat.zero_le r).trans_lt hr)).2 (by exact_mod_cast hr)
  rcases Nat.eq_zero_or_pos r with rfl | hpos
  · simp
  · have hs : roundStep mode neg n r d = n + 1 := by
      unfold roundStep
      rw [if_neg hpos.ne']
      cases mode <;> cases neg <;> simp [RMode.outward] at h ⊢
    rw [hs]
    push_cast
    linarith

end

/-! ### The whole number that a quotient is rounded to -/

section
variable {num : Int} {den : Nat}

/-- The parts of a quotient's magnitude: a whole number and a rest. -/
theorem natAbs_div_eq (num : Int) (hd : 0 < den) :
    (num.natAbs / den : ℚ) = (num.natAbs / den : Nat) + ((num.natAbs % den : Nat) : ℚ) / den := by
  have hd0 : (den : ℚ) ≠ 0 := by exact_mod_cast hd.ne'
  rw [div_eq_iff hd0, add_mul, div_mul_cancel₀ _ hd0]
  exact_mod_cast (Nat.div_add_mod' num.natAbs den).symm

theorem roundInt_eq (mode : RMode) (num : Int) (den : Nat) : (roundInt mode num den : ℚ) =
    signed (decide (num < 0)) (roundStep mode (decide (num < 0)) (num.natAbs / den) (num.natAbs % den) den) := by
  unfold roundInt signed
  dsimp only
  split_ifs <;> push_cast <;> rfl

theorem abs_signed (s : Bool) {x : ℚ} (hx : 0 ≤ x) : |signed s x| = x := by
  cases s
  · exact abs_of_nonneg hx
  · exact (abs_neg x).trans (abs_of_nonneg hx)

theorem signed_mul (s : Bool) (x y : ℚ) : signed s x * signed s y = x * y := by
  cases s
  · rfl
  · exact neg_mul_neg x y

/-- Rounding stays on the side of every whole number on which the value lies. -/
theorem le_roundInt (mode : RMode) (hd : 0 < den) {c : Int} (h : (c : ℚ) ≤ num / den) : c ≤ roundInt mode num den := by
  rw [← signed_natAbs_div, natAbs_div_eq num hd] at h
  have hr := Nat.mod_lt num.natAbs hd
  unfold roundInt
  dsimp only
  split_ifs with hneg
  · rw [signed, if_pos hneg] at h
    rw [hneg]
    exact le_neg.1 (roundStep_le_of_le_int mode true hr (by push_cast; exact le_neg.1 h))
  · rw [signed, if_neg hneg] at h
    rw [Bool.eq_false_of_not_eq_true hneg]
    exact le_roundStep_of_le_int mode false hr h

theorem roundInt_le (mode : RMode) (hd : 0 < den) {c : Int} (h : (num / den : ℚ) ≤ c) : roundInt mode num den ≤ c := by
  rw [← signed_natAbs_div, natAbs_div_eq num hd] at h
  have hr := Nat.mod_lt num.natAbs hd
  unfold roundInt
  dsimp only
  split_ifs with hneg
  · rw [signed, if_pos hneg] at h
    rw [hneg]
    exact neg_le.1 (le_roundStep_of_le_int mode true hr (by push_cast; exact neg_le.1 h))
  · rw [signed, if_neg hneg] at h
    rw [Bool.eq_false_of_not_eq_true hneg]
    exact roundStep_le_of_le_int mode false hr h

end

/-! ### The encoding of a rounded quotient -/

/-- An encoding without its sign, past the finite ones too, is what a mode picks for a positive magnitude. -/
def Fmt.Picks (f : Fmt) (mode : RMode) (neg : Bool) (x : ℚ) (k : Nat) : Prop :=
  ∃ (q : Int) (n r d : Nat), r < d ∧ f.Spaced x q ∧ x = (n + r / d) * 2 ^ q ∧ f.magnitude k = roundStep mode neg n r d * 2 ^ q

/-- Rounding picks an encoding, and gives it where it is finite. -/
theorem Fmt.round_picks (f : Fmt) {num : Int} {den : Nat} (hn : num ≠ 0) (hd : 0 < den) (mode : RMode) (sat : Bool) :
    ∃ k, f.Picks mode (decide (num < 0)) (num.natAbs / den) k ∧ f.round (.fin num den) mode sat =
      if k ≤ f.maxEnc then f.signBit (decide (num < 0)) + k else f.overflow mode sat (decide (num < 0)) := by
  have hs := f.spaced_log2Quot (Int.natAbs_pos.2 hn) hd
  set q := max (log2Quot num.natAbs den - f.mbits) f.minExp
  have hround : f.round (.fin num den) mode sat =
      match scaleQuot num.natAbs den q with
      | (a, d) => match f.encMag (roundStep mode (decide (num < 0)) (a / d) (a % d) d) q with
        | some e => f.signBit (decide (num < 0)) + e
        | none => f.overflow mode sat (decide (num < 0)) := rfl
  have hpos := scaleQuot_pos num.natAbs hd q
  have hdiv := scaleQuot_div num.natAbs den q
  generalize scaleQuot num.natAbs den q = p at hround hpos hdiv
  obtain ⟨a, d⟩ := p
  have hr := Nat.mod_lt a hpos
  have hx : (num.natAbs / den : ℚ) = ((a / d : Nat) + (a % d : Nat) / d) * 2 ^ q := by
    rw [← div_eq_iff (two_zpow_pos q).ne', ← hdiv]
    exact natAbs_div_eq (num := (a : Int)) hpos
  obtain ⟨hlo, hhi⟩ := roundStep_le mode (decide (num < 0)) (a / d) (a % d) d
  obtain ⟨hlt, hmin⟩ := hs.floor hx (by positivity) ((div_lt_one (by exact_mod_cast hpos)).2 (by exact_mod_cast hr))
  obtain ⟨k, hk, henc⟩ := f.encMag_spec (Nat.le_trans hhi hlt) hs.minExp_le fun h => hmin (hlo.trans_lt h)
  refine ⟨k, ⟨q, a / d, a % d, d, hr, hs, hx, hk⟩, ?_⟩
  simp only [hround, henc]
  split_ifs <;> rfl

/-- A magnitude of the grid that is no smaller than one spaced by 2^q is a whole number of those spacings. -/
theorem Fmt.magnitude_eq_mul {f : Fmt} {q : Int} {j : Nat} (h : q ≤ f.exp j) :
    f.magnitude j = (f.sig j * 2 ^ (f.exp j - q).toNat : Nat) * 2 ^ q := by
  push_cast
  rw [pow_toNat_eq_zpow (sub_nonneg.2 h), mul_assoc, ← zpow_add₀ two_ne_zero, sub_add_cancel, magnitude]

/-- A significand at a spacing of the format lies on the grid. -/
theorem Fmt.exists_magnitude (f : Fmt) : ∀ (i : Nat) {m : Nat}, m ≤ 2 ^ (f.mbits + 1) → ∃ k, f.magnitude k = m * 2 ^ (f.minExp + i)
  | 0, m, hm => by
    obtain ⟨k, hk, -⟩ := f.encMag_spec hm (q := f.minExp) le_rfl fun _ => rfl
    exact ⟨k, by simpa using hk⟩
  | i + 1, m, hm => by
    rcases Nat.lt_or_ge m (2 ^ f.mbits) with h | h
    · obtain ⟨k, hk⟩ := f.exists_magnitude i (m := 2 * m) (by rw [pow_succ]; omega)
      refine ⟨k, hk.trans ?_⟩
      rw [Nat.cast_succ, ← add_assoc, zpow_add_one₀ two_ne_zero]
      push_cast
      ring
    · obtain ⟨k, hk, -⟩ := f.encMag_spec hm (q := f.minExp + (i + 1 : Nat)) (by omega) fun hlt => absurd hlt h.not_gt
      exact ⟨k, hk⟩

namespace Fmt.Picks

variable {f : Fmt} {mode : RMode} {neg : Bool} {x : ℚ} {k j : Nat}

/-- What is picked lies on the side of every encoding on which the value lies. -/
theorem le_of_le (h : f.Picks mode neg x k) (hj : x ≤ f.magnitude j) : k ≤ j := by
  obtain ⟨q, n, r, d, hr, hs, rfl, hk⟩ := h
  have hq : q ≤ f.exp j := by
    by_contra hq
    rw [not_le] at hq
    exact absurd ((hs.le ((f.minExp_le_exp j).trans_lt hq)).trans hj) ((f.spaced_magnitude j).lt_of_lt hq).not_ge
  refine f.magnitude_strictMono.le_iff_le.1 ?_
  rw [f.magnitude_eq_mul hq] at hj ⊢
  rw [hk]
  refine mul_le_mul_of_nonneg_right ?_ (two_zpow_pos q).le
  exact_mod_cast roundStep_le_of_le mode neg hr (le_of_mul_le_mul_right hj (two_zpow_pos q))

theorem ge_of_ge (h : f.Picks mode neg x k) (hj : f.magnitude j ≤ x) : j ≤ k := by
  obtain ⟨q, n, r, d, hr, hs, rfl, hk⟩ := h
  refine f.magnitude_strictMono.le_iff_le.1 ?_
  rw [hk]
  rcases le_or_gt q (f.exp j) with hq | hq
  · rw [f.magnitude_eq_mul hq] at hj ⊢
    refine mul_le_mul_of_nonneg_right ?_ (two_zpow_pos q).le
    exact_mod_cast le_roundStep_of_le mode neg hr (le_of_mul_le_mul_right hj (two_zpow_pos q))
  · refine ((f.spaced_magnitude j).lt_of_lt hq).le.trans (mul_le_mul_of_nonneg_right ?_ (two_zpow_pos q).le)
    have hle := le_of_mul_le_mul_right (hs.le ((f.minExp_le_exp j).trans_lt hq)) (two_zpow_pos q)
    exact_mod_cast le_roundStep_of_le mode neg hr (i := 2 ^ f.mbits) (by push_cast; exact hle)

/-- A value of the grid is picked itself. -/
theorem eq_of_eq (h : f.Picks mode neg x k) (hj : x = f.magnitude j) : k = j := le_antisymm (h.le_of_le hj.le) (h.ge_of_ge hj.ge)

theorem le_of_inward (h : f.Picks mode neg x k) (hm : mode.inward neg = true) : f.magnitude k ≤ x := by
  obtain ⟨q, n, r, d, hr, hs, rfl, hk⟩ := h
  rw [hk, roundStep_of_inward hm]
  refine mul_le_mul_of_nonneg_right ?_ (two_zpow_pos q).le
  exact le_add_of_nonneg_right (by positivity)

theorem ge_of_outward (h : f.Picks mode neg x k) (hm : mode.outward neg = true) : x ≤ f.magnitude k := by
  obtain ⟨q, n, r, d, hr, hs, rfl, hk⟩ := h
  rw [hk]
  exact mul_le_mul_of_nonneg_right (le_roundStep_of_outward hm hr) (two_zpow_pos q).le

/-- A significand at a spacing of the format is picked as it is. -/
theorem of_significand (h : f.Picks mode neg x k) {m : Nat} {p : Int} (hm : m ≤ 2 ^ (f.mbits + 1)) (hp : f.minExp ≤ p)
    (hx : x = m * 2 ^ p) : f.magnitude k = x := by
  obtain ⟨i, rfl⟩ : ∃ i : Nat, p = f.minExp + i := ⟨(p - f.minExp).toNat, by omega⟩
  obtain ⟨j, hj⟩ := f.exists_magnitude i hm
  rw [h.eq_of_eq (hx.trans hj.symm), hj, hx]

end Fmt.Picks

end Sys2Proof

/-! PROOFS. Conversions to integers (spec/06 R144): what each mode picks, and the ends of the range. -/

namespace Sys2Proof

open Machine Claims

/-! ### What each mode picks -/

section
variable {num : Int} {den : Nat}

/-- The distance of a rounded value from the exact one, by the parts of the magnitude. -/
theorem abs_sub_roundInt (mode : RMode) (num : Int) (hd : 0 < den) : |(num / den : ℚ) - roundInt mode num den| =
    |((num.natAbs / den : Nat) + ((num.natAbs % den : Nat) : ℚ) / den) -
      roundStep mode (decide (num < 0)) (num.natAbs / den) (num.natAbs % den) den| := by
  rw [roundInt_eq, ← signed_natAbs_div num den, abs_signed_sub, natAbs_div_eq num hd]

theorem roundInt_rne (num : Int) (hd : 0 < den) : |(num / den : ℚ) - roundInt .rne num den| ≤ 1 / 2 ∧
    (|(num / den : ℚ) - roundInt .rne num den| = 1 / 2 → 2 ∣ roundInt .rne num den) := by
  have hdvd : (2 : Int) ∣ roundInt .rne num den ↔ 2 ∣ roundStep .rne (decide (num < 0)) (num.natAbs / den) (num.natAbs % den) den := by
    unfold roundInt
    dsimp only
    split_ifs
    · rw [dvd_neg]; exact Int.natCast_dvd_natCast
    · exact Int.natCast_dvd_natCast
  rw [abs_sub_roundInt .rne num hd, hdvd]
  have hr := Nat.mod_lt num.natAbs hd
  generalize num.natAbs / den = n at *
  generalize num.natAbs % den = r at *
  have hd0 : (0 : ℚ) < den := by exact_mod_cast hd
  have h0 : (0 : ℚ) ≤ r / den := by positivity
  have hhalf : (r / den : ℚ) * 2 = (2 * r : Nat) / den := by push_cast; ring
  have hne : (r / den : ℚ) * 2 ≤ 1 → 1 ≤ (r / den : ℚ) * 2 → 2 * r = den := fun h1 h2 => by
    have := le_antisymm h1 h2
    rw [hhalf, div_eq_one_iff_eq hd0.ne'] at this
    exact_mod_cast this
  have hle : 2 * r ≤ den ↔ (r / den : ℚ) * 2 ≤ 1 := by rw [hhalf, div_le_one hd0]; exact Nat.cast_le.symm
  have hge : den ≤ 2 * r ↔ 1 ≤ (r / den : ℚ) * 2 := by rw [hhalf, one_le_div hd0]; exact Nat.cast_le.symm
  rcases lt_trichotomy (2 * r) den with hlt | heq | hgt
  · have hstep : roundStep .rne (decide (num < 0)) n r den = n := by
      rw [roundStep_rne, if_pos hlt, ite_self]
    have := hle.1 hlt.le
    rw [hstep, add_sub_cancel_left, abs_of_nonneg h0]
    exact ⟨by linarith, fun h => absurd (hne this (by linarith)) hlt.ne⟩
  · have hstep : roundStep .rne (decide (num < 0)) n r den = n + n % 2 := by
      rw [roundStep_rne, if_neg (by omega), if_neg (by omega), if_neg (by omega)]
    have hh : (r / den : ℚ) = 1 / 2 := by linarith [hle.1 heq.le, hge.1 heq.ge]
    rw [hstep, hh]
    refine ⟨?_, fun _ => by omega⟩
    rcases Nat.mod_two_eq_zero_or_one n with h | h
    · rw [h]; norm_num
    · rw [h]; push_cast; rw [add_sub_add_left_eq_sub]; norm_num
  · have hstep : roundStep .rne (decide (num < 0)) n r den = n + 1 := by
      rw [roundStep_rne, if_neg (by omega), if_neg (by omega), if_pos hgt]
    have := hge.1 hgt.le
    have h1 : (r / den : ℚ) < 1 := (div_lt_one hd0).2 (by exact_mod_cast hr)
    rw [hstep, Nat.cast_succ, add_sub_add_left_eq_sub, abs_of_neg (by linarith)]
    exact ⟨by linarith, fun h => absurd (hne (by linarith) this) hgt.ne'⟩

theorem roundInt_rz (num : Int) (hd : 0 < den) : 0 ≤ (num / den : ℚ) * roundInt .rz num den ∧
    |(roundInt .rz num den : ℚ)| ≤ |(num / den : ℚ)| ∧ |(num / den : ℚ)| < |(roundInt .rz num den : ℚ)| + 1 := by
  have hr1 : ((num.natAbs % den : Nat) / den : ℚ) < 1 :=
    (div_lt_one (by exact_mod_cast hd)).2 (by exact_mod_cast Nat.mod_lt num.natAbs hd)
  have h0 : (0 : ℚ) ≤ (num.natAbs % den : Nat) / den := by positivity
  rw [roundInt_eq, ← signed_natAbs_div num den, signed_mul, abs_signed _ (Nat.cast_nonneg _), abs_signed _ (by positivity),
    natAbs_div_eq num hd, roundStep_of_inward (by simp [RMode.inward])]
  exact ⟨by positivity, le_add_of_nonneg_right h0, by linarith⟩

/-- Every mode stays within one of the exact value. -/
theorem abs_sub_roundInt_lt (mode : RMode) (num : Int) (hd : 0 < den) : |(num / den : ℚ) - roundInt mode num den| < 1 := by
  rw [abs_sub_roundInt mode num hd]
  have hr := Nat.mod_lt num.natAbs hd
  generalize num.natAbs / den = n
  generalize num.natAbs % den = r at *
  have hd0 : (0 : ℚ) < den := by exact_mod_cast hd
  have h1 : (r / den : ℚ) < 1 := (div_lt_one hd0).2 (by exact_mod_cast hr)
  obtain ⟨hlo, hhi⟩ := roundStep_le mode (decide (num < 0)) n r den
  have hlo : (n : ℚ) ≤ roundStep mode (decide (num < 0)) n r den := by exact_mod_cast hlo
  have hhi : (roundStep mode (decide (num < 0)) n r den : ℚ) ≤ n + 1 := by exact_mod_cast hhi
  rcases Nat.eq_zero_or_pos r with rfl | hpos
  · simp
  · have h0 : (0 : ℚ) < r / den := div_pos (by exact_mod_cast hpos) hd0
    exact abs_lt.2 ⟨by linarith, by linarith⟩

theorem roundInt_lt_add_one (mode : RMode) (num : Int) (hd : 0 < den) : (roundInt mode num den : ℚ) < num / den + 1 := by
  linarith [(abs_lt.1 (abs_sub_roundInt_lt mode num hd)).1]

theorem lt_roundInt_add_one (mode : RMode) (num : Int) (hd : 0 < den) : (num / den : ℚ) < roundInt mode num den + 1 := by
  linarith [(abs_lt.1 (abs_sub_roundInt_lt mode num hd)).2]

/-- Upward, the whole number lies above: away from zero for a positive value, towards it for a negative one. -/
theorem le_roundInt_ru (num : Int) (hd : 0 < den) : (num / den : ℚ) ≤ roundInt .ru num den := by
  have hr := Nat.mod_lt num.natAbs hd
  rw [roundInt_eq, ← signed_natAbs_div num den, natAbs_div_eq num hd]
  cases decide (num < 0)
  · exact le_roundStep_of_outward rfl hr
  · rw [roundStep_of_inward rfl]
    exact neg_le_neg (le_add_of_nonneg_right (by positivity))

theorem roundInt_rd_le (num : Int) (hd : 0 < den) : (roundInt .rd num den : ℚ) ≤ num / den := by
  have hr := Nat.mod_lt num.natAbs hd
  rw [roundInt_eq, ← signed_natAbs_div num den, natAbs_div_eq num hd]
  cases decide (num < 0)
  · rw [roundStep_of_inward rfl]
    exact le_add_of_nonneg_right (by positivity)
  · exact neg_le_neg (le_roundStep_of_outward rfl hr)

theorem floor_mul_div (n d : Nat) : ⌊(2 : ℚ) ^ 32 * (n / d)⌋ = (2 ^ 32 * n / d : Nat) := by
  rw [mul_div_assoc', ← Nat.cast_ofNat, ← Nat.cast_pow, ← Nat.cast_mul, Rat.floor_natCast_div_natCast]
  rfl

theorem roundStep_rs {u : Nat} {neg : Bool} {n r d : Nat} (hr : 0 < r) : roundStep (.rs u) neg n r d =
    if neg then (if u < 2 ^ 32 * (d - r) / d then n else n + 1) else (if u < 2 ^ 32 * r / d then n + 1 else n) := if_neg hr.ne'

theorem roundInt_rs (u : Nat) (num : Int) (hd : 0 < den) : roundInt (.rs u) num den =
    ⌊(num / den : ℚ)⌋ + if (u : Int) < ⌊2 ^ 32 * ((num / den : ℚ) - ⌊(num / den : ℚ)⌋)⌋ then 1 else 0 := by
  have hr := Nat.mod_lt num.natAbs hd
  rw [← signed_natAbs_div num den, natAbs_div_eq num hd]
  unfold roundInt
  dsimp only
  generalize num.natAbs / den = n
  generalize num.natAbs % den = r at *
  have hd0 : (0 : ℚ) < den := by exact_mod_cast hd
  have h1 : (r / den : ℚ) < 1 := (div_lt_one hd0).2 (by exact_mod_cast hr)
  rcases Nat.eq_zero_or_pos r with rfl | hpos
  · obtain ⟨c, hc, hc'⟩ : ∃ c : Int, signed (decide (num < 0)) (n + (0 : Nat) / den) = c ∧
        (if decide (num < 0) = true then -(n : Int) else n) = c := by
      refine ⟨_, ?_, rfl⟩
      cases decide (num < 0) <;> simp [signed]
    rw [roundStep_zero, hc, hc', Int.floor_intCast, sub_self, mul_zero, Int.floor_zero, if_neg (by omega), add_zero]
  have h0 : (0 : ℚ) < r / den := div_pos (by exact_mod_cast hpos) hd0
  rw [roundStep_rs hpos]
  cases decide (num < 0)
  · have hfloor : ⌊(n + r / den : ℚ)⌋ = n := Int.floor_eq_iff.2 ⟨by push_cast; linarith, by push_cast; linarith⟩
    simp only [signed, Bool.false_eq_true, if_false]
    rw [hfloor, Int.cast_natCast, add_sub_cancel_left, floor_mul_div]
    split_ifs <;> omega
  · have hfloor : ⌊-(n + r / den : ℚ)⌋ = -(n + 1 : Nat) := Int.floor_eq_iff.2 ⟨by push_cast; linarith, by push_cast; linarith⟩
    have hrest : -(n + r / den : ℚ) - (-(n + 1 : Nat) : Int) = (den - r : Nat) / den := by
      rw [Nat.cast_sub hr.le, sub_div, div_self hd0.ne']
      push_cast
      ring
    simp only [signed, if_true]
    rw [hfloor, hrest, floor_mul_div]
    split_ifs <;> omega

end

/-! ### The values of a conversion to an integer -/

/-- A wrapped integer of the type's range is itself. -/
theorem Ty.intVal_wrap (t : Ty) {e : Int} (hlo : t.minInt ≤ e) (hhi : e ≤ t.maxInt) : t.intVal (t.wrap e) = e := by
  rw [t.intVal_eq, low_wrap, valueOf]
  unfold Ty.minInt Ty.maxInt at *
  cases hs : t.isSigned
  · simp only [hs, Bool.false_eq_true, if_false] at *
    rw [BitVec.toNat_ofInt, Int.toNat_of_nonneg (Int.emod_nonneg _ (by positivity))]
    exact Int.emod_eq_of_lt hlo (by push_cast; omega)
  · simp only [hs, if_true] at *
    exact BitVec.toInt_ofInt_eq_self t.bits_pos hlo (by omega)

theorem Ty.minInt_le_maxInt (t : Ty) : t.minInt ≤ 0 ∧ 0 < t.maxInt := by cases t <;> decide

theorem Ty.intVal_sat (t : Ty) (e : Int) : t.intVal (t.sat e) = max t.minInt (min t.maxInt e) := by
  obtain ⟨hmin, hmax⟩ := t.minInt_le_maxInt
  exact t.intVal_wrap (le_max_left _ _) (max_le (by omega) (min_le_left _ _))

/-- What an operand of a floating type may be: a NaN, an infinity, a zero or a nonzero quotient. -/
theorem Fmt.decode_cases (f : Fmt) (he : 0 < f.ebits) {x : Nat} (hx : x < 2 ^ f.bits) : f.decode x = .nan ∨ (∃ s, f.decode x = .inf s) ∨
    (∃ s, f.decode x = .zero s) ∨ ∃ n d, f.decode x = .fin n d ∧ n ≠ 0 ∧ 0 < d := by
  obtain ⟨s, k, hk, rfl⟩ := f.exists_signBit_add hx
  rw [f.decode_signBit_add he s hk]
  split_ifs
  · rcases eq_or_ne (f.sig k) 0 with h0 | h0
    · rw [h0]
      exact .inr (.inr (.inl ⟨s, rfl⟩))
    · obtain ⟨n, d, h, hn, hd, -⟩ := dyadic_fin s h0 (f.exp k)
      exact .inr (.inr (.inr ⟨n, d, h, hn, hd⟩))
  · exact .inr (.inl ⟨s, rfl⟩)
  · exact .inl rfl

theorem Ty.fval_cases {t : Ty} (he : 0 < t.fmt.ebits) (x : DWord) : t.fval x = .nan ∨ (∃ s, t.fval x = .inf s) ∨
    (∃ s, t.fval x = .zero s) ∨ ∃ n d, t.fval x = .fin n d ∧ n ≠ 0 ∧ 0 < d :=
  t.fmt.decode_cases he (Nat.mod_lt _ (Nat.two_pow_pos _))

theorem isInt_of_integers : ∀ t ∈ [Ty.i8, .n8, .i16, .n16, .i32, .n32, .i64, .n64], t.isInt = true := by decide

theorem isInt_of_floats : ∀ t ∈ [Ty.f32, .f16, .bf16, .e4m3, .e5m2, .e2m1], t.isInt = false := by decide

/-- A floating value converts to the integer that the mode picks, brought into the range. -/
theorem convert_float_int {t f : Ty} (ht : t.isInt = true) (hf : f.isInt = false) (x : DWord) (m : RMode) (sat : Bool) :
    convert t f x m sat = t.ofFloat (f.fval x) m := by
  simp [convert, ht, hf]

theorem convert_int_int {t g : Ty} (ht : t.isInt = true) (hg : g.isInt = true) (x : DWord) (m : RMode) (sat : Bool) :
    convert t g x m sat = if sat then t.sat (g.intVal x) else t.wrap (g.intVal x) := by
  simp [convert, ht, hg]

/-- The integer that a finite value gives. -/
theorem Ty.intVal_ofFloat_fin (t : Ty) (n : Int) (d : Nat) (m : RMode) :
    t.intVal (t.ofFloat (.fin n d) m) = max t.minInt (min t.maxInt (roundInt m n d)) := t.intVal_sat _

/-- A value in the range gives the whole number that the mode picks. -/
theorem Ty.intVal_ofFloat_of_mem {t : Ty} {n : Int} {d : Nat} (hd : 0 < d) (m : RMode) (hlo : (t.minInt : ℚ) ≤ n / d)
    (hhi : (n / d : ℚ) ≤ t.maxInt) : t.intVal (t.ofFloat (.fin n d) m) = roundInt m n d := by
  rw [t.intVal_ofFloat_fin, min_eq_right (roundInt_le m hd hhi), max_eq_right (le_roundInt m hd hlo)]

theorem conversionsToIntegers : Claims.ConversionsToIntegers := fun t ht => by
  have hti := isInt_of_integers t ht
  obtain ⟨hmin, hmax⟩ := t.minInt_le_maxInt
  have hzero : t.intVal 0 = 0 := by
    have := t.intVal_wrap hmin hmax.le
    rwa [Ty.wrap, Int.zero_emod] at this
  refine ⟨fun f hf x m sat => ?_, fun g hg x m => ?_⟩
  · obtain ⟨he, -, -⟩ := fmt_of_floating f hf
    simp only [convert_float_int hti (isInt_of_floats f hf)]
    rcases f.fval_cases he x with h | ⟨s, h⟩ | ⟨s, h⟩ | ⟨n, d, h, hn, hd⟩ <;> rw [h]
    · exact ⟨fun _ => rfl, nofun, fun hf => absurd hf.1 nofun, fun hf => absurd hf.1 nofun, fun hf => absurd hf.1 nofun, trivial⟩
    · refine ⟨nofun, fun g hg => ?_, fun hf => absurd rfl (hf.2 s), fun hf => absurd rfl (hf.2 s), fun hf => absurd rfl (hf.2 s), trivial⟩
      cases hg
      cases s
      · exact t.intVal_wrap (hmin.trans hmax.le) le_rfl
      · exact t.intVal_wrap le_rfl (hmin.trans hmax.le)
    · rw [show t.intVal (t.ofFloat (.zero s) m) = 0 from hzero]
      refine ⟨nofun, nofun, fun _ hge => absurd hmax (Int.not_lt.2 (Int.cast_le.1 (hge.trans_eq Int.cast_zero.symm))), fun _ hle => ?_, fun _ _ _ => ?_, trivial⟩
      · exact le_antisymm (Int.cast_le.1 (Int.cast_zero.trans_le hle)) hmin
      · cases m <;> simp [rational]
    · refine ⟨nofun, nofun, fun _ hge => ?_, fun _ hle => ?_, fun _ hlo hhi => ?_, trivial⟩
      · rw [t.intVal_ofFloat_fin, min_eq_left (le_roundInt m hd hge), max_eq_right (hmin.trans hmax.le)]
      · rw [t.intVal_ofFloat_fin, max_eq_left ((min_le_right _ _).trans (roundInt_le m hd hle))]
      · rw [Ty.intVal_ofFloat_of_mem hd m hlo hhi]
        cases m with
        | rne => exact roundInt_rne n hd
        | rz => exact roundInt_rz n hd
        | ru => exact ⟨le_roundInt_ru n hd, roundInt_lt_add_one .ru n hd⟩
        | rd => exact ⟨roundInt_rd_le n hd, lt_roundInt_add_one .rd n hd⟩
        | rs u => exact roundInt_rs u n hd
  · rw [convert_int_int hti (isInt_of_integers g hg), convert_int_int hti (isInt_of_integers g hg)]
    exact ⟨t.wrap_eq _, t.intVal_sat _⟩

end Sys2Proof

/-! PROOFS. Conversions to floating types (spec/06 R144, R141): a whole number rounded once, a narrower value kept, a wider one rounded. -/

namespace Sys2Proof

open Machine Claims

/-! ### Values of encodings -/

theorem rational_dyadic (s : Bool) (n : Nat) (e : Int) : rational (dyadic s n e) = signed s (n * 2 ^ e) := by
  rcases eq_or_ne n 0 with rfl | hn
  · cases s <;> simp [dyadic_zero, rational, signed]
  · obtain ⟨num, den, hd, -, -, hq, hs⟩ := dyadic_fin s hn e
    rw [hd, ← hq, ← hs, signed_natAbs_div]
    rfl

theorem dyadic_finite (s : Bool) (n : Nat) (e : Int) : (dyadic s n e).isNan = false ∧ ∀ g, dyadic s n e ≠ .inf g := by
  unfold dyadic
  dsimp only
  split_ifs <;> exact ⟨rfl, nofun⟩

theorem Fmt.decode_of_le (f : Fmt) (he : 0 < f.ebits) (s : Bool) {k : Nat} (hk : k ≤ f.maxEnc) :
    f.decode (f.signBit s + k) = dyadic s (f.sig k) (f.exp k) := by
  rw [f.decode_signBit_add he s (hk.trans_lt f.maxEnc_lt), if_pos hk]

/-- The largest finite value of a format is the magnitude of its encoding. -/
theorem Fmt.rational_maxEnc (f : Fmt) (he : 0 < f.ebits) : rational (f.decode f.maxEnc) = f.magnitude f.maxEnc := by
  have h := f.decode_of_le he false le_rfl
  rw [show f.signBit false + f.maxEnc = f.maxEnc from Nat.zero_add _] at h
  rw [h, rational_dyadic]
  rfl

/-- The value of a rounded quotient, by the encoding that is picked: the encoding's where that is finite, and the largest finite one with
saturation where it is past it. -/
theorem fval_fround_fin {t : Ty} (ht : t ∈ [Ty.f32, .f16, .bf16, .e4m3, .e5m2, .e2m1]) {num : Int} {den : Nat} (hn : num ≠ 0)
    (hd : 0 < den) (m : RMode) (sat : Bool) : ∃ k, t.fmt.Picks m (decide (num < 0)) (num.natAbs / den) k ∧
      (k ≤ t.fmt.maxEnc → t.fval (t.fround (.fin num den) m sat) = dyadic (decide (num < 0)) (t.fmt.sig k) (t.fmt.exp k)) ∧
      (t.fmt.maxEnc ≤ k → sat = true →
        t.fround (.fin num den) m sat = BitVec.ofNat 64 (t.fmt.signBit (decide (num < 0)) + t.fmt.maxEnc)) := by
  obtain ⟨he, hbits, h64⟩ := fmt_of_floating t ht
  obtain ⟨k, hk, hround⟩ := t.fmt.round_picks hn hd m sat
  refine ⟨k, hk, fun hle => ?_, fun hge hsat => ?_⟩
  · rw [Ty.fround, hround, if_pos hle, Ty.fval_ofNat (hbits.trans_le h64) (t.fmt.signBit_add_lt _ (hle.trans_lt t.fmt.maxEnc_lt)),
      t.fmt.decode_of_le he _ hle]
  · rw [Ty.fround, hround]
    split_ifs with hle
    · rw [le_antisymm hle hge]
    · subst hsat
      rfl

theorem fval_fround_zero {t : Ty} (ht : t ∈ [Ty.f32, .f16, .bf16, .e4m3, .e5m2, .e2m1]) (s : Bool) (m : RMode) (sat : Bool) :
    t.fval (t.fround (.zero s) m sat) = .zero s := by
  obtain ⟨he, hbits, h64⟩ := fmt_of_floating t ht
  have hpos := Nat.zero_le t.fmt.maxEnc
  rw [Ty.fround, show t.fmt.round (.zero s) m sat = t.fmt.signBit s + 0 from rfl,
    Ty.fval_ofNat (hbits.trans_le h64) (t.fmt.signBit_add_lt s (hpos.trans_lt t.fmt.maxEnc_lt)), t.fmt.decode_of_le he s hpos,
    (t.fmt.sig_eq_zero 0).2 rfl, dyadic_zero]

/-! ### Whole numbers -/

theorem signed_le_signed {s : Bool} {x y : ℚ} (h : if s then y ≤ x else x ≤ y) : signed s x ≤ signed s y := by
  cases s
  · exact h
  · exact neg_le_neg h

theorem signed_natAbs (n : Int) : signed (decide (n < 0)) n.natAbs = n := by
  have := signed_natAbs_div n 1
  rwa [Nat.cast_one, div_one, div_one] at this

/-- A whole number of no more bits than a significand has an encoding of no more than that of the first longer one. -/
theorem fmt_whole : ∀ t ∈ [Ty.f32, .f16, .bf16, .e4m3, .e5m2, .e2m1], t.fmt.minExp ≤ 0 ∧
    (t.fmt.mbits + 1 + t.fmt.bias) * 2 ^ t.fmt.mbits ≤ t.fmt.maxEnc := by decide

theorem Fmt.magnitude_whole (f : Fmt) : f.magnitude ((f.mbits + 1 + f.bias) * 2 ^ f.mbits) = 2 ^ (f.mbits + 1) := by
  have h := f.magnitude_mul_add (e := f.mbits + 1 + f.bias) (r := 0) (by omega) (Nat.zero_le _)
  rw [Nat.add_zero] at h
  rw [h, show ((f.mbits + 1 + f.bias : Nat) : Int) - f.bias - f.mbits = 1 by push_cast; ring]
  push_cast
  ring

theorem wholeToFloat {t : Ty} (ht : t ∈ [Ty.f32, .f16, .bf16, .e4m3, .e5m2, .e2m1]) {n : Int} (hn : n ≠ 0) (m : RMode) (sat : Bool) :
    let r := t.fval (t.fround (.fin n 1) m sat)
    let top := rational (t.fmt.decode t.fmt.maxEnc)
    (n.natAbs ≤ 2 ^ (t.fmt.mbits + 1) → r.isNan = false ∧ (∀ s, r ≠ .inf s) ∧ rational r = n) ∧
    (|(n : ℚ)| ≤ top → (m = .rz → |rational r| ≤ |(n : ℚ)|) ∧ (m = .ru → n ≤ rational r) ∧ (m = .rd → rational r ≤ n)) ∧
    (top < |(n : ℚ)| → sat = true →
      t.fround (.fin n 1) m sat = BitVec.ofNat 64 (t.fmt.signBit (decide (n < 0)) + t.fmt.maxEnc)) := by
  obtain ⟨he, -, -⟩ := fmt_of_floating t ht
  obtain ⟨hmin, hwhole⟩ := fmt_whole t ht
  obtain ⟨k, hk, hfin, hsat⟩ := fval_fround_fin ht hn one_pos m sat
  have habs : |(n : ℚ)| = n.natAbs := by rw [Nat.cast_natAbs, Int.cast_abs]
  rw [Nat.cast_one, div_one] at hk
  dsimp only
  rw [t.fmt.rational_maxEnc he, habs]
  refine ⟨fun hbits => ?_, fun htop => ?_, fun htop => hsat (hk.ge_of_ge htop.le)⟩
  · have hle : k ≤ t.fmt.maxEnc := (hk.le_of_le (by rw [t.fmt.magnitude_whole]; exact_mod_cast hbits)).trans hwhole
    have hmag := hk.of_significand hbits hmin (by rw [zpow_zero, mul_one])
    obtain ⟨hnan, hinf⟩ := dyadic_finite (decide (n < 0)) (t.fmt.sig k) (t.fmt.exp k)
    rw [hfin hle]
    exact ⟨hnan, hinf, by rw [rational_dyadic, ← Fmt.magnitude, hmag, signed_natAbs]⟩
  · rw [hfin (hk.le_of_le htop), rational_dyadic, ← Fmt.magnitude, abs_signed _ (t.fmt.magnitude_nonneg k)]
    refine ⟨fun hm => hk.le_of_inward (by subst hm; rfl), fun hm => ?_, fun hm => ?_⟩
    · rw [← signed_natAbs n]
      refine signed_le_signed ?_
      cases hneg : decide (n < 0) <;> rw [hneg, hm] at hk
      · exact hk.ge_of_outward rfl
      · exact hk.le_of_inward rfl
    · rw [← signed_natAbs n]
      refine signed_le_signed ?_
      cases hneg : decide (n < 0) <;> rw [hneg, hm] at hk
      · exact hk.le_of_inward rfl
      · exact hk.ge_of_outward rfl

/-! ### Narrower floating values -/

theorem FVal.eq_fin {a b : Int} {c d : Nat} (hc : 0 < c) (hd : 0 < d) (h : (a / c : ℚ) = b / d) : (FVal.fin a c).eq (.fin b d) = true := by
  have hmul : a * d = b * c := by
    rw [div_eq_div_iff (by exact_mod_cast hc.ne') (by exact_mod_cast hd.ne')] at h
    exact_mod_cast h
  simp [FVal.eq, FVal.lt, FVal.isNan, FVal.totalLt, hmul]

theorem dyadic_eq {s : Bool} {m n : Nat} {p q : Int} (h : (m * 2 ^ p : ℚ) = n * 2 ^ q) :
    (dyadic s m p).eq (dyadic s n q) = true ∧ (dyadic s m p).isNeg = (dyadic s n q).isNeg := by
  have hzero : m = 0 ↔ n = 0 := by
    have h0 : (m * 2 ^ p : ℚ) = 0 ↔ (n * 2 ^ q : ℚ) = 0 := by rw [h]
    rwa [mul_eq_zero_iff_right (two_zpow_pos p).ne', mul_eq_zero_iff_right (two_zpow_pos q).ne', Nat.cast_eq_zero, Nat.cast_eq_zero] at h0
  rcases eq_or_ne m 0 with hm | hm
  · rw [hm, hzero.1 hm, dyadic_zero, dyadic_zero]
    cases s <;> exact ⟨rfl, rfl⟩
  · obtain ⟨a, c, hd, -, hc, hq, hs⟩ := dyadic_fin s hm p
    obtain ⟨a', c', hd', -, hc', hq', hs'⟩ := dyadic_fin s (mt hzero.2 hm) q
    rw [hd, hd']
    refine ⟨FVal.eq_fin hc hc' ?_, hs.trans hs'.symm⟩
    rw [← signed_natAbs_div, ← signed_natAbs_div, hs, hs', hq, hq', h]

/-- A wider format keeps what a narrower one has: its significands, its least spacing, its infinities and its largest value. -/
theorem fmt_wider : ∀ f ∈ [Ty.f32, .f16, .bf16, .e4m3, .e5m2, .e2m1], ∀ t ∈ [Ty.f32, .f16, .bf16, .e4m3, .e5m2, .e2m1], f.bits < t.bits →
    f.fmt.mbits ≤ t.fmt.mbits ∧ t.fmt.minExp ≤ f.fmt.minExp ∧ (f.fmt.special = .ieee → t.fmt.special = .ieee) ∧
    let p := f.fmt.exp f.fmt.maxEnc
    let q := t.fmt.exp t.fmt.maxEnc
    f.fmt.sig f.fmt.maxEnc * 2 ^ (p - q).toNat ≤ t.fmt.sig t.fmt.maxEnc * 2 ^ (q - p).toNat := by decide

theorem mul_two_zpow_le {a b : Nat} {p q : Int} (h : a * 2 ^ (p - q).toNat ≤ b * 2 ^ (q - p).toNat) : (a * 2 ^ p : ℚ) ≤ b * 2 ^ q := by
  have split (p q : Int) (a : Nat) : (a * 2 ^ p : ℚ) = (a * 2 ^ (p - q).toNat : Nat) * 2 ^ min p q := by
    push_cast
    rw [← zpow_natCast, mul_assoc, ← zpow_add₀ two_ne_zero, show ((p - q).toNat : Int) + min p q = p by omega]
  rw [split p q, split q p, min_comm q p]
  exact mul_le_mul_of_nonneg_right (by exact_mod_cast h) (two_zpow_pos _).le

/-- A finite value of a narrower format is a value of the wider one. -/
theorem fval_fround_dyadic {f t : Ty} (hf : f ∈ [Ty.f32, .f16, .bf16, .e4m3, .e5m2, .e2m1]) (ht : t ∈ [Ty.f32, .f16, .bf16, .e4m3, .e5m2, .e2m1])
    (hw : f.bits < t.bits) (s : Bool) {k : Nat} (hk : k ≤ f.fmt.maxEnc) :
    ∃ (n : Nat) (e : Int), (n * 2 ^ e : ℚ) = f.fmt.magnitude k ∧ t.fval (t.fround (dyadic s (f.fmt.sig k) (f.fmt.exp k)) .rne) = dyadic s n e := by
  obtain ⟨hmbits, hmin, -, hmax⟩ := fmt_wider f hf t ht hw
  obtain ⟨he, hbits, h64⟩ := fmt_of_floating t ht
  rcases eq_or_ne (f.fmt.sig k) 0 with h0 | h0
  · refine ⟨0, 0, by rw [Fmt.magnitude, h0]; simp, ?_⟩
    rw [h0, dyadic_zero, dyadic_zero, fval_fround_zero ht]
  · obtain ⟨num, den, hdy, hn, hd, hq, hs⟩ := dyadic_fin s h0 (f.fmt.exp k)
    obtain ⟨j, hj, hfin, -⟩ := fval_fround_fin ht hn hd .rne false
    rw [hq] at hj
    have hsig : f.fmt.sig k ≤ 2 ^ (t.fmt.mbits + 1) :=
      (f.fmt.sig_lt k).le.trans (Nat.pow_le_pow_right two_pos (Nat.succ_le_succ hmbits))
    have hmag := hj.of_significand hsig (hmin.trans (f.fmt.minExp_le_exp k)) rfl
    have hle : j ≤ t.fmt.maxEnc :=
      hj.le_of_le ((f.fmt.magnitude_strictMono.monotone hk).trans (mul_two_zpow_le hmax))
    exact ⟨t.fmt.sig j, t.fmt.exp j, hmag, by rw [hdy, hfin hle, hs]⟩

theorem fval_fround_inf {t : Ty} (ht : t ∈ [Ty.f32, .f16, .bf16, .e4m3, .e5m2, .e2m1]) (hieee : t.fmt.special = .ieee) (s : Bool) :
    t.fval (t.fround (.inf s) .rne) = .inf s := by
  obtain ⟨he, hbits, h64⟩ := fmt_of_floating t ht
  obtain ⟨htop, hmul⟩ := t.fmt.two_pow_fields he
  have hm := Nat.two_pow_pos t.fmt.mbits
  have hk : (2 ^ t.fmt.ebits - 1) * 2 ^ t.fmt.mbits < 2 ^ (t.fmt.ebits + t.fmt.mbits) := by omega
  have hround : t.fmt.round (.inf s) .rne = t.fmt.signBit s + (2 ^ t.fmt.ebits - 1) * 2 ^ t.fmt.mbits := by
    simp [Fmt.round, Fmt.overflow, Fmt.infEnc, hieee]
  have hmax : ¬(2 ^ t.fmt.ebits - 1) * 2 ^ t.fmt.mbits ≤ t.fmt.maxEnc := by
    simp only [Fmt.maxEnc, hieee]
    omega
  rw [Ty.fround, hround, Ty.fval_ofNat (hbits.trans_le h64) (t.fmt.signBit_add_lt s hk), t.fmt.decode_signBit_add he s hk, if_neg hmax,
    if_pos ⟨hieee, Nat.mul_mod_left _ _⟩]

theorem widened {f t : Ty} (hf : f ∈ [Ty.f32, .f16, .bf16, .e4m3, .e5m2, .e2m1]) (ht : t ∈ [Ty.f32, .f16, .bf16, .e4m3, .e5m2, .e2m1])
    (hw : f.bits < t.bits) (x : DWord) (hnan : (f.fval x).isNan = false) :
    (t.fval (t.fround (f.fval x) .rne)).eq (f.fval x) = true ∧ (t.fval (t.fround (f.fval x) .rne)).isNeg = (f.fval x).isNeg := by
  obtain ⟨he, -, -⟩ := fmt_of_floating f hf
  have hx := Nat.mod_lt x.toNat (Nat.two_pow_pos f.fmt.bits)
  obtain ⟨s, k, hk, hxk⟩ := f.fmt.exists_signBit_add hx
  have hdec := f.fmt.decode_signBit_add he s hk
  have hv : f.fval x = f.fmt.decode (f.fmt.signBit s + k) := congrArg _ hxk
  rw [hv] at hnan ⊢
  split_ifs at hdec with hle hieee
  · obtain ⟨n, e, hmag, hval⟩ := fval_fround_dyadic hf ht hw s hle
    rw [hdec, hval]
    exact dyadic_eq hmag
  · rw [hdec, fval_fround_inf ht ((fmt_wider f hf t ht hw).2.2.1 hieee.1)]
    cases s <;> exact ⟨rfl, rfl⟩
  · rw [hdec] at hnan
    cases hnan

/-! ### The claim -/

theorem convert_int_float {t g : Ty} (ht : t.isInt = false) (hg : g.isInt = true) (x : DWord) (m : RMode) (sat : Bool) :
    convert t g x m sat = t.fround (if g.intVal x = 0 then .zero false else .fin (g.intVal x) 1) m sat := by
  simp [convert, ht, hg]
  rfl

theorem convert_float_float {t f : Ty} (ht : t.isInt = false) (hf : f.isInt = false) (x : DWord) (m : RMode) (sat : Bool) :
    convert t f x m sat = if f.bits < t.bits then t.fround (f.fval x) .rne else t.fround (f.fval x) m sat := by
  simp [convert, ht, hf]

theorem conversionsToFloats : Claims.ConversionsToFloats := fun t ht => by
  have hti := isInt_of_floats t ht
  obtain ⟨he, hbits, h64⟩ := fmt_of_floating t ht
  have htop0 : 0 ≤ rational (t.fmt.decode t.fmt.maxEnc) := t.fmt.rational_maxEnc he ▸ t.fmt.magnitude_nonneg _
  refine ⟨fun g hg x m sat => ?_, fun f hf x m sat => ?_⟩
  · dsimp only
    rw [convert_int_float hti (isInt_of_integers g hg)]
    generalize g.intVal x = n
    refine ⟨rfl, ?_⟩
    split_ifs with hn
    · rw [fval_fround_zero ht, hn, Int.cast_zero, abs_zero]
      refine ⟨fun _ => ⟨rfl, nofun, rfl⟩, fun _ => ?_, fun h => absurd htop0 h.not_ge⟩
      cases m <;> simp [rational]
    · obtain ⟨hexact, hside, hsat⟩ := wholeToFloat ht hn m sat
      refine ⟨hexact, fun h => ?_, hsat⟩
      obtain ⟨hrz, hru, hrd⟩ := hside h
      cases m with
      | rz => exact hrz rfl
      | ru => exact hru rfl
      | rd => exact hrd rfl
      | rne => trivial
      | rs u => trivial
  · have hfi := isInt_of_floats f hf
    dsimp only
    rw [convert_float_float hti hfi]
    refine ⟨fun h => ?_, fun hw hnan => ?_, fun hw => ?_⟩
    · cases hv : f.fval x <;> rw [hv] at h <;> cases h
      exact ite_self _
    · rw [if_pos hw]
      exact widened hf ht hw x hnan
    · rw [if_neg hw.not_gt]
      refine ⟨rfl, fun g hsat hv => ?_⟩
      obtain ⟨hef, -, -⟩ := fmt_of_floating f hf
      rcases f.fval_cases hef x with h | ⟨s, h⟩ | ⟨s, h⟩ | ⟨n, d, h, hn, hd⟩ <;> rw [h] at hv ⊢
      · exact absurd (hv.resolve_left nofun).2 htop0.not_gt
      · have hg : s = g := by
          rcases hv with hv | hv
          · exact FVal.inf.inj hv
          · exact hv.1
        subst hsat hg
        rfl
      · exact absurd (hv.resolve_left nofun).2 (by rw [show rational (.zero s) = 0 from rfl, abs_zero]; exact htop0.not_gt)
      · obtain ⟨hneg, hgt⟩ := hv.resolve_left nofun
        obtain ⟨k, hk, -, hmost⟩ := fval_fround_fin ht hn hd m sat
        have habs : |rational (.fin n d)| = (n.natAbs / d : ℚ) := by
          rw [rational, ← signed_natAbs_div, abs_signed _ (by positivity)]
        rw [habs, t.fmt.rational_maxEnc he] at hgt
        rw [hmost (hk.ge_of_ge hgt.le) hsat]
        exact congrArg (fun g => BitVec.ofNat 64 (t.fmt.signBit g + t.fmt.maxEnc)) hneg

end Sys2Proof

/-! PROOFS. CVT, PACK and UNPK complete (spec/07 R173, R174). -/

namespace Sys2Proof

open Machine Claims

/-- A conversion, with the words that its mode draws, completes in each acting lane, or once. -/
theorem completesIn_of_runConvert {i : Instr} {b : Base} {t : Ty} {n : Nat} {g v : List Nat → Operands → DWord}
    (hexec : ∀ s, exec i s = runConvert (formOf i) b t n g s) (hg : i.WellFormed → ∀ us x, g us x = v us x) :
    CompletesIn i b (fun _ => True) (fun s => s.doers b) (fun l => do
      let x ← readSrcs (formOf i) b l
      let us ← collect (List.range n) fun _ => drawFor b.fn l
      pure { writes := dstWrites b l t (v us x) }) := fun s s1 outs hw hc _ ha => by
  obtain rfl : g = v := funext fun us => funext fun x => hg hw us x
  rw [hexec]
  dsimp only at ha
  unfold runConvert
  cases hk : b.dk with
  | scl =>
    rw [State.doers_scl hk] at ha
    exact runGroup_completes hc (onceOut_of_doAll ha) rfl
  | vec =>
    rw [State.doers_vec hk] at ha
    exact runLanes_completes hc ha

/-- An element taken out by a shift and a mask. -/
theorem ushiftRight_and_mask (x : DWord) (n w : Nat) :
    (x >>> n) &&& BitVec.ofNat 64 (2 ^ w - 1) = (x.extractLsb' n w).setWidth 64 := by
  refine BitVec.eq_of_getLsbD_eq fun i hi => ?_
  rw [BitVec.getLsbD_and, BitVec.getLsbD_ofNat, Nat.testBit_two_pow_sub_one]
  simp [hi, Bool.and_comm]

theorem packResult_eq {b : Base} (h : (b.ty == .f16 || b.ty == .bf16 || b.ty == .e4m3 || b.ty == .e5m2) = true) (us : List Nat)
    (x : Operands) :
    let one := fun (us : List Nat) (n : Nat) (x : DWord) => b.ty.fround (Ty.f32.fval x) (RMode.ofFn b.fn (us.getD n 0))
    packResult b us x = if b.ty = .f16 ∨ b.ty = .bf16 then one us 0 x.a ||| one us 1 x.b <<< 16
      else one us 0 x.a ||| one us 1 x.b <<< 8 ||| (x.c.setWidth 16).setWidth 64 <<< 16 := by
  have hbits : (b.ty.bits == 16) = decide (b.ty = .f16 ∨ b.ty = .bf16) := by
    revert h
    cases b.ty <;> decide
  have hlow : x.c &&& 0xFFFF = (x.c.setWidth 16).setWidth 64 := by
    have := ushiftRight_and_mask x.c 0 16
    rwa [BitVec.ushiftRight_zero, ← BitVec.setWidth_eq_extractLsb' (by decide)] at this
  simp only [packResult, hbits, hlow, decide_eq_true_eq]

theorem loWord_unpkResult (b : Base) (x : Operands) :
    let part := (x.a.extractLsb' ((b.litWord .ext 1 b.b).toNat * b.ty.bits) b.ty.bits).setWidth 64
    loWord (unpkResult b x) = loWord (if b.ty.isInt then BitVec.ofInt 64 (b.ty.intVal part) else Ty.f32.fround (b.ty.fval part) .rne) := by
  simp only [unpkResult, ushiftRight_and_mask]
  generalize hp : x.a.extractLsb' ((b.litWord .ext 1 b.b).toNat * b.ty.bits) b.ty.bits = p
  split_ifs with hi hs
  · rw [loWord_ofInt]
    exact setWidth_wrap (t := .i32) rfl _
  · have hval : b.ty.intVal (p.setWidth 64) = (p.setWidth 64).toNat := by
      rw [b.ty.intVal_eq, Bool.eq_false_of_not_eq_true hs, low, BitVec.setWidth_setWidth_of_le _ b.ty.bits_le, BitVec.setWidth_eq,
        BitVec.toNat_setWidth, Nat.mod_eq_of_lt (p.isLt.trans_le (Nat.pow_le_pow_right two_pos b.ty.bits_le))]
      rfl
    rw [hval, BitVec.ofInt_natCast, BitVec.ofNat_toNat, BitVec.setWidth_eq]
  · rfl

theorem conversions_complete : Claims.ConversionsComplete := fun b =>
  ⟨completesIn_of_runConvert (fun _ => rfl) fun _ _ _ => rfl,
    completesIn_of_runConvert (fun _ => rfl) fun hw us x =>
      packResult_eq (Bool.and_eq_true_iff.1 (Form.tyFn_of_wellFormed hw rfl)).2 us x,
    computes_of_runResult (fun _ => rfl) fun _ l x => by
      rw [dstWrites_of_bits32 rfl]
      exact congrArg (fun w => [(if b.dk == .scl then Dest.sreg b.dst.toNat else Dest.vreg b.dst.toNat l, w)]) (loWord_unpkResult b x)⟩

/-- Settles O12: CVT, PACK and UNPK by the conversions they make, these by the encoding that each mode picks for a value. -/
theorem conversionsComplete : Obligations.ConversionsComplete := ⟨conversions_complete, conversionsToIntegers, conversionsToFloats⟩

end Sys2Proof

/-! PROOFS. The special functions at their special operands (spec/06 R147): the sign and the magnitude of an f32 word, and its value. -/

namespace Sys2Proof

open Machine Claims

/-! ### The sign and the magnitude of an f32 word -/

/-- The encoding of a word's magnitude. -/
def magBits (x : Word) : Nat := (x &&& 0x7FFFFFFF).toNat

theorem magBits_eq_mod (x : Word) : magBits x = x.toNat % 2 ^ 31 := by
  rw [magBits, BitVec.toNat_and]
  exact Nat.and_two_pow_sub_one_eq_mod x.toNat 31

theorem magBits_lt (x : Word) : magBits x < 2 ^ 31 := by
  rw [magBits_eq_mod]
  exact Nat.mod_lt _ (by decide)

theorem toNat_eq_signBit (x : Word) : x.toNat = f32Fmt.signBit x.msb + magBits x := by
  have hlt := x.isLt
  rw [magBits_eq_mod, BitVec.msb_eq_decide]
  by_cases h : 2 ^ 31 ≤ x.toNat
  · rw [decide_eq_true h, show f32Fmt.signBit true = 2 ^ 31 from rfl]
    omega
  · rw [decide_eq_false h, show f32Fmt.signBit false = 0 from rfl]
    omega

/-- The word of a sign and a magnitude. -/
def signWord (s : Bool) (k : Nat) : Word := BitVec.ofNat 32 (f32Fmt.signBit s + k)

theorem signWord_magBits (x : Word) : signWord x.msb (magBits x) = x := by
  rw [signWord, ← toNat_eq_signBit, BitVec.ofNat_toNat, BitVec.setWidth_eq]

/-- The value of an f32 word: a magnitude with a sign, an infinity past the largest one, else a NaN. -/
theorem f32Val_eq (x : Word) : f32Val x = if magBits x < 0x7F800000 then dyadic x.msb (f32Fmt.sig (magBits x)) (f32Fmt.exp (magBits x))
    else if magBits x = 0x7F800000 then .inf x.msb else .nan := by
  have hk := magBits_lt x
  have hdec := f32Fmt.decode_signBit_add (by decide) x.msb hk
  rw [← toNat_eq_signBit] at hdec
  refine hdec.trans ?_
  have hmax : magBits x ≤ f32Fmt.maxEnc ↔ magBits x < 0x7F800000 := Nat.lt_succ_iff.symm
  have hieee : (f32Fmt.special = .ieee ∧ magBits x % 2 ^ f32Fmt.mbits = 0) ↔ magBits x % 2 ^ 23 = 0 := and_iff_right rfl
  simp only [hmax, hieee]
  by_cases hfin : magBits x < 0x7F800000
  · rw [if_pos hfin, if_pos hfin]
  · have hinf : magBits x % 2 ^ 23 = 0 ↔ magBits x = 0x7F800000 := by omega
    simp only [if_neg hfin, hinf]

theorem f32Val_zero {x : Word} (h : magBits x = 0) : f32Val x = .zero x.msb := by
  rw [f32Val_eq, h, if_pos (by decide)]
  rfl

theorem f32Val_fin {x : Word} (h0 : magBits x ≠ 0) (h : magBits x < 0x7F800000) :
    ∃ n d, f32Val x = .fin n d ∧ n ≠ 0 ∧ 0 < d ∧ (n.natAbs / d : ℚ) = f32Fmt.magnitude (magBits x) ∧ decide (n < 0) = x.msb := by
  rw [f32Val_eq, if_pos h]
  exact dyadic_fin x.msb (mt (f32Fmt.sig_eq_zero _).1 h0) _

theorem f32Val_inf {x : Word} (h : magBits x = 0x7F800000) : f32Val x = .inf x.msb := by
  rw [f32Val_eq, h, if_neg (by decide), if_pos rfl]

theorem f32Val_nan {x : Word} (h : 0x7F800000 < magBits x) : f32Val x = .nan := by
  rw [f32Val_eq, if_neg h.not_gt, if_neg h.ne']

/-- What a word may be: a zero, a finite value, an infinity or a NaN. -/
theorem magBits_cases (x : Word) : magBits x = 0 ∨ (magBits x ≠ 0 ∧ magBits x < 0x7F800000) ∨ magBits x = 0x7F800000 ∨
    0x7F800000 < magBits x := by omega

/-! ### Zeros and infinities with a sign, and the order of magnitudes -/

theorem rneF32_zero (s : Bool) : rneF32 (.zero s) = signWord s 0 := by cases s <;> rfl

theorem rneF32_inf (s : Bool) : rneF32 (.inf s) = signWord s 0x7F800000 := by cases s <;> decide

theorem msb_xor_signWord (x y : Word) : (x ^^^ y) &&& 0x80000000 = signWord (x.msb != y.msb) 0 := by
  have h : (x ^^^ y) &&& BitVec.twoPow 32 31 = _ := BitVec.and_twoPow (x ^^^ y) 31
  have hm : (x ^^^ y).getLsbD 31 = (x.msb != y.msb) := by
    rw [← BitVec.msb_eq_getLsbD_last, BitVec.msb_xor]
  rw [hm] at h
  rw [show (0x80000000 : Word) = BitVec.twoPow 32 31 from rfl, h]
  cases x.msb <;> cases y.msb <;> rfl

theorem signWord_or_inf (s : Bool) : signWord s 0 ||| 0x7F800000 = signWord s 0x7F800000 := by cases s <;> decide

theorem size_eq_iff {x w : Word} : x &&& 0x7FFFFFFF = w ↔ magBits x = w.toNat := BitVec.toNat_inj.symm

theorem size_lt_iff {x w : Word} : x &&& 0x7FFFFFFF < w ↔ magBits x < w.toNat := BitVec.lt_def

theorem lt_size_iff {x w : Word} : w < x &&& 0x7FFFFFFF ↔ w.toNat < magBits x := BitVec.lt_def

/-! ### FDIV at its special operands -/

theorem nan_div (v : FVal) : FVal.nan.div v = .nan := by cases v <;> rfl

theorem div_nan (v : FVal) : v.div .nan = .nan := by cases v <;> rfl

theorem fin_div_zero {n : Int} (d : Nat) (s : Bool) : (FVal.fin n d).div (.zero s) = .inf (decide (n < 0) != s) := rfl

theorem specialQuotients (x y : Word) :
    let q := rneF32 ((f32Val x).div (f32Val y))
    let size := fun (w : Word) => w &&& 0x7FFFFFFF
    let sign := (x ^^^ y) &&& 0x80000000
    let inf : Word := 0x7F800000
    (inf < size x ∨ inf < size y → q = 0x7FC00000) ∧ (size x = 0 ∧ size y = 0 → q = 0x7FC00000) ∧
    (size x = inf ∧ size y = inf → q = 0x7FC00000) ∧
    (size x < inf ∧ ¬size x = 0 ∧ size y = 0 → q = sign ||| inf) ∧ (size x < inf ∧ size y = inf → q = sign) := by
  dsimp only
  simp only [size_eq_iff, size_lt_iff, lt_size_iff, msb_xor_signWord, signWord_or_inf]
  refine ⟨fun h => ?_, fun ⟨hx, hy⟩ => ?_, fun ⟨hx, hy⟩ => ?_, fun ⟨hx, hx0, hy⟩ => ?_, fun ⟨hx, hy⟩ => ?_⟩
  · rcases h with h | h
    · rw [f32Val_nan h, nan_div]; rfl
    · rw [f32Val_nan h, div_nan]; rfl
  · rw [f32Val_zero hx, f32Val_zero hy]; rfl
  · rw [f32Val_inf hx, f32Val_inf hy]; rfl
  · obtain ⟨n, d, hv, -, -, -, hs⟩ := f32Val_fin hx0 hx
    rw [hv, f32Val_zero hy, fin_div_zero, hs, rneF32_inf]
  · rw [f32Val_inf hy]
    rcases eq_or_ne (magBits x) 0 with hx0 | hx0
    · rw [f32Val_zero hx0, ← rneF32_zero]; rfl
    · obtain ⟨n, d, hv, -, -, -, hs⟩ := f32Val_fin hx0 hx
      rw [hv, ← hs, ← rneF32_zero]; rfl

/-! ### FEX2 past the range -/

theorem expSeries_ge {x : Int} (hx : 0 ≤ x) : ∀ (fuel i : Nat) {t s : Int}, 0 ≤ t → s ≤ expSeries x fuel i t s
  | 0, _, _, _, _ => le_rfl
  | fuel + 1, i, t, s, ht => by
    have ht' : 0 ≤ t * x / (2 ^ fixBits * i) := Int.ediv_nonneg (mul_nonneg ht hx) (by positivity)
    exact (le_add_of_nonneg_right ht').trans (expSeries_ge hx fuel (i + 1) ht')

/-- A value from 2^128 on rounds to infinity. -/
theorem rneF32_dyadic_inf {m : Nat} {e : Int} (h : (2 : ℚ) ^ (128 : Int) ≤ m * 2 ^ e) : rneF32 (dyadic false m e) = 0x7F800000 := by
  have hm : m ≠ 0 := by
    rintro rfl
    rw [Nat.cast_zero, zero_mul] at h
    exact absurd (two_zpow_pos 128) h.not_gt
  obtain ⟨num, den, hdy, hn, hd, hq, hs⟩ := dyadic_fin false hm e
  obtain ⟨k, hk, hround⟩ := f32Fmt.round_picks hn hd .rne false
  have htop : f32Fmt.magnitude (f32Fmt.maxEnc + 1) = 2 ^ (128 : Int) := by
    have := f32Fmt.magnitude_mul_add (e := 255) (r := 0) (by decide) (Nat.zero_le _)
    refine this.trans ?_
    norm_num [f32Fmt]
  have hge : f32Fmt.maxEnc + 1 ≤ k := hk.ge_of_ge (by rw [htop, hq]; exact h)
  rw [hdy, rneF32, hround, if_neg (by omega), hs]
  rfl

theorem two_pow_le_exp2Quot {num : Int} {den : Nat} (hd : 0 < den) (h : (128 : Int) ≤ num / den) :
    ∃ m e, exp2Quot num den = dyadic false m e ∧ (2 : ℚ) ^ (128 : Int) ≤ m * 2 ^ e := by
  have hpow {n : Int} (hn : 128 ≤ n) : (2 : ℚ) ^ (128 : Int) ≤ 2 ^ n := zpow_le_zpow_right₀ one_le_two hn
  unfold exp2Quot
  dsimp only
  rw [if_neg (by omega)]
  split_ifs with hbig hr
  · exact ⟨1, 1000, rfl, by rw [Nat.cast_one, one_mul]; exact hpow (by decide)⟩
  · exact ⟨1, _, rfl, by rw [Nat.cast_one, one_mul]; exact hpow h⟩
  · refine ⟨_, _, rfl, ?_⟩
    have hx : 0 ≤ toFix (num % den) den * ln2Fix / 2 ^ fixBits :=
      Int.ediv_nonneg (mul_nonneg (Int.ediv_nonneg (mul_nonneg (Int.emod_nonneg _ (by omega)) (by positivity)) (by positivity))
        (by positivity)) (by positivity)
    have hexp := expSeries_ge hx 180 1 (t := 2 ^ fixBits) (s := 2 ^ fixBits) (by positivity)
    have hnat : 2 ^ fixBits ≤ (expFix (toFix (num % den) den * ln2Fix / 2 ^ fixBits)).toNat := by
      rw [← Int.toNat_natCast (2 ^ fixBits)]
      exact Int.toNat_le_toNat ((Nat.cast_pow 2 fixBits).trans_le hexp)
    calc (2 : ℚ) ^ (128 : Int) ≤ 2 ^ (num / den) := hpow h
      _ = (2 ^ fixBits : Nat) * 2 ^ (num / den - fixBits) := by
        rw [zpow_sub₀ two_ne_zero, zpow_natCast, Nat.cast_pow, Nat.cast_two, mul_div_cancel₀ _ (by positivity)]
      _ ≤ _ := mul_le_mul_of_nonneg_right (by exact_mod_cast hnat) (two_zpow_pos _).le

theorem fex2_of_large {x : Word} (hlo : 0x43000000 ≤ x) (hhi : x ≤ 0x7F800000) : rneF32 (fex2Val (f32Val x)) = 0x7F800000 := by
  have hle : x.toNat ≤ 0x7F800000 := BitVec.le_def.1 hhi
  have hmag : magBits x = x.toNat := (magBits_eq_mod x).trans (Nat.mod_eq_of_lt (hle.trans_lt (by decide)))
  have hlo' : 0x43000000 ≤ magBits x := hmag ▸ BitVec.le_def.1 hlo
  have hmsb : x.msb = false := by
    rw [BitVec.msb_eq_decide]
    exact decide_eq_false (Nat.not_le.2 (hle.trans_lt (by decide)))
  rcases (hmag.trans_le hle).lt_or_eq with hlt | heq
  · obtain ⟨n, d, hv, -, hd, hq, hs⟩ := f32Val_fin (by omega) hlt
    have hn : 0 ≤ n := by simpa [hmsb] using hs
    have h128 : (128 : ℚ) ≤ n.natAbs / d := by
      have h := f32Fmt.magnitude_mul_add (e := 134) (r := 0) (by decide) (Nat.zero_le _)
      have h : f32Fmt.magnitude 0x43000000 = 128 := h.trans (by norm_num [f32Fmt])
      rw [hq, ← h]
      exact f32Fmt.magnitude_strictMono.monotone hlo'
    have hfloor : (128 : Int) ≤ n / d := by
      rw [Int.le_ediv_iff_mul_le (by exact_mod_cast hd)]
      rw [le_div_iff₀ (by exact_mod_cast hd)] at h128
      have : 128 * d ≤ n.natAbs := by exact_mod_cast h128
      omega
    obtain ⟨m, e, he, hle⟩ := two_pow_le_exp2Quot hd hfloor
    rw [hv, show fex2Val (.fin n d) = exp2Quot n d from rfl, he, rneF32_dyadic_inf hle]
  · rw [f32Val_inf heq, hmsb]
    rfl

/-! ### The claim -/

theorem special_of_nan {x : Word} (h : (f32Val x).isNan = true) :
    ∀ f ∈ [frcpVal, frsqVal, fsqrtVal, fex2Val, flg2Val, fsinVal, fcosVal, ftanhVal], rneF32 (f (f32Val x)) = 0x7FC00000 := by
  have hv : f32Val x = .nan := by
    cases hv : f32Val x <;> rw [hv] at h <;> cases h
  rw [hv]
  simp only [List.mem_cons, List.not_mem_nil, or_false]
  rintro f (rfl | rfl | rfl | rfl | rfl | rfl | rfl | rfl) <;> rfl

theorem special_of_neg {x : Word} (h : (f32Val x).isNeg = true) (hx : x ≠ 0x80000000) :
    ∀ f ∈ [frsqVal, fsqrtVal, flg2Val], rneF32 (f (f32Val x)) = 0x7FC00000 := by
  simp only [List.mem_cons, List.not_mem_nil, or_false]
  rcases magBits_cases x with h0 | ⟨h0, hfin⟩ | hinf | hnan
  · rw [f32Val_zero h0] at h
    refine absurd ?_ hx
    rw [← signWord_magBits x, h0, show x.msb = true from h]
    rfl
  · obtain ⟨n, d, hv, -, -, -, -⟩ := f32Val_fin h0 hfin
    rw [hv] at h ⊢
    have hn : n < 0 := of_decide_eq_true h
    rintro f (rfl | rfl | rfl)
    · rw [frsqVal, if_pos hn]; rfl
    · rw [fsqrtVal, if_pos hn]; rfl
    · rw [flg2Val, if_pos hn]; rfl
  · rw [f32Val_inf hinf] at h ⊢
    rw [show x.msb = true from h]
    rintro f (rfl | rfl | rfl) <;> rfl
  · rw [f32Val_nan hnan] at h
    cases h

theorem specialOperands : Claims.SpecialOperands := by
  refine ⟨fun x => special_of_nan, fun x => special_of_neg, by decide +kernel, by decide +kernel, by decide +kernel, by decide +kernel,
    by decide +kernel, by decide +kernel, by decide +kernel, by decide +kernel, specialQuotients, fun x => fex2_of_large, ?_⟩
  exact ⟨by decide +kernel, by decide +kernel⟩

end Sys2Proof

/-! PROOFS. The special functions at the other operands (spec/06 R146, R147): the roots and quotients by the midpoints beside what rounding
to nearest gives, and the functions that are odd or even by the sign bit. -/

namespace Sys2Proof

open Machine Claims

/-! ### Rounding to nearest in f32 -/

/-- Nothing on the grid is nearer than what rounding to nearest picks. -/
theorem Fmt.Picks.nearest {f : Fmt} {neg : Bool} {x : ℚ} {k : Nat} (h : f.Picks .rne neg x k) (j : Nat) :
    |x - f.magnitude k| ≤ |x - f.magnitude j| := by
  obtain ⟨q, n, r, d, hr, hs, hx, hk⟩ := h
  rw [hk]
  refine hs.nearest (fun i => ?_) j
  rw [hx, ← sub_mul, ← sub_mul, abs_mul, abs_mul]
  exact mul_le_mul_of_nonneg_right (roundStep_rne_nearest neg n hr i) (abs_nonneg _)

/-- The value lies between the midpoints beside what rounding to nearest picks. -/
theorem Fmt.Picks.mid_le {f : Fmt} {neg : Bool} {x : ℚ} {k : Nat} (h : f.Picks .rne neg x (k + 1)) :
    (f.magnitude k + f.magnitude (k + 1)) / 2 ≤ x := by
  have hlt := f.magnitude_strictMono k.lt_succ_self
  by_contra hx
  rw [not_le] at hx
  have h := h.nearest k
  rw [abs_sub_comm, abs_of_nonneg (by linarith), le_abs] at h
  rcases h with h | h <;> linarith

theorem Fmt.Picks.le_mid {f : Fmt} {neg : Bool} {x : ℚ} {k : Nat} (h : f.Picks .rne neg x k) :
    x ≤ (f.magnitude k + f.magnitude (k + 1)) / 2 := by
  have hlt := f.magnitude_strictMono k.lt_succ_self
  by_contra hx
  rw [not_le] at hx
  have h := h.nearest (k + 1)
  rw [abs_of_nonneg (by linarith), le_abs] at h
  rcases h with h | h <;> linarith

/-- A step to nearest goes by the quotient of the rest alone. -/
theorem roundStep_rne_div (neg : Bool) (n r : Nat) {d : Nat} (hd : 0 < d) : roundStep .rne neg n r d =
    if (r / d : ℚ) = 0 then n else if (2 * (r / d) : ℚ) < 1 then n else if (1 : ℚ) < 2 * (r / d) then n + 1 else n + n % 2 := by
  have hd0 : (0 : ℚ) < d := by exact_mod_cast hd
  have h0 : (r / d : ℚ) = 0 ↔ r = 0 := by rw [div_eq_zero_iff, or_iff_left hd0.ne', Nat.cast_eq_zero]
  have h1 : (2 * (r / d) : ℚ) < 1 ↔ 2 * r < d := by
    rw [mul_div_assoc', div_lt_one hd0]
    exact_mod_cast Iff.rfl
  have h2 : (1 : ℚ) < 2 * (r / d) ↔ d < 2 * r := by
    rw [mul_div_assoc', one_lt_div hd0]
    exact_mod_cast Iff.rfl
  simp only [h0, h1, h2, roundStep_rne]

/-- What rounding to nearest picks is determined by the value. -/
theorem Fmt.Picks.unique {f : Fmt} {neg : Bool} {x : ℚ} {j k : Nat} (hj : f.Picks .rne neg x j) (hk : f.Picks .rne neg x k) : j = k := by
  obtain ⟨q, n, r, d, hr, hs, hx, hj⟩ := hj
  obtain ⟨q', n', r', d', hr', hs', hx', hk⟩ := hk
  obtain rfl := hs.unique hs'
  have hd : 0 < d := (Nat.zero_le r).trans_lt hr
  have hd' : 0 < d' := (Nat.zero_le r').trans_lt hr'
  have hsum : (n + r / d : ℚ) = n' + r' / d' := mul_right_cancel₀ (two_zpow_pos q).ne' (hx.symm.trans hx')
  have h0 : (0 : ℚ) ≤ r / d := by positivity
  have h0' : (0 : ℚ) ≤ r' / d' := by positivity
  have h1 : (r / d : ℚ) < 1 := (div_lt_one (by exact_mod_cast hd)).2 (by exact_mod_cast hr)
  have h1' : (r' / d' : ℚ) < 1 := (div_lt_one (by exact_mod_cast hd')).2 (by exact_mod_cast hr')
  obtain rfl : n = n' := by
    have hlo : n < n' + 1 := by exact_mod_cast (by linarith : (n : ℚ) < n' + 1)
    have hhi : n' < n + 1 := by exact_mod_cast (by linarith : (n' : ℚ) < n + 1)
    omega
  refine f.magnitude_strictMono.injective ?_
  rw [hj, hk, roundStep_rne_div _ _ _ hd, roundStep_rne_div _ _ _ hd', add_left_cancel hsum]

/-- What rounding to nearest gives for a positive value in f32. -/
theorem rneF32_picks {num : Int} {den : Nat} (hn : 0 < num) (hd : 0 < den) : ∃ k, f32Fmt.Picks .rne false (num / den) k ∧
    rneF32 (.fin num den) = BitVec.ofNat 32 (min k 0x7F800000) := by
  obtain ⟨k, hk, hround⟩ := f32Fmt.round_picks hn.ne' hd .rne false
  have hneg : decide (num < 0) = false := decide_eq_false hn.not_gt
  have habs : (num.natAbs / den : ℚ) = num / den := by
    have := signed_natAbs_div num den
    rwa [hneg] at this
  rw [hneg, habs] at hk
  rw [hneg] at hround
  refine ⟨k, hk, ?_⟩
  rw [rneF32, hround]
  split_ifs with hle
  · rw [min_eq_left (hle.trans (by decide))]
    exact congrArg _ (Nat.zero_add k)
  · rw [min_eq_right (show 0x7F800000 ≤ k from Nat.succ_le_of_lt (not_le.1 hle))]
    rfl

/-- Equal quotients round alike. -/
theorem rneF32_congr {n n' : Int} {d d' : Nat} (hn : 0 < n) (hd : 0 < d) (hn' : 0 < n') (hd' : 0 < d') (h : (n / d : ℚ) = n' / d') :
    rneF32 (.fin n d) = rneF32 (.fin n' d') := by
  obtain ⟨k, hk, hr⟩ := rneF32_picks hn hd
  obtain ⟨k', hk', hr'⟩ := rneF32_picks hn' hd'
  rw [hr, hr', hk.unique (h ▸ hk')]

/-! ### The values of positive words, and midpoints -/

/-- The midpoint of the values of a word and the next one. -/
def midpoint (w : Word) : ℚ := (rational (f32Val w) + rational (f32Val (w + 1))) / 2

theorem rational_f32Val {x : Word} (h : x.toNat < 0x7F800000) : rational (f32Val x) = f32Fmt.magnitude x.toNat := by
  have hmag : magBits x = x.toNat := (magBits_eq_mod x).trans (Nat.mod_eq_of_lt (h.trans (by decide)))
  have hmsb : x.msb = false := by
    rw [BitVec.msb_eq_decide]
    exact decide_eq_false (Nat.not_le.2 (h.trans (by decide)))
  rw [f32Val_eq, hmag, if_pos h, hmsb, rational_dyadic]
  rfl

/-- A positive finite word has a positive quotient. -/
theorem f32Val_pos {x : Word} (h0 : 0 < x) (h : x < 0x7F800000) : ∃ n d, f32Val x = .fin n d ∧ 0 < n ∧ 0 < d ∧
    (n / d : ℚ) = f32Fmt.magnitude x.toNat ∧ x.toNat ≠ 0 ∧ x.toNat < 0x7F800000 := by
  have h0 : 0 < x.toNat := BitVec.lt_def.1 h0
  have h : x.toNat < 0x7F800000 := BitVec.lt_def.1 h
  have hmag : magBits x = x.toNat := (magBits_eq_mod x).trans (Nat.mod_eq_of_lt (h.trans (by decide)))
  obtain ⟨n, d, hv, hn, hd, -, hs⟩ := f32Val_fin (x := x) (by omega) (by omega)
  have hmsb : x.msb = false := by
    rw [BitVec.msb_eq_decide]
    exact decide_eq_false (Nat.not_le.2 (h.trans (by decide)))
  have hn' : ¬n < 0 := of_decide_eq_false (hs.trans hmsb)
  have hq := rational_f32Val h
  rw [hv] at hq
  exact ⟨n, d, hv, by omega, hd, hq, h0.ne', h⟩

theorem midpoint_of_toNat {w : Word} {k : Nat} (hw : w.toNat = k) (hk : k + 1 < 0x7F800000) :
    midpoint w = (f32Fmt.magnitude k + f32Fmt.magnitude (k + 1)) / 2 := by
  have hsucc : (w + 1).toNat = k + 1 := by
    rw [BitVec.toNat_add, hw]
    exact Nat.mod_eq_of_lt (hk.trans (by decide))
  rw [midpoint, rational_f32Val (by omega), rational_f32Val (by omega), hw, hsucc]

/-- A value lies between the midpoints beside the finite word that it is rounded to. -/
theorem midpoints_of_picks {x : ℚ} {k : Nat} {w : Word} (h : f32Fmt.Picks .rne false x k) (hw : w.toNat = k) (h0 : 0 < k)
    (hk : k + 1 < 0x7F800000) : midpoint (w - 1) ≤ x ∧ x ≤ midpoint w := by
  obtain ⟨j, rfl⟩ : ∃ j, k = j + 1 := ⟨k - 1, by omega⟩
  have hpred : (w - 1).toNat = j := by
    rw [BitVec.toNat_sub_of_le (BitVec.le_def.2 (by rw [hw]; exact Nat.le_add_left 1 j)), hw]
    rfl
  rw [midpoint_of_toNat hpred (by omega), midpoint_of_toNat hw hk]
  exact ⟨h.mid_le, h.le_mid⟩

theorem quotientMidpoints {x y : Word} (hx0 : 0 < x) (hx : x < 0x7F800000) (hy0 : 0 < y) (hy : y < 0x7F800000) :
    let q := rneF32 ((f32Val x).div (f32Val y))
    0 < q → q + 1 < 0x7F800000 →
      midpoint (q - 1) * rational (f32Val y) ≤ rational (f32Val x) ∧ rational (f32Val x) ≤ midpoint q * rational (f32Val y) := by
  obtain ⟨n, d, hvx, hn, hd, hqx, -, hxlt⟩ := f32Val_pos hx0 hx
  obtain ⟨m, e, hvy, hm, he, hqy, -, hylt⟩ := f32Val_pos hy0 hy
  have hdiv : (f32Val x).div (f32Val y) = .fin (n * e) (d * m.natAbs) := by
    rw [hvx, hvy, FVal.div, if_neg hm.not_gt]
  have hmabs : (m.natAbs : ℚ) = m := by rw [Nat.cast_natAbs, abs_of_pos hm]
  have hmq : (0 : ℚ) < m := by exact_mod_cast hm
  have heq : (0 : ℚ) < e := by exact_mod_cast he
  have hdq : (0 : ℚ) < d := by exact_mod_cast hd
  obtain ⟨k, hk, hr⟩ := rneF32_picks (num := n * e) (den := d * m.natAbs) (by positivity) (by positivity)
  dsimp only
  rw [hdiv, hr]
  intro h0 h1
  have hlt : min k 0x7F800000 < 2 ^ 32 := (min_le_right _ _).trans_lt (by decide)
  have hto : (BitVec.ofNat 32 (min k 0x7F800000)).toNat = min k 0x7F800000 :=
    (BitVec.toNat_ofNat _ _).trans (Nat.mod_eq_of_lt hlt)
  have h0 : 0 < min k 0x7F800000 := hto ▸ BitVec.lt_def.1 h0
  have h1 : min k 0x7F800000 + 1 < 0x7F800000 := by
    have h1 := BitVec.lt_def.1 h1
    rw [BitVec.toNat_add, hto] at h1
    have hmod : min k 0x7F800000 + 1 < 2 ^ 32 := Nat.lt_of_le_of_lt (Nat.add_le_add_right (min_le_right _ _) 1) (by decide)
    exact (Nat.mod_eq_of_lt hmod).symm.trans_lt h1
  have hkmin : min k 0x7F800000 = k := min_eq_left (by omega)
  rw [hkmin] at hto h0 h1 ⊢
  obtain ⟨hlo, hhi⟩ := midpoints_of_picks hk hto h0 h1
  have hvy0 : (0 : ℚ) < rational (f32Val y) := by rw [hvy]; exact div_pos hmq heq
  have hval : (((n * e : Int) : ℚ) / (d * m.natAbs : Nat)) = rational (f32Val x) / rational (f32Val y) := by
    rw [hvx, hvy, rational, rational]
    push_cast
    rw [hmabs, div_div_div_eq]
  rw [hval] at hlo hhi
  exact ⟨(le_div_iff₀ hvy0).1 hlo, (div_le_iff₀ hvy0).1 hhi⟩

/-- A reciprocal is the quotient of one, whose quotient stands unreduced in f32. -/
theorem reciprocal_eq_quotient {x : Word} (h0 : 0 < x) (h : x < 0x7F800000) :
    rneF32 (frcpVal (f32Val x)) = rneF32 ((f32Val 0x3F800000).div (f32Val x)) := by
  obtain ⟨n, d, hv, hn, hd, -, -, -⟩ := f32Val_pos h0 h
  have hone : f32Val 0x3F800000 = .fin (2 ^ 23) (2 ^ 23) := by decide +kernel
  rw [hone, frcpVal, hv, FVal.div, FVal.div, if_neg hn.not_gt, if_neg hn.not_gt]
  refine rneF32_congr (by positivity) (by positivity) (by positivity) (by positivity) ?_
  push_cast
  rw [mul_div_mul_left _ _ (by positivity), mul_div_mul_left _ _ (by positivity)]

end Sys2Proof

/-! PROOFS. The roots by their squares, and the functions that are odd or even by the sign bit (spec/06 R146, R147). -/

namespace Sys2Proof

open Machine Claims

/-! ### The integer square root, and the quotient that stands for a root -/

/-- The bit method keeps the root between what it has found and what its remaining bits can add. -/
theorem isqrtGo_spec {x : Nat} : ∀ (k r : Nat), r * r ≤ x → x < (r + 2 ^ k) * (r + 2 ^ k) →
    isqrtGo x k r * isqrtGo x k r ≤ x ∧ x < (isqrtGo x k r + 1) * (isqrtGo x k r + 1)
  | 0, _, hlo, hhi => ⟨hlo, hhi⟩
  | k + 1, r, hlo, hhi => by
    simp only [isqrtGo]
    split_ifs with h
    · refine isqrtGo_spec k _ h ?_
      rwa [Nat.add_assoc, ← Nat.two_mul, ← Nat.pow_succ']
    · exact isqrtGo_spec k r hlo (not_le.1 h)

theorem isqrt_spec (x : Nat) : isqrt x * isqrt x ≤ x ∧ x < (isqrt x + 1) * (isqrt x + 1) := by
  refine isqrtGo_spec _ 0 (Nat.zero_le x) ?_
  rw [Nat.zero_add, ← Nat.pow_add]
  exact Nat.lt_log2_self.trans_le (Nat.pow_le_pow_right two_pos (by omega))

/-- What stands for a root: the whole root of a square, and half a unit above the whole root of another number. -/
def rootQuot (x r D E : Nat) : FVal := if r * r = x then .fin r D else .fin (2 * r + 1) E

/-- The whole numbers on either side of what stands for a root have their squares on the same side of the square. -/
theorem rootQuot_sides {x r D E : Nat} {v : ℚ} (hr : 0 < r) (hlo : r * r ≤ x) (hhi : x < (r + 1) * (r + 1)) (hD : 0 < D) (hE : E = D * 2)
    (hv : v = x / (D : ℚ) ^ 2) : ∃ (a : Int) (b : Nat), rootQuot x r D E = .fin a b ∧ 0 < a ∧ 0 < b ∧
      ∀ (q : ℚ) (j : Nat), q * D = j → (q ≤ a / b → q ^ 2 ≤ v) ∧ (a / b ≤ q → v ≤ q ^ 2) := by
  have hDq : (0 : ℚ) < D := by exact_mod_cast hD
  have hsq {q : ℚ} {j : Nat} (hj : q * D = j) : q ^ 2 = (j * j : Nat) / (D : ℚ) ^ 2 := by
    rw [eq_div_iff (by positivity), ← mul_pow, hj, Nat.cast_mul, sq]
  have hle (i j : Nat) : (i / (D : ℚ) ^ 2 : ℚ) ≤ j / (D : ℚ) ^ 2 ↔ i ≤ j := by
    rw [div_le_div_iff_of_pos_right (by positivity), Nat.cast_le]
  unfold rootQuot
  split_ifs with h
  · refine ⟨r, D, rfl, by exact_mod_cast hr, hD, fun q j hj => ?_⟩
    rw [hsq hj, hv, hle, hle, ← h, Int.cast_natCast, le_div_iff₀ hDq, div_le_iff₀ hDq, hj, Nat.cast_le, Nat.cast_le]
    exact ⟨fun h => Nat.mul_le_mul h h, fun h => Nat.mul_le_mul h h⟩
  · refine ⟨2 * r + 1, E, rfl, by positivity, by omega, fun q j hj => ?_⟩
    have hEq : (E : ℚ) = D * 2 := by exact_mod_cast hE
    rw [hsq hj, hv, hle, hle, hEq, le_div_iff₀ (by positivity), div_le_iff₀ (by positivity), ← mul_assoc, hj]
    refine ⟨fun h => ?_, fun h => ?_⟩
    · have h : j * 2 ≤ 2 * r + 1 := by exact_mod_cast h
      exact (Nat.mul_le_mul (by omega) (by omega)).trans hlo
    · have h : 2 * r + 1 ≤ j * 2 := by exact_mod_cast h
      exact hhi.le.trans (Nat.mul_le_mul (by omega) (by omega))

theorem sqrtQuot_eq (num den : Nat) :
    sqrtQuot num den = rootQuot (num * den * 4 ^ 256) (isqrt (num * den * 4 ^ 256)) (den * 2 ^ 256) (den * 2 ^ (256 + 1)) := rfl

theorem isqrt_pos {x : Nat} (h : 0 < x) : 0 < isqrt x := by
  refine Nat.pos_of_ne_zero fun h0 => ?_
  have hhi := (isqrt_spec x).2
  rw [h0] at hhi
  omega

theorem sqrtQuot_sides {num den : Nat} (hn : 0 < num) (hd : 0 < den) : ∃ (a : Int) (b : Nat), sqrtQuot num den = .fin a b ∧ 0 < a ∧ 0 < b ∧
    ∀ (q : ℚ) (j : Nat), q * (den * 2 ^ 256 : Nat) = j → (q ≤ a / b → q ^ 2 ≤ num / den) ∧ (a / b ≤ q → (num / den : ℚ) ≤ q ^ 2) := by
  obtain ⟨hlo, hhi⟩ := isqrt_spec (num * den * 4 ^ 256)
  have hv : (num / den : ℚ) = (num * den * 4 ^ 256 : Nat) / ((den * 2 ^ 256 : Nat) : ℚ) ^ 2 := by
    push_cast
    rw [div_eq_div_iff (by positivity) (by positivity), mul_pow]
    ring
  rw [sqrtQuot_eq]
  exact rootQuot_sides (isqrt_pos (by positivity)) hlo hhi (by positivity) (by rw [Nat.mul_assoc, ← Nat.pow_succ]) hv

/-! ### The roots in f32 -/

/-- Every magnitude of f32 is a whole number of the least spacings. -/
theorem f32_magnitude_whole (k : Nat) : ∃ i : Nat, f32Fmt.magnitude k = i * 2 ^ (-149 : Int) :=
  ⟨_, Fmt.magnitude_eq_mul (f32Fmt.minExp_le_exp k)⟩

theorem midpoint_whole {w : Word} {k : Nat} (hw : w.toNat = k) (hk : k + 1 < 0x7F800000) : ∃ i : Nat, midpoint w = i * 2 ^ (-150 : Int) := by
  obtain ⟨i, hi⟩ := f32_magnitude_whole k
  obtain ⟨j, hj⟩ := f32_magnitude_whole (k + 1)
  refine ⟨i + j, ?_⟩
  rw [midpoint_of_toNat hw hk, hi, hj]
  push_cast
  ring

/-- A root of a value that is neither too small nor too large is rounded to a finite word, and the squares of the midpoints beside it lie on
the two sides of the value. -/
theorem rneF32_sqrtQuot {num den : Nat} (hn : 0 < num) (hd : 0 < den) (hlo : (2 : ℚ) ^ (-149 : Int) ≤ num / den)
    (hhi : (num / den : ℚ) ≤ 2 ^ (149 : Int)) :
    let w := rneF32 (sqrtQuot num den)
    0 < w ∧ w < 0x7F800000 ∧ midpoint (w - 1) ^ 2 ≤ num / den ∧ (num / den : ℚ) ≤ midpoint w ^ 2 := by
  obtain ⟨a, b, hs, ha, hb, hside⟩ := sqrtQuot_sides hn hd
  have side {q : ℚ} {i : Nat} (hq : q = i * 2 ^ (-150 : Int)) : (q ≤ a / b → q ^ 2 ≤ num / den) ∧ (a / b ≤ q → (num / den : ℚ) ≤ q ^ 2) := by
    refine hside q (i * (den * 2 ^ 106)) ?_
    rw [hq]
    push_cast
    norm_num
    ring
  obtain ⟨k, hk, hr⟩ := rneF32_picks ha hb
  have hmin : f32Fmt.magnitude (52 * 2 ^ 23) = 2 ^ (-75 : Int) := by
    refine (f32Fmt.magnitude_mul_add (e := 52) (r := 0) (by decide) (Nat.zero_le _)).trans ?_
    norm_num [f32Fmt]
  have hmax : f32Fmt.magnitude (202 * 2 ^ 23) = 2 ^ (75 : Int) := by
    refine (f32Fmt.magnitude_mul_add (e := 202) (r := 0) (by decide) (Nat.zero_le _)).trans ?_
    norm_num [f32Fmt]
  have hklo : 52 * 2 ^ 23 ≤ k := hk.ge_of_ge <| by
    rw [hmin]
    by_contra h
    have h := (side (q := 2 ^ (-75 : Int)) (i := 2 ^ 75) (by norm_num)).2 (not_le.1 h).le
    norm_num at h hlo
    linarith
  have hkhi : k ≤ 202 * 2 ^ 23 := hk.le_of_le <| by
    rw [hmax]
    by_contra h
    have h := (side (q := 2 ^ (75 : Int)) (i := 2 ^ 225) (by norm_num)).1 (not_le.1 h).le
    norm_num at h hhi
    linarith
  rw [hs, hr, min_eq_left (by omega)]
  have hto : (BitVec.ofNat 32 k).toNat = k := (BitVec.toNat_ofNat _ _).trans (Nat.mod_eq_of_lt (by omega))
  obtain ⟨hmlo, hmhi⟩ := midpoints_of_picks hk hto (by omega) (by omega)
  have hpred : (BitVec.ofNat 32 k - 1).toNat = k - 1 := by
    rw [BitVec.toNat_sub_of_le (BitVec.le_def.2 (by rw [hto]; exact Nat.le_trans (by decide) hklo)), hto]
    rfl
  obtain ⟨i, hi⟩ := midpoint_whole hpred (by omega)
  obtain ⟨j, hj⟩ := midpoint_whole hto (by omega)
  refine ⟨BitVec.lt_def.2 ?_, BitVec.lt_def.2 ?_, (side hi).1 hmlo, (side hj).2 hmhi⟩
  · rw [hto]
    exact Nat.lt_of_lt_of_le (by decide) hklo
  · rw [hto]
    exact Nat.lt_of_le_of_lt hkhi (by decide)

/-- The magnitude of a positive finite word. -/
theorem f32_magnitude_bounds {k : Nat} (h0 : k ≠ 0) (h : k < 0x7F800000) :
    (2 : ℚ) ^ (-149 : Int) ≤ f32Fmt.magnitude k ∧ f32Fmt.magnitude k ≤ 2 ^ (128 : Int) := by
  have hmin : f32Fmt.magnitude 1 = 2 ^ (-149 : Int) := by
    rw [f32Fmt.magnitude_of_le (by decide), Nat.cast_one, one_mul]
    rfl
  have hmax : f32Fmt.magnitude 0x7F800000 = 2 ^ (128 : Int) := by
    refine (f32Fmt.magnitude_mul_add (e := 255) (r := 0) (by decide) (Nat.zero_le _)).trans ?_
    norm_num [f32Fmt]
  rw [← hmin, ← hmax]
  exact ⟨f32Fmt.magnitude_strictMono.monotone (Nat.one_le_iff_ne_zero.2 h0), f32Fmt.magnitude_strictMono.monotone h.le⟩

theorem roots {x : Word} (h0 : 0 < x) (h : x < 0x7F800000) :
    let r := rneF32 (fsqrtVal (f32Val x))
    let q := rneF32 (frsqVal (f32Val x))
    0 < r ∧ r < 0x7F800000 ∧ midpoint (r - 1) ^ 2 ≤ rational (f32Val x) ∧ rational (f32Val x) ≤ midpoint r ^ 2 ∧
      0 < q ∧ q < 0x7F800000 ∧ midpoint (q - 1) ^ 2 * rational (f32Val x) ≤ 1 ∧ 1 ≤ midpoint q ^ 2 * rational (f32Val x) := by
  obtain ⟨n, d, hv, hn, hd, hq, hx0, hx⟩ := f32Val_pos h0 h
  obtain ⟨a, rfl⟩ := Int.eq_ofNat_of_zero_le hn.le
  have ha : 0 < a := by exact_mod_cast hn
  obtain ⟨hlo, hhi⟩ := f32_magnitude_bounds hx0 hx
  rw [← hq, Int.cast_natCast] at hlo hhi
  rw [hv, fsqrtVal, frsqVal, if_neg hn.not_gt, if_neg hn.not_gt, rational, Int.natAbs_natCast, Int.cast_natCast]
  have hinv : (d / a : ℚ) = (a / d : ℚ)⁻¹ := (inv_div _ _).symm
  have hpos : (0 : ℚ) < a / d := by positivity
  obtain ⟨r0, r1, r2, r3⟩ := rneF32_sqrtQuot ha hd hlo (hhi.trans (by norm_num))
  obtain ⟨q0, q1, q2, q3⟩ := rneF32_sqrtQuot hd ha
    (by rw [hinv]; exact (by norm_num : (2 : ℚ) ^ (-149 : Int) ≤ (2 ^ (128 : Int))⁻¹).trans (inv_anti₀ hpos hhi))
    (by rw [hinv]; exact (inv_anti₀ (two_zpow_pos _) hlo).trans (by norm_num))
  rw [hinv, ← one_div] at q2 q3
  exact ⟨r0, r1, r2, r3, q0, q1, (le_div_iff₀ hpos).1 q2, (div_le_iff₀ hpos).1 q3⟩

/-! ### The sign bit, and the functions that are odd or even -/

theorem magBits_flip (x : Word) : magBits (x ^^^ 0x80000000) = magBits x := by
  have h : (x ^^^ 0x80000000) &&& 0x7FFFFFFF = x &&& 0x7FFFFFFF := by
    refine BitVec.eq_of_getLsbD_eq fun i hi => ?_
    rw [BitVec.getLsbD_and, BitVec.getLsbD_and, BitVec.getLsbD_xor, Bool.and_xor_distrib_right, ← BitVec.getLsbD_and,
      ← BitVec.getLsbD_and, show (0x80000000 &&& 0x7FFFFFFF : Word) = 0#32 from rfl, BitVec.getLsbD_zero, Bool.xor_false]
  rw [magBits, h, magBits]

theorem msb_flip (x : Word) : (x ^^^ 0x80000000).msb = !x.msb := by
  rw [BitVec.msb_xor, show (0x80000000 : Word).msb = true from rfl, Bool.xor_true]

theorem f32_signBit (s : Bool) : f32Fmt.signBit s = s.toNat * 2 ^ 31 := by cases s <;> rfl

section
variable (s : Bool) {k : Nat} (h : k ≤ 0x7F800000)
include h

theorem toNat_signWord : (signWord s k).toNat = s.toNat * 2 ^ 31 + k := by
  have hs := s.toNat_le
  rw [signWord, f32_signBit]
  exact (BitVec.toNat_ofNat _ _).trans (Nat.mod_eq_of_lt (by omega))

theorem magBits_signWord : magBits (signWord s k) = k := by
  rw [magBits_eq_mod, toNat_signWord s h]
  omega

theorem msb_signWord : (signWord s k).msb = s := by
  rw [BitVec.msb_eq_decide, toNat_signWord s h]
  cases s with
  | false => exact decide_eq_false (by simp only [Bool.toNat_false]; omega)
  | true => exact decide_eq_true (by simp only [Bool.toNat_true]; omega)

theorem signWord_flip : signWord (!s) k = signWord s k ^^^ 0x80000000 := by
  rw [← signWord_magBits (signWord s k ^^^ 0x80000000), magBits_flip, msb_flip, magBits_signWord s h, msb_signWord s h]

end

theorem dyadic_neg (s : Bool) (m : Nat) (e : Int) : dyadic (!s) m e = (dyadic s m e).neg := by
  unfold dyadic
  by_cases hm : m = 0
  · rw [if_pos hm, if_pos hm, FVal.neg]
  · have hsign : (if !s then -(m : Int) else m) = -(if s then -(m : Int) else m) := by cases s <;> simp
    rw [if_neg hm, if_neg hm, hsign]
    by_cases he : 0 ≤ e
    · rw [if_pos he, if_pos he, FVal.neg, Int.neg_mul]
    · rw [if_neg he, if_neg he, FVal.neg]

/-- Flipping the sign bit negates the value. -/
theorem f32Val_flip (x : Word) : f32Val (x ^^^ 0x80000000) = (f32Val x).neg := by
  rw [f32Val_eq, f32Val_eq, magBits_flip, msb_flip, dyadic_neg]
  split_ifs <;> rfl

/-- What rounding to nearest gives for a magnitude, where that is finite. -/
def nearestEnc (a den : Nat) : Option Nat :=
  let q := max (log2Quot a den - f32Fmt.mbits) f32Fmt.minExp
  let p := scaleQuot a den q
  f32Fmt.encMag (roundStep .rne false (p.1 / p.2) (p.1 % p.2) p.2) q

theorem nearestEnc_le (a den : Nat) : (nearestEnc a den).getD 0x7F800000 ≤ 0x7F800000 := by
  cases h : nearestEnc a den with
  | none => exact le_rfl
  | some e => exact (Fmt.encMag_le h).trans (by decide)

theorem rneF32_fin (num : Int) (den : Nat) :
    rneF32 (.fin num den) = signWord (decide (num < 0)) ((nearestEnc num.natAbs den).getD 0x7F800000) := by
  have hround : f32Fmt.round (.fin num den) .rne = match nearestEnc num.natAbs den with
      | some e => f32Fmt.signBit (decide (num < 0)) + e
      | none => f32Fmt.overflow .rne false (decide (num < 0)) := by
    cases hneg : decide (num < 0) <;> simp only [Fmt.round, hneg] <;> rfl
  rw [rneF32, hround]
  cases nearestEnc num.natAbs den with
  | some e => rfl
  | none => cases decide (num < 0) <;> rfl

theorem ofQuot_neg (s : Bool) (m : Int) (d : Nat) : FVal.ofQuot (!s) (-m) d = (FVal.ofQuot s m d).neg := by
  unfold FVal.ofQuot
  split_ifs with h h' h'
  · rfl
  · exact absurd (neg_eq_zero.1 h) h'
  · exact absurd (neg_eq_zero.2 h') h
  · rfl

/-- A quotient rounded to nearest changes its sign bit with its sign. -/
theorem rneF32_ofQuot_neg (s : Bool) (m : Int) (d : Nat) : rneF32 (FVal.ofQuot s m d).neg = rneF32 (.ofQuot s m d) ^^^ 0x80000000 := by
  unfold FVal.ofQuot
  split_ifs with h
  · rw [FVal.neg, rneF32_zero, rneF32_zero, signWord_flip s (by decide)]
  · have hneg : decide (-m < 0) = !decide (m < 0) := by
      rw [← decide_not]
      exact decide_eq_decide.2 (by omega)
    rw [FVal.neg, rneF32_fin, rneF32_fin, Int.natAbs_neg, hneg, signWord_flip _ (nearestEnc_le _ _)]

theorem rneF32_zero_neg (s : Bool) : rneF32 (FVal.zero s).neg = rneF32 (.zero s) ^^^ 0x80000000 := rneF32_ofQuot_neg s 0 1

theorem fsinVal_odd {n : Int} (hn : n ≠ 0) (d : Nat) :
    ∃ s m e, fsinVal (.fin n d) = .ofQuot s m e ∧ fsinVal (.fin (-n) d) = (FVal.ofQuot s m e).neg := by
  refine ⟨_, _, _, rfl, ?_⟩
  rw [← ofQuot_neg, fsinVal, Int.natAbs_neg]
  rcases lt_or_gt_of_ne hn with h | h
  · simp [h, h.not_gt]
  · simp [h, h.not_gt]

/-- What FTANH gives for a positive quotient. -/
def tanhPos (a d : Nat) : FVal :=
  if 100 * d < a then .fin (2 ^ 100 - 1) (2 ^ 100) else
  let y := toFix (2 * (a : Int)) d
  let e := expFix (-(y % ln2Fix)) / 2 ^ (y / ln2Fix).toNat
  .ofQuot false (2 ^ fixBits - e) (2 ^ fixBits + e).toNat

theorem ftanhVal_fin (n : Int) (d : Nat) : ftanhVal (.fin n d) = if n < 0 then (tanhPos n.natAbs d).neg else tanhPos n.natAbs d := rfl

theorem tanhPos_eq_ofQuot (a d : Nat) : ∃ m e, tanhPos a d = .ofQuot false m e := by
  unfold tanhPos
  split_ifs
  · exact ⟨2 ^ 100 - 1, 2 ^ 100, (if_neg (by norm_num)).symm⟩
  · exact ⟨_, _, rfl⟩

theorem ftanhVal_odd {n : Int} (hn : n ≠ 0) (d : Nat) :
    ∃ s m e, ftanhVal (.fin n d) = .ofQuot s m e ∧ ftanhVal (.fin (-n) d) = (FVal.ofQuot s m e).neg := by
  obtain ⟨m, e, hm⟩ := tanhPos_eq_ofQuot n.natAbs d
  rw [ftanhVal_fin, ftanhVal_fin, Int.natAbs_neg, hm]
  rcases lt_or_gt_of_ne hn with h | h
  · exact ⟨_, _, _, by rw [if_pos h, ofQuot_neg], by rw [if_neg (by omega), ← ofQuot_neg, Bool.not_not, Int.neg_neg]⟩
  · exact ⟨_, _, _, if_neg h.not_gt, if_pos (by omega)⟩

theorem fcosVal_neg (v : FVal) : fcosVal v.neg = fcosVal v := by
  cases v with
  | fin n d => rw [FVal.neg, fcosVal, fcosVal, Int.natAbs_neg]
  | nan => rfl
  | inf s => rfl
  | zero s => rfl

/-- A function that keeps a signed zero and gives quotients of the opposite sign to opposite operands is odd by the sign bit. -/
theorem odd_by_sign {f : FVal → FVal} (hzero : ∀ s, f (.zero s) = .zero s)
    (hfin : ∀ {n : Int}, n ≠ 0 → ∀ d, ∃ s m e, f (.fin n d) = .ofQuot s m e ∧ f (.fin (-n) d) = (FVal.ofQuot s m e).neg)
    {x : Word} (hx : x &&& 0x7FFFFFFF < 0x7F800000) :
    rneF32 (f (f32Val (x ^^^ 0x80000000))) = rneF32 (f (f32Val x)) ^^^ 0x80000000 := by
  rw [f32Val_flip]
  by_cases h0 : magBits x = 0
  · rw [f32Val_zero h0, FVal.neg, hzero, hzero]
    exact rneF32_zero_neg x.msb
  · obtain ⟨n, d, hv, hn, -, -, -⟩ := f32Val_fin h0 (size_lt_iff.1 hx)
    obtain ⟨s, m, e, hf, hfn⟩ := hfin hn d
    rw [hv, FVal.neg, hfn, hf, rneF32_ofQuot_neg]

theorem specialRoots : Claims.SpecialRoots :=
  ⟨fun _ h0 h => roots h0 h, fun _ _ hx0 hx hy0 hy => quotientMidpoints hx0 hx hy0 hy, fun _ h0 h => reciprocal_eq_quotient h0 h,
    fun x hx f hf => by
      rcases List.mem_pair.1 hf with rfl | rfl
      · exact odd_by_sign (fun _ => rfl) fsinVal_odd hx
      · exact odd_by_sign (fun _ => rfl) ftanhVal_odd hx,
    fun x => by simp only [f32Val_flip, fcosVal_neg]⟩

/-- Settles O10: the forms complete, the special operands by the cases of the formats, and the roots and quotients by what rounding to nearest
does beside the midpoints. -/
theorem specialFunctionsComplete : Obligations.SpecialFunctionsComplete := ⟨specialFunctions_complete, specialOperands, specialRoots⟩

end Sys2Proof

/-! PROOFS. What no read of memory changes, for any part of the state that takes no notice of memory, the cores, the logs of deterministic
parties, the read marks and the deferred operations (spec/03 R45 to R60). -/

namespace Sys2Proof.Machine

/-- A part of the state that what a read of memory may change leaves as it is: memory, the cores, the logs, a party's marks, the lines to
evict, the free values drawn, and an agent's counted and deferred operations. -/
structure Unread {γ : Type} (part : State → γ) : Prop where
  mem (s : State) (m : Memory) (bad : List Nat) : part { s with mem := m, badSectors := bad } = part s
  core (s : State) (c : Nat) (x : Core) : part (s.setCore c x) = part s
  dets (s : State) (d : Sparse Det) : part { s with dets := d } = part s
  marks (s : State) (p : Nat) (m : Sparse Mark) : part (s.setParty p { s.party p with marks := m }) = part s
  ops (s : State) (k : Nat) (o : List OutOp) (f : List FarOp) : part (s.setAgent k { s.agent k with ops := o, far := f }) = part s
  draws (s : State) (e : List (Nat × Nat)) (n : Nat) : part { s with evicts := e, fresh := n } = part s

/-- What reporting operations as done changes of an agent. -/
theorem finish_foldl (us : List Nat) (a : Agent) : ∃ o, us.foldl Agent.finish a = { a with ops := o } := by
  induction us generalizing a with
  | nil => exact ⟨a.ops, rfl⟩
  | cons u us ih =>
    obtain ⟨o, ho⟩ := ih (a.finish u)
    exact ⟨o, ho⟩

section

variable {γ : Type} {part : State → γ} (hp : Unread part)
include hp

theorem Unread.writeHome (s : State) (pa : Nat) (bs : List Byte) : part (s.writeHome pa bs) = part s := hp.mem s _ _

theorem Unread.performFar (s : State) (o : FarOp) : part (s.performFar o) = part s := by
  unfold State.performFar
  split <;> exact hp.writeHome s _ _

theorem Unread.drainFar (s : State) (k : Nat) (pick : FarOp → Bool) : part (s.drainFar k pick) = part s := by
  unfold State.drainFar
  dsimp only
  generalize ht : (farDue pick (s.agent k).far).foldl State.performFar s = t
  have hfar : part t = part s := ht ▸ foldl_same part hp.performFar _ s
  obtain ⟨o, ho⟩ := finish_foldl ((((farDue pick (s.agent k).far).map (·.uid)).filter fun u =>
    !((t.agent k).far.filter fun o => !(farDue pick (s.agent k).far).contains o).any fun o => o.uid == u))
    { t.agent k with far := (t.agent k).far.filter fun o => !(farDue pick (s.agent k).far).contains o }
  rw [ho]
  exact (hp.ops t k o _).trans hfar

theorem Unread.publishBytes (s : State) (c : Nat) (pick : Nat × DirtyByte → Bool) : part (s.publishBytes c pick) = part s := by
  unfold State.publishBytes
  refine (hp.core _ c _).trans ((hp.mem _ _ _).trans ?_)
  exact foldl_same part (f := fun s (e : Nat × DirtyByte) => s.writeHome e.1 [e.2.val]) (fun s e => hp.writeHome s _ _) _ s

theorem Unread.unspill (s : State) (c p line : Nat) : part (s.unspill c p line) = part s := hp.core s c _

theorem Unread.setDet (s : State) (n : Nat) (d : Det) : part (s.setDet n d) = part s := hp.dets s _

/-- A phased read ends with the marks of what was read. -/
theorem markRead_unread {p line i : Nat} {bs : List Byte} : Leaves part (do
    modify fun s => s.markBytesRead p line i bs
    pure bs : M (List Byte)) :=
  .bind (.modify fun s => hp.marks s p _) fun _ => .pure

theorem draw_unread : Leaves part (modify fun s => { s with fresh := s.fresh + 1 } : M PUnit) := .modify fun s => hp.draws s s.evicts _

namespace Leaves

theorem unread_physWrite {pa : Nat} {bs : List Byte} : Leaves part (physWrite pa bs) := fun s _ _ h => by
  obtain ⟨-, -, rfl⟩ := (physWrite_ok ..).1 h
  exact hp.writeHome s _ _

theorem unread_modCore {c : Nat} {f : Core → Core} : Leaves part (modCore c f) := modify fun s => hp.core s c _

theorem unread_spillLine {va : DWord} {c q line : Nat} {bytes : List Byte} {parties : List Nat} :
    Leaves part (spillLine va c q line bytes parties) := by
  refine get_bind fun s => ?_
  split
  · exact abort
  · exact bind (unread_physWrite hp) fun _ => bind (unread_modCore hp) fun _ => pure

theorem unread_evictLine {va : DWord} {c line : Nat} : Leaves part (evictLine va c line) := by
  refine get_bind fun s => bind (forEach fun q => forEach fun g => ?_) fun _ => modify fun s =>
    (hp.core _ c _).trans (hp.publishBytes s c _)
  exact bind (modify fun s => foldl_same part (f := fun s p => s.unspill c p line) (fun s _ => hp.unspill s _ _ _) _ s) fun _ =>
    bind (unread_spillLine hp) fun _ => forEach fun p => modify fun s => hp.marks s p _

theorem unread_takeLineIn {va : DWord} {c line : Nat} : Leaves part (takeLineIn va c line) := by
  refine get_bind fun s => bind (modify fun s => hp.draws s _ s.fresh) fun _ => bind (forEach fun _ => unread_evictLine hp) fun _ =>
    get_bind fun s => ite pure ?_
  split
  · exact unread_evictLine hp
  · exact pure

theorem unread_phasedRead {k : Nat} {va : DWord} {pa n : Nat} : Leaves part (phasedRead k va pa n) := by
  refine get_bind fun s => bind require fun _ => ite (bind pure fun _ => markRead_unread hp) ?_
  dsimp only
  split
  · exact bind pure fun _ => bind (draw_unread hp) fun _ => bind pure fun _ => markRead_unread hp
  · exact bind homeReady fun _ => bind require fun _ => bind (unread_takeLineIn hp) fun _ => get_bind fun _ =>
      bind (unread_modCore hp) fun _ => bind pure fun _ => bind (draw_unread hp) fun _ => bind pure fun _ => markRead_unread hp

theorem unread_farRead {k : Nat} {va : DWord} {pa n : Nat} : Leaves part (farRead k va pa n) :=
  bind (modify fun s => hp.drainFar s k _) fun _ => homeRead

/-! ### The log of a deterministic party -/

theorem unread_consumeEntry {k : Nat} {engine : Bool} : Leaves part (consumeEntry k engine) := modify fun s => by
  split
  · rfl
  · dsimp only
    split <;> exact hp.setDet s _ _

theorem unread_logEntry {k kind : Nat} {mask : Word} {payload : List Byte} {opc : BitVec 8} {recs : List LaneRec}
    {op : Option Nat} {col : Option ColOp} {app : Option Append} {done group : Word} {lacks : BitVec 4} :
    Leaves part (logEntry k kind mask payload opc recs op col app done group lacks) := by
  refine get_bind fun s => ?_
  split
  · exact pure
  · refine ite abort_bind (bind (unread_physWrite hp) fun _ => modify fun s => ?_)
    split
    · rfl
    · exact hp.setDet s _ _

theorem unread_noteLine {k : Nat} {va : DWord} {paLine : Nat} {bytes : List Byte} {opc : BitVec 8} :
    Leaves part (noteLine k va paLine bytes opc) := by
  refine get_bind fun s => ?_
  split
  · exact pure
  · refine ite pure (bind (unread_logEntry hp) fun _ => modify fun s => ?_)
    split
    · rfl
    · exact hp.setDet s _ _

theorem unread_noteFarLoad {k l : Nat} {va : DWord} {bs : List Byte} {opc : BitVec 8} : Leaves part (noteFarLoad k l va bs opc) :=
  get_bind fun _ => ite (unread_logEntry hp) pure

theorem unread_takeLine {k : Nat} {va : DWord} {line : List Byte} {paLine : Option Nat} : Leaves part (takeLine k va line paLine) := by
  refine bind (unread_consumeEntry hp) fun _ => modify fun s => ?_
  split
  · rfl
  · exact hp.setDet s _ _

theorem unread_leaderLoad {k : Nat} {m : Mode} {va : DWord} {n : Nat} {line : List Byte} {fresh : Bool} :
    Leaves part (leaderLoad k m va n line fresh) :=
  ite (bind (attempt translate_load) fun _ => bind (unread_takeLine hp) fun _ => get_bind fun _ => pure) (get_bind fun _ => pure)

theorem unread_privateRead {k l : Nat} {va : DWord} {n : Nat} {opc : BitVec 8} : Leaves part (privateRead k l va n opc) := by
  refine get_bind fun s => ?_
  split
  · exact pure
  · dsimp only
    split
    · refine ite (bind (modify fun s => hp.setDet s _ _) fun _ => bind (unread_consumeEntry hp) fun _ => pure) ?_
      split
      · exact bind (unread_consumeEntry hp) fun _ => pure
      · exact pure
      · exact ite abort abort
    · refine ite abort ?_
      split
      · exact pure
      · exact abort

theorem unread_loadBytes {k l : Nat} {m : Mode} {va : DWord} {n : Nat} {opc : BitVec 8} : Leaves part (loadBytes k l m va n opc) := by
  refine get_bind fun s => ite (unread_privateRead hp) ?_
  split
  · exact unread_leaderLoad hp
  · exact bind (unread_consumeEntry hp) fun _ => pure
  · refine bind translate_load fun ph => ite ?_ ?_
    · exact bind (unread_farRead hp) fun _ => bind (unread_noteFarLoad hp) fun _ => pure
    · exact bind (unread_phasedRead hp) fun _ => get_bind fun _ => ite (bind (unread_noteLine hp) fun _ => pure) pure

/-! ### Operands and ranges -/

theorem unread_constRead {k l : Nat} {m : Mode} {off n : Nat} : Leaves part (constRead k l m off n) :=
  get_bind fun _ => unread_loadBytes hp

theorem unread_readSrc {f : Form} {b : Base} {i l : Nat} : Leaves part (readSrc f b i l) := fun s x t h => by
  unfold readSrc at h
  dsimp only at h
  split at h
  · cases h; rfl
  · cases h; rfl
  · cases h; rfl
  · split at h
    · next hc => cases h; exact unread_constRead hp s _ _ hc
    · cases h

theorem unread_readSrcs {f : Form} {b : Base} {l : Nat} : Leaves part (readSrcs f b l) := by
  unfold readSrcs
  have one (c : Prop) [Decidable c] {i : Nat} {k : DWord → M Operands} (hk : ∀ v, Leaves part (k v)) :
      Leaves part (if c then readSrc f b i l >>= k else Pure.pure (0 : DWord) >>= k) :=
    ite (bind (unread_readSrc hp) hk) (bind pure hk)
  exact one _ fun _ => one _ fun _ => one _ fun _ => pure

theorem unread_farLoad {va : DWord} {n : Nat} : Leaves part (farLoad va n) :=
  get_bind fun _ => bind translate_load fun _ => unread_farRead hp

theorem unread_farRange {va : DWord} {n : Nat} : Leaves part (farRange va n) := bind (collect fun _ => unread_farLoad hp) fun _ => pure

end Leaves

end

/-! ### What accesses go by -/

/-- A party but for its read marks. -/
def Party.unmarked (x : Party) : Party := { x with marks := [] }

/-- The issue, the teams, the party of every agent and every party but its marks: what names the places of scratchpad and of the lane
stack. -/
def State.ground (s : State) : Issue × Sparse Team × (Nat → Nat) × (Nat → Party) :=
  (s.issue, s.teams, fun k => (s.agent k).party, fun p => (s.party p).unmarked)

theorem State.ground_setAgent {s : State} {k : Nat} {a : Agent} (h : a.party = (s.agent k).party) : (s.setAgent k a).ground = s.ground := by
  have hp (j : Nat) : ((s.setAgent k a).agent j).party = (s.agent j).party := by
    by_cases hj : j = k
    · rw [hj, State.agent_setAgent_same, h]
    · rw [State.agent_setAgent_other s a hj]
  exact Prod.ext rfl (Prod.ext rfl (Prod.ext (funext hp) rfl))

theorem State.ground_setParty_marks (s : State) (p : Nat) (m : Sparse Mark) : (s.setParty p { s.party p with marks := m }).ground = s.ground := by
  have hq (q : Nat) : ((s.setParty p { s.party p with marks := m }).party q).unmarked = (s.party q).unmarked := by
    by_cases hqp : q = p
    · rw [hqp, State.party_setParty_same]; rfl
    · rw [State.party_setParty_other s _ hqp]
  exact Prod.ext rfl (Prod.ext rfl (Prod.ext rfl (funext hq)))

/-- Reads of memory leave what accesses go by. -/
theorem unread_ground : Unread State.ground where
  mem _ _ _ := rfl
  core _ _ _ := rfl
  dets _ _ := rfl
  marks := State.ground_setParty_marks
  ops _ _ _ _ := State.ground_setAgent rfl
  draws _ _ _ := rfl

section

variable {s t : State} (h : t.ground = s.ground)
include h

theorem State.issue_of_ground : t.issue = s.issue := (Prod.mk.inj h).1

theorem State.who_of_ground : t.who = s.who := congrArg Issue.agent (issue_of_ground h)

theorem State.party_of_ground (k : Nat) : (t.agent k).party = (s.agent k).party :=
  congrFun (congrArg (fun g : Issue × Sparse Team × (Nat → Nat) × (Nat → Party) => g.2.2.1) h) k

theorem State.unmarked_of_ground (p : Nat) : (t.party p).unmarked = (s.party p).unmarked :=
  congrFun (congrArg (fun g : Issue × Sparse Team × (Nat → Nat) × (Nat → Party) => g.2.2.2) h) p

theorem State.lsva_of_ground (k : Nat) : (t.partyOf k).lsva = (s.partyOf k).lsva := by
  rw [State.partyOf, State.partyOf, party_of_ground h]
  exact (congrArg Party.lsva (unmarked_of_ground h (s.agent k).party) :)

theorem State.spadPlace_of_ground (p : Nat) (addr : Word) (n : Nat) (dest : Bool) : t.spadPlace p addr n dest = s.spadPlace p addr n dest := by
  have hteams : t.teams = s.teams := congrArg (fun g : Issue × Sparse Team × (Nat → Nat) × (Nat → Party) => g.2.1) h
  have hteam (q : Nat) : (t.party q).team = (s.party q).team := (congrArg Party.team (unmarked_of_ground h q) :)
  have hspad (q : Nat) : (t.party q).spadK = (s.party q).spadK := (congrArg Party.spadK (unmarked_of_ground h q) :)
  unfold State.spadPlace
  simp only [hteams, hteam, hspad]

end

end Sys2Proof.Machine

/-! PROOFS. The words of claims for addresses, data and results of memory instructions (spec/08 R184 to R186), and memory accesses of a group
that meet no fault: the trial that a bound rope makes first (09 R218 step 1) changes nothing. -/

namespace Sys2Proof.Machine

open Claims

/-! ### Addresses and data -/

theorem elemBytes_eq (b : Base) : elemBytes b = elemSize b := rfl

theorem memBytes_eq (b : Base) : memBytes b = accessSize b := rfl

theorem offsetEa_eq (b : Base) (x : Operands) : offsetEa b x = x.a + BitVec.ofInt 64 b.offset := rfl

theorem globalEa_eq (b : Base) (x : Operands) : globalEa b x = globalAt b x := by
  rw [globalEa, globalAt, BitVec.ofInt_add, BitVec.ofInt_mul, BitVec.ofInt_natCast, ← BitVec.add_assoc]
  rfl

theorem localEa_eq (b : Base) (x : Operands) : localEa b x = localAt b x := by
  rw [localEa, localAt, BitVec.ofInt_add, BitVec.ofInt_mul, BitVec.ofInt_natCast, BitVec.ofInt_toInt, ← BitVec.add_assoc]
  rfl

theorem stackEa_eq (b : Base) (s : State) (x : Operands) : stackEa b s x = (s.partyOf s.who).lsva + (localAt b x).setWidth 64 := by
  rw [stackEa, localEa_eq]

/-- What a result writes from a register on depends on its low bits alone: those of its type, extended. -/
theorem regWrites_extendTo (b : Base) (l reg : Nat) (t : Ty) (v : DWord) :
    regWrites b l reg t.is64 (extendTo t v) = regWrites b l reg t.is64 (wide t (low t v)) := by
  have h32 : loWord (wide .i32 (low .i32 v)) = loWord v := by
    refine BitVec.eq_of_getLsbD_eq fun i hi => ?_
    simp [loWord, wide, low, Ty.isSigned, Ty.bits, BitVec.getElem_signExtend, hi, Nat.lt_trans hi (show 32 < 64 by decide)]
  cases t
  case i32 => simp only [extendTo, regWrites, Ty.is64, Ty.bits, h32]; rfl
  all_goals simp [extendTo, regWrites, wide, low, Ty.isSigned, Ty.is64, Ty.bits, loWord, hiWord]

theorem low_dwordOf (t : Ty) (bs : List Byte) : low t (dwordOf bs) = BitVec.ofNat t.bits (leNat bs) :=
  BitVec.setWidth_ofNat_of_le t.bits_le _

theorem loadWrites_eq (b : Base) (l : Nat) (bs : List Byte) : loadWrites b l bs = loaded b l bs := by
  unfold loadWrites loaded
  refine List.flatMap_congr fun e _ => ?_
  rw [regWrites_extendTo, elemOf, low_dwordOf]
  rfl

/-- The old value of an atomic as its result. -/
theorem dstWrites_dwordOf (b : Base) (l : Nat) (bs : List Byte) :
    dstWrites b l b.ty (dwordOf bs) = regWrites b l b.dst.toNat b.ty.is64 (wide b.ty (BitVec.ofNat b.ty.bits (leNat bs))) := by
  rw [dstWrites_wide, low_dwordOf]

theorem storeData_eq (b : Base) (s : State) (l : Nat) (x : Operands) : storeData b s l x = stored b s l x := by
  simp only [storeData, stored, beq_iff_eq]
  rfl

theorem length_storeData (b : Base) (s : State) (l : Nat) (x : Operands) : (storeData b s l x).length = memBytes b := by
  unfold storeData memBytes
  split
  · next h => rw [length_bytesOf, beq_iff_eq.1 h, Nat.mul_one]
  · simp [List.length_flatMap, length_bytesOf, Nat.mul_comm]

/-! ### Accesses that meet no fault -/

/-- A lane's access as a bound rope tries it: a fault of 09 R218's step 1 counts, another does not. -/
def tried (act : Nat → M LaneOut) (l : Nat) : M LaneOut := do
  match ← attempt (act l) with
  | .ok o => pure o
  | .error t => if stepOne t.cause then abort (.trap t) else pure {}

theorem tried_ok {act : Nat → M LaneOut} {l : Nat} {s t : State} {o : LaneOut} (h : act l s = .ok (o, t)) : tried act l s = .ok (o, t) :=
  M.bind_run (attempt_run h)

theorem doAll_tried {act : Nat → M LaneOut} : ∀ {ls : List Nat} {s t : State} {outs : List (Nat × LaneOut)},
    doAll ls act s = .ok (outs, t) → doAll ls (tried act) s = .ok (outs, t)
  | [], _, _, _, h => h
  | l :: ls, s, t, outs, h => by
    obtain ⟨y, s1, hy, h⟩ := (M.bind_ok ..).1 h
    obtain ⟨ys, s2, hys, h⟩ := (M.bind_ok ..).1 h
    obtain ⟨o, s3, ho, hy⟩ := (M.bind_ok ..).1 hy
    cases hy
    exact (M.bind_run (M.bind_run (tried_ok ho))).trans ((M.bind_run (doAll_tried hys)).trans h)

theorem checkedFirst_of_doAll {ls : List Nat} {act : Nat → M LaneOut} {go : M GroupOut} {s t : State} {outs : List (Nat × LaneOut)}
    (h : doAll ls act s = .ok (outs, t)) : checkedFirst ls act go s = go s := by
  unfold checkedFirst
  rw [M.bind_run (M.get_run s)]
  cases s.isBound with
  | false => rfl
  | true => exact M.bind_run (eachLane_of_doAll (doAll_tried h))

theorem accessLanes_of_doAll {b : Base} {act : Nat → M LaneOut} {s t : State} {outs : List (Nat × LaneOut)}
    (h : doAll (s.doers b) act s = .ok (outs, t)) : accessLanes b act s = .ok ({ outs := outs }, t) := by
  unfold accessLanes
  rw [M.bind_run (M.get_run s)]
  cases hk : b.dk with
  | scl =>
    rw [State.doers_scl hk] at h
    exact (checkedFirst_of_doAll h).trans (onceOut_of_doAll h)
  | vec =>
    rw [State.doers_vec hk] at h
    exact (checkedFirst_of_doAll h).trans (eachLane_of_doAll h)

theorem runLoad_completes {f : Form} {b : Base} {act : Nat → M LaneOut} {s t : State} {outs : List (Nat × LaneOut)} (hc : s.Clear f b)
    (h : doAll (s.doers b) act s = .ok (outs, t)) : runLoad f b act s = .next (t.retired f b { outs := outs }) :=
  runGroup_completes hc (accessLanes_of_doAll h) rfl

theorem runStore_completes {f : Form} {b : Base} {act : Nat → M LaneOut} {s t : State} {outs : List (Nat × LaneOut)} (hc : s.Clear f b)
    (h : doAll (s.acting b) act s = .ok (outs, t)) : runStore f b act s = .next (t.retired f b { outs := outs }) :=
  runGroup_completes hc ((M.bind_run (M.get_run s)).trans ((checkedFirst_of_doAll h).trans (eachLane_of_doAll h))) rfl

/-- A load completes with an effect that is the same in every lane as the model's. -/
theorem completesIn_runLoad {i : Instr} {b : Base} {act act' : Nat → M LaneOut}
    (hexec : ∀ s, exec i s = runLoad (formOf i) b act s) (h : ∀ l, act' l = act l) :
    CompletesIn i b (fun _ => True) (fun s => s.doers b) act' := fun s t outs _ hc _ hd => by
  rw [hexec]
  exact runLoad_completes hc (funext h ▸ hd)

theorem completesIn_runStore {i : Instr} {b : Base} {act act' : Nat → M LaneOut}
    (hexec : ∀ s, exec i s = runStore (formOf i) b act s) (h : ∀ l, act' l = act l) :
    CompletesIn i b (fun _ => True) (fun s => s.acting b) act' := fun s t outs _ hc _ hd => by
  rw [hexec]
  exact runStore_completes hc (funext h ▸ hd)

/-- A place in scratchpad that the issue's party reaches, and what a claim does with it. -/
theorem placeOf_bind {α : Type} {addr : Word} {n : Nat} {dest : Bool} {k : Nat × Nat → M α} {s : State} :
    (placeOf addr n dest >>= k) s = (liftCheck (s.spadPlace (s.agent s.who).party addr n dest) >>= k) s := by
  simp only [placeOf, liftCheck, bind, StateT.bind, Except.bind]
  cases s.spadPlace (s.agent s.who).party addr n dest <;> rfl

end Sys2Proof.Machine

/-! PROOFS. Loads and stores complete (spec/08 R184 to R190; O22, O23). -/

namespace Sys2Proof.Machine

open Claims

/-! ### Loads -/

/-- A lane of a load: the address may be known before the operands are read, and the read goes by the state after them. -/
theorem loadLane_run {f : Form} {b : Base} {l : Nat} {s : State} {ea : State → Operands → DWord} {ea' : Operands → DWord}
    {read : State → Nat → DWord → M (List Byte)} {read' : DWord → Nat → M (List Byte)}
    (hea : ∀ x t, readSrcs f b l s = .ok (x, t) → ea t x = ea' x) (hread : ∀ va t, read t l va t = read' va (memBytes b) t) :
    (do
      let x ← readSrcs f b l
      let s ← get
      require ((ea s x).toNat % accessSize b == 0) .misaligned (ea s x)
      let bs ← read s l (ea s x)
      pure { writes := loaded b l bs, touch := [((ea s x).toNat, accessSize b)] } : M LaneOut) s = loadLane f b l ea' read' s := by
  unfold loadLane
  refine M.bind_congr_run fun x t hx => (M.bind_run (M.get_run t)).trans ?_
  simp only [hea x t hx, loadWrites_eq]
  refine M.bind_congr_run fun _ u hu => ?_
  obtain ⟨-, rfl⟩ := (require_ok ..).1 hu
  simp only [bind, StateT.bind, Except.bind, hread]
  rfl

/-- A load whose address and read agree with the claim's completes. -/
theorem loads_of_runLoad {i : Instr} {b : Base} {ea ea' : State → Operands → DWord} {read : State → Nat → DWord → M (List Byte)}
    {read' : Nat → DWord → Nat → M (List Byte)}
    (hexec : ∀ s, exec i s = runLoad (formOf i) b (fun l => do
      let s ← get
      loadLane (formOf i) b l (ea' s) (read' l)) s)
    (hea : ∀ l s x t, readSrcs (formOf i) b l s = .ok (x, t) → ea t x = ea' s x)
    (hread : ∀ l va t, read t l va t = read' l va (memBytes b) t) : Loads i b ea read :=
  completesIn_runLoad hexec fun l => funext fun s => by
    refine Eq.trans ?_ (M.bind_run (M.get_run s)).symm
    exact loadLane_run (hea l s) (hread l)

theorem phasedLoad_run (l : Nat) (opc : BitVec 8) (va : DWord) (n : Nat) (s : State) :
    phasedLoad l opc va n s = loadBytes s.who l s.mode va n opc s := rfl

theorem farLoad_run (va : DWord) (n : Nat) (s : State) : (do
    let ph ← translate s.who s.mode va .load
    farRead s.who va ph.pa n : M (List Byte)) s = farLoad va n s := by
  unfold farLoad
  rw [M.bind_run (M.get_run s)]

theorem exec_ld (b : Base) (s : State) : exec (.ld b) s = runLoad (formOf (.ld b)) b (fun l => do
    let _ ← get
    loadLane (formOf (.ld b)) b l (globalEa b) (phasedLoad l (formOf (.ld b)).opc)) s := rfl

theorem exec_ldf (b : Base) (s : State) : exec (.ldf b) s = runLoad (formOf (.ldf b)) b (fun l => do
    let _ ← get
    loadLane (formOf (.ldf b)) b l (globalEa b) farLoad) s := rfl

theorem exec_ldl (b : Base) (s : State) : exec (.ldl b) s = runLoad (formOf (.ldl b)) b (fun l => do
    let s ← get
    loadLane (formOf (.ldl b)) b l (stackEa b s) (phasedLoad l (formOf (.ldl b)).opc)) s := rfl

theorem ldCompletes (b : Base) : Loads (.ld b) b (fun _ => globalAt b)
    fun s l va => loadBytes s.who l s.mode va (accessSize b) (formOf (.ld b)).opc :=
  loads_of_runLoad (ea' := fun _ => globalEa b) (exec_ld b) (fun _ _ x _ _ => (globalEa_eq b x).symm) fun _ _ _ => (phasedLoad_run ..).symm

theorem ldfCompletes (b : Base) : Loads (.ldf b) b (fun _ => globalAt b) (fun s _ va => do
    let ph ← translate s.who s.mode va .load
    farRead s.who va ph.pa (accessSize b)) :=
  loads_of_runLoad (ea' := fun _ => globalEa b) (read' := fun _ => farLoad) (exec_ldf b) (fun _ _ x _ _ => (globalEa_eq b x).symm)
    fun _ _ _ => farLoad_run ..

/-- Reading operands leaves the base of the lane stack. -/
theorem stackEa_of_readSrcs {f : Form} {b : Base} {l : Nat} {s t : State} {x : Operands} (h : readSrcs f b l s = .ok (x, t)) :
    (t.partyOf t.who).lsva + (localAt b x).setWidth 64 = stackEa b s x := by
  have hg := Leaves.unread_readSrcs unread_ground s x t h
  rw [stackEa_eq, State.who_of_ground hg, State.lsva_of_ground hg]

theorem ldlCompletes (b : Base) : Loads (.ldl b) b (fun s x => (s.partyOf s.who).lsva + (localAt b x).setWidth 64)
    fun s l va => loadBytes s.who l s.mode va (accessSize b) (formOf (.ldl b)).opc :=
  loads_of_runLoad (exec_ldl b) (fun _ _ _ _ => stackEa_of_readSrcs) fun _ _ _ => (phasedLoad_run ..).symm

theorem constRead_run (l off n : Nat) (s : State) : constRead s.who l s.mode off n s =
    loadBytes s.who l s.mode ((s.partyOf s.who).param + BitVec.ofNat 64 off) n 0xA4 s := rfl

theorem ldcCompletes (b : Base) : CompletesIn (.ldc b) b (fun _ => True) (fun s => s.doers b) (fun l => do
    let x ← readSrcs (formOf (.ldc b)) b l
    let s ← get
    let off := (localAt b x).toNat
    require (off % accessSize b == 0) .misaligned (BitVec.ofNat 64 off)
    require (decide (off + accessSize b ≤ 65536)) .illegalOperand s.issue.word
    let va := (s.partyOf s.who).param + BitVec.ofNat 64 off
    let bs ← loadBytes s.who l s.mode va (accessSize b) 0xA4
    pure { writes := loaded b l bs, touch := [(((s.partyOf s.who).param + BitVec.ofNat 64 off).toNat, accessSize b)] }) := by
  refine completesIn_runLoad (fun _ => rfl) fun l => funext fun s => ?_
  refine M.bind_congr_run fun x t _ => (M.bind_run (M.get_run t)).trans ?_
  have hoff : BitVec.ofNat 64 (localAt b x).toNat = (localAt b x).setWidth 64 := BitVec.ofNat_toNat ..
  simp only [localEa_eq, checkAlign_setWidth, loadWrites_eq, hoff]
  refine M.bind_congr_run fun _ u hu => ?_
  obtain ⟨-, rfl⟩ := (require_ok ..).1 hu
  refine Eq.trans ?_ (M.bind_run (M.get_run u)).symm
  refine M.bind_congr_run fun _ v hv => ?_
  obtain ⟨-, rfl⟩ := (require_ok ..).1 hv
  simp only [bind, StateT.bind, Except.bind, constRead_run, hoff]
  rfl

/-! ### Scratchpad -/

theorem spadTouch_run {addr : Word} {n q off : Nat} {dest : Bool} {s : State}
    (h : s.spadPlace (s.agent s.who).party addr n dest = .ok (q, off)) : spadTouch addr n dest s = .ok ((q * 2 ^ 20 + off, n), s) := by
  unfold spadTouch
  rw [M.bind_run (M.get_run s), h]
  rfl

theorem spadTouch_error {addr : Word} {n : Nat} {dest : Bool} {s : State} {t : Trap}
    (h : s.spadPlace (s.agent s.who).party addr n dest = .error t) : spadTouch addr n dest s = .error (.trap t) := by
  unfold spadTouch
  rw [M.bind_run (M.get_run s), h]
  rfl

/-- The place that a scratchpad access touches, as a claim names it. -/
theorem placeOf_touch {α : Type} {addr : Word} {n : Nat} {dest : Bool} {k k' : Nat × Nat → M α} {s : State}
    (h : ∀ q off, s.spadPlace (s.agent s.who).party addr n dest = .ok (q, off) → k (q, off) s = k' (q * 2 ^ 20 + off, n) s) :
    (placeOf addr n dest >>= k) s = (spadTouch addr n dest >>= k') s := by
  cases hp : s.spadPlace (s.agent s.who).party addr n dest with
  | error t =>
    have hplace : placeOf addr n dest s = .error (.trap t) := by unfold placeOf; rw [hp]
    rw [M.bind_error hplace, M.bind_error (spadTouch_error hp)]
  | ok p =>
    have hplace : placeOf addr n dest s = .ok (p, s) := by unfold placeOf; rw [hp]
    rw [M.bind_run hplace, M.bind_run (spadTouch_run hp)]
    exact h p.1 p.2 hp

/-- A place that may be written may be read. -/
theorem State.spadPlace_read {s : State} {p : Nat} {addr : Word} {n : Nat} {dest : Bool} {r : Nat × Nat}
    (h : s.spadPlace p addr n dest = .ok r) : s.spadPlace p addr n false = .ok r := by
  cases dest with
  | false => exact h
  | true =>
    unfold State.spadPlace at h ⊢
    dsimp only at h ⊢
    simp only [Bool.and_true, Bool.and_false, Bool.or_false] at h ⊢
    split_ifs at h ⊢ <;> simp_all

theorem spadRead_run {addr : Word} {n q off : Nat} {dest : Bool} {s : State}
    (h : s.spadPlace (s.agent s.who).party addr n dest = .ok (q, off)) :
    spadRead s.who addr n s = .ok ((s.party q).spad.readN off n, s) := by
  unfold spadRead
  rw [M.bind_run (M.get_run s), State.spadPlace_read h]
  rfl

theorem spadWrite_run {addr : Word} {bs : List Byte} {q off : Nat} {s : State}
    (h : s.spadPlace (s.agent s.who).party addr bs.length true = .ok (q, off)) :
    spadWrite s.who addr bs false s = .ok ((), s.setParty q { s.party q with spad := (s.party q).spad.writeN off bs }) := by
  unfold spadWrite
  rw [M.bind_run (M.get_run s)]
  simp only [Bool.not_false]
  rw [h]
  rfl

theorem ldsCompletes (b : Base) : CompletesIn (.lds b) b (fun _ => True) (fun s => s.doers b) (fun l => do
    let x ← readSrcs (formOf (.lds b)) b l
    let addr := localAt b x
    require (addr.toNat % accessSize b == 0) .misaligned (addr.setWidth 64)
    let (q, off) ← placeOf addr (accessSize b) false
    let s ← get
    pure { writes := loaded b l ((s.party q).spad.readN off (accessSize b)), touch := [(q * 2 ^ 20 + off, accessSize b)], banked := true }) := by
  refine completesIn_runLoad (fun _ => rfl) fun l => funext fun s => M.bind_congr_run fun x t _ => ?_
  simp only [localEa_eq, checkAlign_setWidth]
  refine M.bind_congr_run fun _ u hu => ?_
  obtain ⟨-, rfl⟩ := (require_ok ..).1 hu
  refine placeOf_touch fun q off hp => (M.bind_run (M.get_run u)).trans ?_
  refine Eq.trans ?_ (M.bind_run (M.get_run u)).symm
  refine Eq.trans ?_ (M.bind_run (spadRead_run hp)).symm
  simp only [loadWrites_eq]

/-- Settles O22: each load is the model's, whose addresses, accesses and results are the claim's. -/
theorem loadsComplete : Obligations.LoadsComplete := fun b =>
  ⟨ldCompletes b, ldfCompletes b, ldlCompletes b, ldcCompletes b, ldsCompletes b⟩

/-! ### Stores -/

/-- A lane of a store: the address may be known before the operands are read, and the write goes by the state after them. -/
theorem storeLane_run {f : Form} {b : Base} {l : Nat} {s : State} {ea : State → Operands → DWord} {ea' : Operands → DWord}
    {write : State → DWord → List Byte → M Bool} {write' : DWord → List Byte → M Bool}
    (hea : ∀ x t, readSrcs f b l s = .ok (x, t) → ea t x = ea' x) (hwrite : ∀ va bs t, write t va bs t = write' va bs t) :
    (do
      let x ← readSrcs f b l
      let s ← get
      require ((ea s x).toNat % accessSize b == 0) .misaligned (ea s x)
      let held ← write s (ea s x) (stored b s l x)
      pure { hold := if held then some .held else none, far := held, touch := [((ea s x).toNat, accessSize b)] } : M LaneOut) s =
      storeLane f b l ea' write' s := by
  unfold storeLane
  refine M.bind_congr_run fun x t hx => (M.bind_run (M.get_run t)).trans ?_
  simp only [hea x t hx, storeData_eq]
  refine M.bind_congr_run fun _ u hu => ?_
  obtain ⟨-, rfl⟩ := (require_ok ..).1 hu
  refine Eq.trans ?_ (M.bind_run (M.get_run u)).symm
  simp only [bind, StateT.bind, Except.bind, hwrite]
  rfl

/-- A store whose address and write agree with the claim's completes. -/
theorem stores_of_runStore {i : Instr} {b : Base} {ea ea' : State → Operands → DWord} {write : State → DWord → List Byte → M Bool}
    {write' : DWord → List Byte → M Bool}
    (hexec : ∀ s, exec i s = runStore (formOf i) b (fun l => do
      let s ← get
      storeLane (formOf i) b l (ea' s) write') s)
    (hea : ∀ l s x t, readSrcs (formOf i) b l s = .ok (x, t) → ea t x = ea' s x)
    (hwrite : ∀ va bs t, write t va bs t = write' va bs t) : Stores i b ea write :=
  completesIn_runStore hexec fun l => funext fun s => by
    refine Eq.trans ?_ (M.bind_run (M.get_run s)).symm
    exact storeLane_run (hea l s) hwrite

theorem phasedStore_run (va : DWord) (bs : List Byte) (s : State) : phasedStore va bs s = storeBytes s.who s.mode va bs s := rfl

theorem exec_st (b : Base) (s : State) : exec (.st b) s = runStore (formOf (.st b)) b (fun l => do
    let _ ← get
    storeLane (formOf (.st b)) b l (globalEa b) phasedStore) s := rfl

theorem exec_stl (b : Base) (s : State) : exec (.stl b) s = runStore (formOf (.stl b)) b (fun l => do
    let s ← get
    storeLane (formOf (.stl b)) b l (stackEa b s) phasedStore) s := rfl

theorem stCompletes (b : Base) : Stores (.st b) b (fun _ => globalAt b) fun s va bs => storeBytes s.who s.mode va bs :=
  stores_of_runStore (ea' := fun _ => globalEa b) (exec_st b) (fun _ _ x _ _ => (globalEa_eq b x).symm) fun _ _ _ => (phasedStore_run ..).symm

theorem stlCompletes (b : Base) : Stores (.stl b) b (fun s x => (s.partyOf s.who).lsva + (localAt b x).setWidth 64)
    fun s va bs => storeBytes s.who s.mode va bs :=
  stores_of_runStore (exec_stl b) (fun _ _ _ _ => stackEa_of_readSrcs) fun _ _ _ => (phasedStore_run ..).symm

theorem stsCompletes (b : Base) : CompletesIn (.sts b) b (fun _ => True) (fun s => s.acting b) (fun l => do
    let x ← readSrcs (formOf (.sts b)) b l
    let addr := localAt b x
    require (addr.toNat % accessSize b == 0) .misaligned (addr.setWidth 64)
    let (q, off) ← placeOf addr (accessSize b) true
    modify fun s =>
      let y := s.party q
      s.setParty q { y with spad := y.spad.writeN off (stored b s l x) }
    pure { touch := [(q * 2 ^ 20 + off, accessSize b)], banked := true }) := fun s t outs _ hc _ hd => by
  refine runLanes_completes hc (.trans (congrFun (doAll_congr fun l _ => funext fun s => ?_) s) hd)
  refine M.bind_congr_run fun x t _ => ?_
  simp only [localEa_eq, checkAlign_setWidth]
  refine M.bind_congr_run fun _ u hu => ?_
  obtain ⟨-, rfl⟩ := (require_ok ..).1 hu
  refine (placeOf_touch fun q off hp => ?_).symm
  refine Eq.trans ?_ (M.bind_run (M.get_run u)).symm
  have hw : u.spadPlace (u.agent u.who).party (localAt b x) (storeData b u l x).length true = .ok (q, off) := by
    rwa [length_storeData]
  refine Eq.trans ?_ (M.bind_run (spadWrite_run hw)).symm
  rw [M.bind_run (M.modify_run _ u), storeData_eq]
  rfl

/-! ### Deferred far accesses -/

theorem roomFor_run {c : EngClass} {s : State} (h : (s.agent s.who).counter c < 63) : roomFor c s = .ok ((), s) := by
  unfold roomFor
  rw [M.bind_run (M.get_run s), if_neg (show ¬counterLimit ≤ _ from Nat.not_le.2 h)]
  rfl

theorem countOp_run (c : EngClass) (l : Nat) (s : State) : countOp s.who l c s = .ok (s.uid, counted s c l) := rfl

/-- Effects of some lanes answer for some lanes. -/
theorem outs_isEmpty_of_doAll {ls : List Nat} {act : Nat → M LaneOut} {s t : State} {outs : List (Nat × LaneOut)} (hls : ls ≠ [])
    (h : doAll ls act s = .ok (outs, t)) : outs.isEmpty = false := by
  cases outs with
  | nil => exact absurd (keys_collect h).symm hls
  | cons o os => rfl

/-- A far instruction without return, with room in its counter, completes. -/
theorem runFar_completes {f : Form} {b : Base} {keep : Bool} {act : Nat → Nat → M LaneOut} {s t : State} {outs : List (Nat × LaneOut)}
    (hc : s.Clear f b) (hls : s.acting b ≠ []) (hroom : (s.agent s.who).counter .far < 63)
    (h : doAll (s.acting b) (act s.uid) (counted s .far ((s.acting b).headD 0)) = .ok (outs, t)) :
    runFar f b keep act s = .next (t.retired f b { outs := outs }) := by
  refine runGroup_completes hc ((M.bind_run (M.get_run s)).trans ?_) rfl
  rw [if_neg (by simpa using hls), M.bind_run (roomFor_run hroom), M.bind_run (countOp_run ..),
    M.bind_run ((checkedFirst_of_doAll h).trans (eachLane_of_doAll h))]
  simp only [outs_isEmpty_of_doAll hls h]
  rfl

/-- A far instruction whose lanes' parts are the claim's completes as the claim says. -/
theorem completesFar_of_runFar {i : Instr} {b : Base} {keep : Bool} {part act : Nat → Nat → M LaneOut}
    (hexec : ∀ s, exec i s = runFar (formOf i) b keep act s) (h : ∀ u l, part u l = act u l) : CompletesFar i b part :=
  fun s t outs _ hc hls hroom hd => by
    rw [hexec]
    exact runFar_completes hc hls hroom ((congrFun (doAll_congr fun l _ => (h s.uid l).symm) _).trans hd)

theorem deferFar_run (u l : Nat) (va : DWord) (pa : Nat) (red : Option (BitVec 3 × Ty)) (bs : List Byte) (s : State) :
    deferFar u l va pa red bs s =
      .ok ((), s.setAgent s.who { s.agent s.who with far := (s.agent s.who).far ++ [⟨u, l, va, pa, red, bs⟩] }) := rfl

theorem deferredFarComplete : Claims.DeferredFarComplete := fun b => by
  constructor
  · refine completesFar_of_runFar (fun _ => rfl) fun u l => funext fun s => ?_
    refine M.bind_congr_run fun x t _ => ?_
    simp only [globalEa_eq]
    refine M.bind_congr_run fun _ v hv => ?_
    obtain ⟨-, rfl⟩ := (require_ok ..).1 hv
    refine (M.bind_run (M.get_run v)).trans ?_
    simp only [bind, StateT.bind, Except.bind, M.get_run, M.modify_run, deferFar_run, storeData_eq]
    cases translate v.who v.mode (globalAt b x) .store v with
    | error e => rfl
    | ok r => rfl
  · refine completesFar_of_runFar (fun _ => rfl) fun u l => funext fun s => ?_
    refine M.bind_congr_run fun x t _ => ?_
    simp only [globalEa_eq]
    rfl

/-- Settles O23: each store is the model's; the deferred parts of STF and RED are those that the model counts and queues. -/
theorem storesComplete : Obligations.StoresComplete :=
  ⟨fun b => ⟨stCompletes b, stlCompletes b, stsCompletes b⟩, deferredFarComplete⟩

end Sys2Proof.Machine

/-! PROOFS. Atomics complete, and the new values they give (spec/08 R198, R199; O25). -/

namespace Sys2Proof.Machine

open Claims

/-! ### The new value of an atomic -/

/-- The function codes but that of the compare-and-swap. -/
theorem atomicFn_cases (fn : BitVec 3) (h : fn ≠ 7) : fn = 0 ∨ fn = 1 ∨ fn = 2 ∨ fn = 3 ∨ fn = 4 ∨ fn = 5 ∨ fn = 6 := by
  revert fn
  decide

/-- Only a compare-and-swap compares. -/
theorem atomicNew_cmp (fn : BitVec 3) (t : Ty) (old cmp cmp' c : DWord) (h : fn ≠ 7) :
    atomicNew fn t old cmp c = atomicNew fn t old cmp' c := by
  rcases atomicFn_cases fn h with rfl | rfl | rfl | rfl | rfl | rfl | rfl <;> rfl

/-- An integer that is less than another, by the bits of their type. -/
theorem intVal_lt_iff (t : Ty) (x y : DWord) : t.intVal x < t.intVal y ↔ less t.isSigned (low t x) (low t y) = true := by
  rw [less_iff, ← t.intVal_eq, ← t.intVal_eq]

/-- The low bits of one of two operands. -/
theorem low_ite (t : Ty) (p : Prop) [Decidable p] (x y : DWord) : low t (if p then x else y) = if p then low t x else low t y := by
  split <;> rfl

section

variable {t : Ty} (ht : (t == .f32) = false) (old cmp c : DWord)
include ht

theorem low_atomicNew_add : low t (atomicNew 0 t old cmp c) = low t old + low t c := by
  have h : atomicNew 0 t old cmp c = t.wrap (t.intVal old + t.intVal c) := by
    simp [atomicNew, ht]
  rw [h, low_wrap, t.intVal_eq, t.intVal_eq, BitVec.ofInt_add, ofInt_valueOf, ofInt_valueOf]

theorem low_atomicNew_min :
    low t (atomicNew 1 t old cmp c) = if less t.isSigned (low t c) (low t old) then low t c else low t old := by
  have h : atomicNew 1 t old cmp c = if t.intVal c < t.intVal old then c else old := by
    simp [atomicNew, ht]
  simp only [h, low_ite, intVal_lt_iff]

theorem low_atomicNew_max :
    low t (atomicNew 2 t old cmp c) = if less t.isSigned (low t old) (low t c) then low t c else low t old := by
  have h : atomicNew 2 t old cmp c = if t.intVal old < t.intVal c then c else old := by
    simp [atomicNew, ht]
  simp only [h, low_ite, intVal_lt_iff]

end

theorem low_atomicNew_and (t : Ty) (old cmp c : DWord) : low t (atomicNew 3 t old cmp c) = low t old &&& low t c := BitVec.setWidth_and
theorem low_atomicNew_or (t : Ty) (old cmp c : DWord) : low t (atomicNew 4 t old cmp c) = low t old ||| low t c := BitVec.setWidth_or
theorem low_atomicNew_xor (t : Ty) (old cmp c : DWord) : low t (atomicNew 5 t old cmp c) = low t old ^^^ low t c := BitVec.setWidth_xor

theorem low_atomicNew_cas (t : Ty) (old cmp c : DWord) :
    low t (atomicNew 7 t old cmp c) = if low t old = low t cmp then low t c else low t old := by
  have h : atomicNew 7 t old cmp c = if low t old == low t cmp then c else old := rfl
  rw [h, low_ite]
  simp only [beq_iff_eq]

/-- An f32 result comes back from its register form. -/
theorem f32_bits (w : Word) : (low .f32 (w.setWidth 64)).setWidth 32 = w := by
  simp [low, Ty.bits]

theorem atomicNew_f32_add (old cmp c : DWord) : (low .f32 (atomicNew 0 .f32 old cmp c)).setWidth 32 =
    rneF32 ((f32Val (old.setWidth 32)).add false (f32Val (c.setWidth 32))) := by
  have h : atomicNew 0 .f32 old cmp c = Ty.f32.fround ((Ty.f32.fval old).add false (Ty.f32.fval c)) .rne := rfl
  rw [h, f32_fround, f32_bits, f32_fval, f32_fval]

theorem atomicNew_f32_min (old cmp c : DWord) : (low .f32 (atomicNew 1 .f32 old cmp c)).setWidth 32 =
    rneF32 ((f32Val (old.setWidth 32)).min (f32Val (c.setWidth 32))) := by
  have h : atomicNew 1 .f32 old cmp c = Ty.f32.fround ((Ty.f32.fval old).min (Ty.f32.fval c)) .rne := rfl
  rw [h, f32_fround, f32_bits, f32_fval, f32_fval]

theorem atomicNew_f32_max (old cmp c : DWord) : (low .f32 (atomicNew 2 .f32 old cmp c)).setWidth 32 =
    rneF32 ((f32Val (old.setWidth 32)).max (f32Val (c.setWidth 32))) := by
  have h : atomicNew 2 .f32 old cmp c = Ty.f32.fround ((Ty.f32.fval old).max (Ty.f32.fval c)) .rne := rfl
  rw [h, f32_fround, f32_bits, f32_fval, f32_fval]

theorem atomicValues : Claims.AtomicValues := fun t old cmp c => by
  refine ⟨fun ht => ?_, ?_⟩
  · have hf : (t == .f32) = false := by
      fin_cases ht <;> rfl
    exact ⟨low_atomicNew_add hf .., low_atomicNew_min hf .., low_atomicNew_max hf .., low_atomicNew_and .., low_atomicNew_or ..,
      low_atomicNew_xor .., rfl, low_atomicNew_cas ..⟩
  · rintro rfl
    exact ⟨atomicNew_f32_add .., atomicNew_f32_min .., atomicNew_f32_max .., rfl⟩

/-! ### Atomics at the home slice and in scratchpad -/

/-- One lane of a global atomic with return, in the words of the claim. -/
theorem atomLane_run (b : Base) (l : Nat) (fn : BitVec 3) (ea cmp c : DWord) (s : State) : (do
    require (ea.toNat % elemSize b == 0) .misaligned ea
    let s ← get
    let ph ← translate s.who s.mode ea .atomic
    let old ← farRead s.who ea ph.pa (elemSize b)
    farWrite s.who ph.pa (leBytes (elemSize b) (atomicNew fn b.ty (BitVec.ofNat 64 (leNat old)) cmp c).toNat)
    pure { writes := regWrites b l b.dst.toNat b.ty.is64 (wide b.ty (BitVec.ofNat b.ty.bits (leNat old))),
           touch := [(ea.toNat, elemSize b)] } : M LaneOut) s = atomLane b l fn ea cmp c s := by
  unfold atomLane
  simp only [dstWrites_dwordOf]
  rfl

theorem runAtomic_completes {f : Form} {b : Base} {act : Nat → Operands → M LaneOut} {s t : State} {outs : List (Nat × LaneOut)}
    (hc : s.Clear f b) (h : doAll (s.doers b) (fun l => do
      let x ← readSrcs f b l
      act l x) s = .ok (outs, t)) : runAtomic f b act s = .next (t.retired f b { outs := outs }) :=
  runGroup_completes hc (accessLanes_of_doAll h) rfl

/-- An atomic at the home slice completes, where the model's comparison makes no difference. -/
theorem atHome_of_runAtomic {i : Instr} {b : Base} {ea ea' : Operands → DWord} {fn : BitVec 3} {cmp : Operands → DWord}
    (hexec : ∀ s, exec i s = runAtomic (formOf i) b (fun l x => atomLane b l fn (ea' x) (cmp x) x.c) s)
    (hea : ∀ x, ea' x = ea x)
    (hcmp : i.WellFormed → ∀ (x : Operands) (old : DWord), atomicNew fn b.ty old x.b x.c = atomicNew fn b.ty old (cmp x) x.c) :
    CompletesIn i b (fun _ => True) (fun s => s.doers b) (fun l => do
      let x ← readSrcs (formOf i) b l
      require ((ea x).toNat % elemSize b == 0) .misaligned (ea x)
      let s ← get
      let ph ← translate s.who s.mode (ea x) .atomic
      let old ← farRead s.who (ea x) ph.pa (elemSize b)
      farWrite s.who ph.pa (leBytes (elemSize b) (atomicNew fn b.ty (BitVec.ofNat 64 (leNat old)) x.b x.c).toNat)
      pure { writes := regWrites b l b.dst.toNat b.ty.is64 (wide b.ty (BitVec.ofNat b.ty.bits (leNat old))),
             touch := [((ea x).toNat, elemSize b)] }) := fun s t outs hw hc _ hd => by
  rw [hexec]
  refine runAtomic_completes hc ((congrFun (doAll_congr fun l _ => funext fun s => ?_) s).trans hd)
  refine M.bind_congr_run fun x u _ => ?_
  simp only [hcmp hw x, hea]
  exact (atomLane_run ..).symm

theorem atomsCompletes (b : Base) : CompletesIn (.atoms b) b (fun _ => True) (fun s => s.doers b) (fun l => do
    let x ← readSrcs (formOf (.atoms b)) b l
    let addr : Word := if b.fn = 7 then (x.a + BitVec.ofInt 64 b.offset).setWidth 32 else localAt b x
    require (addr.toNat % elemSize b == 0) .misaligned (addr.setWidth 64)
    let (q, off) ← placeOf addr (elemSize b) true
    let s ← get
    let old := (s.party q).spad.readN off (elemSize b)
    modify fun s =>
      let y := s.party q
      let new := leBytes (elemSize b) (atomicNew b.fn b.ty (BitVec.ofNat 64 (leNat old)) x.b x.c).toNat
      s.setParty q { y with spad := y.spad.writeN off new }
    pure { writes := regWrites b l b.dst.toNat b.ty.is64 (wide b.ty (BitVec.ofNat b.ty.bits (leNat old))),
           touch := [(q * 2 ^ 20 + off, elemSize b)], banked := true }) := fun s t outs _ hc _ hd => by
  refine runGroup_completes hc ((M.bind_run (M.get_run s)).trans (doersOut_of_doAll
    (.trans (congrFun (doAll_congr fun l _ => funext fun s => ?_) s) hd))) rfl
  refine M.bind_congr_run fun x t _ => ?_
  have haddr : (if b.fn == 7 then loWord (offsetEa b x) else localEa b x) =
      if b.fn = 7 then (x.a + BitVec.ofInt 64 b.offset).setWidth 32 else localAt b x := by
    simp only [beq_iff_eq, localEa_eq]
    rfl
  simp only [haddr, checkAlign_setWidth]
  generalize (if b.fn = 7 then (x.a + BitVec.ofInt 64 b.offset).setWidth 32 else localAt b x : Word) = addr
  refine M.bind_congr_run fun _ u hu => ?_
  obtain ⟨-, rfl⟩ := (require_ok ..).1 hu
  refine (placeOf_touch fun q off hp => (M.bind_run (M.get_run u)).trans ?_).symm
  refine Eq.trans ?_ (M.bind_run (M.get_run u)).symm
  refine Eq.trans ?_ (M.bind_run (spadRead_run hp)).symm
  refine Eq.trans ?_ (M.bind_run (spadWrite_run (by rwa [length_bytesOf]))).symm
  rw [M.bind_run (M.modify_run _ u)]
  simp only [dstWrites_dwordOf]
  rfl

theorem exec_atom (b : Base) (s : State) : exec (.atom b) s =
    runAtomic (formOf (.atom b)) b (fun l x => atomLane b l b.fn (globalEa b x) 0 x.c) s := rfl

theorem exec_atomc (b : Base) (s : State) : exec (.atomc b) s =
    runAtomic (formOf (.atomc b)) b (fun l x => atomLane b l 7 (offsetEa b x) x.b x.c) s := rfl

/-- ATOM has no compare-and-swap. -/
theorem atom_fn {b : Base} (hw : (Instr.atom b).WellFormed) : b.fn ≠ 7 := fun h7 => by
  simpa [h7] using Form.tyFn_of_wellFormed hw rfl

theorem atomics_complete : Claims.AtomicsComplete := fun b =>
  ⟨atHome_of_runAtomic (ea := globalAt b) (exec_atom b) (globalEa_eq b) fun hw _ _ => atomicNew_cmp _ _ _ _ _ _ (atom_fn hw),
    atHome_of_runAtomic (ea := fun x => x.a + BitVec.ofInt 64 b.offset) (exec_atomc b) (offsetEa_eq b) fun _ _ _ => rfl,
    atomsCompletes b⟩

/-- Settles O25: each lane's effect is the model's, and the new values are those of the type's bits. -/
theorem atomicsComplete : Obligations.AtomicsComplete := ⟨atomics_complete, atomicValues⟩

end Sys2Proof.Machine

/-! PROOFS. Accesses whose address is misaligned trap in every acting lane, and as a unit in a bound rope (spec/08 R185, spec/09 R217, R218;
O24). -/

namespace Sys2Proof.Machine

open Claims

/-! ### Groups whose lanes trap -/

/-- The traps that a group takes for those its effect found: in a bound rope every lane takes the first (09 R217). -/
def State.unitTaken (s : State) (ts : List (Nat × Trap)) : List (Nat × Trap) := if s.isBound then unitTraps s.issued ts else ts

/-- A group whose effect answers traps and no result retires with them; what the effect did stays, but in a bound rope where its lanes are
undone together. -/
theorem runGroup_met {s s1 : State} {f : Form} {b : Base} {keep : Bool} {act : M GroupOut} {ts : List (Nat × Trap)} (h : s.Clear f b)
    (ha : act s = .ok ({ traps := ts }, s1)) :
    runGroup f b keep act s =
      .next ((if s.isBound && !ts.isEmpty && !keep then s else s1).retired f b { traps := s.unitTaken ts }) := by
  have hd : deterministic f b (caught b act) s = .ok ({ traps := ts }, s1) := by
    unfold deterministic
    rw [M.bind_run (M.get_run s)]
    simp [h.free, caught_ok ha]
  have hb : boundRule keep (deterministic f b (caught b act)) s =
      .ok ({ traps := s.unitTaken ts }, if s.isBound && !ts.isEmpty && !keep then s else s1) := by
    unfold boundRule State.unitTaken
    rw [hd]
    cases ts with
    | nil => simp [unitTraps]
    | cons t ts =>
      simp only [State.isBound, List.isEmpty_cons, Bool.not_false, Bool.and_true]
      by_cases hb : (s.agent s.who).bound.isSome = true
      · cases keep <;> simp [hb]
      · simp [hb]
  unfold runGroup runM
  rw [M.bind_run (M.get_run s)]
  simp only [h.ready, h.whole, h.allowed, ite_self]
  cases s.decodeBarred f b
  · simp only [Bool.not_false, if_true]
    rw [M.bind_run (allocate_room h.room), M.bind_run hb]
    rfl
  · simp only [Bool.not_true, Bool.false_eq_true, if_false]
    rw [M.bind_run hb]
    rfl

/-- The lanes whose faults a group's accesses find: all, but in a bound rope the first alone. -/
def State.finders (s : State) (ls : List Nat) : List Nat := if s.isBound then ls.take 1 else ls

/-- Whichever of them are found, the unit takes the first one's trap. -/
theorem State.unitTaken_finders (s : State) (ls : List Nat) (tr : Nat → Trap) :
    s.unitTaken ((s.finders ls).map fun l => (l, tr l)) = s.unitTaken (ls.map fun l => (l, tr l)) := by
  unfold unitTaken finders
  cases s.isBound with
  | false => rfl
  | true => cases ls <;> rfl

section

variable {s : State} {act : Nat → M LaneOut} {tr : Nat → Trap}

/-- Lanes that all meet a trap. -/
theorem eachLane_traps : ∀ {ls : List Nat}, (∀ l ∈ ls, act l s = .error (.trap (tr l))) →
    eachLane ls act s = .ok ({ traps := (s.finders ls).map fun l => (l, tr l) }, s)
  | [], _ => by unfold State.finders; cases s.isBound <;> rfl
  | l :: ls, h => by
    have hl : attempt (act l) s = .ok (.error (tr l), s) := by unfold attempt; rw [h l List.mem_cons_self]
    have ih := eachLane_traps fun m hm => h m (List.mem_cons_of_mem l hm)
    unfold eachLane
    rw [M.bind_run hl]
    refine (M.bind_run (M.get_run s)).trans ?_
    unfold State.finders at ih ⊢
    cases hb : s.isBound with
    | true => rfl
    | false =>
      rw [hb] at ih
      exact M.bind_run ih

theorem onceOut_traps {b : Base} (h : ∀ l ∈ (s.acting b).take 1, act l s = .error (.trap (tr l))) :
    onceOut b act s = .ok ({ traps := (s.finders ((s.acting b).take 1)).map fun l => (l, tr l) }, s) := by
  unfold onceOut State.finders
  rw [M.bind_run (M.get_run s)]
  cases hs : s.acting b with
  | nil => cases s.isBound <;> rfl
  | cons l ls =>
    have hl : attempt (act l) s = .ok (.error (tr l), s) := by
      unfold attempt
      rw [h l (by rw [hs]; exact List.mem_cons_self)]
    refine (M.bind_run hl).trans ?_
    cases s.isBound <;> rfl

/-- A trial in a bound rope finds the trap that the accesses would find. -/
theorem checkedFirst_traps {ls : List Nat} {go : M GroupOut} (h : ∀ l ∈ ls, act l s = .error (.trap (tr l)))
    (hone : ∀ l ∈ ls, stepOne (tr l).cause = true) (hgo : go s = .ok ({ traps := (s.finders ls).map fun l => (l, tr l) }, s)) :
    checkedFirst ls act go s = .ok ({ traps := (s.finders ls).map fun l => (l, tr l) }, s) := by
  have htried : ∀ l ∈ ls, tried act l s = .error (.trap (tr l)) := fun l hl => by
    have ha : attempt (act l) s = .ok (.error (tr l), s) := by unfold attempt; rw [h l hl]
    refine (M.bind_run ha).trans ?_
    simp only [hone l hl, if_true]
    rfl
  unfold checkedFirst
  rw [M.bind_run (M.get_run s)]
  cases hb : s.isBound with
  | false => exact hgo
  | true =>
    refine (M.bind_run (eachLane_traps htried)).trans ?_
    simp only [State.finders, hb] at hgo ⊢
    cases ls with
    | nil => exact hgo
    | cons l ls => rfl

theorem accessLanes_traps {b : Base} (h : ∀ l ∈ s.doers b, act l s = .error (.trap (tr l)))
    (hone : ∀ l ∈ s.doers b, stepOne (tr l).cause = true) :
    accessLanes b act s = .ok ({ traps := (s.finders (s.doers b)).map fun l => (l, tr l) }, s) := by
  unfold accessLanes
  rw [M.bind_run (M.get_run s)]
  cases hk : b.dk with
  | scl =>
    rw [State.doers_scl hk] at h hone ⊢
    exact checkedFirst_traps h hone (onceOut_traps h)
  | vec =>
    rw [State.doers_vec hk] at h hone ⊢
    exact checkedFirst_traps h hone (eachLane_traps h)

end

/-- A group whose effect finds the traps of some lanes, and leaves the state, retires with them. -/
theorem runGroup_finds {s : State} {f : Form} {b : Base} {keep : Bool} {act : M GroupOut} {ls : List Nat} {tr : Nat → Trap}
    (h : s.Clear f b) (ha : act s = .ok ({ traps := (s.finders ls).map fun l => (l, tr l) }, s)) :
    runGroup f b keep act s = .next (s.retired f b { traps := s.unitTaken (ls.map fun l => (l, tr l)) }) := by
  rw [runGroup_met h ha, ite_self, State.unitTaken_finders]

/-! ### Misaligned addresses -/

/-- The trap of a misaligned address (08 R185). -/
def misalignedAt (va : DWord) : Trap := ⟨.misaligned, 0, va, false⟩

theorem checkAlign_misaligned {va : DWord} {n : Nat} (h : va.toNat % n ≠ 0) (s : State) :
    checkAlign va n s = .error (.trap (misalignedAt va)) := by
  unfold checkAlign require
  rw [if_neg (by simpa using h)]
  rfl

/-- The traps of misaligned lanes, as the claim lists them. -/
def takenTraps (s : State) (ls : List Nat) (va : Nat → DWord) : List (Nat × Trap) :=
  if (s.agent s.who).bound.isSome then (ls.take 1).flatMap fun l => s.issued.map fun j => (j, misalignedAt (va l))
  else ls.map fun l => (l, misalignedAt (va l))

theorem unitTaken_misaligned (s : State) (ls : List Nat) (va : Nat → DWord) :
    s.unitTaken (ls.map fun l => (l, misalignedAt (va l))) = takenTraps s ls va := by
  unfold State.unitTaken takenTraps State.isBound
  cases ls with
  | nil => rfl
  | cons l ls => simp [unitTraps]

theorem runGroup_misaligned {s : State} {f : Form} {b : Base} {keep : Bool} {act : M GroupOut} {ls : List Nat} {va : Nat → DWord}
    (h : s.Clear f b) (ha : act s = .ok ({ traps := (s.finders ls).map fun l => (l, misalignedAt (va l)) }, s)) :
    runGroup f b keep act s = .next (s.retired f b { traps := takenTraps s ls va }) := by
  rw [runGroup_finds h ha, unitTaken_misaligned]

/-- The claim's words for an instruction whose address is misaligned in each of its lanes. -/
def MisalignedTraps (b : Base) (i : Instr) (ea : State → Operands → DWord) (n : Nat) (ls : State → List Nat) : Prop :=
  ∀ (s : State) (x : Nat → Operands), i.WellFormed → s.Clear (formOf i) b →
    (∀ l ∈ ls s, (∃ t, readSrcs (formOf i) b l s = .ok (x l, t)) ∧ (ea s (x l)).toNat % n ≠ 0) →
    exec i s = .next (s.retired (formOf i) b { traps := takenTraps s (ls s) fun l => ea s (x l) })

section

variable {b : Base} {i : Instr} {ea : State → Operands → DWord} {n : Nat} {act : Nat → M LaneOut}

theorem misalignedTraps_of_runLoad (hexec : ∀ s, exec i s = runLoad (formOf i) b act s)
    (h : ∀ l s x t, readSrcs (formOf i) b l s = .ok (x, t) → (ea s x).toNat % n ≠ 0 → act l s = .error (.trap (misalignedAt (ea s x)))) :
    MisalignedTraps b i ea n (·.doers b) := fun s x _ hc hx => by
  rw [hexec]
  exact runGroup_misaligned hc (accessLanes_traps (fun l hl => by
    obtain ⟨⟨t, ht⟩, hva⟩ := hx l hl
    exact h l s (x l) t ht hva) fun _ _ => rfl)

theorem misalignedTraps_of_runStore (hexec : ∀ s, exec i s = runStore (formOf i) b act s)
    (h : ∀ l s x t, readSrcs (formOf i) b l s = .ok (x, t) → (ea s x).toNat % n ≠ 0 → act l s = .error (.trap (misalignedAt (ea s x)))) :
    MisalignedTraps b i ea n (·.acting b) := fun s x _ hc hx => by
  have hlanes : ∀ l ∈ s.acting b, act l s = .error (.trap (misalignedAt (ea s (x l)))) := fun l hl => by
    obtain ⟨⟨t, ht⟩, hva⟩ := hx l hl
    exact h l s (x l) t ht hva
  rw [hexec]
  refine runGroup_misaligned hc ((M.bind_run (M.get_run s)).trans ?_)
  exact checkedFirst_traps hlanes (fun _ _ => rfl) (eachLane_traps hlanes)

theorem misalignedTraps_of_runLanes (hexec : ∀ s, exec i s = runLanes (formOf i) b act s)
    (h : ∀ l s x t, readSrcs (formOf i) b l s = .ok (x, t) → (ea s x).toNat % n ≠ 0 → act l s = .error (.trap (misalignedAt (ea s x)))) :
    MisalignedTraps b i ea n (·.acting b) := fun s x _ hc hx => by
  have hlanes : ∀ l ∈ s.acting b, act l s = .error (.trap (misalignedAt (ea s (x l)))) := fun l hl => by
    obtain ⟨⟨t, ht⟩, hva⟩ := hx l hl
    exact h l s (x l) t ht hva
  rw [hexec]
  exact runGroup_misaligned hc ((M.bind_run (M.get_run s)).trans (eachLane_traps hlanes))

theorem misalignedTraps_of_runAtomic {act : Nat → Operands → M LaneOut} (hexec : ∀ s, exec i s = runAtomic (formOf i) b act s)
    (h : ∀ l (s t : State) x, (ea s x).toNat % n ≠ 0 → act l x t = .error (.trap (misalignedAt (ea s x)))) :
    MisalignedTraps b i ea n (·.doers b) := fun s x _ hc hx => by
  rw [hexec]
  exact runGroup_misaligned hc (accessLanes_traps (fun l hl => by
    obtain ⟨⟨t, ht⟩, hva⟩ := hx l hl
    exact (M.bind_run ht).trans (h l s t (x l) hva)) fun _ _ => rfl)

end

/-! ### Loads, stores and atomics -/

theorem misaligned_global {b : Base} {n : Nat} {x : Operands} (h : (globalAt b x).toNat % n ≠ 0) (s : State) :
    checkAlign (globalEa b x) n s = .error (.trap (misalignedAt (globalAt b x))) := by
  rw [globalEa_eq]
  exact checkAlign_misaligned h s

theorem misaligned_local {b : Base} {n : Nat} {x : Operands} (h : ((localAt b x).setWidth 64).toNat % n ≠ 0) (s : State) :
    checkAlign ((localEa b x).setWidth 64) n s = .error (.trap (misalignedAt ((localAt b x).setWidth 64))) := by
  rw [localEa_eq]
  exact checkAlign_misaligned h s

theorem misaligned_stack {b : Base} {n : Nat} {x : Operands} {s : State}
    (h : ((s.partyOf s.who).lsva + (localAt b x).setWidth 64).toNat % n ≠ 0) (t : State) :
    checkAlign (stackEa b s x) n t = .error (.trap (misalignedAt ((s.partyOf s.who).lsva + (localAt b x).setWidth 64))) := by
  rw [stackEa_eq]
  exact checkAlign_misaligned h t

theorem ld_misaligned (b : Base) : MisalignedTraps b (.ld b) (fun _ => globalAt b) (accessSize b) (·.doers b) :=
  misalignedTraps_of_runLoad (exec_ld b) fun _ s _ t hx h =>
    (M.bind_run (M.get_run s)).trans ((M.bind_run hx).trans (M.bind_error (misaligned_global h t)))

theorem ldf_misaligned (b : Base) : MisalignedTraps b (.ldf b) (fun _ => globalAt b) (accessSize b) (·.doers b) :=
  misalignedTraps_of_runLoad (exec_ldf b) fun _ s _ t hx h =>
    (M.bind_run (M.get_run s)).trans ((M.bind_run hx).trans (M.bind_error (misaligned_global h t)))

theorem ldl_misaligned (b : Base) : MisalignedTraps b (.ldl b) (fun s x => (s.partyOf s.who).lsva + (localAt b x).setWidth 64)
    (accessSize b) (·.doers b) :=
  misalignedTraps_of_runLoad (exec_ldl b) fun _ s _ t hx h =>
    (M.bind_run (M.get_run s)).trans ((M.bind_run hx).trans (M.bind_error (misaligned_stack h t)))

theorem lds_misaligned (b : Base) : MisalignedTraps b (.lds b) (fun _ x => (localAt b x).setWidth 64) (accessSize b) (·.doers b) :=
  misalignedTraps_of_runLoad (fun _ => rfl) fun _ _ _ t hx h => (M.bind_run hx).trans (M.bind_error (misaligned_local h t))

theorem ldc_misaligned (b : Base) : MisalignedTraps b (.ldc b) (fun _ x => (localAt b x).setWidth 64) (accessSize b) (·.doers b) :=
  misalignedTraps_of_runLoad (fun _ => rfl) fun _ _ _ t hx h => (M.bind_run hx).trans (M.bind_error (misaligned_local h t))

theorem st_misaligned (b : Base) : MisalignedTraps b (.st b) (fun _ => globalAt b) (accessSize b) (·.acting b) :=
  misalignedTraps_of_runStore (exec_st b) fun _ s _ t hx h =>
    (M.bind_run (M.get_run s)).trans ((M.bind_run hx).trans (M.bind_error (misaligned_global h t)))

theorem stl_misaligned (b : Base) : MisalignedTraps b (.stl b) (fun s x => (s.partyOf s.who).lsva + (localAt b x).setWidth 64)
    (accessSize b) (·.acting b) :=
  misalignedTraps_of_runStore (exec_stl b) fun _ s _ t hx h =>
    (M.bind_run (M.get_run s)).trans ((M.bind_run hx).trans (M.bind_error (misaligned_stack h t)))

theorem sts_misaligned (b : Base) : MisalignedTraps b (.sts b) (fun _ x => (localAt b x).setWidth 64) (accessSize b) (·.acting b) :=
  misalignedTraps_of_runLanes (fun _ => rfl) fun _ _ _ t hx h => (M.bind_run hx).trans (M.bind_error (misaligned_local h t))

theorem atom_misaligned (b : Base) : MisalignedTraps b (.atom b) (fun _ => globalAt b) (elemSize b) (·.doers b) :=
  misalignedTraps_of_runAtomic (exec_atom b) fun _ _ t _ h => M.bind_error (misaligned_global h t)

theorem atomc_misaligned (b : Base) : MisalignedTraps b (.atomc b) (fun _ x => x.a + BitVec.ofInt 64 b.offset) (elemSize b) (·.doers b) :=
  misalignedTraps_of_runAtomic (exec_atomc b) fun _ _ t _ h => M.bind_error (checkAlign_misaligned h t)

/-- What is done once, or in each acting lane, where each of its lanes traps. -/
theorem doersOut_traps {b : Base} {s : State} {act : Nat → M LaneOut} {tr : Nat → Trap}
    (h : ∀ l ∈ s.doers b, act l s = .error (.trap (tr l))) :
    (if b.dk == .scl then onceOut b act else eachLane (s.acting b) act) s =
      .ok ({ traps := (s.finders (s.doers b)).map fun l => (l, tr l) }, s) := by
  cases hk : b.dk with
  | scl =>
    rw [State.doers_scl hk] at h ⊢
    exact onceOut_traps h
  | vec =>
    rw [State.doers_vec hk] at h ⊢
    exact eachLane_traps h

theorem atoms_misaligned (b : Base) : MisalignedTraps b (.atoms b)
    (fun _ x => if b.fn = 7 then ((x.a + BitVec.ofInt 64 b.offset).setWidth 32 : Word).setWidth 64 else (localAt b x).setWidth 64)
    (elemSize b) (·.doers b) := fun s x _ hc hx => by
  refine runGroup_misaligned hc ((M.bind_run (M.get_run s)).trans (doersOut_traps fun l hl => ?_))
  obtain ⟨⟨t, ht⟩, hva⟩ := hx l hl
  refine (M.bind_run ht).trans (M.bind_error ?_)
  have haddr : ((if b.fn == 7 then loWord (offsetEa b (x l)) else localEa b (x l) : Word).setWidth 64 : DWord) =
      if b.fn = 7 then (((x l).a + BitVec.ofInt 64 b.offset).setWidth 32 : Word).setWidth 64 else (localAt b (x l)).setWidth 64 := by
    simp only [localEa_eq, beq_iff_eq, apply_ite (BitVec.setWidth 64)]
    rfl
  rw [haddr]
  exact checkAlign_misaligned hva t

theorem wwait_misaligned (b : Base) : MisalignedTraps b (.wwait b) (fun _ => globalAt b) (elemSize b) (·.doers b) := fun s x _ hc hx => by
  refine runGroup_misaligned hc ((M.bind_run (M.get_run s)).trans ?_)
  have hacc := accessLanes_traps (s := s) (b := b) (act := wwaitLane (formOf (.wwait b)) b) (tr := fun l => misalignedAt (globalAt b (x l)))
    (fun l hl => by
      obtain ⟨⟨t, ht⟩, hva⟩ := hx l hl
      exact (M.bind_run ht).trans (M.bind_error (misaligned_global hva t))) fun _ _ => rfl
  refine (M.bind_run hacc).trans ?_
  exact congrArg (fun g : GroupOut => Except.ok (g, s)) (ite_self _)

theorem wwake_misaligned (b : Base) : MisalignedTraps b (.wwake b) (fun _ => globalAt b) (elemSize b) (·.acting b) :=
  misalignedTraps_of_runLanes (fun _ => rfl) fun _ _ _ t hx h => (M.bind_run hx).trans (M.bind_error (misaligned_global h t))

/-! ### Deferred accesses, gathers and slots -/

/-- A far instruction without return whose lanes are all misaligned counts its operation, which ends at once; in a bound rope that is undone
unless what was performed stays. -/
theorem runFar_misaligned {f : Form} {b : Base} {keep : Bool} {act : Nat → Nat → M LaneOut} {s : State} {va : Nat → DWord} (hc : s.Clear f b)
    (hls : s.acting b ≠ []) (hroom : (s.agent s.who).counter .far < 63)
    (h : ∀ l ∈ s.acting b, act s.uid l (counted s .far ((s.acting b).headD 0)) = .error (.trap (misalignedAt (va l)))) :
    runFar f b keep act s = .next (State.retired (if (s.agent s.who).bound.isSome ∧ keep = false then s
      else (counted s .far ((s.acting b).headD 0)).finishOp s.who s.uid) f b { traps := takenTraps s (s.acting b) va }) := by
  have hwho : (counted s .far ((s.acting b).headD 0)).who = s.who := rfl
  have hbound : (counted s .far ((s.acting b).headD 0)).isBound = s.isBound := by
    unfold State.isBound
    rw [hwho, counted, State.agent_setAgent_same]
  have hfinders : (counted s .far ((s.acting b).headD 0)).finders (s.acting b) = s.finders (s.acting b) := by
    unfold State.finders
    rw [hbound]
  have htraps := checkedFirst_traps h (fun _ _ => rfl) (eachLane_traps h)
  rw [hfinders] at htraps
  have hact : (do
      let s ← get
      if (s.acting b).isEmpty then pure {}
      else do
        roomFor .far
        let u ← countOp s.who ((s.acting b).headD 0) .far
        let g ← checkedFirst (s.acting b) (act u) (eachLane (s.acting b) (act u))
        if g.outs.isEmpty then modify fun s => s.finishOp s.who u
        pure g : M GroupOut) s = .ok ({ traps := (s.finders (s.acting b)).map fun l => (l, misalignedAt (va l)) },
          (counted s .far ((s.acting b).headD 0)).finishOp s.who s.uid) := by
    refine (M.bind_run (M.get_run s)).trans ?_
    rw [if_neg (by simpa using hls), M.bind_run (roomFor_run hroom), M.bind_run (countOp_run ..), M.bind_run htraps]
    rfl
  refine (runGroup_met hc hact).trans ?_
  rw [State.unitTaken_finders, unitTaken_misaligned]
  have hne : ((s.finders (s.acting b)).map fun l => (l, misalignedAt (va l))).isEmpty = false := by
    unfold State.finders
    cases hs : s.acting b with
    | nil => exact absurd hs hls
    | cons _ _ => cases s.isBound <;> rfl
  simp only [hne, Bool.not_false, Bool.and_true, Bool.and_eq_true, Bool.not_eq_true', State.isBound]

/-- The claim's words for a deferred access whose lanes are all misaligned. -/
def DeferredMisaligned (b : Base) (i : Instr) (n : Nat) (keep : Bool) : Prop :=
  ∀ (s : State) (x : Nat → Operands), i.WellFormed → s.Clear (formOf i) b → s.acting b ≠ [] → (s.agent s.who).counter .far < 63 →
    (∀ l ∈ s.acting b, (∃ t, readSrcs (formOf i) b l (counted s .far ((s.acting b).headD 0)) = .ok (x l, t)) ∧
      (globalAt b (x l)).toNat % n ≠ 0) →
    exec i s = .next (State.retired (if (s.agent s.who).bound.isSome ∧ keep = false then s
      else (counted s .far ((s.acting b).headD 0)).finishOp s.who s.uid) (formOf i) b
      { traps := takenTraps s (s.acting b) fun l => globalAt b (x l) })

theorem stf_misaligned (b : Base) : DeferredMisaligned b (.stf b) (accessSize b) false := fun s x _ hc hls hroom hx =>
  runFar_misaligned hc hls hroom fun l hl => by
    obtain ⟨⟨t, ht⟩, hva⟩ := hx l hl
    exact (M.bind_run ht).trans (M.bind_error (misaligned_global hva t))

theorem red_misaligned (b : Base) : DeferredMisaligned b (.red b) (elemSize b) true := fun s x _ hc hls hroom hx =>
  runFar_misaligned hc hls hroom fun l hl => by
    obtain ⟨⟨t, ht⟩, hva⟩ := hx l hl
    exact (M.bind_run ht).trans (M.bind_error (misaligned_global hva t))

/-- Values that lanes give and that leave the state. -/
theorem collect_run {α : Type} {s : State} {g : Nat → M α} {v : Nat → α} : ∀ {ls : List Nat}, (∀ l ∈ ls, g l s = .ok (v l, s)) →
    collect ls g s = .ok (ls.map v, s)
  | [], _ => rfl
  | l :: _, h => (M.bind_run (h l List.mem_cons_self)).trans
      (M.bind_run (collect_run fun m hm => h m (List.mem_cons_of_mem l hm)))

/-- The scratchpad address of a lane of GTH or SCT. -/
def gatherPlace (b : Base) (l : Nat) (x : Operands) : Word :=
  x.c.setWidth 32 + BitVec.ofNat 32 (b.e2.extractLsb' 16 16).toNat * BitVec.ofNat 32 l

theorem gatherPlace_eq (b : Base) (l : Nat) (x : Operands) : loWord x.c + BitVec.ofNat 32 (lstrOf b * l) = gatherPlace b l x := by
  rw [gatherPlace, ← BitVec.ofNat_mul]
  rfl

theorem issueGather_misaligned {f : Form} {b : Base} {scatter : Bool} {s : State} {x : Nat → Operands}
    (hroom : (s.agent s.who).counter .gth < 63)
    (h : ∀ l ∈ s.acting b, readSrcs f b l s = .ok (x l, s) ∧
      (∃ q, s.spadPlace (s.agent s.who).party (gatherPlace b l (x l)) (eszOf b) (!scatter) = .ok q) ∧
      (gatherPlace b l (x l)).toNat % eszOf b ≠ 0) :
    issueGather f b scatter s =
      .ok ({ traps := (s.acting b).map fun l => (l, misalignedAt ((gatherPlace b l (x l)).setWidth 64)) }, s) := by
  unfold issueGather
  rw [M.bind_run (M.get_run s)]
  cases hs : s.acting b with
  | nil => rfl
  | cons l ls =>
    obtain ⟨hx, ⟨q, hq⟩, hva⟩ := h l (by rw [hs]; exact List.mem_cons_self)
    have helem : gatherElem f b scatter l s = .error (.trap (misalignedAt ((gatherPlace b l (x l)).setWidth 64))) := by
      refine (M.bind_run hx).trans ?_
      rw [gatherPlace_eq]
      refine (M.bind_run (spadTouch_run hq)).trans (M.bind_error (checkAlign_misaligned ?_ s))
      rwa [BitVec.toNat_setWidth_of_le (by decide)]
    have hattempt : attempt (collect (l :: ls) (gatherElem f b scatter)) s =
        .ok (.error (misalignedAt ((gatherPlace b l (x l)).setWidth 64)), s) := by
      have hcol : collect (l :: ls) (gatherElem f b scatter) s = _ := M.bind_error helem
      unfold attempt
      rw [hcol]
    refine (M.bind_run (roomFor_run hroom)).trans ((M.bind_run hattempt).trans ?_)
    refine (M.bind_run (M.get_run s)).trans ?_
    rw [hs]
    have hcol := collect_run (s := s) (ls := l :: ls) (g := fun l => do
      let x ← readSrcs f b l
      pure (l, misalignedAt ((loWord x.c + BitVec.ofNat 32 (lstrOf b * l)).setWidth 64)))
      (v := fun l => (l, misalignedAt ((gatherPlace b l (x l)).setWidth 64))) fun m hm => by
        refine (M.bind_run (h m (by rw [hs]; exact hm)).1).trans ?_
        rw [gatherPlace_eq]
        rfl
    exact M.bind_run hcol

/-- The claim's words for a gather or scatter whose scratchpad places are in range and misaligned. -/
def GatherMisaligned (b : Base) (i : Instr) (scatter : Bool) : Prop :=
  ∀ (s : State) (x : Nat → Operands), i.WellFormed → s.Clear (formOf i) b → (s.agent s.who).counter .gth < 63 →
    (∀ l ∈ s.acting b, readSrcs (formOf i) b l s = .ok (x l, s) ∧
      (∃ q, s.spadPlace (s.agent s.who).party (gatherPlace b l (x l)) (eszOf b) (!scatter) = .ok q) ∧
      (gatherPlace b l (x l)).toNat % eszOf b ≠ 0) →
    exec i s = .next (s.retired (formOf i) b { traps := takenTraps s (s.acting b) fun l => (gatherPlace b l (x l)).setWidth 64 })

theorem gatherMisaligned_of_runGroup {b : Base} {i : Instr} {scatter : Bool}
    (hexec : ∀ s, exec i s = runGroup (formOf i) b false (issueGather (formOf i) b scatter) s) : GatherMisaligned b i scatter :=
  fun s x _ hc hroom h => by
    rw [hexec, runGroup_met hc (issueGather_misaligned hroom h), ite_self,
      unitTaken_misaligned s (s.acting b) fun l => (gatherPlace b l (x l)).setWidth 64]

/-- What SQLD does before it checks its alignment: the element's address (08 R197). -/
def sqldPlace (b : Base) (l : Nat) : M DWord := do
  let x ← readSrcs (formOf (.sqld b)) b l
  let s ← get
  let v := Via.lane s.who s.mode
  let d ← openDesc v x.a .load
  let i := (x.b.setWidth 32 : Word).toNat
  require (decide (i < d.cl)) .seqBounds (BitVec.ofNat 64 i)
  require (decide (0 ≤ b.offset ∧ b.offset + accessSize b ≤ d.slotBytes)) .illegalOperand s.issue.word
  let (_, slot) ← locate v d i
  pure (slot + BitVec.ofInt 64 b.offset)

/-- One lane of SQLD. -/
def sqldLane (b : Base) (l : Nat) : M LaneOut := do
  let x ← readSrcs (formOf (.sqld b)) b l
  let s ← get
  let v ← laneVia
  let d ← openDesc v x.a .load
  let i := (loWord x.b).toNat
  let n := memBytes b
  require (decide (i < d.cl)) .seqBounds (BitVec.ofNat 64 i)
  require (decide (0 ≤ b.offset) && decide (b.offset + n ≤ d.slotBytes)) .illegalOperand s.issue.word
  let (chip, slot) ← locate v d i
  let va := slot + BitVec.ofInt 64 b.offset
  checkAlign va n
  let bs ← locatedRead v s.who chip va n (comparator d (i / d.blockSlots))
  pure { writes := loadWrites b l bs, touch := [(va.toNat, n)] }

theorem exec_sqld (b : Base) (s : State) : exec (.sqld b) s = runLoad (formOf (.sqld b)) b (sqldLane b) s := rfl

theorem sqldLane_misaligned {b : Base} {l : Nat} {s t : State} {va : DWord} (h : sqldPlace b l s = .ok (va, t))
    (hva : va.toNat % accessSize b ≠ 0) : sqldLane b l s = .error (.trap (misalignedAt va)) := by
  obtain ⟨x, s1, hx, h⟩ := (M.bind_ok ..).1 h
  obtain ⟨s2, s3, hget, h⟩ := (M.bind_ok ..).1 h
  cases hget
  obtain ⟨d, s4, hd, h⟩ := (M.bind_ok ..).1 h
  obtain ⟨_, s5, hcl, h⟩ := (M.bind_ok ..).1 h
  obtain ⟨_, s6, hoff, h⟩ := (M.bind_ok ..).1 h
  obtain ⟨⟨chip, slot⟩, s7, hloc, h⟩ := (M.bind_ok ..).1 h
  cases h
  refine (M.bind_run hx).trans ((M.bind_run (M.get_run s1)).trans ?_)
  refine (M.bind_run (M.bind_run (M.get_run s1))).trans ((M.bind_run hd).trans ((M.bind_run hcl).trans ?_))
  rw [Bool.decide_and] at hoff
  exact (M.bind_run hoff).trans ((M.bind_run hloc).trans (M.bind_error (checkAlign_misaligned hva _)))

theorem sqld_misaligned (b : Base) (s : State) (va : Nat → DWord) (_ : (Instr.sqld b).WellFormed) (hc : s.Clear (formOf (.sqld b)) b)
    (h : ∀ l ∈ s.doers b, (∃ t, sqldPlace b l s = .ok (va l, t)) ∧ (va l).toNat % accessSize b ≠ 0) :
    exec (.sqld b) s = .next (s.retired (formOf (.sqld b)) b { traps := takenTraps s (s.doers b) va }) := by
  rw [exec_sqld]
  exact runGroup_misaligned hc (accessLanes_traps (fun l hl => by
    obtain ⟨⟨t, ht⟩, hva⟩ := h l hl
    exact sqldLane_misaligned ht hva) fun _ _ => rfl)

/-- Settles O24: the check of the address comes before any access, so no lane does more than read its operands. -/
theorem misalignedAccessesTrap : Obligations.MisalignedAccessesTrap := fun b => by
  refine ⟨fun i hi => ?_, fun i hi => ?_, ldl_misaligned b, st_misaligned b, sts_misaligned b, stl_misaligned b, atom_misaligned b,
    atomc_misaligned b, atoms_misaligned b, wwait_misaligned b, wwake_misaligned b, stf_misaligned b, red_misaligned b,
    gatherMisaligned_of_runGroup fun _ => rfl, gatherMisaligned_of_runGroup fun _ => rfl, sqld_misaligned b⟩
  · rcases List.mem_pair.1 hi with rfl | rfl
    · exact ld_misaligned b
    · exact ldf_misaligned b
  · rcases List.mem_pair.1 hi with rfl | rfl
    · exact lds_misaligned b
    · exact ldc_misaligned b

end Sys2Proof.Machine

/-! PROOFS. Tiles, gathers and scatters complete (spec/08 R191 to R194; O26). -/

namespace Sys2Proof.Machine

open Claims

/-! ### Ranges -/

/-- The pieces of a range up to some line end where that line or the range ends. -/
theorem sum_pieces (va n k : Nat) : ((List.range k).map fun i =>
    Nat.min (va + n) ((va / 128 + i + 1) * 128) - Nat.max va ((va / 128 + i) * 128)).sum = min (va + n) ((va / 128 + k) * 128) - va := by
  induction k with
  | zero =>
    simp only [List.range_zero, List.map_nil, List.sum_nil]
    omega
  | succ k ih =>
    rw [List.range_succ, List.map_append, List.sum_append, ih]
    simp only [List.map_cons, List.map_nil, List.sum_cons, List.sum_nil]
    change _ + (min (va + n) ((va / 128 + k + 1) * 128) - max va ((va / 128 + k) * 128) + 0) = _
    omega

/-- The pieces of a range make up its length. -/
theorem sum_lineChunks (va n : Nat) : ((lineChunks va n).map (·.2)).sum = n := by
  unfold lineChunks
  rw [List.map_map]
  refine (sum_pieces va n _).trans ?_
  unfold ceilDiv
  omega

theorem length_readN (m : Memory) (a n : Nat) : (m.readN a n).length = n := by
  simp [Memory.readN]

theorem length_farLoad {va : DWord} {n : Nat} {s t : State} {bs : List Byte} (h : farLoad va n s = .ok (bs, t)) : bs.length = n := by
  obtain ⟨_, s1, -, h⟩ := (M.bind_ok ..).1 h
  obtain ⟨_, s2, -, h⟩ := (M.bind_ok ..).1 h
  obtain ⟨_, s3, -, h⟩ := (M.bind_ok ..).1 h
  obtain ⟨_, s4, -, h⟩ := (M.bind_ok ..).1 h
  obtain ⟨_, s5, -, h⟩ := (M.bind_ok ..).1 h
  obtain ⟨_, s6, -, h⟩ := (M.bind_ok ..).1 h
  cases h
  exact length_readN ..

theorem length_collect_farLoad {va : Nat → DWord} : ∀ {cs : List (Nat × Nat)} {s t : State} {parts : List (List Byte)},
    collect cs (fun c => farLoad (va c.1) c.2) s = .ok (parts, t) → parts.flatten.length = (cs.map (·.2)).sum
  | [], _, _, _, h => by cases h; rfl
  | c :: cs, _, _, _, h => by
    obtain ⟨bs, _, hbs, h⟩ := (M.bind_ok ..).1 h
    obtain ⟨parts, _, hparts, h⟩ := (M.bind_ok ..).1 h
    cases h
    simp [length_farLoad hbs, ← length_collect_farLoad hparts]

/-- A far range gives as many bytes as it was asked for. -/
theorem length_farRange {va : DWord} {n : Nat} {s t : State} {bs : List Byte} (h : farRange va n s = .ok (bs, t)) : bs.length = n := by
  obtain ⟨parts, _, hparts, h⟩ := (M.bind_ok ..).1 h
  cases h
  rw [length_collect_farLoad (va := fun o => va + BitVec.ofNat 64 o) hparts, sum_lineChunks]

/-! ### LDV and STTA -/

theorem dk_of_scl {f : Form} {b : Base} {t : OpTy} (h : f.check b = none) (hd : f.dst = .scl t) : b.dk = .scl := by
  obtain ⟨-, -, ho⟩ := Form.check_eq_none h
  simp only [Form.illegalOperand, Bool.or_eq_false_iff] at ho
  have ho := ho.1.2
  cases hk : b.dk <;> simp_all [Form.dstIllegal]

/-- A failed try of an LDV does not end normally. -/
theorem retryTile_not_ok (l : Nat) (t : DWord) (s u : State) (a : Unit) : retryTile l t s ≠ .ok (a, u) := by
  unfold retryTile
  rw [M.bind_run (M.get_run s)]
  split_ifs
  · exact fun h => nomatch h
  · exact fun h => nomatch h

theorem dwordOf_odd (bs : List Byte) : (dwordOf bs).getLsbD 0 = true ↔ leNat bs % 2 = 1 := by
  rw [dwordOf, BitVec.getLsbD_ofNat, Nat.testBit_zero]
  simp

theorem ldvCompletes (b : Base) : CompletesOnce (.ldv b) b (fun l => do
    let x ← readSrcs (formOf (.ldv b)) b l
    let t := x.a + BitVec.ofInt 64 b.offset
    require (t.toNat % 64 == 0) .misaligned t
    require ((x.c.setWidth 32 : Word).toNat % 16 == 0) .misaligned ((x.c.setWidth 32 : Word).setWidth 64)
    let (q, off) ← placeOf (x.c.setWidth 32) (tileBytes b) true
    let ver ← farRange t 8
    let enc ← farRange (t + 8) 4
    let data ← farRange (t + 64) (tileBytes b)
    if leNat ver % 2 = 1 then retryTile l t else pure ()
    modify fun s =>
      let y := s.party q
      s.setParty q { y with spad := y.spad.writeN off data }
    pure { writes := [(.sreg b.dst.toNat, BitVec.ofNat 32 (leNat enc))], touch := [(t.toNat, 64 + tileBytes b)],
           tile := some ((x.c.setWidth 32).setWidth 64, data) }) := fun s s1 l o hw hc hl h => by
  have hk : b.dk = .scl := dk_of_scl (Form.check_of_wellFormed (f := formOf (.ldv b)) hw rfl) (t := .n32) rfl
  refine runOnce_completes hc hl (.trans ?_ h)
  refine M.bind_congr_run fun x t1 _ => M.bind_congr_run fun _ t2 _ => ?_
  simp only [loWord, checkAlign_setWidth]
  refine M.bind_congr_run fun _ t3 _ => (placeOf_touch fun q off hp => ?_).symm
  refine M.bind_congr_run fun ver t4 h4 => M.bind_congr_run fun enc t5 h5 => M.bind_congr_run fun data t6 h6 => ?_
  have hg : t6.ground = t3.ground :=
    (Leaves.unread_farRange unread_ground _ _ _ h6).trans
      ((Leaves.unread_farRange unread_ground _ _ _ h5).trans (Leaves.unread_farRange unread_ground _ _ _ h4))
  simp only [dwordOf_odd]
  split
  · exact M.bind_congr_run fun _ _ h7 => absurd h7 (retryTile_not_ok _ _ _ _ _)
  have hp' : t6.spadPlace (t6.agent t6.who).party (x.c.setWidth 32) data.length true = .ok (q, off) := by
    rw [State.spadPlace_of_ground hg, State.party_of_ground hg, State.who_of_ground hg, length_farRange h6]
    exact hp
  refine Eq.trans ?_ (M.bind_run (M.get_run t6)).symm
  refine Eq.trans ?_ (M.bind_run (spadWrite_run hp')).symm
  rw [M.bind_run (M.modify_run _ t6)]
  have hws : dstWrites b l .n32 (dwordOf enc) = [(.sreg b.dst.toNat, BitVec.ofNat 32 (leNat enc))] := by
    rw [dwordOf, dstWrites_n32_ofNat]
    simp [regWrites, hk, loWord]
  simp only [hws]
  rfl

theorem sttaCompletes (b : Base) (s s1 s2 s3 : State) (l : Nat) (w : TileWrite) (_ : (Instr.stta b).WellFormed)
    (hc : s.Clear (formOf (.stta b)) b) (hl : (s.acting b).head? = some l) (hopen : openTile (formOf (.stta b)) b l s = .ok (w, s1))
    (hpieces : farWrites w.pieces s1 = .ok (none, s2)) (hver : farWrite s.who w.pa (leBytes 8 (w.ver + 2).toNat) s2 = .ok ((), s3)) :
    exec (.stta b) s = .next (s3.retired (formOf (.stta b)) b { outs := s.issued.map fun j => (j, { hold := some .held }) }) := by
  refine runGroup_completes hc ((M.bind_run (M.get_run s)).trans ?_) rfl
  obtain ⟨ls, hls⟩ : ∃ ls, s.acting b = l :: ls := List.head?_eq_some_iff.1 hl
  rw [hls]
  exact (M.bind_run (attempt_run hopen)).trans ((M.bind_run hpieces).trans (M.bind_run hver))

theorem tilesComplete : Claims.TilesComplete := fun b => ⟨ldvCompletes b, sttaCompletes b⟩

/-! ### GTH and SCT -/

/-- Values collected with their lanes, from values collected without. -/
theorem collect_zip {α β : Type} {g : Nat → M α} {h : Nat → α → β} {act : Nat → M β}
    (hact : ∀ l s, act l s = (do
      let e ← g l
      pure (h l e) : M β) s) : ∀ {ls : List Nat} {s t : State} {ys : List β}, collect ls act s = .ok (ys, t) →
    ∃ es : List α, collect ls g s = .ok (es, t) ∧ es.length = ls.length ∧ ys = (ls.zip es).map fun e => h e.1 e.2
  | [], _, _, _, hc => by cases hc; exact ⟨[], rfl, rfl, rfl⟩
  | l :: ls, s, t, ys, hc => by
    obtain ⟨y, s1, hy, hc⟩ := (M.bind_ok ..).1 hc
    obtain ⟨ys', s2, hys, hc⟩ := (M.bind_ok ..).1 hc
    cases hc
    rw [hact] at hy
    obtain ⟨e, s3, he, hy⟩ := (M.bind_ok ..).1 hy
    cases hy
    obtain ⟨es, hes, hlen, rfl⟩ := collect_zip hact hys
    exact ⟨e :: es, (M.bind_run he).trans (M.bind_run hes), by simp [hlen], rfl⟩

/-- The element of a lane of GTH or SCT, as the claim collects it. -/
theorem gatherElem_run (f : Form) (b : Base) (scatter : Bool) (l : Nat) (s : State) : (do
    let x ← readSrcs f b l
    let sp := x.c.setWidth 32 + BitVec.ofNat 32 (b.e2.extractLsb' 16 16).toNat * BitVec.ofNat 32 l
    let _ ← placeOf sp (eszOf b) (!scatter)
    require (sp.toNat % eszOf b == 0) .misaligned (sp.setWidth 64)
    pure (l, globalAt b x, sp, false) : M (Nat × DWord × Word × Bool)) s = (do
    let e ← gatherElem f b scatter l
    pure (l, e.1, e.2, false)) s := by
  unfold gatherElem
  simp only [bind_assoc, pure_bind]
  refine M.bind_congr_run fun x t _ => ?_
  rw [gatherPlace_eq]
  refine placeOf_touch fun q off _ => ?_
  rw [checkAlign_setWidth, globalEa_eq]
  rfl

theorem Leaves.gatherElem_ground {f : Form} {b : Base} {scatter : Bool} {l : Nat} : Leaves State.ground (gatherElem f b scatter l) := by
  refine bind (unread_readSrcs unread_ground) fun x => bind ?_ fun _ => bind require fun _ => pure
  refine get_bind fun s => bind ?_ fun _ => pure
  unfold liftCheck
  split
  · exact pure
  · exact abort

/-- The issue of a gather or scatter completes. -/
theorem gatherIssues {i : Instr} {b : Base} {scatter : Bool}
    (hexec : ∀ s, exec i s = runGroup (formOf i) b false (issueGather (formOf i) b scatter) s) (s s1 : State)
    (es : List (Nat × DWord × Word × Bool)) (_ : i.WellFormed) (hc : s.Clear (formOf i) b) (hls : s.acting b ≠ [])
    (hroom : (s.agent s.who).counter .gth < 63)
    (h : (collect (s.acting b) fun l => do
        let x ← readSrcs (formOf i) b l
        let sp := x.c.setWidth 32 + BitVec.ofNat 32 (b.e2.extractLsb' 16 16).toNat * BitVec.ofNat 32 l
        let _ ← placeOf sp (eszOf b) (!scatter)
        require (sp.toNat % eszOf b == 0) .misaligned (sp.setWidth 64)
        pure (l, globalAt b x, sp, false)) s = .ok (es, s1)) :
    let c := coreOf s.who
    let g : Gather := ⟨s1.uid, s.who, scatter, eszOf b, (b.e2.extractLsb' 0 5).toNat, eszOf b * es.length, es, s.mode⟩
    let t := counted s1 .gth ((s.acting b).headD 0)
    exec i s = .next (State.retired (t.setCore c { t.core c with gathers := (t.core c).gathers ++ [g] }) (formOf i) b
      { outs := es.map fun e => (e.1, { touch := [(e.2.1.toNat, eszOf b)] }) }) := by
  obtain ⟨vs, hvs, hlen, rfl⟩ := collect_zip (gatherElem_run (formOf i) b scatter) h
  have hwho : s1.who = s.who := State.who_of_ground (Leaves.collect (fun _ => Leaves.gatherElem_ground) _ _ _ hvs)
  rw [hexec]
  refine runGroup_completes hc ((M.bind_run (M.get_run s)).trans ?_) rfl
  have hcount := countOp_run .gth ((s.acting b).headD 0) s1
  rw [hwho] at hcount
  rw [if_neg (by simpa using hls)]
  refine (M.bind_run (roomFor_run hroom)).trans ((M.bind_run (attempt_run hvs)).trans ((M.bind_run hcount).trans ?_))
  rw [List.length_map, List.length_zip, hlen, Nat.min_self]
  rfl

/-- Settles O26: a tile's ranges are read whole, so the bytes fill the place that was checked; GTH and SCT hand the elements they checked
to the engine. -/
theorem tilesAndGathersComplete : Obligations.TilesAndGathersComplete :=
  ⟨tilesComplete, fun _ => ⟨gatherIssues fun _ => rfl, gatherIssues fun _ => rfl⟩⟩

end Sys2Proof.Machine

/-! PROOFS. Prefetch and cache control (spec/08 R195, R196; O27). -/

namespace Sys2Proof.Machine

open Claims

/-! ### PFT -/

/-- What is attempted may be replaced by what does the same. -/
theorem attempt_bind_congr {α β : Type} {m m' : M α} {k k' : Except Trap α → M β} {s : State} (h : m s = m' s)
    (hk : ∀ r t, k r t = k' r t) : (attempt m >>= k) s = (attempt m' >>= k') s := by
  have ha : attempt m s = attempt m' s := by unfold attempt; rw [h]
  simp only [bind, StateT.bind, Except.bind, ha, hk]

theorem prefetchCompletes : Claims.PrefetchCompletes := fun b s t outs _ hc _ hd => by
  refine runLanes_completes hc (.trans (congrFun (doAll_congr fun l _ => funext fun s => ?_) s) hd)
  refine M.bind_congr_run fun x t1 _ => ?_
  refine (M.bind_run (M.get_run t1)).trans (.trans ?_ (M.bind_run (M.get_run t1)).symm)
  simp only [globalEa_eq]
  split
  · rfl
  · refine attempt_bind_congr (M.bind_congr_run fun ph u hu => ?_) fun r v => ?_
    · simp only [Bool.and_eq_true, beq_iff_eq]
      split
      · rfl
      · split
        · rfl
        · refine M.bind_congr_run fun _ v hv => M.bind_congr_run fun _ w hw => ?_
          have hwho : w.who = t1.who := State.who_of_ground ((Leaves.unread_takeLineIn unread_ground _ _ _ hw).trans
            ((Leaves.homeReady _ _ _ hv).trans (Leaves.translate_load _ _ _ hu)))
          refine (M.bind_run (M.get_run w)).trans ?_
          rw [Nat.mul_comm 128, hwho]
          rfl
    · cases r <;> rfl

/-! ### CCTL -/

/-- A group whose effect misses on a granule waits for it, and nothing else happens. -/
theorem runGroup_misses {s : State} {f : Form} {b : Base} {keep : Bool} {act : M GroupOut} {fetch : Bool} {g : Nat} (h : s.Clear f b)
    (ha : act s = .error (.miss fetch g)) : runGroup f b keep act s = .next (s.noteMiss s.who s.issued fetch g) := by
  have hc : caught b act s = .error (.miss fetch g) := by
    unfold caught
    exact M.bind_error (by unfold attempt; rw [ha])
  have hd : deterministic f b (caught b act) s = .error (.miss fetch g) := by
    unfold deterministic
    rw [M.bind_run (M.get_run s)]
    simp [h.free, hc]
  have hb : boundRule keep (deterministic f b (caught b act)) s = .error (.miss fetch g) := by
    unfold boundRule; rw [hd]
  unfold runGroup runM
  rw [M.bind_run (M.get_run s)]
  simp only [h.ready, h.whole, h.allowed, ite_self]
  cases s.decodeBarred f b
  · simp only [Bool.not_false, if_true]
    rw [M.bind_run (allocate_room h.room), M.bind_error hb]
  · simp only [Bool.not_true, Bool.false_eq_true, if_false]
    rw [M.bind_error hb]

/-- The range that a CCTL has before it: what is left of it, or that of its sources. -/
theorem cctlRange_run {f : Form} {b : Base} {l n : Nat} {va : DWord} {s s1 : State}
    (h : (s.lane s.who l).step = some (.range va n) ∧ s1 = s ∨ (∀ v m, (s.lane s.who l).step ≠ some (.range v m)) ∧
      ∃ x, readSrcs f b l s = .ok (x, s1) ∧ va = x.a + BitVec.ofInt 64 b.offset ∧ n = (x.b.setWidth 32 : Word).toNat) :
    cctlRange f b l s = .ok ((va, n), s1) := by
  unfold cctlRange
  refine (M.bind_run (M.get_run s)).trans ?_
  obtain ⟨hstep, rfl⟩ | ⟨hstep, x, hx, rfl, rfl⟩ := h
  · simp only [hstep]
    rfl
  · cases hw : (s.lane s.who l).step with
    | none => exact M.bind_run hx
    | some w =>
      cases w
      case range v m => exact absurd hw (hstep v m)
      all_goals exact M.bind_run hx

/-- What a CCTL does to a range, once it has it. -/
def cctlAct (iinv : Bool) (act : State → List (Nat × Nat) → State) (va : DWord) (n : Nat) : M GroupOut := do
  let s ← get
  if n == 0 then pure {}
  else
    let (rs, va', left) := s.physRanges s.who s.mode (ceilDiv (va.toNat % 65536 + n) 65536) va n
    if left == n then abort (.miss false (granuleKey (s.space (coreOf s.who) (s.partOf s.who) s.mode) (va55 va)))
    else do
      set (act s rs)
      if left != 0 then pure { outs := s.issued.map fun j => (j, { stay := some (.range va' left) }) }
      else do
        let u ← newUid
        pure { outs := s.issued.map fun j => (j, { hold := some (.cache u iinv) }) }

theorem runCctl_eq (f : Form) (b : Base) (iinv : Bool) (act : State → List (Nat × Nat) → State) (s : State) :
    runCctl f b iinv act s = runGroup f b false (do
      let s ← get
      match s.acting b with
      | [] => pure {}
      | l :: _ => do
        match ← attempt (cctlRange f b l) with
        | .error t => pure { traps := [(l, t)] }
        | .ok (va, n) => cctlAct iinv act va n) s := rfl

section

variable {f : Form} {b : Base} {iinv : Bool} {act : State → List (Nat × Nat) → State} {s s1 : State} {l n : Nat} {va : DWord}
variable (hl : (s.acting b).head? = some l) (hr : cctlRange f b l s = .ok ((va, n), s1))

section

include hl hr

/-- The group of a CCTL does what it does with its range. -/
theorem cctl_run : (do
    let s ← get
    match s.acting b with
    | [] => pure {}
    | l :: _ => do
      match ← attempt (cctlRange f b l) with
      | .error t => pure { traps := [(l, t)] }
      | .ok (va, n) => cctlAct iinv act va n : M GroupOut) s = cctlAct iinv act va n s1 := by
  refine (M.bind_run (M.get_run s)).trans ?_
  obtain ⟨ls, hls⟩ := List.head?_eq_some_iff.1 hl
  rw [hls]
  exact M.bind_run (attempt_run hr)

theorem runCctl_completes {t : State} {g : GroupOut} (hc : s.Clear f b) (ha : cctlAct iinv act va n s1 = .ok (g, t)) (hg : g.traps = []) :
    runCctl f b iinv act s = .next (t.retired f b g) := by
  rw [runCctl_eq]
  exact runGroup_completes hc ((cctl_run hl hr).trans ha) hg

end

/-- The part of a range that is acted on, the pieces and what is left. -/
theorem cctlAct_eq (hn : n ≠ 0) {rs : List (Nat × Nat)} {va' : DWord} {left : Nat}
    (hp : s1.physRanges s1.who s1.mode ((va.toNat % 65536 + n + 65535) / 65536) va n = (rs, va', left)) :
    cctlAct iinv act va n s1 =
      if left == n then .error (.miss false (granuleKey (s1.space (coreOf s1.who) (s1.partOf s1.who) s1.mode) (va55 va)))
      else if left != 0 then .ok ({ outs := s1.issued.map fun j => (j, { stay := some (.range va' left) }) }, act s1 rs)
      else .ok ({ outs := s1.issued.map fun j => (j, { hold := some (.cache (act s1 rs).uid iinv) }) },
        { act s1 rs with uid := (act s1 rs).uid + 1 }) := by
  unfold cctlAct
  refine (M.bind_run (M.get_run s1)).trans ?_
  rw [if_neg (by simpa using hn), show ceilDiv (va.toNat % 65536 + n) 65536 = (va.toNat % 65536 + n + 65535) / 65536 from rfl, hp]
  dsimp only
  split_ifs <;> rfl

end

/-- The claim's words for a form of CCTL. -/
def RangeCompletes (b : Base) (i : Instr) (iinv : Bool) (ok : State → Prop) (act : State → Nat → List (Nat × Nat) → State) : Prop :=
  ∀ (s s1 : State) (l n : Nat) (va : DWord), i.WellFormed → s.Clear (formOf i) b → ok s → (s.acting b).head? = some l →
    ((s.lane s.who l).step = some (.range va n) ∧ s1 = s ∨ (∀ v m, (s.lane s.who l).step ≠ some (.range v m)) ∧
      ∃ x, readSrcs (formOf i) b l s = .ok (x, s1) ∧ va = x.a + BitVec.ofInt 64 b.offset ∧ n = (x.b.setWidth 32 : Word).toNat) →
    let r := s1.physRanges s1.who s1.mode ((va.toNat % 65536 + n + 65535) / 65536) va n
    let t := act s1 (coreOf s1.who) r.1
    let each := fun (o : LaneOut) => s1.issued.map fun j => (j, o)
    (n = 0 → exec i s = .next (s1.retired (formOf i) b {})) ∧
    (n ≠ 0 → r.2.2 = 0 →
      exec i s = .next (State.retired { t with uid := t.uid + 1 } (formOf i) b { outs := each { hold := some (.cache t.uid iinv) } })) ∧
    (r.2.2 ≠ 0 → r.2.2 < n → exec i s = .next (t.retired (formOf i) b { outs := each { stay := some (.range r.2.1 r.2.2) } })) ∧
    (n ≠ 0 → r.2.2 = n →
      exec i s = .next (s.noteMiss s.who s.issued false (granuleKey (s1.space (coreOf s1.who) (s1.partOf s1.who) s1.mode) (va55 va))))

theorem rangeCompletes_of_runCctl {b : Base} {i : Instr} {iinv : Bool} {ok : State → Prop} {act : State → Nat → List (Nat × Nat) → State}
    (hexec : ∀ s, ok s → exec i s = runCctl (formOf i) b iinv (fun s rs => act s (coreOf s.who) rs) s) :
    RangeCompletes b i iinv ok act := fun s s1 l n va _ hc hok hl hrange => by
  have hr := cctlRange_run hrange
  rw [hexec s hok]
  refine ⟨fun hn => ?_, fun hn h0 => ?_, fun h0 hlt => ?_, fun hn hall => ?_⟩
  · subst hn
    exact runCctl_completes hl hr hc rfl rfl
  · refine runCctl_completes hl hr hc ((cctlAct_eq hn rfl).trans ?_) rfl
    rw [h0, if_neg (by simpa using hn.symm)]
    rfl
  · have hn : n ≠ 0 := Nat.ne_of_gt (Nat.lt_of_le_of_lt (Nat.zero_le _) hlt)
    refine runCctl_completes hl hr hc ((cctlAct_eq hn rfl).trans ?_) rfl
    rw [if_neg (by simpa using Nat.ne_of_lt hlt), if_pos (by simpa using h0)]
  · rw [runCctl_eq]
    refine runGroup_misses hc ((cctl_run hl hr).trans ((cctlAct_eq hn rfl).trans ?_))
    rw [if_pos (by simpa using hall)]

theorem cacheControlCompletes : Claims.CacheControlCompletes := fun b => by
  refine ⟨rangeCompletes_of_runCctl (ok := fun _ => True) (act := fun s c rs => s.publish c (inRanges rs)) fun _ _ => rfl,
    rangeCompletes_of_runCctl (ok := fun _ => True) (act := fun s c rs => s.publish c (inRanges rs)) fun _ _ => rfl,
    rangeCompletes_of_runCctl (ok := fun _ => True) (act := fun s c rs => (s.publish c (inRanges rs)).dropLines c rs) fun _ _ => rfl,
    rangeCompletes_of_runCctl (ok := fun s => s.mode ≠ .u) (act := fun s c rs => s.dropFetched c b.vecCode rs) fun s hs => if_neg hs,
    fun s _ hc hs => ?_⟩
  have hexec : exec (.cctlIinv b) s = runGroup (formOf (.cctlIinv b)) b false (trapActing b ⟨.privilege, 0, s.issue.word, false⟩) s :=
    if_pos hs
  rw [hexec]
  exact runGroup_traps hc rfl

/-! ### IIACK -/

/-- A lane that an operation holds goes on; another stays. -/
def Lane.goOnHeld (x : Lane) : Lane := if x.wait.any Wait.isHeld then x.wakeUp else x

theorem Lane.goOnHeld_wait (x : Lane) (u : Nat) (iinv : Bool) : x.goOnHeld.wait ≠ some (.cache u iinv) := by
  unfold Lane.goOnHeld
  split
  · exact fun h => nomatch h
  · next h => exact fun hw => h (by rw [hw]; rfl)

/-- The state once the lanes go on, before anything is counted. -/
def State.letGo (s : State) (k : Nat) (lanes : List Nat) : State := lanes.foldl (fun s l => s.mapLane k l Lane.goOnHeld) s

theorem State.length_lanes_letGo (k : Nat) (lanes : List Nat) (s : State) :
    ((s.letGo k lanes).agent k).lanes.length = (s.agent k).lanes.length :=
  foldl_same (fun s : State => (s.agent k).lanes.length) (fun s l => s.length_lanes_mapLane k l _) lanes s

/-- A lane that does not exist waits for nothing. -/
theorem State.wait_of_absent {s : State} {k l : Nat} (h : (s.agent k).lanes.length ≤ l) : (s.lane k l).wait = none := by
  unfold State.lane
  rw [List.getD_eq_default _ _ h]
  rfl

/-- The operation holds a lane after the others have gone on just where it held it before, and the lane is not among them. -/
theorem State.held_letGo (k u : Nat) : ∀ (lanes : List Nat) (s : State) (j : Nat),
    ((s.letGo k lanes).lane k j).wait = some (.cache u true) ↔ (s.lane k j).wait = some (.cache u true) ∧ j ∉ lanes
  | [], s, j => by simp [letGo]
  | l :: lanes, s, j => by
    refine (held_letGo k u lanes (s.mapLane k l Lane.goOnHeld) j).trans ?_
    by_cases hj : j = l
    · subst hj
      rcases Nat.lt_or_ge j (s.agent k).lanes.length with hlt | hge
      · simp [State.lane_mapLane_same s k j _ hlt, Lane.goOnHeld_wait]
      · simp [State.wait_of_absent (Nat.le_trans (Nat.le_of_eq (s.length_lanes_mapLane k j _)) hge)]
    · simp [State.lane_mapLane_other s k _ hj, hj]

/-- What IIACK of an agent's core counts. -/
def State.iiack (s : State) (k : Nat) : DWord := (s.core (coreOf k)).counters.iiack

/-- The CCTL.IINVs that lanes are held for. -/
def State.iinvs (s : State) (k : Nat) (lanes : List Nat) : List Nat := (lanes.filterMap fun l => (s.lane k l).wait.bind Wait.iinv).eraseDups

theorem Wait.iinv_eq_some {w : Wait} {u : Nat} : w.iinv = some u ↔ w = .cache u true := by
  unfold Wait.iinv
  split <;> simp_all

theorem State.mem_iinvs {s : State} {k u : Nat} {lanes : List Nat} :
    u ∈ s.iinvs k lanes ↔ ∃ l ∈ lanes, (s.lane k l).wait = some (.cache u true) := by
  simp [iinvs, Option.bind_eq_some_iff, Wait.iinv_eq_some]

/-- Another lane is still held for an operation. -/
def Agent.heldFor (a : Agent) (u : Nat) : Bool := a.lanes.any fun x => x.wait == some (.cache u true)

theorem State.heldFor_iff {s : State} {k u : Nat} :
    (s.agent k).heldFor u = true ↔ ∃ j, (s.lane k j).wait = some (.cache u true) := by
  unfold Agent.heldFor
  rw [List.any_eq_true]
  constructor
  · rintro ⟨x, hx, hw⟩
    obtain ⟨j, hj, rfl⟩ := List.getElem_of_mem hx
    refine ⟨j, ?_⟩
    rw [State.lane, List.getD_eq_getElem _ _ hj]
    exact beq_iff_eq.1 hw
  · rintro ⟨j, hw⟩
    have hj : j < (s.agent k).lanes.length := Nat.lt_of_not_le fun h => by rw [State.wait_of_absent h] at hw; cases hw
    refine ⟨(s.agent k).lanes[j], List.getElem_mem hj, ?_⟩
    rw [State.lane, List.getD_eq_getElem _ _ hj] at hw
    exact beq_iff_eq.2 hw

/-- The CCTL.IINVs of lanes that go on with which no lane is held any more. -/
def State.iinvsDone (s : State) (k : Nat) (lanes : List Nat) : List Nat :=
  (s.iinvs k lanes).filter fun u => !((s.letGo k lanes).agent k).heldFor u

theorem State.performed_lane (s : State) (k j : Nat) (lanes : List Nat) : (s.performed k lanes).lane k j = (s.letGo k lanes).lane k j := by
  unfold State.performed
  dsimp only
  split <;> rfl

theorem State.iiack_letGo (s : State) (k : Nat) (lanes : List Nat) : (s.letGo k lanes).iiack k = s.iiack k :=
  foldl_same (fun s : State => s.iiack k) (f := fun (s : State) (l : Nat) => s.mapLane k l Lane.goOnHeld) (fun _ _ => rfl) lanes s

theorem State.iiack_performed (s : State) (k : Nat) (lanes : List Nat) :
    (s.performed k lanes).iiack k = s.iiack k + BitVec.ofNat 64 (s.iinvsDone k lanes).length := by
  have h : s.performed k lanes = if (s.iinvsDone k lanes).isEmpty then s.letGo k lanes else
      (s.letGo k lanes).setCore (coreOf k) { (s.letGo k lanes).core (coreOf k) with counters :=
        { ((s.letGo k lanes).core (coreOf k)).counters with iiack := (s.letGo k lanes).iiack k + BitVec.ofNat 64 (s.iinvsDone k lanes).length } } := rfl
  rw [h]
  split
  · next hd => rw [List.isEmpty_iff.1 hd, iiack_letGo]; simp
  · rw [iiack, State.core_setCore_same, iiack_letGo]

theorem State.bufferTrace_lane (s : State) (k i j : Nat) (bs : List Byte) : (s.bufferTrace k bs).lane i j = s.lane i j := by
  unfold State.bufferTrace
  dsimp only
  split <;> rfl

theorem State.iiack_bufferTrace (s : State) (k : Nat) (bs : List Byte) : (s.bufferTrace k bs).iiack k = s.iiack k := by
  unfold State.bufferTrace
  dsimp only
  split <;> simp [iiack]

theorem State.releaseSamples_lane (s : State) (k j : Nat) : (s.releaseSamples k).lane k j = s.lane k j := by
  unfold State.releaseSamples
  dsimp only
  split
  · rfl
  · refine (foldl_same (fun s : State => s.lane k j) (f := fun (s : State) (e : Sample) => s.bufferTrace k e.bytes)
      (fun s e => s.bufferTrace_lane k k j e.bytes) _ _).trans ?_
    simp [State.lane]

theorem State.iiack_releaseSamples (s : State) (k : Nat) : (s.releaseSamples k).iiack k = s.iiack k := by
  unfold State.releaseSamples
  dsimp only
  split
  · rfl
  · exact (foldl_same (fun s : State => s.iiack k) (f := fun (s : State) (e : Sample) => s.bufferTrace k e.bytes)
      (fun s e => s.iiack_bufferTrace k e.bytes) _ _).trans rfl

theorem mem_lanesOf {m : Word} {l : Nat} : l ∈ lanesOf m ↔ m.getLsbD l = true := by
  unfold lanesOf
  rw [List.mem_filter, List.mem_range]
  exact ⟨And.right, fun h => ⟨BitVec.lt_of_getLsbD h, h⟩⟩

theorem nodup_eraseDups {α : Type} [BEq α] [LawfulBEq α] : ∀ xs : List α, xs.eraseDups.Nodup
  | [] => List.nodup_nil
  | a :: xs => by
    rw [List.eraseDups_cons, List.nodup_cons]
    exact ⟨by simp [List.mem_eraseDups], nodup_eraseDups _⟩
termination_by xs => xs.length
decreasing_by exact Nat.lt_succ_of_le (List.length_filter_le _ xs)

/-- A list without repetition whose members are all one value. -/
theorem length_eq_one_of_nodup {α : Type} {xs : List α} {a : α} (hn : xs.Nodup) (ha : a ∈ xs) (hall : ∀ x ∈ xs, x = a) : xs.length = 1 := by
  rw [List.eq_replicate_of_mem hall] at hn ha ⊢
  rw [List.length_replicate]
  have := List.nodup_replicate.1 hn
  have hne : xs.length ≠ 0 := fun h => by rw [h] at ha; cases ha
  omega

theorem instructionInvalidationCounts : Claims.InstructionInvalidationCounts := fun k u m s t h => by
  have ht : t = (s.performed k (lanesOf m)).releaseSamples k := by cases h; rfl
  have hwait : ∀ l, (t.lane k l).wait = some (.cache u true) ↔ (s.lane k l).wait = some (.cache u true) ∧ l ∉ lanesOf m := fun l => by
    rw [ht, State.releaseSamples_lane, State.performed_lane, State.held_letGo]
  have hcount : t.iiack k = s.iiack k + BitVec.ofNat 64 (s.iinvsDone k (lanesOf m)).length := by
    rw [ht, State.iiack_releaseSamples, State.iiack_performed]
  refine ⟨fun l hl hw => ((hwait l).1 hw).2 (mem_lanesOf.2 hl), fun hnone => ?_, fun ⟨l, _, _, hl, hw⟩ hall hone => ?_⟩
  · have hempty : s.iinvsDone k (lanesOf m) = [] := List.eq_nil_iff_forall_not_mem.2 fun v hv => by
      obtain ⟨l, hl, hw⟩ := State.mem_iinvs.1 (List.mem_filter.1 hv).1
      exact hnone l (mem_lanesOf.1 hl) v hw
    show t.iiack k = s.iiack k
    rw [hcount, hempty]
    simp
  · have hdone : (s.iinvsDone k (lanesOf m)).length = 1 := by
      refine length_eq_one_of_nodup (a := u) (List.Nodup.filter _ (nodup_eraseDups _)) (List.mem_filter.2 ⟨?_, ?_⟩) fun v hv => ?_
      · exact State.mem_iinvs.2 ⟨l, mem_lanesOf.2 hl, hw⟩
      · rw [Bool.not_eq_true', Bool.eq_false_iff, Ne, State.heldFor_iff]
        rintro ⟨j, hj⟩
        obtain ⟨hj, hnot⟩ := (State.held_letGo k u _ s j).1 hj
        have hlt : j < (s.agent k).lanes.length := Nat.lt_of_not_le fun h => by rw [State.wait_of_absent h] at hj; cases hj
        rcases hall j hlt with hbit | hn
        · exact hnot (mem_lanesOf.2 hbit)
        · exact hn hj
      · obtain ⟨j, _, hj⟩ := State.mem_iinvs.1 (List.mem_filter.1 hv).1
        exact hone j v hj
    show t.iiack k = s.iiack k + 1
    rw [hcount, hdone]
    rfl

/-- Settles O27: prefetch and cache control are the model's over what the core has translated, and IIACK counts an operation when the last
lane that it holds goes on. -/
theorem cachesComplete : Obligations.CachesComplete := ⟨prefetchCompletes, cacheControlCompletes, instructionInvalidationCounts⟩

end Sys2Proof.Machine

/-! PROOFS. What a retirement leaves of the parties, and outcomes whose lanes just go on (spec/05 R111, R125). -/

namespace Sys2Proof.Machine

open Claims

/-! ### The parties -/

theorem State.parties_sleep (s : State) (k : Nat) (ls : List Nat) (w : Wait) : (s.sleep k ls w).parties = s.parties :=
  foldl_same State.parties (f := fun (s : State) (l : Nat) => s.mapLane k l fun x => x.sleep w (s.clock (coreOf k))) (fun _ _ => rfl) ls s

theorem State.parties_sleepHere (s : State) (k : Nat) (ls : List Nat) (w : Wait) : (s.sleepHere k ls w).parties = s.parties := by
  unfold State.sleepHere
  refine (foldl_same State.parties ?_ ls _).trans (s.parties_sleep k ls w)
  exact fun _ _ => rfl

theorem State.parties_sleepOuts (s : State) (k : Nat) (outs : List (Nat × LaneOut)) (w : LaneOut → Option Wait) :
    (s.sleepOuts k outs w).parties = s.parties := by
  unfold State.sleepOuts
  refine foldl_same State.parties ?_ outs s
  intro s o
  split
  · exact s.parties_sleepHere ..
  · rfl

theorem State.parties_bufferTrace (s : State) (k : Nat) (bs : List Byte) : (s.bufferTrace k bs).parties = s.parties := by
  unfold State.bufferTrace
  dsimp only
  split <;> rfl

theorem State.parties_releaseSamples (s : State) (k : Nat) : (s.releaseSamples k).parties = s.parties := by
  unfold State.releaseSamples
  dsimp only
  split
  · rfl
  · exact foldl_same State.parties (f := fun (s : State) (e : Sample) => s.bufferTrace k e.bytes) (fun s e => s.parties_bufferTrace k e.bytes) _ _

theorem State.parties_holdSample (s : State) (due : Option Nat) (held : Word) (bytes : List Byte) :
    (s.holdSample due held bytes).parties = s.parties := by
  unfold State.holdSample
  split <;> rfl

theorem State.parties_countMem (s : State) (f : Form) (b : Base) (g : GroupOut) (due : Option Nat) : (s.countMem f b g due).parties = s.parties := by
  unfold State.countMem
  dsimp only
  split_ifs
  · rfl
  · rfl
  · rfl
  · exact State.parties_holdSample ..

theorem State.parties_launchFlight (s : State) (k : Nat) (flag : Option Nat) (held : Bool) (ls : List Nat) (ws : List (Dest × Word)) :
    (s.launchFlight k flag held ls ws).parties = s.parties := by
  unfold State.launchFlight
  dsimp only
  split
  · exact State.parties_sleep ..
  · rfl

/-- A group that retires without traps leaves the parties. -/
theorem State.parties_retire (s : State) (f : Form) (b : Base) {g : GroupOut} (ht : g.traps = []) (ha : g.after = []) :
    (s.retire f b g).parties = s.parties := by
  unfold State.retire
  rw [ht, ha]
  dsimp only
  have hnone (t : State) (k : Nat) : t.takeTraps k [] = t := rfl
  have hunit (p : Prop) [Decidable p] (ls : List Nat) : (if p then unitTraps ls [] else ([] : List (Nat × Trap))) = [] := ite_self _
  simp only [hnone, hunit]
  have hrelease (p : Prop) [Decidable p] (t : State) (k : Nat) : (if p then t.releaseSamples k else t).parties = t.parties := by
    split
    · exact t.parties_releaseSamples k
    · rfl
  refine (hrelease _ _ _).trans ?_
  refine (State.parties_sleepOuts ..).trans ?_
  rw [apply_ite State.parties, State.parties_sleepOuts, State.parties_sleepOuts, ite_self, apply_ite State.parties,
    State.parties_launchFlight, State.setAgent_parties, ite_self]
  refine (foldl_same State.parties ?_ _ _).trans (State.parties_countMem ..)
  exact fun _ _ => rfl

theorem State.parties_useRegs (s : State) (f : Form) (b : Base) : (s.useRegs f b).parties = s.parties := by
  unfold State.useRegs
  dsimp only
  split <;> rfl

theorem GroupOut.joined_traps (g : GroupOut) (s : State) (f : Form) : (g.joined s f).traps = g.traps := by
  unfold GroupOut.joined
  split <;> rfl

theorem GroupOut.joined_after (g : GroupOut) (s : State) (f : Form) : (g.joined s f).after = g.after := by
  unfold GroupOut.joined
  split <;> rfl

theorem State.parties_retired (s : State) (f : Form) (b : Base) {g : GroupOut} (ht : g.traps = []) (ha : g.after = []) :
    (s.retired f b g).parties = s.parties := by
  unfold State.retired
  rw [State.parties_useRegs, State.parties_retire s f b ((g.joined_traps s f).trans ht) ((g.joined_after s f).trans ha)]

/-! ### Lanes that just go on -/

theorem plain_none {ls : List Nat} {w : LaneOut → Option Wait} (hw : w {} = none) : ∀ o ∈ plain ls, w o.2 = none := fun o ho => by
  obtain ⟨l, -, rfl⟩ := List.mem_map.1 ho
  exact hw

theorem plain_false {ls : List Nat} {p : LaneOut → Bool} (hp : p {} = false) : ∀ o ∈ plain ls, p o.2 = false := fun o ho => by
  obtain ⟨l, -, rfl⟩ := List.mem_map.1 ho
  exact hp

theorem writes_plain (ls : List Nat) : GroupOut.writes { outs := plain ls } = [] :=
  List.flatMap_eq_nil_iff.2 fun o ho => by
    obtain ⟨l, -, rfl⟩ := List.mem_map.1 ho
    rfl

/-- Which lanes just go on makes no difference, but for the memory instructions, whose samples name them. -/
theorem State.retired_plain {f : Form} (hmem : memClass f.opc = false) (s : State) (b : Base) (ls : List Nat) :
    s.retired f b { outs := plain ls } = s.retired f b {} := by
  have hheld : ((plain ls).any fun o => o.2.hold == some .held) = false :=
    List.any_eq_false.2 fun o ho => by
      obtain ⟨l, -, rfl⟩ := List.mem_map.1 ho
      exact Bool.false_ne_true
  have hstay : GroupOut.lanesBy { outs := plain ls } (fun o => o.stay.isSome) = [] :=
    GroupOut.lanesBy_eq_nil (plain_false (p := fun o => o.stay.isSome) rfl)
  have hmoved : GroupOut.lanesBy { outs := plain ls } (fun o => o.moved) = [] :=
    GroupOut.lanesBy_eq_nil (plain_false (p := fun o => o.moved) rfl)
  unfold State.retired
  rw [GroupOut.joined_going (plain_none rfl), GroupOut.joined_going (g := {}) (List.forall_mem_nil _)]
  congr 1
  unfold State.retire
  simp only [writes_plain, hheld, hstay, hmoved, State.countMem_of_not_memClass hmem]
  rw [State.sleepOuts_none (plain_none rfl), State.sleepOuts_none (plain_none rfl)]
  rfl

end Sys2Proof.Machine

/-! PROOFS. Fences, phases, barriers and CWAIT (spec/08 R200 to R203, spec/04 R93 to R95; O30). -/

namespace Sys2Proof.Machine

open Claims

/-! ### FENCE and PHASE -/

theorem fenceCompletes (b : Base) : Gives (.fence b) b (fun _ => True) fun s =>
    (if s.acting b ≠ [] ∧ b.fn ≠ 1 then s.drainAll s.who else s).retired (formOf (.fence b)) b {} := fun s _ hc _ => by
  refine runGroup_completes hc ((M.bind_run (M.get_run s)).trans ?_) rfl
  by_cases h : s.acting b ≠ [] ∧ b.fn ≠ 1
  · rw [if_neg (by simpa using h), if_pos h]
    rfl
  · rw [if_pos (by simpa [or_iff_not_imp_left] using h), if_neg h]
    rfl

/-- Without deterministic parties a collective comes to an end. -/
theorem collective_total {p : Nat} {team : Bool} {s : State} (h : ∀ q, (s.party q).det = none) : ∃ t, collective p team s = .ok ((), t) := by
  have hdets (ps : List Nat) : s.detsOf ps = [] := by
    unfold State.detsOf
    rw [List.filterMap_eq_nil_iff.2 fun q _ => h q]
    rfl
  unfold collective
  rw [M.bind_run (M.get_run s)]
  simp only [hdets]
  split
  · exact ⟨_, rfl⟩
  · cases s.disagreeing (s.pairParties (s.collectiveParties p team)) with
    | some n => exact ⟨_, rfl⟩
    | none => exact ⟨_, rfl⟩

theorem runM_ok {m : M Unit} {s t : State} (h : m s = .ok ((), t)) : runM m s = .next t := by
  unfold runM
  rw [h]

theorem runPhase_completes {f : Form} {b : Base} {team : Bool} {s : State} (hc : s.Clear f b) (hdet : ∀ p, (s.party p).det = none) :
    let t := team && (s.partyOf s.who).team.isSome
    let s1 := s.retired f b { outs := s.issued.map fun l => (l, { stay := some (.phase t b.len.bytes) }) }
    ∃ s2, collective (s1.agent s1.who).party t s1 = .ok ((), s2) ∧ runPhase f b team s = .next s2 := by
  intro t s1
  have hparties : s1.parties = s.parties := State.parties_retired s f b rfl rfl
  have hdet1 : ∀ q, (s1.party q).det = none := fun q => by
    unfold State.party
    rw [hparties]
    exact hdet q
  obtain ⟨s2, h2⟩ := collective_total (p := (s1.agent s1.who).party) (team := t) hdet1
  have hgroup : runGroup f b false (do
      let s ← get
      pure { outs := s.issued.map fun l => (l, { stay := some (.phase t b.len.bytes) }) }) s = .next s1 :=
    runGroup_completes hc (M.bind_run (M.get_run s)) rfl
  refine ⟨s2, h2, ?_⟩
  unfold runPhase
  dsimp only
  rw [hgroup]
  exact runM_ok h2

theorem fencesAndPhasesComplete : Claims.FencesAndPhasesComplete := fun b => by
  refine ⟨fenceCompletes b, fun s team => ?_⟩
  intro i _ hc t s1 hdet
  cases team with
  | false => exact runPhase_completes (team := false) hc hdet
  | true => exact runPhase_completes (team := true) hc hdet

/-! ### The events of a barrier -/

theorem Barrier.test_eq (x : Barrier) : x.test =
    if x.arr = x.memb ∧ x.landb = x.expb then { x with phase := (x.phase + 1) % 65536, arr := 0, landb := 0, expb := 0 } else x := by
  simp only [Barrier.test, Bool.and_eq_true, beq_iff_eq]

theorem barrierEvents : Claims.BarrierEvents := fun x n => by
  constructor
  · unfold Barrier.arrive
    simp only [Barrier.test_eq, Bool.or_eq_true, Bool.and_eq_true, beq_iff_eq, decide_eq_true_eq, ge_iff_le]
    by_cases h1 : x.arr = x.memb ∨ 2 ^ 32 ≤ x.landb + n
    · rw [if_pos h1, if_pos (by tauto)]
    · rw [if_neg h1]
      by_cases h2 : x.arr + 1 = x.memb ∧ x.expb < x.landb + n
      · rw [if_pos h2, if_pos (by tauto)]
      · have h3 : ¬(x.arr = x.memb ∨ 2 ^ 32 ≤ x.landb + n ∨ x.arr + 1 = x.memb ∧ x.expb < x.landb + n) := by tauto
        rw [if_neg h2, if_neg h3]
  · unfold Barrier.expect
    simp only [Barrier.test_eq, Bool.or_eq_true, beq_iff_eq, decide_eq_true_eq, ge_iff_le]

/-! ### The instructions of barriers -/

/-- An instruction with a value in source B acts on what its issuing lane reads. -/
theorem issuingB_run {f : Form} {b : Base} {act : Nat → Word → M GroupOut} {s s1 : State} {l : Nat} {x : DWord}
    (hl : (s.acting b).head? = some l) (hx : readSrc f b 1 l s = .ok (x, s1)) : issuingB f b act s = act l (x.setWidth 32) s1 := by
  unfold issuingB
  refine (M.bind_run (M.get_run s)).trans ?_
  obtain ⟨ls, hls⟩ := List.head?_eq_some_iff.1 hl
  rw [hls]
  exact M.bind_run (attempt_run hx)

theorem binitCompletes {b : Base} {s s1 : State} {l : Nat} {x : DWord} (hc : s.Clear (formOf (.binit b)) b)
    (hl : (s.acting b).head? = some l) (hx : readSrc (formOf (.binit b)) b 1 l s = .ok (x, s1))
    (hm : s1.mutedBarrier (s1.agent s1.who).party (barNumber b) = false)
    (h : 1 ≤ (x.setWidth 32 : Word).toNat ∧ (x.setWidth 32 : Word).toNat ≤ 4095 ∧
      (s1.barrier (s1.agent s1.who).party (barNumber b)).arr = 0 ∧ (s1.barrier (s1.agent s1.who).party (barNumber b)).landb = 0 ∧
      (s1.barrier (s1.agent s1.who).party (barNumber b)).expb = 0 ∧ s1.sleepers (s1.agent s1.who).party (barNumber b) = false) :
    exec (.binit b) s = .next ((s1.setBarrier (s1.agent s1.who).party (barNumber b) ⟨0, (x.setWidth 32 : Word).toNat, 0, 0, 0⟩).retired
      (formOf (.binit b)) b {}) := by
  obtain ⟨h1, h2, ha, hlb, he, hs⟩ := h
  refine runGroup_completes hc ((issuingB_run hl hx).trans ((M.bind_run (M.get_run s1)).trans ?_)) rfl
  simp only [hm, ha, hlb, he, hs]
  rw [if_neg Bool.false_ne_true, if_neg (by simp only [Bool.or_eq_true, beq_iff_eq, decide_eq_true_eq]; omega),
    if_neg (by simp)]
  rfl

theorem bexpCompletes {b : Base} {s s1 : State} {l : Nat} {x : DWord} {y : Barrier} (hc : s.Clear (formOf (.bexp b)) b)
    (hl : (s.acting b).head? = some l) (hx : readSrc (formOf (.bexp b)) b 1 l s = .ok (x, s1))
    (hm : s1.mutedBarrier (s1.agent s1.who).party (barNumber b) = false)
    (h : (s1.barrier (s1.agent s1.who).party (barNumber b)).expect (x.setWidth 32 : Word).toNat = some y) :
    exec (.bexp b) s = .next ((s1.setBarrier (s1.agent s1.who).party (barNumber b) y).retired (formOf (.bexp b)) b {}) := by
  refine runGroup_completes hc ((issuingB_run hl hx).trans ((M.bind_run (M.get_run s1)).trans ?_)) rfl
  simp only [hm, h]
  rfl

/-- An instruction acts outside a replay. -/
theorem State.Clear.mutedBarrier {s : State} {f : Form} {b : Base} (hc : s.Clear f b) (n : Nat) :
    s.mutedBarrier (s.agent s.who).party n = false := by
  have hdet : ((s.party (s.agent s.who).party).det.bind (Sparse.find? s.dets)) = none := by
    have h : (match (s.party (s.agent s.who).party).det with
      | some d => (Sparse.find? s.dets d).map fun x => (d, x)
      | none => none) = none := hc.free
    cases hd : (s.party (s.agent s.who).party).det with
    | none => rfl
    | some d =>
      rw [hd] at h
      exact Option.map_eq_none_iff.1 h
  unfold State.mutedBarrier State.inReplay
  rw [hdet]
  cases (s.party (s.agent s.who).party).role <;> simp

section

variable {b : Base} {s : State} (hc : s.Clear (formOf (.bara b)) b) (hlead : isLead s.who = false)
  (hmemb : (s.barrier (s.agent s.who).party (barNumber b)).memb ≠ 0)
include hc hlead hmemb

/-- The state once an agent's BARA has named its lanes. -/
def State.baraNoted (s : State) (n : Nat) : State :=
  s.setAgent s.who { s.agent s.who with
    bara := Sparse.put (s.agent s.who).bara n (Sparse.getD (s.agent s.who).bara n 0 ||| maskOf s.issued) }

/-- BARA does as the arrival of its rope does, unless that is a misuse. -/
theorem bara_of_baraArrive {t : State} (h : (s.baraNoted (barNumber b)).baraArrive s.who (barNumber b) = (t, true)) :
    exec (.bara b) s = .next (t.retired (formOf (.bara b)) b {}) := by
  refine runGroup_completes hc ((M.bind_run (M.get_run s)).trans ?_) rfl
  dsimp only
  rw [hlead, if_neg Bool.false_ne_true, if_neg (by simp [hmemb])]
  unfold State.baraNoted at h
  rw [h]
  rfl

end

theorem State.agent_baraNoted (s : State) (n : Nat) : (s.baraNoted n).agent s.who = { s.agent s.who with
    bara := Sparse.put (s.agent s.who).bara n (Sparse.getD (s.agent s.who).bara n 0 ||| maskOf s.issued) } :=
  State.agent_setAgent_same ..

theorem State.baraDue_baraNoted (s : State) (n : Nat) : ((s.baraNoted n).agent s.who).baraDue n =
    ((Sparse.getD (s.agent s.who).bara n 0 ||| maskOf s.issued) != 0 &&
      (s.agent s.who).live.all fun l => (Sparse.getD (s.agent s.who).bara n 0 ||| maskOf s.issued).getLsbD l) := by
  rw [State.agent_baraNoted, Agent.baraDue, Sparse.getD_put_same]
  rfl

/-- Where a lane of the rope has still to execute its BARA, nothing arrives. -/
theorem State.baraArrive_early {s : State} {n : Nat} (h : ((s.agent s.who).live.all fun l =>
    (Sparse.getD (s.agent s.who).bara n 0 ||| maskOf s.issued).getLsbD l) = false) :
    (s.baraNoted n).baraArrive s.who n = (s.baraNoted n, true) := by
  unfold State.baraArrive
  rw [State.baraDue_baraNoted, h]
  simp

/-- With its last lane the rope arrives. -/
theorem State.baraArrive_last {s : State} {n : Nat} {x : Barrier} (h : ((s.agent s.who).live.all fun l =>
    (Sparse.getD (s.agent s.who).bara n 0 ||| maskOf s.issued).getLsbD l) = true)
    (hne : Sparse.getD (s.agent s.who).bara n 0 ||| maskOf s.issued ≠ 0) (hm : s.mutedBarrier (s.agent s.who).party n = false)
    (hx : (s.barrier (s.agent s.who).party n).arrive 0 = some x) :
    let u := (s.baraNoted n).setBarrier (s.agent s.who).party n x
    let c := u.agent s.who
    (s.baraNoted n).baraArrive s.who n = (u.setAgent s.who { c with bara := Sparse.drop c.bara n }, true) := by
  have hparty : ((s.baraNoted n).agent s.who).party = (s.agent s.who).party := by rw [State.agent_baraNoted]
  have hm' : (s.baraNoted n).mutedBarrier (s.agent s.who).party n = false := hm
  have hx' : ((s.baraNoted n).barrier (s.agent s.who).party n).arrive 0 = some x := hx
  unfold State.baraArrive
  rw [State.baraDue_baraNoted, h, hparty]
  dsimp only
  rw [hm', hx', if_neg (by simpa using hne)]
  rfl

theorem Barrier.passed_iff (x : Barrier) (ph : Nat) : x.passed ph = true ↔ 1 ≤ x.past ph ∧ x.past ph ≤ 32767 := by
  simp [Barrier.passed]

/-- What BWAIT compares: the low 16 bits of its operand. -/
theorem past_setWidth (y : Barrier) (x : DWord) :
    y.past ((x.setWidth 32 : Word).toNat % 65536) = (y.phase + 65536 - x.toNat % 65536) % 65536 := by
  have h : (x.setWidth 32 : Word).toNat % 65536 = x.toNat % 65536 := by
    rw [BitVec.toNat_setWidth]
    omega
  rw [h, Barrier.past, Nat.mod_mod]

section

variable {b : Base} {s s1 : State} {l : Nat} {x : DWord} (hc : s.Clear (formOf (.bwait b)) b) (hl : (s.acting b).head? = some l)
  (hx : readSrc (formOf (.bwait b)) b 1 l s = .ok (x, s1)) (hstep : (s1.lane s1.who l).step ≠ some .woken)
  (hmemb : (s1.barrier (s1.agent s1.who).party (barNumber b)).memb ≠ 0)
include hc hl hx hstep hmemb

theorem bwait_passes
    (h1 : 1 ≤ ((s1.barrier (s1.agent s1.who).party (barNumber b)).phase + 65536 - x.toNat % 65536) % 65536)
    (h2 : ((s1.barrier (s1.agent s1.who).party (barNumber b)).phase + 65536 - x.toNat % 65536) % 65536 ≤ 32767) :
    exec (.bwait b) s = .next (s1.retired (formOf (.bwait b)) b { outs := plain (s.acting b) }) := by
  rw [State.retired_plain rfl s1 b (s.acting b), ← State.retired_plain rfl s1 b (s1.acting b)]
  rw [← past_setWidth] at h1 h2
  refine runGroup_completes hc ((issuingB_run hl hx).trans ((M.bind_run (M.get_run s1)).trans ?_)) rfl
  rw [if_neg (by simpa using hstep), if_neg (by simp only [Bool.or_eq_true, beq_iff_eq]; omega),
    if_pos ((Barrier.passed_iff _ _).2 ⟨h1, h2⟩)]
  rfl

theorem bwait_sleeps
    (h : ((s1.barrier (s1.agent s1.who).party (barNumber b)).phase + 65536 - x.toNat % 65536) % 65536 = 0 ∨
      32769 ≤ ((s1.barrier (s1.agent s1.who).party (barNumber b)).phase + 65536 - x.toNat % 65536) % 65536) :
    exec (.bwait b) s = .next (s.noteWait s.who s.issued (.barrier (barNumber b) (x.toNat % 65536))) := by
  have hph : (x.setWidth 32 : Word).toNat % 65536 = x.toNat % 65536 := by
    rw [BitVec.toNat_setWidth]
    omega
  rw [← past_setWidth] at h
  refine runGroup_waits hc ((issuingB_run hl hx).trans ((M.bind_run (M.get_run s1)).trans ?_))
  rw [if_neg (by simpa using hstep), if_neg (by simp only [Bool.or_eq_true, beq_iff_eq]; omega),
    if_neg (by rw [Barrier.passed_iff]; omega), hph]
  rfl

end

theorem barriersComplete : Claims.BarriersComplete := fun b => by
  refine ⟨fun s s1 s2 l x _ hc hl hx hm h => ?_, fun s s1 s2 l x _ hc hl hx hm h => ?_, fun s _ hc hlead hmemb => ⟨fun h => ?_, ?_⟩,
    fun s s1 l x _ hc hl hx hstep hmemb => ⟨bwait_passes hc hl hx hstep hmemb, bwait_sleeps hc hl hx hstep hmemb⟩⟩
  · dsimp only at h
    split_ifs at h with hok
    cases h
    exact binitCompletes hc hl hx hm hok
  · obtain ⟨y, hy, rfl⟩ := Option.map_eq_some_iff.1 h
    exact bexpCompletes hc hl hx hm hy
  · exact bara_of_baraArrive hc hlead hmemb (State.baraArrive_early h)
  · exact fun x h hne hx => bara_of_baraArrive hc hlead hmemb (State.baraArrive_last h hne (hc.mutedBarrier _) hx)

/-! ### Misuses, and CWAIT -/

theorem State.trapping_acting {s : State} {b : Base} (h : s.acting b ≠ []) :
    s.trapping (s.acting b) = if (s.agent s.who).bound.isSome then s.issued else s.acting b := by
  unfold State.trapping
  cases hs : s.acting b with
  | nil => exact absurd hs h
  | cons l ls => simp

/-- The issuing lane is the first of those that act. -/
theorem State.acting_head {s : State} {b : Base} (h : s.acting b ≠ []) : (s.acting b).head? = some ((s.acting b).headD 0) := by
  cases hs : s.acting b with
  | nil => exact absurd hs h
  | cons l ls => rfl

/-- A misuse that an instruction with a value in source B finds is taken by every acting lane. -/
theorem misuse_of_issuingB {i : Instr} {b : Base} {act : Nat → Word → M GroupOut} {s : State} {x : DWord} {t : Trap}
    (hexec : ∀ s, exec i s = runGroup (formOf i) b false (issuingB (formOf i) b act) s) (hc : s.Clear (formOf i) b)
    (hls : s.acting b ≠ []) (hx : readSrc (formOf i) b 1 ((s.acting b).headD 0) s = .ok (x, s))
    (h : act ((s.acting b).headD 0) (x.setWidth 32) s = trapActing b t s) :
    exec i s = .next (s.retired (formOf i) b
      { traps := (if (s.agent s.who).bound.isSome then s.issued else s.acting b).map fun l => (l, t) }) := by
  rw [hexec, ← State.trapping_acting hls]
  exact runGroup_traps hc (((issuingB_run (State.acting_head hls) hx).trans h).trans (M.bind_run (M.get_run s)))

theorem Barrier.expect_none {x : Barrier} {n : Nat} (h : x.memb = 0 ∨ x.expb + n ≥ 2 ^ 32) : x.expect n = none := by
  rw [(barrierEvents x n).2, if_pos h]

theorem barrierMisuses : Claims.BarrierMisuses := fun b => by
  refine ⟨fun s x _ hc hls hx ⟨hstep, hbad⟩ => ?_, fun s x _ hc hls hx ⟨hm, hbad⟩ => ?_, fun s x _ hc hls hx ⟨hm, h1, h2, hbad⟩ => ?_,
    fun s _ hc ⟨hlead, hmemb, hm⟩ => ?_⟩
  · refine misuse_of_issuingB (fun _ => rfl) hc hls hx ((M.bind_run (M.get_run s)).trans ?_)
    rw [if_neg (by simpa using hstep), if_pos]
    · rfl
    · simp only [Bool.or_eq_true, beq_iff_eq, Barrier.past, Nat.mod_mod]
      exact hbad
  · refine misuse_of_issuingB (fun _ => rfl) hc hls hx ((M.bind_run (M.get_run s)).trans ?_)
    have hexp : (s.barrier (s.agent s.who).party (barNumber b)).expect (x.setWidth 32 : Word).toNat = none := Barrier.expect_none hbad
    have hm' : s.mutedBarrier (s.agent s.who).party (barNumber b) = false := hm
    rw [hm', hexp]
    rfl
  · refine misuse_of_issuingB (fun _ => rfl) hc hls hx ((M.bind_run (M.get_run s)).trans ?_)
    have hm' : s.mutedBarrier (s.agent s.who).party (barNumber b) = false := hm
    dsimp only
    rw [hm', if_neg Bool.false_ne_true, if_neg (by simp only [Bool.or_eq_true, beq_iff_eq, decide_eq_true_eq]; omega), if_pos]
    · rfl
    · simp only [Bool.or_eq_true, bne_iff_ne, or_assoc]
      exact hbad
  · refine runGroup_traps hc ((M.bind_run (M.get_run s)).trans ?_)
    have hmemb' : (s.barrier (s.agent s.who).party (barNumber b)).memb = 0 := hmemb
    have hm' : s.mutedBarrier (s.agent s.who).party (barNumber b) = false := hm
    dsimp only
    rw [hlead, hmemb', hm', if_neg Bool.false_ne_true]
    rfl

/-- The class that a code names. -/
theorem ofCode_eq (n : Nat) : EngClass.ofCode n = [EngClass.cpy, .gth, .mat, .col, .apn].getD n .far := by
  match n with
  | 0 | 1 | 2 | 3 | 4 => rfl
  | n + 5 => rfl

/-- CWAIT on what its issuing lane reads. -/
def cwaitAct (b : Base) (l : Nat) (m : Word) : M GroupOut := do
  let s ← get
  let cls := EngClass.ofCode (b.litWord .ext 0 b.a).toNat
  if 63 < m.toNat then pure (trapLaneOnly l ⟨.illegalOperand, 0, s.issue.word, false⟩)
  else if (s.agent s.who).counter cls ≤ m.toNat then pure { outs := (s.acting b).map fun l => (l, {}) }
  else waitFor (.cwait cls m.toNat)

theorem exec_cwait (b : Base) (s : State) :
    exec (.cwait b) s = runGroup (formOf (.cwait b)) b false (issuingB (formOf (.cwait b)) b (cwaitAct b)) s := rfl

theorem counterWaitCompletes : Claims.CounterWaitCompletes := fun b s s1 l x _ hc hl hx => by
  intro n cls bad
  have hg := Leaves.unread_readSrc unread_ground _ _ _ hx
  have hwho : s1.who = s.who := State.who_of_ground hg
  have hissue : s1.issue = s.issue := State.issue_of_ground hg
  have hrun := (issuingB_run (act := cwaitAct b) hl hx).trans (M.bind_run (M.get_run s1))
  simp only [ofCode_eq, hwho, hissue] at hrun
  rw [exec_cwait]
  by_cases hn : 63 < n
  · rw [if_pos hn] at hrun ⊢
    refine (runGroup_met hc (ts := [(l, bad)]) hrun).trans ?_
    by_cases hb : (s.agent s.who).bound.isSome = true
    · simp [State.isBound, hb, State.unitTaken, unitTraps]
    · simp [State.isBound, hb, State.unitTaken]
  rw [if_neg hn] at hrun ⊢
  by_cases hle : (s1.agent s.who).counter cls ≤ n
  · rw [if_pos hle] at hrun ⊢
    rw [State.retired_plain rfl s1 b (s.acting b), ← State.retired_plain rfl s1 b (s1.acting b)]
    exact runGroup_completes hc hrun rfl
  · rw [if_neg hle] at hrun ⊢
    exact runGroup_waits hc hrun

/-- Settles O30: each instruction is the model's on what its issuing lane reads; which lanes of a wait just go on makes no difference. -/
theorem phasesAndBarriersComplete : Obligations.PhasesAndBarriersComplete :=
  ⟨fencesAndPhasesComplete, barrierEvents, barriersComplete, barrierMisuses, counterWaitCompletes⟩

end Sys2Proof.Machine

/-! PROOFS. Queue locks, waits and wakes (spec/08 R204 to R207; O31). -/

namespace Sys2Proof.Machine

open Claims

/-! ### QLOCK and QUNLK -/

/-- Bytes that are all zero. -/
theorem all_zero_iff (bs : List Byte) : bs.all (· == 0) = true ↔ bs = List.replicate bs.length 0 := by
  rw [List.eq_replicate_iff]
  simp

/-- A QLOCK at the home slice, by cases. -/
theorem lockAcquire_run (pa : Nat) (who : Waiter) (id : DWord × DWord) (s : State) : lockAcquire pa who id s =
    if s.mem.readN pa 16 = List.replicate 16 0 ∧ (s.locks.any fun e => e.pa == pa) = false then
      .ok (.acquired, s.writeHome pa (lockBytes id))
    else if s.mem.readN pa 16 = lockBytes id then .ok (.owned, s)
    else if s.lockRoom pa then .ok (.queued, { s with locks := s.locks ++ [⟨pa, who, id.1, id.2, !s.lockTabled pa⟩] })
    else .ok (.full, s) := by
  have hfree : ((s.mem.readN pa 16).all (· == 0) && !s.locks.any fun e => e.pa == pa) = true ↔
      s.mem.readN pa 16 = List.replicate 16 0 ∧ (s.locks.any fun e => e.pa == pa) = false := by
    rw [Bool.and_eq_true, all_zero_iff, length_readN, Bool.not_eq_true']
  unfold lockAcquire
  refine (M.bind_run (M.get_run s)).trans ?_
  simp only [hfree, beq_iff_eq]
  split_ifs <;> rfl

theorem qlockCompletes (b : Base) : CompletesLanes (.qlock b) b (fun l => do
    let x ← readSrcs (formOf (.qlock b)) b l
    let s ← get
    if (s.lane s.who l).step = some .granted then pure {}
    else do
      let pa ← lockPlace (globalAt b x)
      let s ← get
      let id := ownerWords s s.who l
      let old := s.mem.readN pa 16
      if (s.locks.any fun e => e.who == .lane s.who l) then pure { stay := some .qlock }
      else if old = List.replicate 16 0 ∧ (s.locks.any fun e => e.pa == pa) = false then do
        set (s.writeHome pa (leBytes 8 id.1.toNat ++ leBytes 8 id.2.toNat))
        pure {}
      else do
        require (old != leBytes 8 id.1.toNat ++ leBytes 8 id.2.toNat) .lockState (globalAt b x)
        if s.lockRoom pa then do
          set ({ s with locks := s.locks ++ [⟨pa, .lane s.who l, id.1, id.2, !s.lockTabled pa⟩] } : State)
          pure { stay := some .qlock }
        else pure { stay := some (.slice pa true) }) := fun s t outs _ hc _ hd => by
  refine runLanes_completes hc (.trans (congrFun (doAll_congr fun l _ => funext fun s => ?_) s) hd)
  refine M.bind_congr_run fun x t1 _ => ?_
  refine (M.bind_run (M.get_run t1)).trans (.trans ?_ (M.bind_run (M.get_run t1)).symm)
  simp only [globalEa_eq, beq_iff_eq]
  split
  · rfl
  refine M.bind_congr_run fun pa u _ => ?_
  refine (M.bind_run (M.get_run u)).trans (.trans ?_ (M.bind_run (M.get_run u)).symm)
  split
  · rfl
  have hacq := lockAcquire_run pa (.lane u.who l) (ownerWords u u.who l) u
  split
  · next hfree =>
    rw [if_pos hfree] at hacq
    exact M.bind_run hacq
  · next hfree =>
    rw [if_neg hfree] at hacq
    by_cases howned : u.mem.readN pa 16 = lockBytes (ownerWords u u.who l)
    · rw [if_pos howned] at hacq
      refine (M.bind_run hacq).trans (M.bind_error ?_).symm
      rw [howned]
      unfold require
      rw [if_neg (by simp [lockBytes, bytesOf])]
      rfl
    · rw [if_neg howned] at hacq
      have hreq : require (u.mem.readN pa 16 != leBytes 8 (ownerWords u u.who l).1.toNat ++ leBytes 8 (ownerWords u u.who l).2.toNat)
          .lockState (globalAt b x) u = .ok ((), u) := (require_ok ..).2 ⟨bne_iff_ne.2 howned, rfl⟩
      refine .trans ?_ (M.bind_run hreq).symm
      split
      · next hroom =>
        rw [if_pos hroom] at hacq
        exact M.bind_run hacq
      · next hroom =>
        rw [if_neg hroom] at hacq
        exact M.bind_run hacq

/-- A QUNLK at the home slice, by cases. -/
theorem lockRelease_run (pa : Nat) (id : DWord × DWord) (s : State) : lockRelease pa id s =
    if s.mem.readN pa 16 = lockBytes id then
      match s.locks.find? fun e => e.pa == pa with
      | some e =>
        let t := s.writeHome pa (lockBytes (e.word0, e.word1))
        .ok (true, State.grantWaiter { t with locks := t.locks.erase e } e.who)
      | none => .ok (true, s.writeHome pa (List.replicate 16 0))
    else .ok (false, s) := by
  unfold lockRelease
  refine (M.bind_run (M.get_run s)).trans ?_
  by_cases h : s.mem.readN pa 16 = lockBytes id
  · rw [if_pos h, if_neg (by simpa using h)]
    cases s.locks.find? fun e => e.pa == pa <;> rfl
  · rw [if_neg h, if_pos (by simpa using h)]
    rfl

theorem qunlkCompletes (b : Base) : CompletesLanes (.qunlk b) b (fun l => do
    let x ← readSrcs (formOf (.qunlk b)) b l
    let pa ← lockPlace (globalAt b x)
    modify fun s => s.drainAll s.who
    let s ← get
    let id := ownerWords s s.who l
    require (s.mem.readN pa 16 == leBytes 8 id.1.toNat ++ leBytes 8 id.2.toNat) .lockState (globalAt b x)
    match s.locks.find? fun e => e.pa == pa with
    | some e => do
      let t := s.writeHome pa (leBytes 8 e.word0.toNat ++ leBytes 8 e.word1.toNat)
      set (State.grantWaiter { t with locks := t.locks.erase e } e.who)
      pure {}
    | none => do
      set (s.writeHome pa (List.replicate 16 0))
      pure {}) := fun s t outs _ hc _ hd => by
  refine runLanes_completes hc (.trans (congrFun (doAll_congr fun l _ => funext fun s => ?_) s) hd)
  refine M.bind_congr_run fun x t1 _ => ?_
  simp only [globalEa_eq]
  refine M.bind_congr_run fun pa t2 _ => M.bind_congr_run fun _ u _ => ?_
  refine (M.bind_run (M.get_run u)).trans (.trans ?_ (M.bind_run (M.get_run u)).symm)
  have hrel := lockRelease_run pa (ownerWords u u.who l) u
  by_cases howned : u.mem.readN pa 16 = lockBytes (ownerWords u u.who l)
  · rw [if_pos howned] at hrel
    have hreq : require (u.mem.readN pa 16 == leBytes 8 (ownerWords u u.who l).1.toNat ++ leBytes 8 (ownerWords u u.who l).2.toNat)
        .lockState (globalAt b x) u = .ok ((), u) := (require_ok ..).2 ⟨beq_iff_eq.2 howned, rfl⟩
    refine .trans ?_ (M.bind_run hreq).symm
    cases hfind : u.locks.find? fun e => e.pa == pa with
    | some e =>
      rw [hfind] at hrel
      exact (M.bind_run hrel).trans (M.bind_run ((require_ok ..).2 ⟨rfl, rfl⟩))
    | none =>
      rw [hfind] at hrel
      exact (M.bind_run hrel).trans (M.bind_run ((require_ok ..).2 ⟨rfl, rfl⟩))
  · rw [if_neg howned] at hrel
    refine (M.bind_run hrel).trans (.trans (M.bind_error (e := .trap ⟨.lockState, 0, globalAt b x, false⟩) rfl) (M.bind_error ?_).symm)
    unfold require
    rw [if_neg (by rw [beq_iff_eq]; exact howned)]
    rfl

/-! ### WWAIT and WWAKE -/

theorem leNat_lt : ∀ bs : List Byte, leNat bs < 256 ^ bs.length
  | [] => Nat.one_pos
  | x :: bs => by
    have ih := leNat_lt bs
    have hx := x.isLt
    rw [leNat, List.length_cons, Nat.pow_succ]
    omega

/-- The bits of a type hold its bytes. -/
theorem pow_bytes_le (t : Ty) : 256 ^ (t.bits / 8) ≤ 2 ^ t.bits := by
  rw [show (256 : Nat) = 2 ^ 8 from rfl, ← Nat.pow_mul]
  exact Nat.pow_le_pow_right (by decide) (Nat.mul_div_le ..)

/-- The word of a WWAIT is the one expected, in the bits of its type. -/
theorem dwordOf_eq_masked {t : Ty} {bs : List Byte} (h : bs.length = t.bits / 8) (c : DWord) :
    dwordOf bs = c &&& BitVec.ofNat 64 (2 ^ t.bits - 1) ↔ BitVec.ofNat t.bits (leNat bs) = low t c := by
  have hlt : leNat bs < 2 ^ t.bits := (leNat_lt bs).trans_le (h ▸ pow_bytes_le t)
  have hbits : 2 ^ t.bits ≤ 2 ^ 64 := Nat.pow_le_pow_right (by decide) t.bits_le
  have hpos : 0 < 2 ^ t.bits := Nat.two_pow_pos _
  have hmask : (c &&& BitVec.ofNat 64 (2 ^ t.bits - 1)).toNat = c.toNat % 2 ^ t.bits := by
    rw [BitVec.toNat_and, BitVec.toNat_ofNat, Nat.mod_eq_of_lt (by omega), Nat.and_two_pow_sub_one_eq_mod]
  rw [← BitVec.toNat_inj, ← BitVec.toNat_inj, hmask, dwordOf, low, BitVec.toNat_ofNat, BitVec.toNat_ofNat, BitVec.toNat_setWidth,
    Nat.mod_eq_of_lt hlt, Nat.mod_eq_of_lt (hlt.trans_le hbits)]

theorem length_homeRead {va : DWord} {pa n : Nat} {s t : State} {bs : List Byte} (h : homeRead va pa n s = .ok (bs, t)) : bs.length = n := by
  obtain ⟨_, s1, -, h⟩ := (M.bind_ok ..).1 h
  obtain ⟨_, s2, -, h⟩ := (M.bind_ok ..).1 h
  obtain ⟨_, s3, -, h⟩ := (M.bind_ok ..).1 h
  cases h
  exact length_readN ..

theorem length_farRead {k : Nat} {va : DWord} {pa n : Nat} {s t : State} {bs : List Byte} (h : farRead k va pa n s = .ok (bs, t)) :
    bs.length = n := by
  obtain ⟨_, s1, -, h⟩ := (M.bind_ok ..).1 h
  exact length_homeRead h

theorem wwaitLane_run (b : Base) (l : Nat) : (do
    let x ← readSrcs (formOf (.wwait b)) b l
    let va := globalAt b x
    require (va.toNat % elemSize b == 0) .misaligned va
    let s ← get
    let ph ← translate s.who s.mode va .load
    let bs ← farRead s.who va ph.pa (elemSize b)
    let t ← get
    if (t.lane s.who l).step = some .woken ∨ BitVec.ofNat b.ty.bits (leNat bs) ≠ low b.ty x.c then do
      set (t.withdraw s.who l)
      pure { writes := regWrites b l b.dst.toNat b.ty.is64 (wide b.ty (BitVec.ofNat b.ty.bits (leNat bs))) }
    else do
      if (t.waits.any fun e => e.who == .lane s.who l) then pure { stay := some .wwait }
      else if t.armRoom (sliceOf ph.pa) then do
        set (t.arm (t.partOf s.who) t.asid va (sliceOf ph.pa) (.lane s.who l))
        pure { stay := some .wwait }
      else pure { stay := some (.slice ph.pa false) } : M LaneOut) = wwaitLane (formOf (.wwait b)) b l := funext fun s => by
  unfold wwaitLane
  refine M.bind_congr_run fun x t1 _ => ?_
  simp only [globalEa_eq]
  refine M.bind_congr_run fun _ u _ => ?_
  refine (M.bind_run (M.get_run u)).trans (.trans ?_ (M.bind_run (M.get_run u)).symm)
  refine M.bind_congr_run fun ph v _ => M.bind_congr_run fun bs w hbs => ?_
  refine (M.bind_run (M.get_run w)).trans (.trans ?_ (M.bind_run (M.get_run w)).symm)
  simp only [Bool.or_eq_true, beq_iff_eq, bne_iff_ne, dstWrites_dwordOf, Ne, dwordOf_eq_masked (length_farRead hbs)]
  split
  · rfl
  · split
    · rfl
    · split <;> rfl

/-- The other acting lanes, asleep with the one that acts for them (08 R188). -/
def matesOf (ls : List Nat) (e : Nat × LaneOut) : List (Nat × LaneOut) :=
  (ls.filter (· != e.1)).map fun j => (j, { stay := some (.mate e.1) })

theorem wwaitCompletes {b : Base} {s t : State} {outs : List (Nat × LaneOut)} (hc : s.Clear (formOf (.wwait b)) b)
    (h : doAll (s.doers b) (wwaitLane (formOf (.wwait b)) b) s = .ok (outs, t)) :
    exec (.wwait b) s = .next (t.retired (formOf (.wwait b)) b
      { outs := outs.flatMap fun e => e :: if b.dk = .scl ∧ e.2.stay.isSome = true then matesOf (s.acting b) e else [] }) := by
  refine runGroup_completes hc ((M.bind_run (M.get_run s)).trans ((M.bind_run (accessLanes_of_doAll h)).trans ?_)) rfl
  cases hk : b.dk with
  | vec => simp
  | scl =>
    rw [State.doers_scl hk] at h
    rcases doAll_head h with ⟨-, rfl, rfl⟩ | ⟨l, o, -, rfl, -⟩
    · rfl
    · cases ho : o.stay <;> simp [GroupOut.withMates, matesOf, ho]

theorem wwakeCompletes (b : Base) : CompletesLanes (.wwake b) b (fun l => do
    let x ← readSrcs (formOf (.wwake b)) b l
    let va := globalAt b x
    require (va.toNat % elemSize b == 0) .misaligned va
    let s ← get
    let ph ← translate s.who s.mode va .load
    modify fun t => (t.drainAll s.who).wake (sliceOf ph.pa) (t.partOf s.who) t.asid va (x.c.setWidth 32 : Word).toNat
    pure { hold := some .held }) := fun s t outs _ hc _ hd => by
  refine runLanes_completes hc (.trans (congrFun (doAll_congr fun l _ => funext fun s => ?_) s) hd)
  refine M.bind_congr_run fun x t1 _ => ?_
  simp only [globalEa_eq]
  rfl

/-- Settles O31: each lane's effect is the model's, case by case at the home slice. -/
theorem locksAndWaitsComplete : Obligations.LocksAndWaitsComplete :=
  ⟨fun b => ⟨qlockCompletes b, qunlkCompletes b⟩,
    fun b => ⟨fun _ _ _ _ hc h => wwaitCompletes hc ((congrFun (doAll_congr fun l _ => (wwaitLane_run b l).symm) _).trans h),
      wwakeCompletes b⟩⟩

end Sys2Proof.Machine

/-! PROOFS. The copy engine (spec/04 R84 to R93, spec/08 R208; O32). -/

namespace Sys2Proof.Machine

open Claims

/-! ### CPY -/

theorem hiWord_eq_zero (x : DWord) : hiWord x = 0 ↔ x.toNat < 2 ^ 32 := by
  have hx := x.isLt
  rw [← BitVec.toNat_inj, hiWord, BitVec.toNat_setWidth, BitVec.toNat_ushiftRight, Nat.shiftRight_eq_div_pow]
  change x.toNat / 2 ^ 32 % 2 ^ 32 = 0 ↔ _
  omega

/-- A base address past 32 bits, in a space of 32 bits. -/
theorem wideBase_eq (space : Nat) (base : DWord) :
    (space != 0 && decide (base.toNat ≥ 2 ^ 32)) = (space != 0 && hiWord base != 0) := by
  have h : decide (base.toNat ≥ 2 ^ 32) = (hiWord base != 0) := by
    rw [Bool.eq_iff_iff, decide_eq_true_eq, bne_iff_ne, Ne, hiWord_eq_zero]
    omega
  rw [h]

theorem Leaves.liftCheck {α γ : Type} {part : State → γ} {x : Except Trap α} : Leaves part (liftCheck x) := by
  unfold Machine.liftCheck
  split
  · exact pure
  · exact abort

theorem Leaves.spadTouch {γ : Type} {part : State → γ} {addr : Word} {n : Nat} {dest : Bool} : Leaves part (spadTouch addr n dest) :=
  get_bind fun _ => bind liftCheck fun _ => pure

theorem Leaves.copyRecord_ground {b : Base} {l : Nat} {ra : Word} : Leaves State.ground (copyRecord b l ra) := by
  refine get_bind fun s => bind require fun _ => ite ?_ ?_
  · exact bind require fun _ => bind (collect fun _ => unread_constRead unread_ground) fun _ => pure
  · exact bind spadTouch fun _ => spadRead

theorem roomFor_eq (c : EngClass) (s : State) :
    roomFor c s = (if (s.agent s.who).counter c < 63 then pure () else waitFor (.counter c) : M Unit) s := by
  unfold roomFor counterLimit
  refine (M.bind_run (M.get_run s)).trans ?_
  by_cases h : (s.agent s.who).counter c < 63
  · rw [if_pos h, if_neg (by omega)]
  · rw [if_neg h, if_pos (by omega)]

theorem cpyCompletes (b : Base) : CompletesOnce (.cpy b) b (fun l => do
    let x ← readSrcs (formOf (.cpy b)) b l
    let s ← get
    if (s.agent s.who).counter .cpy < 63 then pure () else waitFor (.counter .cpy)
    if (s.core (coreOf s.who)).copies.length < 40 then pure () else waitFor .copyFull
    let bs ← copyRecord b l (x.c.setWidth 32)
    let wide := fun (space : Nat) (base : DWord) => space != 0 && decide (base.toNat ≥ 2 ^ 32)
    match parseTraverse bs with
    | none => raise .reservedField (x.c.setWidth 32 |>.setWidth 64)
    | some t => do
      require (!wide t.ssp x.a && !wide t.dsp x.b) .illegalOperand s.issue.word
      require (decide (t.total * t.esz < 2 ^ 32)) .illegalOperand s.issue.word
      let e : Copy := ⟨0, s.who, l, t, x.a, x.b, (b.e2.extractLsb' 0 5).toNat, 0, false, s.mode, []⟩
      modify fun s =>
        let c := counted s .cpy l
        let y := c.core (coreOf s.who)
        c.setCore (coreOf s.who) { y with copies := y.copies ++ [{ e with uid := s.uid }] }
      pure {}) := fun s t l o _ hc hl hd => by
  refine runOnce_completes hc hl (.trans ?_ hd)
  refine M.bind_congr_run fun x t1 _ => ?_
  refine (M.bind_run (M.get_run t1)).trans (.trans ?_ (M.bind_run (M.get_run t1)).symm)
  by_cases hroom : (t1.agent t1.who).counter .cpy < 63
  swap
  · rw [if_neg hroom]
    have h := roomFor_eq .cpy t1
    rw [if_neg hroom] at h
    exact M.bind_error h
  rw [if_pos hroom]
  refine (M.bind_run (roomFor_run hroom)).trans ?_
  by_cases hplace : (t1.core (coreOf t1.who)).copies.length < 40
  swap
  · rw [if_neg hplace, if_pos (show copyPlaces ≤ _ from Nat.le_of_not_lt hplace)]
    rfl
  rw [if_pos hplace, if_neg (show ¬copyPlaces ≤ _ from Nat.not_le_of_lt hplace)]
  refine M.bind_congr_run fun bs u hbs => ?_
  have hwho : u.who = t1.who := State.who_of_ground (Leaves.copyRecord_ground _ _ _ hbs)
  cases parseTraverse bs with
  | none => rfl
  | some w =>
    dsimp only
    rw [wideBase_eq, wideBase_eq, Bool.not_or]
    refine M.bind_congr_run fun _ v hv => ?_
    obtain ⟨-, rfl⟩ := (require_ok ..).1 hv
    refine M.bind_congr_run fun _ v hv => ?_
    obtain ⟨-, rfl⟩ := (require_ok ..).1 hv
    have hcount := countOp_run .cpy l v
    rw [hwho] at hcount
    refine (M.bind_run hcount).trans ?_
    rw [← hwho]
    rfl

/-! ### The engines -/

theorem walkOffset_eq : ∀ (is : List Nat) (ds : List Int), walkOffset is ds = (List.zipWith (fun (i : Nat) (d : Int) => i * d) is ds).sum
  | [], _ => by simp [walkOffset]
  | _ :: _, [] => by simp [walkOffset]
  | i :: is, d :: ds => by simp [walkOffset, walkOffset_eq is ds]

theorem runEvent_ok {k : Nat} {m : M Unit} {s t : State} (h : m s = .ok ((), t)) : runEvent k m s = .next t := by
  unfold runEvent
  rw [h]

theorem copyProgresses (c uid : Nat) (e : Copy) : Performs (.copyProgress c uid)
    (fun s => ((s.core c).copies.take 8).find? (fun e => e.uid == uid) = some e ∧ (s.partyOf e.agent).halted = false)
    (moveElements c uid (min 16 (64 / e.trav.esz))) := fun s s1 ⟨hfind, hhalt⟩ h => by
  show execCopyProgress c uid s = _
  unfold execCopyProgress
  rw [hfind]
  dsimp only
  rw [hhalt, if_neg Bool.false_ne_true]
  exact runEvent_ok h

theorem moveElement_run {e : Copy} {bs : List Byte} {s s1 s2 : State}
    (hread : readElement e (elementAddr e.trav.ssp e.sbase
      (List.zipWith (fun (i : Nat) (d : Int) => i * d) (elemIndices e.trav.counts e.next) e.trav.sstr).sum) s = .ok (bs, s1))
    (hwrite : writeElement e (elementAddr e.trav.dsp e.dbase
      (List.zipWith (fun (i : Nat) (d : Int) => i * d) (elemIndices e.trav.counts e.next) e.trav.dstr).sum) bs s1 = .ok ((), s2)) :
    moveElement e s = .ok ((), s2) := by
  rw [← walkOffset_eq] at hread hwrite
  exact (M.bind_run hread).trans hwrite

section

variable {k uid : Nat} {s : State} (hhalt : (s.partyOf k).halted = false)
include hhalt

theorem completeOp_far (hfar : ((s.agent k).far.any fun o => o.uid == uid) = true) :
    completeOp k uid s = .next (s.drainFar k fun o => o.uid == uid) := by
  unfold completeOp
  dsimp only
  rw [hhalt, hfar]
  rfl

theorem completeOp_copy {e : Copy} {t : State} (hfar : ((s.agent k).far.any fun o => o.uid == uid) = false)
    (hflights : (s.agent k).flights.any (fun f => f.uid == uid && f.known) = false)
    (hfind : (s.core (coreOf k)).copies.find? (fun (e : Copy) => e.uid == uid) = some e) (h : landCopy e s = .ok ((), t)) :
    completeOp k uid s = .next t := by
  unfold completeOp
  dsimp only
  rw [hhalt, hfar, hflights, hfind]
  exact runEvent_ok h

end

/-- An event that carries an operation to its end, where it names it. -/
theorem ends_of_completeOp {i : Instr} {k uid : Nat} {ok : State → Prop} (hexec : ∀ s, ok s → exec i s = completeOp k uid s) :
    EventGives i (fun s => ok s ∧ (s.partyOf k).halted = false ∧ ((s.agent k).far.any fun o => o.uid == uid) = true)
      (fun s => s.drainFar k fun o => o.uid == uid) ∧
    ∀ e, Performs i (fun s => ok s ∧ (s.partyOf k).halted = false ∧ ((s.agent k).far.any fun o => o.uid == uid) = false ∧
      (s.agent k).flights.any (fun f => f.uid == uid && f.known) = false ∧
      (s.core (coreOf k)).copies.find? (fun (e : Copy) => e.uid == uid) = some e) (landCopy e) :=
  ⟨fun s ⟨hok, hhalt, hfar⟩ => (hexec s hok).trans (completeOp_far hhalt hfar),
    fun _ s _ ⟨hok, hhalt, hfar, hflights, hfind⟩ h => (hexec s hok).trans (completeOp_copy hhalt hfar hflights hfind h)⟩

theorem enginesProgress : Claims.EnginesProgress := by
  refine ⟨copyProgresses, fun _ _ _ _ _ => moveElement_run, fun uid k => ends_of_completeOp fun s hown => ?_,
    fun k cls o => ends_of_completeOp fun s hfind => ?_⟩
  · show execTransferLands uid s = _
    unfold execTransferLands
    rw [hown]
  · show execOutstandingComplete k cls s = _
    unfold execOutstandingComplete
    rw [hfind]

/-! ### The order of elements -/

theorem elementOrder : Claims.ElementOrder := fun c cs e hc => by
  have hstep : elemIndices (c :: cs) (e + 1) = (e + 1) % c :: elemIndices cs ((e + 1) / c) := by
    simp [elemIndices, Nat.pos_iff_ne_zero.1 hc]
  have he := Nat.mod_add_div e c
  rw [hstep]
  split
  · next hlt =>
    have hdiv : (e + 1) / c = e / c := by
      rw [show e + 1 = (e % c + 1) + c * (e / c) by omega, Nat.add_mul_div_left _ _ hc, Nat.div_eq_of_lt hlt, Nat.zero_add]
    have hmod : (e + 1) % c = e % c + 1 := by
      rw [show e + 1 = (e % c + 1) + c * (e / c) by omega, Nat.add_mul_mod_self_left, Nat.mod_eq_of_lt hlt]
    rw [hdiv, hmod]
  · next hge =>
    have hlt := Nat.mod_lt e hc
    have hwrap : e + 1 = c * (e / c + 1) := by
      rw [Nat.mul_add, Nat.mul_one]
      omega
    rw [hwrap, Nat.mul_mod_right, Nat.mul_div_cancel_left _ hc]

/-- Settles O32: issue, progress and completion are the model's, whose offsets are sums of index times stride. -/
theorem copiesComplete : Obligations.CopiesComplete := ⟨cpyCompletes, enginesProgress, elementOrder⟩

end Sys2Proof.Machine

/-! PROOFS. The frame of a phased store fails where a translation parts a datum between two lines of L1 (spec/03 R46, spec/08 R189; O60). -/

namespace Sys2Proof.Machine

open Claims

/-! ### The lines of L1 -/

theorem length_eraseDups_le {α : Type} [BEq α] [LawfulBEq α] (xs : List α) : xs.eraseDups.length ≤ xs.length :=
  ((nodup_eraseDups xs).subperm fun _ => List.mem_eraseDups.1).length_le

theorem length_eraseDups_of_nodup {α : Type} [BEq α] [LawfulBEq α] {xs : List α} (h : xs.Nodup) : xs.eraseDups.length = xs.length :=
  (length_eraseDups_le xs).antisymm (h.subperm fun _ => List.mem_eraseDups.2).length_le

/-- The lines of a core's clean and dirty bytes, one for each entry. -/
def Core.heldLines (x : Core) : List Nat := x.clean.map (·.1) ++ x.dirty.map (·.1 / 128)

theorem State.lines_of_parties {s : State} {c : Nat} (h : s.parties = []) : s.lines c = (s.core c).heldLines.eraseDups := by
  simp [State.lines, State.markedLines, State.coreParties, h, Core.heldLines]

/-- L1 takes a line in without an eviction where none is due and it has room. -/
theorem takeLineIn_of_room {va : DWord} {c line : Nat} {s : State} (hev : s.evicts = [])
    (hroom : (s.lines c).length < (s.core c).lineRoom) : takeLineIn va c line s = .ok ((), s) := by
  have hs : { s with evicts := [] } = s := by rw [← hev]
  unfold takeLineIn
  simp only [bind, StateT.bind, Except.bind, M.get_run, M.modify_run, hev, List.filter_nil, hs, forEach, M.pure_run, hroom, decide_true,
    Bool.or_true, if_true]

/-- A line leaves a core's L1: its dirty bytes are published. -/
def State.evicted (s : State) (c line : Nat) : State :=
  let s := s.publish c fun a => a / 128 == line
  s.setCore c { s.core c with clean := Sparse.drop (s.core c).clean line }

theorem forEach_nothing {α : Type} {f : α → M Unit} {s : State} : ∀ {xs : List α}, (∀ x ∈ xs, f x s = .ok ((), s)) →
    forEach xs f s = .ok ((), s)
  | [], _ => rfl
  | x :: _, h => (M.bind_run (h x List.mem_cons_self)).trans (forEach_nothing fun y hy => h y (List.mem_cons_of_mem _ hy))

/-- Where no party has read of it, an eviction writes no spill entry. -/
theorem evictLine_of_parties {va : DWord} {c line : Nat} {s : State} (h : s.parties = []) :
    evictLine va c line s = .ok ((), s.evicted c line) := by
  unfold evictLine
  rw [M.bind_run (M.get_run s)]
  simp only [State.coreParties, h, List.filter_nil, List.map_nil, List.foldl_nil]
  rw [M.bind_run (forEach_nothing fun _ _ => rfl)]
  rfl

/-- A full L1 takes in a line that it does not hold for the one that it evicts. -/
theorem takeLineIn_of_full {va : DWord} {c line v : Nat} {s : State} (hev : s.evicts = []) (hp : s.parties = [])
    (hdup : (s.core c).heldLines.Nodup) (hnew : line ∉ (s.core c).heldLines) (hfull : (s.core c).lineRoom ≤ (s.core c).heldLines.length)
    (hv : s.victim c = some v) : takeLineIn va c line s = .ok ((), s.evicted c v) := by
  have hs : { s with evicts := [] } = s := by rw [← hev]
  have hin : (s.lines c).contains line = false := by
    rw [State.lines_of_parties hp, ← Bool.not_eq_true, List.contains_iff_mem, List.mem_eraseDups]; exact hnew
  have hlen : ¬(s.lines c).length < (s.core c).lineRoom := by
    rw [State.lines_of_parties hp, length_eraseDups_of_nodup hdup]; exact Nat.not_lt.2 hfull
  unfold takeLineIn
  simp only [bind, StateT.bind, Except.bind, M.get_run, M.modify_run, hev, List.filter_nil, hs, forEach, M.pure_run, hin, hlen, decide_false,
    Bool.or_false, Bool.false_eq_true, if_false, hv, evictLine_of_parties hp]

/-! ### A phased store, step by step -/

theorem doAll_cons_run {l : Nat} {ls : List Nat} {act : Nat → M LaneOut} {s s1 t : State} {o : LaneOut} {outs : List (Nat × LaneOut)}
    (h : act l s = .ok (o, s1)) (hs : doAll ls act s1 = .ok (outs, t)) : doAll (l :: ls) act s = .ok ((l, o) :: outs, t) :=
  (M.bind_run (M.bind_run h)).trans (M.bind_run hs)

theorem length_put_le {α : Type} (k : Nat) (v : α) : ∀ d : Sparse α, (Sparse.put d k v).length ≤ d.length + 1
  | [] => Nat.le_refl _
  | (j, w) :: d => by
    have := length_put_le k v d
    unfold Sparse.put
    split_ifs <;> simp; omega

/-- A translation that the data TLB holds, of a dirty page, is used at once. -/
theorem translate_of_reaches {s : State} {va : DWord} {acc : Access} {ph : Phys} (h : Reaches s va acc ph) (hacc : acc ≠ .fetch) :
    translate s.who s.mode va acc s = .ok (ph, s) := by
  obtain ⟨hcan, -, e, hlook, hdirty, huse⟩ := h
  unfold translate
  simp only [hcan, Bool.not_true, Bool.false_eq_true, if_false, if_neg hacc, hlook]
  unfold useTlb
  rw [M.bind_run huse]
  simp only [hdirty, Bool.or_true, if_true]
  rfl

/-- Outside the deterministic modes a store is in no signature. -/
theorem noteStore_of_detOf {k : Nat} {va : DWord} {bs : List Byte} {s : State} (h : s.detOf k = none) :
    noteStore k va bs s = .ok ((), s) := by
  unfold noteStore
  rw [M.modify_run, h]
  split <;> simp_all

/-- A store to an ordinary page that the data TLB holds makes its bytes dirty once L1 has taken in the line of the first of them. -/
theorem storeBytes_of_reaches {s t : State} {va : DWord} {ph : Phys} {bs : List Byte} (hreach : Reaches s va .store ph)
    (hao : ph.ao = false) (hpriv : s.isPrivate s.who = false) (htake : takeLineIn va (coreOf s.who) (ph.pa / 128) s = .ok ((), t))
    (hdet : ((t.phasedWrite s.who ph.pa bs).unsee (coreOf s.who) (ph.pa / 128)).detOf s.who = none) :
    storeBytes s.who s.mode va bs s = .ok (false, (t.phasedWrite s.who ph.pa bs).unsee (coreOf s.who) (ph.pa / 128)) := by
  unfold storeBytes
  rw [M.bind_run (M.get_run s)]
  simp only [hpriv, Bool.false_eq_true, if_false]
  rw [M.bind_run (translate_of_reaches hreach nofun)]
  simp only [hao, Bool.false_eq_true, if_false]
  rw [M.bind_run htake, M.bind_run (M.modify_run _ _), M.bind_run (noteStore_of_detOf hdet)]
  rfl

/-! ### Seventeen stores that part between two lines -/

/-- ST.i16 of s10 at the bytes that each lane's v0 gives, from (s8, s9) on. -/
def straddleBase : Base := { noOperands with fn := 0, ty := .i16, a := ⟨.scl, 8⟩, b := ⟨.vec, 0⟩, c := ⟨.scl, 10⟩ }

/-- A translation to a physical base that is not aligned: no walk makes one. -/
def straddleEntry : TlbEntry :=
  { part := 0, asid := 0, va := 0, size := 65536, pa := 127, bits := 0xB6, bits2 := 0xFFF, pte := 0, pte2 := none, ipa := none,
    entry := 0, entry2 := 0, range2 := none, size1 := 65536 }

/-- A rope of seventeen lanes, 256 bytes apart. -/
def straddleAgent : Agent :=
  { Agent.absent with
    lanes := List.replicate 17 (Lane.start 0x11000), vregs := (List.range 17).map fun l => (l, BitVec.ofNat 32 (256 * l)),
    sregs := List.replicate 64 0, flags := List.replicate 12 0 }

/-- A core whose L1 has room for 512 lines and holds 480 clean ones, and some dirty bytes. -/
def straddleCore (d : Sparse DirtyByte) : Core :=
  { Core.reset with
    spadCur := 7, dtlb := ⟨[straddleEntry], []⟩, dirty := d, clean := (List.range 480).map fun i => (1000 + i, ⟨[], 0, 0⟩) }

/-- The rope issues the store in all its lanes. -/
def straddleState (d : Sparse DirtyByte) : State :=
  { (State.reset.setAgent 0 straddleAgent).setCore 0 (straddleCore d) with issue := ⟨0, 0x1FFFF, 0x11000, 8, 0⟩ }

/-- The dirty bytes after a lane's store, of 0, to the last byte of a line and the first of the next. -/
def straddled (d : Sparse DirtyByte) (l : Nat) : Sparse DirtyByte :=
  Sparse.put (Sparse.put d (127 + 256 * l) ⟨0, 0, false⟩) (127 + 256 * l + 1) ⟨0, 0, false⟩

/-- The form of the store. -/
abbrev straddleForm : Form := formOf (.st straddleBase)

/-- The operands of a lane's store. -/
def straddleOperands (l : Nat) : Operands := ⟨joinWords 0 0, BitVec.ofNat 64 (256 * l), 0⟩

/-- The address of a lane's store. -/
def straddleVa (l : Nat) : DWord := BitVec.ofNat 64 (256 * l)

theorem readSrcs_straddle {d : Sparse DirtyByte} {l : Nat} (hl : l < 17) :
    readSrcs straddleForm straddleBase l (straddleState d) = .ok (straddleOperands l, straddleState d) := by
  interval_cases l <;> rfl

theorem globalEa_straddle : ∀ l < 17, globalEa straddleBase (straddleOperands l) = straddleVa l := by decide +kernel

theorem useEntry_straddle {d : Sparse DirtyByte} {l : Nat} (hl : l < 17) :
    useEntry false straddleEntry .u .store (straddleVa l) (straddleState d) = .ok (⟨127 + 256 * l, false⟩, straddleState d) := by
  interval_cases l <;> rfl

theorem coreOf_straddle (d : Sparse DirtyByte) : coreOf (straddleState d).who = 0 := show coreOf 0 = 0 by decide

theorem core_straddle (d : Sparse DirtyByte) : (straddleState d).core 0 = straddleCore d := rfl

theorem issued_straddle (d : Sparse DirtyByte) : (straddleState d).issued = List.range 17 :=
  show lanesOf 0x1FFFF = List.range 17 by decide +kernel

theorem mode_straddle (d : Sparse DirtyByte) : (straddleState d).mode = .u := by
  rw [State.mode, issued_straddle]
  rfl

theorem lookup_straddle {d : Sparse DirtyByte} {l : Nat} (hl : l < 17) :
    (straddleState d).lookup (straddleCore d).dtlb ((straddleState d).space 0 0 .u) (va55 (straddleVa l)) = some straddleEntry := by
  have hhit : ∀ l < 17, straddleEntry.hits 0 0 false (va55 (straddleVa l)) = true := by decide +kernel
  have hbank : (straddleState d).bank 0 0 = Bank.reset 0 := rfl
  have hspace : (straddleState d).space 0 0 .u = ⟨0, 0, 0, none⟩ := by
    have hpart : (straddleState d).part 0 = Partition.reset := rfl
    rw [State.space, hbank, hpart]
    decide +kernel
  rw [hspace]
  show [straddleEntry].find? (fun e => e.hits 0 0 false (va55 (straddleVa l))) = some straddleEntry
  simp [hhit l hl]

theorem reaches_straddle {d : Sparse DirtyByte} {l : Nat} (hl : l < 17) :
    Reaches (straddleState d) (straddleVa l) .store ⟨127 + 256 * l, false⟩ := by
  have hcan : ∀ l < 17, canonical (straddleVa l) = true := by decide +kernel
  unfold Reaches
  dsimp only
  rw [coreOf_straddle, core_straddle, mode_straddle]
  exact ⟨hcan l hl, rfl, straddleEntry, lookup_straddle hl, rfl, useEntry_straddle hl⟩

theorem straddleCore_lineRoom (d : Sparse DirtyByte) : (straddleCore d).lineRoom = 512 := by simp [Core.lineRoom, straddleCore]

theorem length_heldLines_straddle (d : Sparse DirtyByte) : (straddleCore d).heldLines.length = 480 + d.length := by
  simp [Core.heldLines, straddleCore]

theorem length_lines_straddle (d : Sparse DirtyByte) : ((straddleState d).lines 0).length ≤ 480 + d.length := by
  rw [State.lines_of_parties rfl, core_straddle, ← length_heldLines_straddle]
  exact length_eraseDups_le _

theorem length_straddled_le (d : Sparse DirtyByte) (l : Nat) : (straddled d l).length ≤ d.length + 2 :=
  (length_put_le _ _ _).trans (Nat.succ_le_succ (length_put_le _ _ d))

theorem phasedWrite_straddle (d : Sparse DirtyByte) (pa : Nat) : (straddleState d).phasedWrite 0 pa [0, 0] =
    straddleState (Sparse.put (Sparse.put d pa ⟨0, 0, false⟩) (pa + 1) ⟨0, 0, false⟩) := by
  rfl

/-- A lane's store by what L1 does to take in its line. -/
theorem storeBytes_of_takeLineIn {d : Sparse DirtyByte} {l : Nat} {t : State} (hl : l < 17)
    (htake : takeLineIn (straddleVa l) 0 ((127 + 256 * l) / 128) (straddleState d) = .ok ((), t))
    (hdet : ((t.phasedWrite 0 (127 + 256 * l) [0, 0]).unsee 0 ((127 + 256 * l) / 128)).detOf 0 = none) :
    storeBytes 0 .u (straddleVa l) [0, 0] (straddleState d) =
      .ok (false, (t.phasedWrite 0 (127 + 256 * l) [0, 0]).unsee 0 ((127 + 256 * l) / 128)) := by
  have h := storeBytes_of_reaches (bs := [0, 0]) (t := t) (reaches_straddle (d := d) hl) rfl rfl
  rw [coreOf_straddle, mode_straddle] at h
  exact h htake hdet

theorem storeBytes_straddle {d : Sparse DirtyByte} {l : Nat} (hl : l < 17) (hd : d.length < 32) :
    storeBytes 0 .u (straddleVa l) [0, 0] (straddleState d) = .ok (false, straddleState (straddled d l)) := by
  have hroom : ((straddleState d).lines 0).length < ((straddleState d).core 0).lineRoom := by
    rw [core_straddle, straddleCore_lineRoom]
    exact (length_lines_straddle d).trans_lt (by omega)
  have hdirty : ((straddleState d).phasedWrite 0 (127 + 256 * l) [0, 0]).unsee 0 ((127 + 256 * l) / 128) =
      straddleState (straddled d l) := by
    rw [phasedWrite_straddle]
    rfl
  exact hdirty ▸ storeBytes_of_takeLineIn hl (takeLineIn_of_room rfl hroom) (hdirty ▸ rfl)

theorem storeData_straddle (s : State) (l : Nat) : storeData straddleBase s l (straddleOperands l) = [0, 0] := by
  have hcount : (straddleBase.vecCount == 1) = true := by decide +kernel
  rw [storeData, if_pos hcount]
  show bytesOf (elemBytes straddleBase) 0 = [0, 0]
  decide +kernel

/-- What a lane's store answers. -/
def straddleOut (l : Nat) : LaneOut := { touch := [((straddleVa l).toNat, 2)] }

theorem aligned_straddle : ∀ l < 17, (straddleVa l).toNat % accessSize straddleBase = 0 := by decide +kernel

theorem storeLane_straddle {d : Sparse DirtyByte} {l : Nat} {t : State} (hl : l < 17)
    (h : storeBytes 0 .u (straddleVa l) [0, 0] (straddleState d) = .ok (false, t)) :
    storeLane straddleForm straddleBase l (globalEa straddleBase) phasedStore (straddleState d) = .ok (straddleOut l, t) := by
  have hal : checkAlign (straddleVa l) (memBytes straddleBase) (straddleState d) = .ok ((), straddleState d) :=
    (require_ok ..).2 ⟨beq_iff_eq.2 (aligned_straddle l hl), rfl⟩
  have hst : phasedStore (straddleVa l) [0, 0] (straddleState d) = .ok (false, t) := by
    rw [phasedStore_run, mode_straddle]
    exact h
  unfold storeLane
  rw [M.bind_run (readSrcs_straddle hl), globalEa_straddle l hl, M.bind_run hal, M.bind_run (M.get_run _), storeData_straddle,
    M.bind_run hst]
  rfl

/-- One lane's store, as ST makes it. -/
abbrev straddleLane (l : Nat) : M LaneOut := do
  let _ ← get
  storeLane straddleForm straddleBase l (globalEa straddleBase) phasedStore

theorem straddleLane_run {d : Sparse DirtyByte} {l : Nat} {t : State} (hl : l < 17)
    (h : storeBytes 0 .u (straddleVa l) [0, 0] (straddleState d) = .ok (false, t)) :
    straddleLane l (straddleState d) = .ok (straddleOut l, t) :=
  (M.bind_run (M.get_run _)).trans (storeLane_straddle hl h)

/-- While L1 has room, the lanes' bytes become dirty one lane after the other. -/
theorem doAll_straddle {ms : List Nat} {outs : List (Nat × LaneOut)} {t : State} : ∀ {ls : List Nat} {d : Sparse DirtyByte},
    (∀ l ∈ ls, l < 17) → d.length + 2 * ls.length ≤ 32 → doAll ms straddleLane (straddleState (ls.foldl straddled d)) = .ok (outs, t) →
    doAll (ls ++ ms) straddleLane (straddleState d) = .ok ((ls.map fun l => (l, straddleOut l)) ++ outs, t)
  | [], _, _, _, h => h
  | l :: ls, d, hls, hd, h => by
    rw [List.length_cons] at hd
    have hgrow := length_straddled_le d l
    have hl := hls l List.mem_cons_self
    exact doAll_cons_run (straddleLane_run hl (storeBytes_straddle hl (by omega)))
      (doAll_straddle (fun m hm => hls m (List.mem_cons_of_mem _ hm)) (by omega) h)

/-- The dirty bytes after sixteen lanes' stores: L1 is full. -/
def straddledBytes : Sparse DirtyByte := (List.range 16).foldl straddled []

theorem heldLines_straddledBytes : (straddleCore straddledBytes).heldLines = (List.range 480).map (1000 + ·) ++ List.range 32 := by
  have hd : straddledBytes.map (·.1 / 128) = List.range 32 := by decide +kernel
  have hc : (straddleCore straddledBytes).clean.map (·.1) = (List.range 480).map (1000 + ·) := by simp [straddleCore]
  rw [Core.heldLines, hc]
  exact congrArg _ hd

theorem nodup_heldLines_straddledBytes : (straddleCore straddledBytes).heldLines.Nodup := by
  rw [heldLines_straddledBytes, List.nodup_append]
  refine ⟨List.nodup_range.map (add_right_injective 1000), List.nodup_range, fun a ha b hb => ?_⟩
  obtain ⟨i, -, rfl⟩ := List.mem_map.1 ha
  have := List.mem_range.1 hb
  omega

/-- The state when the last lane's line has come in, for the oldest clean line. -/
def straddleEvicted : State := (straddleState straddledBytes).evicted 0 1000

theorem takeLineIn_straddle (va : DWord) : takeLineIn va 0 32 (straddleState straddledBytes) = .ok ((), straddleEvicted) := by
  refine takeLineIn_of_full rfl rfl nodup_heldLines_straddledBytes ?_ ?_ (by decide +kernel)
  · rw [core_straddle, heldLines_straddledBytes]
    simp only [List.mem_append, List.mem_map, List.mem_range]
    omega
  · rw [core_straddle, heldLines_straddledBytes, straddleCore_lineRoom]
    simp

/-- The state after the last lane's store. -/
def straddleLast : State := (straddleEvicted.phasedWrite 0 4223 [0, 0]).unsee 0 (4223 / 128)

theorem storeBytes_straddledBytes :
    storeBytes 0 .u (straddleVa 16) [0, 0] (straddleState straddledBytes) = .ok (false, straddleLast) :=
  storeBytes_of_takeLineIn (by decide) (takeLineIn_straddle _) rfl

/-- What the lanes answer. -/
def straddleOuts : List (Nat × LaneOut) := (List.range 17).map fun l => (l, straddleOut l)

theorem doAll_straddleLast : doAll (List.range 17) straddleLane (straddleState []) = .ok (straddleOuts, straddleLast) :=
  doAll_straddle (ls := List.range 16) (ms := [16]) (fun l hl => Nat.lt_succ_of_lt (List.mem_range.1 hl)) (by decide)
    (doAll_cons_run (straddleLane_run (by decide) storeBytes_straddledBytes) rfl)

theorem acting_straddle : (straddleState []).acting straddleBase = List.range 17 := by decide +kernel

theorem clear_straddle : (straddleState []).Clear straddleForm straddleBase :=
  ⟨by decide +kernel, .inl (by decide +kernel), by decide +kernel, by decide +kernel, by decide +kernel⟩

theorem exec_straddle : exec (.st straddleBase) (straddleState []) =
    .next (straddleLast.retired straddleForm straddleBase { outs := straddleOuts }) := by
  rw [exec_st]
  refine runStore_completes clear_straddle ?_
  rw [acting_straddle]
  exact doAll_straddleLast

theorem length_clean_straddleLast :
    ((straddleLast.retired straddleForm straddleBase { outs := straddleOuts }).core 0).clean.length = 479 := by decide +kernel

/-- Refutes O60: where a translation's physical base is not aligned, an aligned store parts its datum between two lines of L1, of which it
takes in one; seventeen such stores meet a full L1, and the last one evicts a clean line. No walk makes such a translation; the statement
does not ask that the pages of the TLB are aligned. -/
theorem not_memoryFrames : ¬ Obligations.MemoryFrames := fun h => by
  obtain ⟨-, -, hframe, -⟩ := h
  have hplaces : ∀ l ∈ (straddleState []).acting straddleBase, ∃ pa, ∃ y ph,
      readSrcs straddleForm straddleBase l (straddleState []) = .ok (y, straddleState []) ∧
      (globalAt straddleBase y).toNat % accessSize straddleBase = 0 ∧ Reaches (straddleState []) (globalAt straddleBase y) .store ph ∧
      ph.ao = false ∧ ph.pa = pa := fun l hl => by
    rw [acting_straddle, List.mem_range] at hl
    refine ⟨_, _, ⟨127 + 256 * l, false⟩, readSrcs_straddle hl, ?_, ?_, rfl, rfl⟩ <;> rw [← globalEa_eq, globalEa_straddle l hl]
    · exact aligned_straddle l hl
    · exact reaches_straddle hl
  obtain ⟨t, ht, -, hclean, -⟩ := hframe straddleBase (straddleState []) _ List.mem_cons_self ⟨by decide +kernel, by decide +kernel⟩
    clear_straddle ⟨nofun, nofun, nofun⟩ hplaces nofun (by
      rw [coreOf_straddle, core_straddle, straddleCore_lineRoom]
      exact Nat.add_le_add_right (length_lines_straddle []) 32)
  cases exec_straddle.symm.trans ht
  have hlen := congrArg List.length (hclean 0).1
  rw [length_clean_straddleLast, core_straddle] at hlen
  simp [straddleCore] at hlen

end Sys2Proof.Machine
